-- ==== Sys2Proof/Machine/Map.lean ====
section
/-!
DEFINITION. Sparse data by key: a list of key and value pairs, keys strictly rising, none equal to what an unlisted key reads
as. Memory, register files, cores and dies are held in this one form.
-/
namespace Sys2Proof.Machine

/-- A sparse map. -/
abbrev SMap (α : Type) := List (Nat × α)

namespace SMap
variable {α : Type}

/-- What key k reads as; d is what an unlisted key reads as. -/
def get (d : α) (m : SMap α) (k : Nat) : α :=
  match m with
  | [] => d
  | (j, v) :: r => if j = k then v else get d r k

/-- The map without key k. -/
def erase (m : SMap α) (k : Nat) : SMap α :=
  match m with
  | [] => []
  | (j, v) :: r => if j = k then erase r k else (j, v) :: erase r k

/-- The map with v at key k, in its place in the order. -/
def insert (m : SMap α) (k : Nat) (v : α) : SMap α :=
  match m with
  | [] => [(k, v)]
  | (j, w) :: r => if k < j then (k, v) :: (j, w) :: r else if j = k then (k, v) :: r else (j, w) :: insert r k v

/-- The map with key k reading as v: a value that an unlisted key reads as is not listed. -/
def set [DecidableEq α] (d : α) (m : SMap α) (k : Nat) (v : α) : SMap α :=
  if v = d then erase m k else insert m k v

/-- Every key above lo, keys strictly rising. -/
def rising (lo : Nat) (m : SMap α) : Bool :=
  match m with
  | [] => true
  | (j, _) :: r => lo ≤ j && rising (j + 1) r

/-- The canonical form, for a default that does not depend on the key. -/
def wf [DecidableEq α] (d : α) (m : SMap α) : Bool := rising 0 m && m.all fun e => e.2 ≠ d

end SMap
end Sys2Proof.Machine
end

