-- ==== Sys2Proof/Word.lean ====
section
/-!
DEFINITION. The machine words of the Nalum N8 (00_scope.md R9, 08_instruction_words.md R176, 09_registers_and_opcode_map.md R203).
-/
namespace Sys2Proof

/-- A byte of memory (R9). -/
abbrev Byte := BitVec 8
/-- A 32-bit lane element, tile element or half of a scalar (R203). -/
abbrev U32 := BitVec 32
/-- A scalar register, a mask, a virtual address or an instruction word (R176, R203). -/
abbrev U64 := BitVec 64
/-- A word offset: a virtual address divided by 8 (R176). -/
abbrev Offs := BitVec 54
/-- A number of a vector or scalar register as the full form carries it (R177). -/
abbrev Reg := BitVec 8

end Sys2Proof
end

