-- ==== Sys2Proof/Machine/Bits.lean ====
section
/-!
DEFINITION. Bits, lanes and bytes: sign extension, counts of bits, lane sets, byte order, CRC-32C (R9, R204, R239, R396).
-/
namespace Sys2Proof.Machine

/-- Bit i of a lane set. -/
def bit (m : U64) (i : Nat) : Bool := m.getLsbD i
/-- The set of one lane. -/
def lane (i : Nat) : U64 := if i < 64 then BitVec.ofNat 64 (2 ^ i) else 0
/-- The lanes of a set, ascending. -/
def lanesOf (m : U64) : List Nat := (List.range 64).filter fun i => m.getLsbD i
/-- The lowest lane of a set; 64 for none. -/
def lowest (m : U64) : Nat := ((List.range 64).find? fun i => m.getLsbD i).getD 64
/-- The set of the lanes below w that satisfy p. -/
def laneSet (w : Nat) (p : Nat → Bool) : U64 :=
  BitVec.ofNat 64 ((List.range w).foldl (fun a i => if p i then a + 2 ^ i else a) 0)

/-- The number of one bits below n (R239). -/
def popc (n : Nat) (x : Nat) : Nat := ((List.range n).filter fun i => x.testBit i).length
/-- The number of leading zeros of an n-bit value (R239). -/
def clz (n : Nat) (x : Nat) : Nat := if x % 2 ^ n = 0 then n else n - 1 - Nat.log2 (x % 2 ^ n)

/-- A pair of halves as one word (R204). -/
def pair (lo hi : U32) : U64 := hi ++ lo
def lo32 (x : U64) : U32 := x.extractLsb' 0 32
def hi32 (x : U64) : U32 := x.extractLsb' 32 32

/-- n bytes of a value, the lowest first (R9). -/
def bytesOf (n : Nat) (x : Nat) : List Byte :=
  match n with
  | 0 => []
  | n + 1 => BitVec.ofNat 8 x :: bytesOf n (x / 256)
/-- The value of bytes, the lowest first (R9). -/
def ofBytes (bs : List Byte) : Nat :=
  match bs with
  | [] => 0
  | b :: r => b.toNat + 256 * ofBytes r

/-- The low n bits of a word, extended to 64 bits with its sign or with zeros (R294). -/
def extend (sx : Bool) (n : Nat) (x : U64) : U64 :=
  let v := x.toNat % 2 ^ n
  if sx && v.testBit (n - 1) then BitVec.ofNat 64 (v + (2 ^ 64 - 2 ^ n)) else BitVec.ofNat 64 v

/-- The value rounded up to a multiple of k. -/
def upTo (n k : Nat) : Nat := (n + k - 1) / k * k

/-- The first element of a list that satisfies p, replaced. -/
def updFirst {α : Type} (p : α → Bool) (f : α → α) (l : List α) : List α :=
  match l with
  | [] => []
  | a :: r => if p a then f a :: r else a :: updFirst p f r
/-- Every element that satisfies p, replaced. -/
def updAll {α : Type} (p : α → Bool) (f : α → α) (l : List α) : List α := l.map fun a => if p a then f a else a

/-- The sum of a list. -/
def sumNat (l : List Nat) : Nat := l.foldl (· + ·) 0

-- Records (R152).

def le32 (x : U32) : List Byte := bytesOf 4 x.toNat
def le64 (x : U64) : List Byte := bytesOf 8 x.toNat
def zeros (n : Nat) : List Byte := List.replicate n 0
/-- Bytes padded with zeros to a multiple of k. -/
def padTo (k : Nat) (bs : List Byte) : List Byte := bs ++ zeros (upTo bs.length k - bs.length)
def b01 (b : Bool) : Nat := if b then 1 else 0
/-- A word of a record. -/
def w64 (n : Nat) : List Byte := bytesOf 8 n

-- CRC-32C (R396).

def crcBits (n c : Nat) : Nat :=
  match n with
  | 0 => c
  | n + 1 => crcBits n (if c % 2 = 1 then Nat.xor (c / 2) 0x82F63B78 else c / 2)
/-- A running CRC over bytes; it starts at 0xFFFFFFFF and is inverted at the end. -/
def crcRun (c : Nat) (bs : List Byte) : Nat := bs.foldl (fun c b => crcBits 8 (Nat.xor c b.toNat)) c
def crcEnd (c : Nat) : Nat := Nat.xor c 0xFFFFFFFF
/-- CRC-32C of some bytes (R396). -/
def crc32c (bs : List Byte) : Nat := crcEnd (crcRun 0xFFFFFFFF bs)

-- Integer operations of n bits that atomics and words share (R239, R270, R299).

def iAdd (n : Nat) (a b : BitVec n) : BitVec n := a + b
def iAnd (n : Nat) (a b : BitVec n) : BitVec n := a &&& b
def iOr (n : Nat) (a b : BitVec n) : BitVec n := a ||| b
def iXor (n : Nat) (a b : BitVec n) : BitVec n := a ^^^ b
def iMin (n : Nat) (a b : BitVec n) : BitVec n := if a.slt b then a else b
def iMax (n : Nat) (a b : BitVec n) : BitVec n := if a.slt b then b else a
def iMinu (n : Nat) (a b : BitVec n) : BitVec n := if a < b then a else b
def iMaxu (n : Nat) (a b : BitVec n) : BitVec n := if a < b then b else a

end Sys2Proof.Machine
end

