-- ==== Sys2Proof/Machine/Format.lean ====
section
/-!
DEFINITION. The format codes of R216, their widths, and where each code is accepted (10_number_formats.md R216, R217).
-/
namespace Sys2Proof

/-- A binary8 code, signed or unsigned, with or without infinities (R216, R219, R221). -/
def isBin8 (c : BitVec 6) : Bool :=
  let n := c.toNat
  (0x11 ≤ n && n ≤ 0x2F) && n % 8 != 0

/-- An unsigned binary8 code (R221). -/
def isUBin8 (c : BitVec 6) : Bool := isBin8 c && 0x20 ≤ c.toNat

/-- Accepted as the destination of a lane conversion (R216). -/
def isLaneDst (c : BitVec 6) : Bool := c.toNat ≤ 2 || isBin8 c || (0x30 ≤ c.toNat && c.toNat ≤ 0x36)

/-- Accepted as the source of a lane conversion: E8M0 is a source only (R216). -/
def isLaneSrc (c : BitVec 6) : Bool := isLaneDst c || c == 0x38

/-- Accepted as a matrix operand (R216). -/
def isMatFmt (c : BitVec 6) : Bool := c == 1 || c == 2 || isBin8 c || c == 0x30 || c == 0x31 || c == 0x32

/-- Accepted as a scale (R216, R233). -/
def isScaleFmt (c : BitVec 6) : Bool := c == 0x38 || isUBin8 c

/-- Accepted as the element format of F.DEQ (R283). -/
def isDeqFmt (c : BitVec 6) : Bool := isMatFmt c || c == 0x33 || c == 0x34

/-- An integer format (R223). -/
def isIntFmt (c : BitVec 6) : Bool := 0x31 ≤ c.toNat && c.toNat ≤ 0x36

/-- The width in bits of a code's elements (R216). -/
def fmtWidth (c : BitVec 6) : Nat :=
  if c == 0 || c == 0x35 || c == 0x36 then 32
  else if c == 1 || c == 2 then 16
  else if c == 0x30 || c == 0x33 || c == 0x34 then 4
  else if c == 0x3A then 3
  else 8

end Sys2Proof
end

