-- ==== Sys2Proof/Machine/Float.lean ====
section
/-!
DEFINITION. Number formats and rounding (R216 to R235), and the random words of stochastic rounding (R231, R368).
-/
namespace Sys2Proof.Machine

/-- A decoded value (R226): NaN with its signalling state, an infinity, or a signed number n * 2^e, or, where `more` is set,
a number strictly between n * 2^e and (n + 1) * 2^e. -/
inductive Val where
  | nan (sig : Bool)
  | inf (neg : Bool)
  | num (neg : Bool) (n : Nat) (e : Int) (more : Bool)
deriving DecidableEq, Repr

/-- Rounding modes (R226). -/
inductive Rm where
  | rne | rz | rd | ru | ro | sr
deriving DecidableEq, Repr

/-- A floating-point format: trailing significand bits, bias, sign bit where it has one, the largest finite magnitude code, the
code of infinity where it has one, the NaN that it produces where it has one, and whether it has a negative zero. -/
structure FFmt where
  t : Nat
  bias : Nat
  sign : Option Nat
  maxc : Nat
  infc : Option Nat
  nanc : Option Nat
  nzero : Bool
deriving DecidableEq, Repr

def fp32 : FFmt := ⟨23, 127, some 31, 0x7F7FFFFF, some 0x7F800000, some 0x7FC00000, true⟩
def bf16 : FFmt := ⟨7, 127, some 15, 0x7F7F, some 0x7F80, some 0x7FC0, true⟩
def fp16 : FFmt := ⟨10, 15, some 15, 0x7BFF, some 0x7C00, some 0x7E00, true⟩
def fp4 : FFmt := ⟨1, 1, some 3, 7, none, none, true⟩

/-- The binary8 format of a code (R219, R221). -/
def bin8 (c : Nat) : FFmt :=
  let p := c % 8
  if c < 0x20 then ⟨p - 1, 2 ^ (7 - p), some 7, if c < 0x18 then 0x7E else 0x7F, if c < 0x18 then some 0x7F else none, some 0x80, false⟩
  else ⟨p - 1, 2 ^ (8 - p), none, if c < 0x28 then 0xFD else 0xFE, if c < 0x28 then some 0xFE else none, some 0xFF, false⟩

/-- A floating-point format by its code (R216). -/
def ffmt (c : BitVec 6) : FFmt :=
  if c == 1 then bf16 else if c == 2 then fp16 else if c == 0x30 then fp4 else if isBin8 c then bin8 c.toNat else fp32

/-- An integer format by its code: width and whether it is signed (R223). -/
def ifmt (c : BitVec 6) : Nat × Bool :=
  if c == 0x31 then (8, true) else if c == 0x32 then (8, false) else if c == 0x33 then (4, true)
  else if c == 0x34 then (4, false) else if c == 0x35 then (32, true) else (32, false)

/-- Magnitude bits of a code decoded as subnormal or normal (R218, R219). -/
def decodeMag (f : FFmt) (neg : Bool) (m : Nat) : Val :=
  let e := m / 2 ^ f.t
  let x := m % 2 ^ f.t
  if e = 0 then .num neg x (1 - f.bias - f.t) false else .num neg (2 ^ f.t + x) (e - f.bias - f.t) false

/-- A code of a floating-point format (R218 to R222). -/
def decodeF (f : FFmt) (code : Nat) : Val :=
  match f.sign with
  | none =>
    if code = 0xFF then .nan false
    else if f.infc = some code then .inf false
    else decodeMag f false code
  | some sb =>
    let neg := code.testBit sb
    let m := code % 2 ^ sb
    if !f.nzero && code = 2 ^ sb then .nan false
    else
      match f.infc with
      | some i => if m = i then .inf neg else if f.nzero && i < m then .nan (!m.testBit (f.t - 1)) else decodeMag f neg m
      | none => decodeMag f neg m

/-- A two's-complement or unsigned integer as a value (R223). -/
def ofInt (x : Int) : Val := .num (x < 0) x.natAbs 0 false
def signedOf (w x : Nat) : Int := if x % 2 ^ w < 2 ^ (w - 1) then (x % 2 ^ w : Nat) else (x % 2 ^ w : Nat) - (2 ^ w : Nat)

/-- Decode of R236: a code of any format but CB3. -/
def decodeVal (c : BitVec 6) (x : Nat) : Val :=
  if c == 0x38 then (if x % 256 = 255 then .nan false else .num false 1 ((x % 256 : Nat) - 127) false)
  else if isIntFmt c then
    let (w, sg) := ifmt c
    ofInt (if sg then signedOf w x else ((x % 2 ^ w : Nat) : Int))
  else decodeF (ffmt c) (x % 2 ^ fmtWidth c)

/-- Flags of R210: NV, DZ, OF, UF, NX. -/
def fNV : BitVec 5 := 1
def fDZ : BitVec 5 := 2
def fOF : BitVec 5 := 4
def fUF : BitVec 5 := 8
def fNX : BitVec 5 := 16
def flagIf (b : Bool) (f : BitVec 5) : BitVec 5 := if b then f else 0

/-- A magnitude on a grid of spacing 2^qe: units below it, what is left of it in units of 2^-sh, and whether more follows. -/
structure Cut where
  k : Nat
  rest : Nat
  sh : Nat
  more : Bool
deriving DecidableEq, Repr

/-- n * 2^e on the grid 2^qe. -/
def cut (n : Nat) (e qe : Int) (more : Bool) : Cut :=
  if e < qe then let sh := (qe - e).toNat; ⟨n / 2 ^ sh, n % 2 ^ sh, sh, more⟩ else ⟨n * 2 ^ (e - qe).toNat, 0, 0, more⟩
def Cut.exact (c : Cut) : Bool := c.rest = 0 && !c.more

/-- Choose of R226: whether the higher neighbour is taken. `odd` is the parity of the lower and of the higher neighbour. -/
def Cut.up (c : Cut) (rm : Rm) (neg : Bool) (oddLo oddHi : Bool) (rb : Nat) : Bool :=
  !c.exact &&
  match rm with
  | .rne =>
    if 2 * c.rest < 2 ^ c.sh then false
    else if 2 ^ c.sh < 2 * c.rest || c.more then true
    else oddLo && !oddHi
  | .rz => false
  | .rd => neg
  | .ru => !neg
  | .ro => !oddLo
  | .sr => rb < c.rest * 2 ^ 32 / 2 ^ c.sh

/-- Parity of u * 2^qe (R226). -/
def parity (t : Nat) (u : Nat) (qe : Int) : Bool :=
  if t = 0 then u != 0 && (Nat.log2 u + qe) % 2 = 1 else u % 2 = 1

/-- The magnitude code of u * 2^qe on the grid (Encode of R236), which goes on above the largest code. -/
def encodeMag (f : FFmt) (u : Nat) (qe : Int) : Nat :=
  if u < 2 ^ f.t then u
  else
    let l := Nat.log2 u
    let ex := (l + qe + f.bias).toNat
    ex * 2 ^ f.t + (if l ≤ f.t then u * 2 ^ (f.t - l) else u / 2 ^ (l - f.t)) - 2 ^ f.t

/-- A magnitude code with its sign. -/
def withSign (f : FFmt) (neg : Bool) (m : Nat) : Nat :=
  match f.sign with
  | some sb => if neg && (f.nzero || m ≠ 0) then m + 2 ^ sb else m
  | none => m
/-- NaNResult (R228). -/
def nanResult (f : FFmt) : Nat := f.nanc.getD 0

/-- The modes under which an overflow stays at the largest finite magnitude (R227). -/
def toMax (rm : Rm) (neg : Bool) : Bool := rm == .rz || rm == .ro || (rm == .rd && !neg) || (rm == .ru && neg)

/-- RoundToFormat of R226 to R228 for a floating-point format, with the flags of R230. -/
def roundF (f : FFmt) (x : Val) (rm : Rm) (sat : Bool) (rb : Nat) : Nat × BitVec 5 :=
  let isFp4 := f.nanc.isNone
  match x with
  | .nan sig => (nanResult f, flagIf (sig || isFp4) fNV)
  | .inf neg =>
    match f.infc, f.sign with
    | some i, some _ => (withSign f neg i, 0)
    | some i, none => if neg then (if sat then (0, fNX) else (nanResult f, fNV)) else (i, 0)
    | none, none => if sat then (if neg then 0 else f.maxc, fNX) else (nanResult f, fNV)
    | none, some _ =>
      if isFp4 then (withSign f neg f.maxc, fNX ||| fNV)
      else if sat then (withSign f neg f.maxc, fNX) else (nanResult f, fNV)
  | .num neg n e more =>
    if n = 0 && !more then (withSign f neg 0, 0)
    else
      let lg := Nat.log2 n + e
      let emin : Int := 1 - f.bias
      let qe := max lg emin - f.t
      let c := cut n e qe more
      let up := c.up rm neg (parity f.t c.k qe) (parity f.t (c.k + 1) qe) rb
      let u := if up then c.k + 1 else c.k
      let m := encodeMag f u qe
      let tiny := flagIf (lg < emin && !c.exact) fUF
      let nx := flagIf (!c.exact) fNX
      if f.sign.isNone && neg && u ≠ 0 then
        if sat then (0, fNX ||| flagIf (lg < emin) fUF) else (nanResult f, fNV)
      else if f.maxc < m then
        if toMax rm neg then (withSign f neg f.maxc, fOF ||| fNX)
        else if sat then (withSign f neg f.maxc, fOF ||| fNX)
        else
          match f.infc with
          | some i => (withSign f neg i, fOF ||| fNX)
          | none => if isFp4 then (withSign f neg f.maxc, fOF ||| fNX ||| fNV) else (nanResult f, fOF ||| fNX ||| fNV)
      else (withSign f neg m, tiny ||| nx)

/-- RoundToInt of R229 to the range lo to hi, as an integer. -/
def roundInt (lo hi : Int) (x : Val) (rm : Rm) (rb : Nat) : Int × BitVec 5 :=
  match x with
  | .nan _ => (0, fNV)
  | .inf neg => (if neg then lo else hi, fNV)
  | .num neg n e more =>
    let c := cut n e 0 more
    let up := c.up rm neg (c.k % 2 = 1) ((c.k + 1) % 2 = 1) rb
    let u : Nat := if up then c.k + 1 else c.k
    let v : Int := if neg then -(u : Int) else u
    if v < lo then (lo, fNV) else if hi < v then (hi, fNV) else (v, flagIf (!c.exact) fNX)

/-- The range of an integer format. -/
def intRange (w : Nat) (sg : Bool) : Int × Int :=
  if sg then (-(2 ^ (w - 1) : Nat), (2 ^ (w - 1) : Nat) - 1) else (0, (2 ^ w : Nat) - 1)

/-- RoundToFormat of R226 to R229 for any destination code, with flags: the code in the low bits. -/
def roundTo (c : BitVec 6) (x : Val) (rm : Rm) (sat : Bool) (rb : Nat) : Nat × BitVec 5 :=
  if isIntFmt c then
    let (w, sg) := ifmt c
    let (lo, hi) := intRange w sg
    let (v, fl) := roundInt lo hi x rm rb
    ((v % (2 ^ w : Nat)).toNat, fl)
  else roundF (ffmt c) x rm sat rb

/-- The modes that a two-bit RM field names (R272). -/
def rmOf (r : BitVec 2) : Rm := if r == 0 then .rne else if r == 1 then .rz else if r == 2 then .rd else .ru
/-- The modes that a three-bit RMX field names (R280). -/
def rmxOf (r : BitVec 3) : Rm :=
  if r == 0 then .rne else if r == 1 then .rz else if r == 2 then .rd else if r == 3 then .ru else if r == 4 then .ro else .sr

/-- Philox4x32-10 of R368. -/
def philoxRounds (n : Nat) (k0 k1 x0 x1 x2 x3 : Nat) : List Nat :=
  match n with
  | 0 => [x0, x1, x2, x3]
  | n + 1 =>
    let p := 0xD2511F53 * x0
    let q := 0xCD9E8D57 * x2
    philoxRounds n ((k0 + 0x9E3779B9) % 2 ^ 32) ((k1 + 0xBB67AE85) % 2 ^ 32)
      (Nat.xor (Nat.xor (q / 2 ^ 32) x1) k0) (q % 2 ^ 32) (Nat.xor (Nat.xor (p / 2 ^ 32) x3) k1) (p % 2 ^ 32)
def philox (key : U64) (ctr : Nat) : List Nat :=
  philoxRounds 10 (key.toNat % 2 ^ 32) (key.toNat / 2 ^ 32) (ctr % 2 ^ 32) (ctr / 2 ^ 32 % 2 ^ 32) (ctr / 2 ^ 64 % 2 ^ 32)
    (ctr / 2 ^ 96 % 2 ^ 32)
/-- SRWord of R231. -/
def srWord (key coord b : U64) (j : Nat) : Nat :=
  ((philox key (coord.toNat + (b + BitVec.ofNat 64 (j / 4)).toNat * 2 ^ 64))[j % 4]?).getD 0

-- Exact arithmetic on values: NaN and infinity rules are those of IEEE 754 (R273).

def Val.neg (x : Val) : Val := match x with | .nan s => .nan s | .inf n => .inf (!n) | .num n m e r => .num (!n) m e r
def Val.abs (x : Val) : Val := match x with | .nan s => .nan s | .inf _ => .inf false | .num _ m e r => .num false m e r
def Val.isNan (x : Val) : Bool := match x with | .nan _ => true | _ => false
def Val.isSig (x : Val) : Bool := match x with | .nan s => s | _ => false
def Val.isInf (x : Val) : Bool := match x with | .inf _ => true | _ => false
def Val.isZero (x : Val) : Bool := match x with | .num _ n _ r => n = 0 && !r | _ => false
def Val.isNeg (x : Val) : Bool := match x with | .nan _ => false | .inf n => n | .num n _ _ _ => n
/-- A finite exact value as an integer in units of 2^e0, for e0 at most its exponent. -/
def Val.units (x : Val) (e0 : Int) : Int :=
  match x with | .num neg n e _ => let v : Int := (n * 2 ^ (e - e0).toNat : Nat); if neg then -v else v | _ => 0
def Val.exp (x : Val) : Int := match x with | .num _ _ e _ => e | _ => 0
/-- An integer in units of 2^e0; zero takes the sign given. -/
def ofUnits (v : Int) (e0 : Int) (zneg : Bool) : Val := if v = 0 then .num zneg 0 e0 false else .num (v < 0) v.natAbs e0 false

/-- Exact product of values (R273, R275). -/
def mulVal (a b : Val) : Val :=
  match a, b with
  | .nan s, y => .nan (s || y.isSig)
  | x, .nan s => .nan (s || x.isSig)
  | .inf n, y => if y.isZero then .nan true else .inf (n != y.isNeg)
  | x, .inf n => if x.isZero then .nan true else .inf (n != x.isNeg)
  | .num n1 m1 e1 _, .num n2 m2 e2 _ => .num (n1 != n2) (m1 * m2) (e1 + e2) false
/-- Exact sum of values. A zero sum of operands that are not both the same zero is +0, or -0 under RD (R273). -/
def addVal (down : Bool) (a b : Val) : Val :=
  match a, b with
  | .nan s, y => .nan (s || y.isSig)
  | x, .nan s => .nan (s || x.isSig)
  | .inf n, .inf m => if n = m then .inf n else .nan true
  | .inf n, _ => .inf n
  | _, .inf n => .inf n
  | .num n1 m1 e1 _, .num n2 m2 e2 _ =>
    let e0 := min e1 e2
    let x := Val.num n1 m1 e1 false
    let y := Val.num n2 m2 e2 false
    let z := if m1 = 0 && m2 = 0 && n1 = n2 then n1 else down
    ofUnits (x.units e0 + y.units e0) e0 z
/-- Three-way order of values that are not NaN. -/
def ltVal (a b : Val) : Bool :=
  match a, b with
  | .nan _, _ => false
  | _, .nan _ => false
  | .inf n, .inf m => n && !m
  | .inf n, _ => n
  | _, .inf m => !m
  | x, y => let e0 := min x.exp y.exp; x.units e0 < y.units e0
def eqVal (a b : Val) : Bool :=
  match a, b with
  | .nan _, _ => false
  | _, .nan _ => false
  | .inf n, .inf m => n = m
  | .inf _, _ => false
  | _, .inf _ => false
  | x, y => let e0 := min x.exp y.exp; x.units e0 = y.units e0

def down (rm : Rm) : Bool := rm == .rd
def addF (f : FFmt) (rm : Rm) (a b : Val) : Nat × BitVec 5 := roundF f (addVal (down rm) a b) rm false 0

end Sys2Proof.Machine
end

