-- ==== Sys2Proof/Config.lean ====
section
/-!
DEFINITION. What the manual leaves open: constants without a body, so that a statement about one holds whatever it is, and
what a module's straps fix.
-/
namespace Sys2Proof.Config

/-- DESIGN CHOICE [5]. The free values: each use takes the value at the step's counter and advances it. They stand for the
value that remains where two lanes store to one byte (R70, R83), for the words of a spilled stack entry (R74), for the bytes
a management answer holds (R465) and for the other values that the manual names unspecified. -/
opaque freeWord : Nat → BitVec 64

/-- DESIGN CHOICE [1]. Which of the things that can happen next happens: the order of independent agents (R89, R116, R44). -/
opaque pick : Nat → Nat

/-- PRESUMED [4]. MYPHYS, set by the module's straps and the management controller (R20, R468). -/
opaque myPhys : BitVec 12

/-- DESIGN CHOICE [94]. The form in which a spilled stack entry stands in lanes 0 to 3, and the one of the eight bytes that a spilled
TABLE entry adds in a lane (R74, R250, R253): the manual does not define them; each can be read back. -/
opaque spillForm : Equiv.Perm (BitVec 128)
opaque targetForm : Equiv.Perm (BitVec 64)

/-- DESIGN CHOICE [9]. The sectors a superblock compresses to, less one (R41). -/
opaque sectors : List (BitVec 8) → BitVec 2

/-- DESIGN CHOICE [9]. The row of its channel that holds a superblock, and the bank of a row (R37): not visible to software. -/
opaque rowOf : Nat → Nat
opaque bankOf : Nat → Nat

/-- DESIGN CHOICE [96]. The detail of MEMERR for an error in a memory of a core, for which the manual names none (R56, R354). -/
opaque sramDetail : BitVec 8

/-- DESIGN CHOICE [9]. The bytes of an answer over SPDM (R465): to a request, by what is measured, the module firmware's slot and the lock
register, and by the model's counter. -/
opaque spdm : List (BitVec 8) → Nat → BitVec 64 → Nat → List (BitVec 8)

end Sys2Proof.Config
end

