-- ==== Sys2Proof/Syntax.lean ====
section
/-!
DEFINITION. The syntax of the machine's steps: one constructor per row of spec/opcode_table.json.
The instructions of words come first, in the order of the opcode map (R212), then the events of the other agents.
-/
namespace Sys2Proof

/-- The guard, the address-slice marker and the scheduling hints of a full-form word (R177, R184, R189 to R194). -/
structure Hint where
  /-- GRD.N and GRD.M, bits [11:8] of the word. -/
  guard : BitVec 4
  as : Bool
  gw : Bool
  gap : BitVec 2
  look : BitVec 4
deriving DecidableEq, Repr

/-- RM, NEG and ABS of the X-R layout (R180); a bit the instruction does not list is false. -/
structure FMod where
  rm : BitVec 2
  negA : Bool
  negB : Bool
  negC : Bool
  absA : Bool
  absB : Bool
deriving DecidableEq, Repr

/-- The X-M layout of the memory instructions without AOP (R182). -/
structure MemX where
  space : BitVec 3
  size : BitVec 2
  ord : BitVec 2
  scope : BitVec 3
  scale : BitVec 2
  sx : Bool
  nt : Bool
deriving DecidableEq, Repr

/-- The half opcodes of the pair form (R214). -/
inductive HalfOp where
  | hnop | sAdd | sSub | sAnd | sOr | sXor | sMov | sAddi | sShli | sShri | sMin | sMax
  | vAdd | vSub | vAnd | vOr | vXor | vMov | vMovs | vAddi | vShli | vShri | vMin | vMax
  | fAdd | fSub | fMul | fMin | fMax | hAdd | hMul
  | mAnd | mOr | mXor | mMov
deriving DecidableEq, Repr

/-- One half of a pair-form word (R186). -/
structure Half where
  op : HalfOp
  d : BitVec 6
  a : BitVec 6
  guard : BitVec 4
deriving DecidableEq, Repr

/-- A packet of the fabric: its message header and its payload (R432); and `phys`, the physical module that it travels to, which the remap table
gave at its injection and which is no part of the header (R21, R431). DESIGN CHOICE [18]. -/
structure Packet where
  dlmn : BitVec 12
  slmn : BitVec 12
  kind : BitVec 4
  vc : BitVec 2
  tag : BitVec 24
  addr : U64
  payload : List Byte
  phys : BitVec 12
deriving DecidableEq, Repr

/-- One step of the machine: an instruction of a word (R212, R214) or an event of another agent. -/
inductive Instr where
  -- scalar integer group (R237)
  | sAdd (h : Hint) (b32 : Bool) (d a b : Reg)
  | sSub (h : Hint) (b32 : Bool) (d a b : Reg)
  | sMul (h : Hint) (b32 : Bool) (d a b : Reg)
  | sMulh (h : Hint) (b32 : Bool) (d a b : Reg)
  | sMulhu (h : Hint) (b32 : Bool) (d a b : Reg)
  | sDiv (h : Hint) (b32 : Bool) (d a b : Reg)
  | sDivu (h : Hint) (b32 : Bool) (d a b : Reg)
  | sRem (h : Hint) (b32 : Bool) (d a b : Reg)
  | sRemu (h : Hint) (b32 : Bool) (d a b : Reg)
  | sAnd (h : Hint) (b32 : Bool) (d a b : Reg)
  | sOr (h : Hint) (b32 : Bool) (d a b : Reg)
  | sXor (h : Hint) (b32 : Bool) (d a b : Reg)
  | sAndn (h : Hint) (b32 : Bool) (d a b : Reg)
  | sShl (h : Hint) (b32 : Bool) (d a b : Reg)
  | sShr (h : Hint) (b32 : Bool) (d a b : Reg)
  | sSra (h : Hint) (b32 : Bool) (d a b : Reg)
  | sMin (h : Hint) (b32 : Bool) (d a b : Reg)
  | sMax (h : Hint) (b32 : Bool) (d a b : Reg)
  | sMinu (h : Hint) (b32 : Bool) (d a b : Reg)
  | sMaxu (h : Hint) (b32 : Bool) (d a b : Reg)
  | sClz (h : Hint) (b32 : Bool) (d a : Reg)
  | sPopc (h : Hint) (b32 : Bool) (d a : Reg)
  | sBfx (h : Hint) (b32 sx : Bool) (pos len1 : BitVec 6) (d a : Reg)
  | sBfi (h : Hint) (b32 : Bool) (pos len1 : BitVec 6) (d a : Reg)
  | sMad (h : Hint) (b32 : Bool) (d a b c : Reg)
  | sCmp (h : Hint) (b32 : Bool) (cond : BitVec 4) (d a b : Reg)
  | sSel (h : Hint) (d a b c : Reg)
  | sMov (h : Hint) (b32 : Bool) (d a : Reg)
  | sAddi (h : Hint) (d a : Reg) (imm : BitVec 18)
  | sAndi (h : Hint) (d a : Reg) (imm : BitVec 18)
  | sOri (h : Hint) (d a : Reg) (imm : BitVec 18)
  | sXori (h : Hint) (d a : Reg) (imm : BitVec 18)
  | sShli (h : Hint) (d a : Reg) (cnt : BitVec 6)
  | sShri (h : Hint) (d a : Reg) (cnt : BitVec 6)
  | sSrai (h : Hint) (d a : Reg) (cnt : BitVec 6)
  | sCmpi (h : Hint) (cond : BitVec 4) (d a : Reg) (imm : BitVec 18)
  | sMovi (h : Hint) (d : Reg) (imm : BitVec 34)
  | sMovhi (h : Hint) (d : Reg) (imm : BitVec 30)
  | sAddpc (h : Hint) (d : Reg) (imm : BitVec 18)
  -- control group (R244)
  | bra (h : Hint) (x : BitVec 18)
  | brS (h : Hint) (z : Bool) (a : Reg) (x : BitVec 18)
  | brAny (h : Hint) (neg : Bool) (m : BitVec 4) (x : BitVec 18)
  | brAll (h : Hint) (neg : Bool) (m : BitVec 4) (x : BitVec 18)
  | brDiv (h : Hint) (neg : Bool) (m : BitVec 4) (join : BitVec 16) (x : BitVec 18)
  | join (h : Hint)
  | loop (h : Hint) (d : Reg) (x : BitVec 18)
  | call (h : Hint) (f : BitVec 8) (x : BitVec 18)
  | ret (h : Hint)
  | callT (h : Hint) (src : Bool) (a : Reg) (f : BitVec 8)
  | jmpT (h : Hint) (src : Bool) (a : Reg) (x : BitVec 18)
  | exit (h : Hint)
  | plane (h : Hint) (pos : BitVec 8) (a : Reg) (n1 : BitVec 2) (l : BitVec 24)
  | planeI (h : Hint) (pos : BitVec 14) (p : BitVec 2) (n1 : BitVec 2) (l : BitVec 24)
  | allBegin (h : Hint)
  | allEnd (h : Hint)
  | barT (h : Hint)
  | barC (h : Hint)
  | waitcnt (h : Hint) (ld : Bool) (bound : BitVec 16)
  | yield (h : Hint)
  | launch (h : Hint) (a : Reg)
  | chwait (h : Hint) (a : Reg)
  | nop (h : Hint)
  -- vector integer group (R268)
  | vAdd (h : Hint) (x2 : Bool) (d a b : Reg)
  | vSub (h : Hint) (x2 : Bool) (d a b : Reg)
  | vMul (h : Hint) (x2 : Bool) (d a b : Reg)
  | vMulh (h : Hint) (d a b : Reg)
  | vMulhu (h : Hint) (d a b : Reg)
  | vMad (h : Hint) (d a b c : Reg)
  | vAnd (h : Hint) (d a b : Reg)
  | vOr (h : Hint) (d a b : Reg)
  | vXor (h : Hint) (d a b : Reg)
  | vAndn (h : Hint) (d a b : Reg)
  | vShl (h : Hint) (x2 : Bool) (d a b : Reg)
  | vShr (h : Hint) (x2 : Bool) (d a b : Reg)
  | vSra (h : Hint) (x2 : Bool) (d a b : Reg)
  | vMin (h : Hint) (x2 : Bool) (d a b : Reg)
  | vMax (h : Hint) (x2 : Bool) (d a b : Reg)
  | vMinu (h : Hint) (x2 : Bool) (d a b : Reg)
  | vMaxu (h : Hint) (x2 : Bool) (d a b : Reg)
  | vAbs (h : Hint) (x2 : Bool) (d a : Reg)
  | vClz (h : Hint) (d a : Reg)
  | vPopc (h : Hint) (d a : Reg)
  | vBfx (h : Hint) (sx : Bool) (pos len1 : BitVec 6) (d a : Reg)
  | vBfi (h : Hint) (pos len1 : BitVec 6) (d a : Reg)
  | vAddsat (h : Hint) (x2 u : Bool) (d a b : Reg)
  | vSubsat (h : Hint) (x2 u : Bool) (d a b : Reg)
  | vDot4 (h : Hint) (ua ub : Bool) (d a b c : Reg)
  | vCmp (h : Hint) (cond : BitVec 4) (d : BitVec 4) (a b : Reg)
  | vSel (h : Hint) (d a b : Reg) (m : BitVec 4)
  | vMov (h : Hint) (d a : Reg)
  | vMovs (h : Hint) (d a : Reg)
  | vAddi (h : Hint) (d a : Reg) (imm : BitVec 18)
  | vAndi (h : Hint) (d a : Reg) (imm : BitVec 18)
  | vShli (h : Hint) (d a : Reg) (cnt : BitVec 6)
  | vShri (h : Hint) (d a : Reg) (cnt : BitVec 6)
  | vSrai (h : Hint) (d a : Reg) (cnt : BitVec 6)
  | vMovi (h : Hint) (d : Reg) (imm : BitVec 34)
  -- vector floating point (R272, R278 to R283)
  | fAdd (h : Hint) (m : FMod) (d a b : Reg)
  | fSub (h : Hint) (m : FMod) (d a b : Reg)
  | fMul (h : Hint) (m : FMod) (d a b : Reg)
  | fFma (h : Hint) (m : FMod) (d a b c : Reg)
  | fMin (h : Hint) (m : FMod) (d a b : Reg)
  | fMax (h : Hint) (m : FMod) (d a b : Reg)
  | fCmp (h : Hint) (m : FMod) (cond : BitVec 3) (d : BitVec 4) (a b : Reg)
  | fClass (h : Hint) (d a : Reg)
  | fDiv (h : Hint) (m : FMod) (d a b : Reg)
  | fSqrt (h : Hint) (m : FMod) (d a : Reg)
  | fRcp (h : Hint) (m : FMod) (d a : Reg)
  | fRsq (h : Hint) (m : FMod) (d a : Reg)
  | fExp2 (h : Hint) (m : FMod) (d a : Reg)
  | fLog2 (h : Hint) (m : FMod) (d a : Reg)
  | fSinpi (h : Hint) (m : FMod) (d a : Reg)
  | fCospi (h : Hint) (m : FMod) (d a : Reg)
  | fTanh (h : Hint) (m : FMod) (d a : Reg)
  | fRnd (h : Hint) (m : FMod) (d a : Reg)
  | fCvt (h : Hint) (dst srcf : BitVec 6) (rmx : BitVec 3) (sat : Bool) (sel : BitVec 3) (k : BitVec 5) (d a : Reg)
  | fCvtiToInt (h : Hint) (ifmt : BitVec 6) (shift : BitVec 7) (rm : BitVec 2) (d a : Reg)
  | fCvtiToFloat (h : Hint) (ifmt : BitVec 6) (shift : BitVec 7) (rm : BitVec 2) (d a : Reg)
  | fPack (h : Hint) (dst : BitVec 6) (rmx : BitVec 3) (sat : Bool) (j : BitVec 2) (k : BitVec 5) (d a b : Reg)
  | fUnpk (h : Hint) (srcf : BitVec 6) (j : BitVec 2) (d a : Reg)
  | hAdd (h : Hint) (bf : Bool) (m : FMod) (d a b : Reg)
  | hMul (h : Hint) (bf : Bool) (m : FMod) (d a b : Reg)
  | hFma (h : Hint) (bf : Bool) (m : FMod) (d a b c : Reg)
  | fScale (h : Hint) (m : FMod) (d a b : Reg)
  | fDeq (h : Hint) (ef sf : BitVec 6) (sel : BitVec 3) (rm : BitVec 2) (d a b : Reg)
  -- cross-lane and mask (R284, R290)
  | laneid (h : Hint) (d : Reg)
  | shflIdx (h : Hint) (seg : BitVec 3) (d a b : Reg)
  | shflUp (h : Hint) (seg : BitVec 3) (delta : BitVec 6) (d a : Reg)
  | shflDn (h : Hint) (seg : BitVec 3) (delta : BitVec 6) (d a : Reg)
  | shflXor (h : Hint) (seg : BitVec 3) (delta : BitVec 6) (d a : Reg)
  | voteAny (h : Hint) (neg : Bool) (d m : BitVec 4)
  | voteAll (h : Hint) (neg : Bool) (d m : BitVec 4)
  | ballot (h : Hint) (d a : Reg)
  | rdxAdd (h : Hint) (ty : BitVec 2) (d a : Reg)
  | rdxMin (h : Hint) (ty : BitVec 2) (d a : Reg)
  | rdxMax (h : Hint) (ty : BitVec 2) (d a : Reg)
  | scanAdd (h : Hint) (excl f32 : Bool) (d a : Reg)
  | v2s (h : Hint) (sx : Bool) (lane : BitVec 6) (d a : Reg)
  | s2l (h : Hint) (lane : BitVec 6) (d a : Reg)
  | mAnd (h : Hint) (d a b : BitVec 4)
  | mOr (h : Hint) (d a b : BitVec 4)
  | mXor (h : Hint) (d a b : BitVec 4)
  | mNot (h : Hint) (d a : BitVec 4)
  | mMov (h : Hint) (d a : BitVec 4)
  | mPopc (h : Hint) (d : Reg) (a : BitVec 4)
  | mFfs (h : Hint) (d : Reg) (a : BitVec 4)
  | mFroms (h : Hint) (d : BitVec 4) (a : Reg)
  | mTos (h : Hint) (d : Reg) (a : BitVec 4)
  | mGetx (h : Hint) (d : Reg)
  | mSetx (h : Hint) (a : Reg)
  -- memory (R293)
  | ld (h : Hint) (x : MemX) (d a b : Reg)
  | st (h : Hint) (x : MemX) (d a b : Reg)
  | ldS (h : Hint) (x : MemX) (d a b : Reg)
  | stS (h : Hint) (x : MemX) (d a b : Reg)
  | ldg (h : Hint) (x : MemX) (d a : Reg)
  | stg (h : Hint) (x : MemX) (d a : Reg)
  | atom (h : Hint) (x : MemX) (aop : BitVec 4) (d a b : Reg)
  | atomS (h : Hint) (x : MemX) (aop : BitVec 4) (d a b : Reg)
  | rstore (h : Hint) (x : MemX) (aop : BitVec 4) (d a b : Reg)
  | fence (h : Hint) (ord : BitVec 2) (scope : BitVec 3)
  | cinvRange (h : Hint) (a b : Reg)
  | cinvAll (h : Hint)
  | pref (h : Hint) (size : BitVec 2) (scale : BitVec 2) (nt : Bool) (a b : Reg)
  -- asynchronous group (R308 to R357, R369 to R374)
  | kset (h : Hint) (space : BitVec 3) (d : BitVec 4) (a : Reg)
  | kmod (h : Hint) (j : BitVec 3) (d : BitVec 4) (a : Reg)
  | boxLd (h : Hint) (mc : Bool) (m : BitVec 7) (scope : BitVec 3) (d : Reg) (a : BitVec 4) (b : Reg)
  | boxSt (h : Hint) (rop : BitVec 2) (scope : BitVec 3) (d : Reg) (a : BitVec 4) (b : Reg)
  | boxCp (h : Hint) (kdst : BitVec 4) (rop : BitVec 2) (scope : BitVec 3) (d : Reg) (a : BitVec 4) (b : Reg)
  | cpfence (h : Hint)
  | cpwait (h : Hint) (scope : BitVec 3) (last : Bool) (a : Reg)
  | mldN (h : Hint) (scope : BitVec 3) (d : BitVec 2) (a b c : Reg)
  | mldW (h : Hint) (scope : BitVec 3) (d : BitVec 2) (a b : Reg)
  | mma (h : Hint) (scope : BitVec 3) (nrows1 : BitVec 5) (row0 : BitVec 7) (w : BitVec 2) (reuse : Bool) (d : BitVec 4) (a b : Reg)
  | mmaz (h : Hint) (scope : BitVec 3) (nrows1 : BitVec 5) (row0 : BitVec 7) (w : BitVec 2) (reuse : Bool) (d : BitVec 4) (a b : Reg)
  | mfence (h : Hint)
  | mwait (h : Hint) (scope : BitVec 3) (last : Bool) (a : Reg)
  | epi (h : Hint) (scope : BitVec 3) (row0 nrows1 : BitVec 7) (d : BitVec 4) (a b : Reg)
  | epiRs (h : Hint) (scope : BitVec 3) (row0 nrows1 : BitVec 7) (d : BitVec 4) (a b : Reg)
  | cbarInit (h : Hint) (space : BitVec 3) (scope : BitVec 3) (a b : Reg)
  | cbarArr (h : Hint) (space : BitVec 3) (rel : Bool) (scope : BitVec 3) (d a b : Reg)
  | cbarWait (h : Hint) (space : BitVec 3) (acq : Bool) (scope : BitVec 3) (a b : Reg)
  | cbarTest (h : Hint) (space : BitVec 3) (acq : Bool) (scope : BitVec 3) (d a b : Reg)
  | collAr (h : Hint) (scope : BitVec 3) (inpl : Bool) (d a : BitVec 4) (b : Reg)
  | collRs (h : Hint) (scope : BitVec 3) (inpl : Bool) (d a : BitVec 4) (b : Reg)
  | collAg (h : Hint) (scope : BitVec 3) (inpl : Bool) (d a : BitVec 4) (b : Reg)
  | collBc (h : Hint) (scope : BitVec 3) (inpl : Bool) (d a : BitVec 4) (b : Reg)
  | collStep (h : Hint) (scope : BitVec 3) (a b : Reg)
  | drvStart (h : Hint) (scope : BitVec 3) (d a b : Reg)
  -- system group (R358)
  | sRdsr (h : Hint) (idx : BitVec 12) (d : Reg)
  | sWrsr (h : Hint) (idx : BitVec 12) (a : Reg)
  | trap (h : Hint) (n : BitVec 8)
  | tret (h : Hint)
  | resumeByMask (h : Hint) (d a : Reg)
  | resumeComplete (h : Hint) (d : Reg)
  | resumeDiscard (h : Hint) (d : Reg)
  | snap (h : Hint) (col : Bool) (d : Reg)
  | snapTry (h : Hint) (col : Bool) (d : Reg)
  | snapw (h : Hint) (col : Bool) (d : Reg)
  | brk (h : Hint) (n : BitVec 8)
  | trace (h : Hint) (tag : BitVec 16) (a : Reg)
  | prog (h : Hint) (n : BitVec 4)
  | rand (h : Hint) (nw : BitVec 2) (d a b : Reg)
  | knell (h : Hint) (a : Reg)
  | halt (h : Hint)
  -- drover-only group (R375)
  | bxiLd (h : Hint) (c : BitVec 5) (d : Reg) (a : BitVec 4) (b : Reg)
  | bxiSt (h : Hint) (c : BitVec 5) (rop : BitVec 2) (d : Reg) (a : BitVec 4) (b : Reg)
  | bxiCp (h : Hint) (c : BitVec 5) (kx : BitVec 3) (rop : BitVec 2) (d : Reg) (a : BitVec 4) (b : Reg)
  | bxw (h : Hint) (a : Reg)
  | darr (h : Hint) (a b : Reg)
  | dwait (h : Hint) (a b : Reg)
  | idxldFill (h : Hint) (c : BitVec 5) (a : BitVec 4) (b : Reg)
  | idxldRead (h : Hint) (size : BitVec 2) (d a : Reg)
  | tblld (h : Hint) (space : BitVec 3) (slot : BitVec 2) (d a b : Reg)
  | dend (h : Hint)
  -- the pair form (R186, R187)
  | pairWord (as : Bool) (h1 h2 : Half)
  | hnop (as : Bool)
  -- events: issue and the memory system
  | gangIssueSelect (unit : Nat)
  | loadDataReturn (id : Nat)
  | storeAck (id : Nat)
  | pageWalkStart (die : Nat)
  | pageWalkComplete (die : Nat)
  | tlbinvPage (ctx : BitVec 8) (vpn : BitVec 41)
  | tlbinvContext (ctx : BitVec 8)
  | tlbinvAllContexts
  | tlbinvReservedKind
  | tlbinvDone
  | homeReadRequest (id : Nat)
  | homeWriteRequest (id : Nat)
  | homeReduceRequest (id : Nat)
  | directoryInvalidateAck (line : Nat) (die : Nat)
  | reduceRegistered (id : Nat)
  | l2Writeback (sb : Nat)
  | rowActivationLimit (die row : Nat)
  | rowRefresh (die row : Nat)
  | patrolScrub (unit : Nat)
  | errlogbRead (die : Nat)
  | clusterRemoteAccess (id : Nat)
  | l1IntervalDecision (core : Nat)
  | hostPostedWrite (rid : BitVec 16) (ro : Bool) (off : Nat) (data : List Byte)
  | hostRead (rid : BitVec 16) (off : Nat) (len : Nat)
  | hostFetchadd (rid : BitVec 16) (off : Nat) (wide : Bool) (v : U64)
  | hostSwap (rid : BitVec 16) (off : Nat) (wide : Bool) (v : U64)
  | hostCas (rid : BitVec 16) (off : Nat) (wide : Bool) (c v : U64)
  | linkCompletion (id : Nat) (outside : List (Nat × Byte)) (err : Bool)
  -- events: the engines
  | boxTransferStart (core : Nat)
  | bxiAccept (core : Nat)
  | tableSlotFill (core : Nat) (slot : Nat)
  | boxTransferComplete (core : Nat)
  | boxTransferFault (core : Nat)
  | mldComplete (core : Nat)
  | mmaComplete (core : Nat)
  | epiComplete (core : Nat)
  | epiRsComplete (core : Nat)
  | matrixOpFault (core : Nat)
  -- events: the fabric and the collectives
  | collectiveChunkArrival (ch : Nat) (p : Option Packet)
  | stepVoteArrival (ch : Nat) (p : Option Packet)
  | collectiveComplete (grp : Nat)
  | knellArrival (ch : Nat) (p : Option Packet)
  | fatalGroupFault (grp : Nat)
  | stepReportArrival (ch : Nat) (p : Option Packet)
  | agreementTimeout (grp : Nat)
  | grpcmdOpen (grp : Nat)
  | grpcmdClose (grp : Nat)
  | fabricReadRequest (ch : Nat) (p : Option Packet)
  | fabricWriteRequest (ch : Nat) (p : Option Packet)
  | fabricAtomicRequest (ch : Nat) (p : Option Packet)
  | fabricResponse (ch : Nat) (p : Option Packet)
  | fabricReservedKind (ch : Nat) (p : Option Packet)
  | portDown (port : Nat)
  | timeSyncMessage (ch : Nat) (p : Option Packet)
  | haltNotice (ch : Nat) (p : Option Packet)
  | waybillCheckpoint (ch : Nat)
  -- events: snapshots and restore
  | localCut (col : Bool)
  | cutDrainComplete (col : Bool)
  | cairnArrival (ch : Nat) (p : Option Packet)
  | granuleCapture (gr : Nat)
  | packhorseSweep (die : Nat)
  | recordDurable (die : Nat)
  | recordWriteFail (die : Nat)
  | localCompletion (col : Bool)
  | completionReport (col : Bool)
  | coordinatorNoticeArrival (ch : Nat) (p : Option Packet)
  | globalCompletionNotice (ch : Nat) (p : Option Packet)
  | snapcmdStart (col : Bool)
  | snapcmdRelease (col : Bool)
  | abortRecordsDurable (col : Bool)
  | restcmdGo (col : Bool)
  | restoreComplete (region : List Byte)
  -- events: launch, placement, drovers, traps, pre-emption
  | hostEnqueue (q : BitVec 3) (v : U64)
  | gridDispatch
  | lnklogcRead
  | teamOffer
  | teamPlace (die : Nat)
  | unitReserving (die : Nat)
  | allocationZeroFillDone (team : Nat)
  | bindingContextGrant (die : Nat)
  | gridRetire (grid : Nat)
  | droverTrap (agent : Nat)
  | droverProgramFault (agent : Nat)
  | droverBarrierMark (agent : Nat)
  | droverContextFree (agent : Nat)
  | trapEntry (agent : Nat)
  | pregridRequest (grid : U32)
  | pregridWithdraw (grid : U32)
  | pdlExpire (team : Nat)
  | teamSave (team : Nat)
  | teamResume (team : Nat)
  -- events: measurement, debug, host, management and power
  | causalTrialStart
  | causalDelayPayment
  | causalTrialEnd
  | freezeCommand
  | freezePin
  | freezeLatch
  | frzstRearm
  | readbackRead
  | hgcmdEndGrid (grid : U32)
  | hgcmdResumeComplete (gang : BitVec 36)
  | hgcmdResumeDiscard (gang : BitVec 36)
  | parklogbRead
  | warmReset
  | functionLevelReset
  | powerOnBoot
  | spdmRequest (req : List Byte)
  | mclkAdjust (steps : BitVec 6)
  | thermalShutdown (die : Nat)
  | registerWrite (mgmt : Bool) (off : BitVec 26) (v : U64)
  | powerLoss
  | managementRequest
  | refreshManagementComplete (die row : Nat)
deriving DecidableEq, Repr

end Sys2Proof
end

