-- ==== Sys2Proof/WellFormed.lean ====
section
/-!
DEFINITION. Which instructions are well formed: the field, register and hint limits that the checks of R195, steps 4 to 9,
put on a word, stated on the syntax.
-/
namespace Sys2Proof

/-- What a check of a word reads of the executing agent: whether it is a drover, the gang width, the arrays owned
(R179, R195, R284, R332). -/
structure DecCtx where
  drover : Bool
  width : Nat
  arrays : Nat
deriving DecidableEq, Repr

/-- The hints a word may carry: !m0 is no guard (R184), a drover word is unguarded (R204), some words must be
unguarded (R244, R358), LOOK and AS only where R191 and R193 list the instruction. -/
def Hint.ok (h : Hint) (c : DecCtx) (g0 look as : Bool) : Bool :=
  h.guard != 8 && (!(c.drover || g0) || h.guard == 0) && (look || h.look == 0) && (as || !h.as)

/-- A scalar register number (R179). -/
def DecCtx.s (c : DecCtx) (r : Nat) : Bool := r < (if c.drover then 32 else 128)
/-- A descriptor register number (R179). -/
def DecCtx.k (c : DecCtx) (r : Nat) : Bool := r < (if c.drover then 8 else 16)
/-- A tile handle the team owns (R160, R179). -/
def DecCtx.t (c : DecCtx) (r : Nat) : Bool := r < 8 * c.arrays
/-- A buffer the team owns (R160, R179). -/
def DecCtx.w (c : DecCtx) (r : Nat) : Bool := r < 2 * c.arrays
/-- A segment of a cross-lane instruction (R284). -/
def DecCtx.seg (c : DecCtx) (g : BitVec 3) : Bool := g.toNat ≤ 6 && (g == 0 || 2 ^ g.toNat ≤ c.width)
/-- The lanes of a segment (R284). -/
def DecCtx.segLanes (c : DecCtx) (g : BitVec 3) : Nat := if g == 0 then c.width else 2 ^ g.toNat

/-- RM, NEG and ABS bits used; the others are false (R272). -/
def FMod.ok (m : FMod) (rm nA nB nC aA aB : Bool) : Bool :=
  (rm || m.rm == 0) && (nA || !m.negA) && (nB || !m.negB) && (nC || !m.negC) && (aA || !m.absA) && (aB || !m.absB)

/-- The access orders an instruction accepts: bit `o` of `ords` allows ORD `o` (R85, R182). -/
def MemX.ok (x : MemX) (ords : BitVec 4) : Bool :=
  x.space.toNat < 5 && x.scope.toNat < 6 && ords.getLsbD x.ord.toNat

/-- The operations and sizes of R298: `rd` for RSTORE. -/
def aopOk (rd : Bool) (aop : BitVec 4) (size : BitVec 2) : Bool :=
  if aop.toNat < 0xA then aop.toNat ≤ (if rd then 4 else 9) && 2 ≤ size.toNat
  else aop.toNat ≤ 0xC && (size == 1 || size == 2)

/-- A half of a pair is well formed by itself (R184, R186, R187, R204, R215). -/
def HalfOp.cls : HalfOp → Nat   -- 0 none, 1 scalar, 2 vector, 3 mask
  | .hnop => 0
  | .sAdd | .sSub | .sAnd | .sOr | .sXor | .sMov | .sAddi | .sShli | .sShri | .sMin | .sMax => 1
  | .vAdd | .vSub | .vAnd | .vOr | .vXor | .vMov | .vMovs | .vAddi | .vShli | .vShri | .vMin | .vMax => 2
  | .fAdd | .fSub | .fMul | .fMin | .fMax | .hAdd | .hMul => 2
  | .mAnd | .mOr | .mXor | .mMov => 3

/-- The half's A field is an immediate or a count (R187). -/
def HalfOp.imm : HalfOp → Bool
  | .sAddi | .sShli | .sShri | .vAddi | .vShli | .vShri => true
  | _ => false

/-- The half is an integer half or HNOP, so AS is legal on it (R193). -/
def HalfOp.intHalf : HalfOp → Bool
  | .fAdd | .fSub | .fMul | .fMin | .fMax | .hAdd | .hMul | .mAnd | .mOr | .mXor | .mMov => false
  | _ => true

def Half.ok (x : Half) (c : DecCtx) : Bool :=
  x.guard != 8 && (!c.drover || x.guard == 0) &&
  match x.op.cls with
  | 0 => x.d == 0 && x.a == 0 && x.guard == 0
  | 1 => c.s x.d.toNat && (x.op.imm || c.s x.a.toNat)
  | 2 => !c.drover
  | _ => !c.drover && x.d.toNat < 16 && x.a.toNat < 16

/-- The vector registers a half reads, counting D (R188, item 3). -/
def Half.banks (x : Half) : List Nat :=
  if x.op.cls == 2 then
    if x.op.imm || x.op == .vMovs then [x.d.toNat % 4] else [x.d.toNat % 4, x.a.toNat % 4]
  else []

/-- Both halves write one register (R188, item 2). -/
def sameDest (x y : Half) : Bool := x.op.cls != 0 && x.op.cls == y.op.cls && x.d == y.d

/-- More than two reads on a bank (R188, item 3). -/
def bankConflict (x y : Half) : Bool :=
  (List.range 4).any fun b => 2 < ((x.banks ++ y.banks).filter (· == b)).length

/-- The special registers an agent may read: bit 0 of the answer; and write: bit 1 (R209). -/
def srAccess (drover : Bool) (i : BitVec 12) : Bool × Bool :=
  let n := i.toNat
  if 0x40 ≤ n && n ≤ 0x4F then (true, true)
  else if drover then
    (n == 2 || n == 6 || n == 7 || n == 0x10 || n == 0x11 || n == 0x15 ||
      (0x20 ≤ n && n ≤ 0x26) || n == 0x34 || n == 0x35, false)
  else
    ((n ≤ 0x15) || (0x20 ≤ n && n ≤ 0x26) || (0x30 ≤ n && n ≤ 0x35), n == 8 || n == 0xF || n == 0x26)

/-- Alignment of the operand register of an atomic (R204, R294, R299). -/
def atomRegOk (scalar : Bool) (aop : BitVec 4) (size : BitVec 2) (d : Reg) : Bool :=
  if aop == 9 then
    if scalar || size != 3 then d.toNat % 2 == 0 else d.toNat % 4 == 0
  else scalar || size != 3 || d.toNat % 2 == 0

/-- The well-formed instructions. An event is well formed whatever its operands: where its operands name nothing the
machine holds, it finds nothing to do. -/
def Instr.wf (c : DecCtx) : Instr → Bool
  | .sAdd h _ d a b | .sSub h _ d a b | .sMul h _ d a b | .sMulh h _ d a b | .sMulhu h _ d a b
  | .sAnd h _ d a b | .sOr h _ d a b | .sXor h _ d a b | .sAndn h _ d a b | .sShl h _ d a b | .sShr h _ d a b
  | .sSra h _ d a b | .sMin h _ d a b | .sMax h _ d a b | .sMinu h _ d a b | .sMaxu h _ d a b =>
    h.ok c false false true && c.s d.toNat && c.s a.toNat && c.s b.toNat
  | .sDiv h _ d a b | .sDivu h _ d a b | .sRem h _ d a b | .sRemu h _ d a b =>
    h.ok c false true true && c.s d.toNat && c.s a.toNat && c.s b.toNat
  | .sClz h _ d a | .sPopc h _ d a | .sMov h _ d a => h.ok c false false true && c.s d.toNat && c.s a.toNat
  | .sBfx h b32 _ pos len1 d a | .sBfi h b32 pos len1 d a =>
    h.ok c false false true && pos.toNat + len1.toNat + 1 ≤ (if b32 then 32 else 64) && c.s d.toNat && c.s a.toNat
  | .sMad h _ d a b e => h.ok c false false true && c.s d.toNat && c.s a.toNat && c.s b.toNat && c.s e.toNat
  | .sCmp h _ cond d a b => h.ok c false false true && cond.toNat ≤ 11 && c.s d.toNat && c.s a.toNat && c.s b.toNat
  | .sSel h d a b e => h.ok c false false true && c.s d.toNat && c.s a.toNat && c.s b.toNat && c.s e.toNat
  | .sAddi h d a _ | .sAndi h d a _ | .sOri h d a _ | .sXori h d a _ => h.ok c false false true && c.s d.toNat && c.s a.toNat
  | .sShli h d a _ | .sShri h d a _ | .sSrai h d a _ => h.ok c false false true && c.s d.toNat && c.s a.toNat
  | .sCmpi h cond d a _ => h.ok c false false true && cond.toNat ≤ 11 && c.s d.toNat && c.s a.toNat
  | .sMovi h d _ | .sMovhi h d _ | .sAddpc h d _ => h.ok c false false true && c.s d.toNat
  | .bra h _ | .nop h => h.ok c false false false
  | .brS h _ a _ => h.ok c false false false && c.s a.toNat
  | .brAny h _ _ _ | .brAll h _ _ _ | .brDiv h _ _ _ _ => h.ok c false false false && !c.drover
  | .join h | .allBegin h | .allEnd h => h.ok c true false false && !c.drover
  | .loop h d _ => h.ok c false false false && c.s d.toNat
  | .call h f _ => h.ok c false false false && f.toNat % 8 == 0 && (!c.drover || f == 0)
  | .ret h => h.ok c true false false
  | .callT h src a f => h.ok c false false false && !c.drover && f.toNat % 8 == 0 && (!src || c.s a.toNat)
  | .jmpT h src a _ => h.ok c false false false && !c.drover && (!src || c.s a.toNat)
  | .exit h => h.ok c false false false && !c.drover
  | .plane h pos _ _ l => h.ok c false false false && !c.drover && l != 0 && pos.toNat < l.toNat
  | .planeI h pos _ _ l => h.ok c false false false && !c.drover && l != 0 && pos.toNat < l.toNat
  | .barT h | .barC h | .waitcnt h _ _ | .yield h => h.ok c false false false && !c.drover
  | .launch h a | .chwait h a => h.ok c false false false && !c.drover && c.s a.toNat
  | .vAdd h _ _ _ _ | .vSub h _ _ _ _ | .vMul h _ _ _ _ | .vMulh h _ _ _ | .vMulhu h _ _ _ | .vMad h _ _ _ _
  | .vAnd h _ _ _ | .vOr h _ _ _ | .vXor h _ _ _ | .vAndn h _ _ _ | .vShl h _ _ _ _ | .vShr h _ _ _ _
  | .vSra h _ _ _ _ | .vMin h _ _ _ _ | .vMax h _ _ _ _ | .vMinu h _ _ _ _ | .vMaxu h _ _ _ _ | .vAbs h _ _ _
  | .vClz h _ _ | .vPopc h _ _ | .vAddsat h _ _ _ _ _ | .vSubsat h _ _ _ _ _ | .vDot4 h _ _ _ _ _ _
  | .vSel h _ _ _ _ | .vMov h _ _ | .vAddi h _ _ _ | .vAndi h _ _ _ | .vShli h _ _ _ | .vShri h _ _ _
  | .vSrai h _ _ _ | .vMovi h _ _ => h.ok c false false true && !c.drover
  | .vBfx h _ pos len1 _ _ | .vBfi h pos len1 _ _ =>
    h.ok c false false true && !c.drover && pos.toNat + len1.toNat + 1 ≤ 32
  | .vCmp h cond _ _ _ => h.ok c false false true && !c.drover && cond.toNat ≤ 11
  | .vMovs h _ a => h.ok c false false true && !c.drover && c.s a.toNat
  | .fAdd h m _ _ _ | .fSub h m _ _ _ | .fMul h m _ _ _ =>
    h.ok c false false false && !c.drover && m.ok true true true false true true
  | .fDiv h m _ _ _ => h.ok c false true false && !c.drover && m.ok true true true false true true
  | .fFma h m _ _ _ _ => h.ok c false false false && !c.drover && m.ok true true true true true true
  | .fMin h m _ _ _ | .fMax h m _ _ _ | .fCmp h m _ _ _ _ =>
    h.ok c false false false && !c.drover && m.ok false true true false true true
  | .fClass h _ _ => h.ok c false false false && !c.drover
  | .fSqrt h m _ _ => h.ok c false true false && !c.drover && m.ok true true false false true false
  | .fRnd h m _ _ | .fScale h m _ _ _ => h.ok c false false false && !c.drover && m.ok true true false false true false
  | .fRcp h m _ _ | .fRsq h m _ _ | .fExp2 h m _ _ | .fLog2 h m _ _ | .fSinpi h m _ _ | .fCospi h m _ _
  | .fTanh h m _ _ => h.ok c false true false && !c.drover && m.ok false true false false true false
  | .fCvt h dst srcf rmx _ sel k _ _ =>
    h.ok c false false false && !c.drover && isLaneDst dst && isLaneSrc srcf && rmx.toNat ≤ 5 &&
      sel.toNat < 32 / fmtWidth srcf && (rmx == 5 || k == 0)
  | .fCvtiToInt h ifmt _ _ _ _ | .fCvtiToFloat h ifmt _ _ _ _ => h.ok c false false false && !c.drover && isIntFmt ifmt
  | .fPack h dst rmx _ j k _ _ _ =>
    h.ok c false false false && !c.drover && isLaneDst dst && fmtWidth dst ≤ 16 && rmx.toNat ≤ 5 &&
      2 * j.toNat + 1 < 32 / fmtWidth dst && (rmx == 5 || k == 0)
  | .fUnpk h srcf j d _ =>
    h.ok c false false false && !c.drover && isLaneSrc srcf && fmtWidth srcf ≤ 16 &&
      2 * j.toNat + 1 < 32 / fmtWidth srcf && d.toNat % 2 == 0
  | .hAdd h _ m _ _ _ | .hMul h _ m _ _ _ => h.ok c false false false && !c.drover && m.ok true true true false true true
  | .hFma h _ m _ _ _ _ => h.ok c false false false && !c.drover && m.ok true true true true true true
  | .fDeq h ef sf sel _ _ _ _ =>
    h.ok c false false false && !c.drover && isDeqFmt ef && isScaleFmt sf && sel.toNat < 32 / fmtWidth ef
  | .laneid h _ => h.ok c false false true && !c.drover
  | .shflIdx h seg _ _ _ | .shflUp h seg _ _ _ | .shflDn h seg _ _ _ => h.ok c false true false && !c.drover && c.seg seg
  | .shflXor h seg delta _ _ => h.ok c false true false && !c.drover && c.seg seg && delta.toNat < c.segLanes seg
  | .voteAny h _ _ _ | .voteAll h _ _ _ => h.ok c false false false && !c.drover
  | .ballot h d _ => h.ok c false false false && !c.drover && c.s d.toNat
  | .rdxAdd h ty d _ | .rdxMin h ty d _ | .rdxMax h ty d _ => h.ok c false true false && !c.drover && ty != 3 && c.s d.toNat
  | .scanAdd h _ _ _ _ => h.ok c false true false && !c.drover
  | .v2s h _ lane d _ => h.ok c false false false && !c.drover && lane.toNat < c.width && c.s d.toNat
  | .s2l h lane _ a => h.ok c false false false && !c.drover && lane.toNat < c.width && c.s a.toNat
  | .mAnd h _ _ _ | .mOr h _ _ _ | .mXor h _ _ _ | .mNot h _ _ | .mMov h _ _ => h.ok c false false false && !c.drover
  | .mPopc h d _ | .mFfs h d _ | .mTos h d _ | .mGetx h d => h.ok c false false false && !c.drover && c.s d.toNat
  | .mFroms h _ a | .mSetx h a => h.ok c false false false && !c.drover && c.s a.toNat
  | .ld h x d a _ =>
    h.ok c false true (x.ord == 0) && !c.drover && x.ok 3 && !(x.sx && 2 ≤ x.size.toNat) && c.s a.toNat &&
      (x.size != 3 || d.toNat % 2 == 0)
  | .st h x d a _ =>
    h.ok c false false false && !c.drover && x.ok 5 && !x.sx && c.s a.toNat && (x.size != 3 || d.toNat % 2 == 0)
  | .ldS h x d a b =>
    h.ok c false true (x.ord == 0) && x.ok 3 && !(x.sx && x.size == 3) && c.s d.toNat && c.s a.toNat && c.s b.toNat
  | .stS h x d a b => h.ok c false false false && x.ok 5 && !x.sx && c.s d.toNat && c.s a.toNat && c.s b.toNat
  | .ldg h x d a =>
    h.ok c false true (x.ord == 0) && !c.drover && x.ok 3 && x.scale == 0 && !(x.sx && x.size == 3) &&
      a.toNat % 2 == 0 && (x.size != 3 || d.toNat % 2 == 0)
  | .stg h x d a =>
    h.ok c false false false && !c.drover && x.ok 5 && x.scale == 0 && !x.sx && a.toNat % 2 == 0 &&
      (x.size != 3 || d.toNat % 2 == 0)
  | .atom h x aop d a _ =>
    h.ok c false true false && !c.drover && x.ok 15 && aopOk false aop x.size && c.s a.toNat && atomRegOk false aop x.size d &&
      (aop != 9 || d.toNat + 2 * (x.size.toNat - 1) ≤ 256)
  | .atomS h x aop d a b =>
    h.ok c false true false && x.ok 15 && aopOk false aop x.size && c.s d.toNat && c.s a.toNat && c.s b.toNat &&
      atomRegOk true aop x.size d
  | .rstore h x aop d a _ =>
    h.ok c false false false && !c.drover && x.ok 5 && aopOk true aop x.size && c.s a.toNat && (x.size != 3 || d.toNat % 2 == 0)
  | .fence h ord scope => h.ok c false false false && ord != 0 && scope.toNat < 6
  | .cinvRange h a b => h.ok c false false false && !c.drover && c.s a.toNat && c.s b.toNat
  | .cinvAll h => h.ok c false false false && !c.drover
  | .pref h _ _ _ a _ => h.ok c false false true && !c.drover && c.s a.toNat
  | .kset h space d a => h.ok c false false true && (space == 0 || space == 1 || space == 3) && c.k d.toNat && c.s a.toNat
  | .kmod h _ d a => h.ok c false false true && c.k d.toNat && c.s a.toNat
  | .boxLd h mc m scope d _ b =>
    h.ok c false false false && !c.drover && scope.toNat < 6 && c.s d.toNat && b.toNat ≤ 125 && (mc || m == 0)
  | .boxSt h _ scope d _ b => h.ok c false false false && !c.drover && scope.toNat < 6 && c.s d.toNat && b.toNat ≤ 125
  | .boxCp h _ _ scope d _ b => h.ok c false false false && !c.drover && scope.toNat < 6 && d.toNat ≤ 125 && b.toNat ≤ 125
  | .cpfence h | .mfence h => h.ok c false false false && !c.drover
  | .cpwait h scope last a | .mwait h scope last a =>
    h.ok c false false false && !c.drover && scope.toNat < 6 && c.s a.toNat && (!last || a == 0)
  | .mldN h scope d a b e =>
    h.ok c false false false && !c.drover && scope.toNat < 6 && c.w d.toNat && c.s a.toNat && c.s b.toNat && c.s e.toNat
  | .mldW h scope d a b => h.ok c false false false && !c.drover && scope.toNat < 6 && c.w d.toNat && c.s a.toNat && c.s b.toNat
  | .mma h scope nrows1 row0 w _ d a b | .mmaz h scope nrows1 row0 w _ d a b =>
    h.ok c false false false && !c.drover && scope.toNat < 6 && row0.toNat + nrows1.toNat + 1 ≤ 128 &&
      c.t d.toNat && c.w w.toNat && c.s b.toNat && a.toNat + (nrows1.toNat + 1) * (64 / c.width) ≤ 256
  | .epi h scope row0 nrows1 d a b | .epiRs h scope row0 nrows1 d a b =>
    h.ok c false false false && !c.drover && scope.toNat < 6 && row0.toNat + nrows1.toNat + 1 ≤ 128 &&
      c.t d.toNat && c.s a.toNat && c.s b.toNat
  | .cbarInit h space scope a b =>
    h.ok c false false false && !c.drover && (space == 1 || space == 2) && scope.toNat < 6 && c.s a.toNat && c.s b.toNat
  | .cbarWait h space _ scope a b =>
    h.ok c false false false && !c.drover && (space == 1 || space == 2) && scope.toNat < 6 && c.s a.toNat && c.s b.toNat
  | .cbarArr h space _ scope d a b | .cbarTest h space _ scope d a b =>
    h.ok c false false false && !c.drover && (space == 1 || space == 2) && scope.toNat < 6 && c.s d.toNat && c.s a.toNat && c.s b.toNat
  | .collAr h scope inpl d _ b | .collRs h scope inpl d _ b | .collAg h scope inpl d _ b | .collBc h scope inpl d _ b =>
    h.ok c false false false && !c.drover && scope.toNat < 6 && b.toNat ≤ 126 && (!inpl || d == 0)
  | .collStep h scope a b => h.ok c false false false && !c.drover && scope.toNat < 6 && c.s a.toNat && b.toNat ≤ 126
  | .drvStart h scope d a b =>
    h.ok c false false false && !c.drover && scope.toNat < 6 && c.s d.toNat && c.s a.toNat && b.toNat ≤ 126
  | .sRdsr h idx d => h.ok c false (idx == 0x10) false && (srAccess c.drover idx).1 && c.s d.toNat
  | .sWrsr h idx a => h.ok c false false false && (srAccess c.drover idx).2 && c.s a.toNat
  | .trap h n => h.ok c false false false && n != 255
  | .tret h => h.ok c true false false
  | .resumeByMask h d a => h.ok c true false false && !c.drover && c.s d.toNat && c.s a.toNat
  | .resumeComplete h d | .resumeDiscard h d => h.ok c true false false && !c.drover && c.s d.toNat
  | .snap h _ d | .snapTry h _ d | .snapw h _ d => h.ok c false false false && !c.drover && c.s d.toNat
  | .brk h _ | .halt h => h.ok c false false false && !c.drover
  | .trace h _ a => h.ok c false false false && c.s a.toNat
  | .prog h _ => h.ok c false false false
  | .rand h nw d a b =>
    h.ok c false false false && !c.drover && nw != 3 && d.toNat % 2 ^ nw.toNat == 0 && c.s a.toNat && c.s b.toNat
  | .knell h a => h.ok c false false false && !c.drover && c.s a.toNat
  | .bxiLd h _ d a b | .bxiSt h _ _ d a b =>
    h.ok c false false false && c.drover && c.s d.toNat && c.k a.toNat && b.toNat ≤ 29
  | .bxiCp h e _ _ d a b =>
    h.ok c false false false && c.drover && c.s d.toNat && c.k a.toNat && b.toNat ≤ 29 && e.toNat ≤ 29
  | .bxw h a => h.ok c false false false && c.drover && c.s a.toNat
  | .darr h a b | .dwait h a b => h.ok c false false false && c.drover && c.s a.toNat && c.s b.toNat
  | .idxldFill h _ a b => h.ok c false false false && c.drover && c.k a.toNat && b.toNat ≤ 29
  | .idxldRead h _ d a => h.ok c false false false && c.drover && c.s d.toNat && c.s a.toNat
  | .tblld h space _ d a b =>
    h.ok c false false false && c.drover && (space == 0 || space == 1 || space == 3) &&
      c.s d.toNat && c.s a.toNat && c.s b.toNat
  | .dend h => h.ok c false false false && c.drover
  | .pairWord as x y =>
    x.ok c && y.ok c && (!as || (x.op.intHalf && y.op.intHalf)) && !sameDest x y && !bankConflict x y &&
      !(x.op == .hnop && y.op == .hnop)
  | _ => true

end Sys2Proof
end

