-- ==== Sys2Proof/Decode.lean ====
section
/-!
DEFINITION. Decoding and encoding of instruction words: the checks of R195, steps 3 to 9, in order, from the encoding
tables of R212, R214, R237, R244, R268, R272, R278 to R284, R290, R293, R308 to R310, R323 to R327, R337, R342, R346,
R351, R352, R358, R369, R374 and R375; the encoder is written from the same tables.
-/
namespace Sys2Proof

/-- Bits lo to lo + n - 1 of a word. -/
def fld (w : U64) (lo n : Nat) : BitVec n := w.extractLsb' lo n
/-- Bit i of a word. -/
def flag (w : U64) (i : Nat) : Bool := w.getLsbD i
/-- The mask of bits hi to lo. -/
def msk (hi lo : Nat) : U64 := BitVec.ofNat 64 ((2 ^ (hi - lo + 1) - 1) * 2 ^ lo)

/-- The fields D, A, B, C and TY of the full form (R177, R180). -/
def fD (w : U64) : Reg := fld w 46 8
def fA (w : U64) : Reg := fld w 38 8
def fB (w : U64) : Reg := fld w 30 8
def fC (w : U64) : Reg := fld w 22 8
def fX (w : U64) : BitVec 18 := fld w 12 18
def fTy (w : U64) : BitVec 3 := fld w 12 3
def mD : U64 := msk 53 46
def mA : U64 := msk 45 38
def mB : U64 := msk 37 30
def mX : U64 := msk 29 12
def mDABX : U64 := msk 53 12
/-- SX and AOP of X-M, reserved in PREF (R293). -/
def sxAop : U64 := msk 17 17 ||| msk 15 12

/-- SIZE of X-M (R182). -/
def fSize (w : U64) : BitVec 2 := fld w 25 2
def memxOf (w : U64) : MemX := ⟨fld w 27 3, fld w 25 2, fld w 23 2, fld w 20 3, fld w 18 2, flag w 17, flag w 16⟩
def fmodOf (w : U64) : FMod := ⟨fld w 20 2, flag w 19, flag w 18, flag w 17, flag w 16, flag w 15⟩
def hintOf (w : U64) : Hint := ⟨fld w 8 4, flag w 7, flag w 6, fld w 4 2, fld w 0 4⟩

/-- A register as a word names it, by class and number (R179). -/
inductive RegRef where
  | v (n : Nat) | s (n : Nat) | m (n : Nat) | k (n : Nat) | t (n : Nat) | w (n : Nat)
deriving DecidableEq, Repr

def rv {n : Nat} (r : BitVec n) : RegRef := .v r.toNat
def rs {n : Nat} (r : BitVec n) : RegRef := .s r.toNat
def rm {n : Nat} (r : BitVec n) : RegRef := .m r.toNat
def rk {n : Nat} (r : BitVec n) : RegRef := .k r.toNat
def rt {n : Nat} (r : BitVec n) : RegRef := .t r.toNat
def rw {n : Nat} (r : BitVec n) : RegRef := .w r.toNat
/-- n consecutive vector or scalar registers. -/
def vs (r : Reg) (n : Nat) : List RegRef := (List.range n).map fun i => .v (r.toNat + i)
def ss (r : Reg) (n : Nat) : List RegRef := (List.range n).map fun i => .s (r.toNat + i)
/-- The offset register of LD.S, ST.S and ATOM.S: B = 0 names none (R294). -/
def sOff (r : Reg) : List RegRef := if r == 0 then [] else [rs r]
/-- The registers of a vector operand: a pair for SIZE 64 (R204, R294). -/
def szRegs (w : U64) : Nat := if fSize w == 3 then 2 else 1
def pairOk (w : U64) : Bool := fSize w != 3 || (fD w).toNat % 2 == 0
/-- The registers an ATOM reads from D on (R299). -/
def casRegs (w : U64) : Nat := if fld w 12 4 == 9 then 2 * szRegs w else szRegs w
/-- The key and counter registers of SR (R280, R281). -/
def srRegs (rmx : BitVec 3) (k : BitVec 5) : List RegRef :=
  if rmx == 5 then [.s (2 * k.toNat), .s (2 * k.toNat + 1)] else []

/-- A register number is legal for the agent (R179). -/
def RegRef.ok (c : DecCtx) : RegRef → Bool
  | .v n => !c.drover && n < 256
  | .s n => c.s n
  | .m n => !c.drover && n < 16
  | .k n => c.k n
  | .t n => c.t n
  | .w n => c.w n

/-- A failed field check. -/
def nz {n : Nat} (x : BitVec n) : Option (BitVec 8) := if x != 0 then some 0xA2 else none
/-- TY may set only the bits of `allowed` (R269). -/
def tyIn (w : U64) (allowed : BitVec 3) : Option (BitVec 8) := nz (fTy w &&& ~~~allowed)
def sc6 (s : BitVec 3) : Option (BitVec 8) := if 6 ≤ s.toNat then some 0xA2 else none

def collOf (h : Hint) (op : BitVec 2) (scope : BitVec 3) (inpl : Bool) (d a : BitVec 4) (b : Reg) : Instr :=
  if op == 0 then .collAr h scope inpl d a b else if op == 1 then .collRs h scope inpl d a b
  else if op == 2 then .collAg h scope inpl d a b else .collBc h scope inpl d a b
def resumeOf (h : Hint) (mode : BitVec 2) (d a : Reg) : Instr :=
  if mode == 0 then .resumeByMask h d a else if mode == 1 then .resumeComplete h d else .resumeDiscard h d
def bxiOf (h : Hint) (kind : BitVec 2) (c : BitVec 5) (kx : BitVec 3) (rop : BitVec 2) (d : Reg) (a : BitVec 4) (b : Reg) : Instr :=
  if kind == 0 then .bxiLd h c d a b else if kind == 1 then .bxiSt h c rop d a b else .bxiCp h c kx rop d a b

/-- One OP of the map: what its word must satisfy at each step of R195, the registers it names, and the instruction. -/
structure Row where
  build : Hint → U64 → Instr
  gang : Bool := true
  drov : Bool := false
  rsv : U64 → U64 := fun _ => 0
  val : DecCtx → U64 → Option (BitVec 8) := fun _ _ => none
  g0 : Bool := false
  rd : DecCtx → U64 → List RegRef := fun _ _ => []
  wr : U64 → List RegRef := fun _ => []
  al : U64 → Bool := fun _ => true
  look : U64 → Bool := fun _ => false
  asOk : U64 → Bool := fun _ => false

/-- The full-form opcode map (R212): an OP without a row is unassigned. -/
def rowOf (op : Nat) : Option Row :=
  match op with
  | 0x000 => some {
      build := fun h w => .sAdd h (flag w 12) (fD w) (fA w) (fB w), drov := true, rsv := fun _ => msk 29 15,
      val := fun _ w => if 2 ≤ (fTy w).toNat then some 0xA2 else none, rd := fun _ w => [rs (fA w), rs (fB w)],
      wr := fun w => [rs (fD w)], asOk := fun _ => true }
  | 0x001 => some {
      build := fun h w => .sSub h (flag w 12) (fD w) (fA w) (fB w), drov := true, rsv := fun _ => msk 29 15,
      val := fun _ w => if 2 ≤ (fTy w).toNat then some 0xA2 else none, rd := fun _ w => [rs (fA w), rs (fB w)],
      wr := fun w => [rs (fD w)], asOk := fun _ => true }
  | 0x002 => some {
      build := fun h w => .sMul h (flag w 12) (fD w) (fA w) (fB w), drov := true, rsv := fun _ => msk 29 15,
      val := fun _ w => if 2 ≤ (fTy w).toNat then some 0xA2 else none, rd := fun _ w => [rs (fA w), rs (fB w)],
      wr := fun w => [rs (fD w)], asOk := fun _ => true }
  | 0x003 => some {
      build := fun h w => .sMulh h (flag w 12) (fD w) (fA w) (fB w), drov := true, rsv := fun _ => msk 29 15,
      val := fun _ w => if 2 ≤ (fTy w).toNat then some 0xA2 else none, rd := fun _ w => [rs (fA w), rs (fB w)],
      wr := fun w => [rs (fD w)], asOk := fun _ => true }
  | 0x004 => some {
      build := fun h w => .sMulhu h (flag w 12) (fD w) (fA w) (fB w), drov := true, rsv := fun _ => msk 29 15,
      val := fun _ w => if 2 ≤ (fTy w).toNat then some 0xA2 else none, rd := fun _ w => [rs (fA w), rs (fB w)],
      wr := fun w => [rs (fD w)], asOk := fun _ => true }
  | 0x005 => some {
      build := fun h w => .sDiv h (flag w 12) (fD w) (fA w) (fB w), drov := true, rsv := fun _ => msk 29 15,
      val := fun _ w => if 2 ≤ (fTy w).toNat then some 0xA2 else none, rd := fun _ w => [rs (fA w), rs (fB w)],
      wr := fun w => [rs (fD w)], look := fun _ => true, asOk := fun _ => true }
  | 0x006 => some {
      build := fun h w => .sDivu h (flag w 12) (fD w) (fA w) (fB w), drov := true, rsv := fun _ => msk 29 15,
      val := fun _ w => if 2 ≤ (fTy w).toNat then some 0xA2 else none, rd := fun _ w => [rs (fA w), rs (fB w)],
      wr := fun w => [rs (fD w)], look := fun _ => true, asOk := fun _ => true }
  | 0x007 => some {
      build := fun h w => .sRem h (flag w 12) (fD w) (fA w) (fB w), drov := true, rsv := fun _ => msk 29 15,
      val := fun _ w => if 2 ≤ (fTy w).toNat then some 0xA2 else none, rd := fun _ w => [rs (fA w), rs (fB w)],
      wr := fun w => [rs (fD w)], look := fun _ => true, asOk := fun _ => true }
  | 0x008 => some {
      build := fun h w => .sRemu h (flag w 12) (fD w) (fA w) (fB w), drov := true, rsv := fun _ => msk 29 15,
      val := fun _ w => if 2 ≤ (fTy w).toNat then some 0xA2 else none, rd := fun _ w => [rs (fA w), rs (fB w)],
      wr := fun w => [rs (fD w)], look := fun _ => true, asOk := fun _ => true }
  | 0x009 => some {
      build := fun h w => .sAnd h (flag w 12) (fD w) (fA w) (fB w), drov := true, rsv := fun _ => msk 29 15,
      val := fun _ w => if 2 ≤ (fTy w).toNat then some 0xA2 else none, rd := fun _ w => [rs (fA w), rs (fB w)],
      wr := fun w => [rs (fD w)], asOk := fun _ => true }
  | 0x00A => some {
      build := fun h w => .sOr h (flag w 12) (fD w) (fA w) (fB w), drov := true, rsv := fun _ => msk 29 15,
      val := fun _ w => if 2 ≤ (fTy w).toNat then some 0xA2 else none, rd := fun _ w => [rs (fA w), rs (fB w)],
      wr := fun w => [rs (fD w)], asOk := fun _ => true }
  | 0x00B => some {
      build := fun h w => .sXor h (flag w 12) (fD w) (fA w) (fB w), drov := true, rsv := fun _ => msk 29 15,
      val := fun _ w => if 2 ≤ (fTy w).toNat then some 0xA2 else none, rd := fun _ w => [rs (fA w), rs (fB w)],
      wr := fun w => [rs (fD w)], asOk := fun _ => true }
  | 0x00C => some {
      build := fun h w => .sAndn h (flag w 12) (fD w) (fA w) (fB w), drov := true, rsv := fun _ => msk 29 15,
      val := fun _ w => if 2 ≤ (fTy w).toNat then some 0xA2 else none, rd := fun _ w => [rs (fA w), rs (fB w)],
      wr := fun w => [rs (fD w)], asOk := fun _ => true }
  | 0x00D => some {
      build := fun h w => .sShl h (flag w 12) (fD w) (fA w) (fB w), drov := true, rsv := fun _ => msk 29 15,
      val := fun _ w => if 2 ≤ (fTy w).toNat then some 0xA2 else none, rd := fun _ w => [rs (fA w), rs (fB w)],
      wr := fun w => [rs (fD w)], asOk := fun _ => true }
  | 0x00E => some {
      build := fun h w => .sShr h (flag w 12) (fD w) (fA w) (fB w), drov := true, rsv := fun _ => msk 29 15,
      val := fun _ w => if 2 ≤ (fTy w).toNat then some 0xA2 else none, rd := fun _ w => [rs (fA w), rs (fB w)],
      wr := fun w => [rs (fD w)], asOk := fun _ => true }
  | 0x00F => some {
      build := fun h w => .sSra h (flag w 12) (fD w) (fA w) (fB w), drov := true, rsv := fun _ => msk 29 15,
      val := fun _ w => if 2 ≤ (fTy w).toNat then some 0xA2 else none, rd := fun _ w => [rs (fA w), rs (fB w)],
      wr := fun w => [rs (fD w)], asOk := fun _ => true }
  | 0x010 => some {
      build := fun h w => .sMin h (flag w 12) (fD w) (fA w) (fB w), drov := true, rsv := fun _ => msk 29 15,
      val := fun _ w => if 2 ≤ (fTy w).toNat then some 0xA2 else none, rd := fun _ w => [rs (fA w), rs (fB w)],
      wr := fun w => [rs (fD w)], asOk := fun _ => true }
  | 0x011 => some {
      build := fun h w => .sMax h (flag w 12) (fD w) (fA w) (fB w), drov := true, rsv := fun _ => msk 29 15,
      val := fun _ w => if 2 ≤ (fTy w).toNat then some 0xA2 else none, rd := fun _ w => [rs (fA w), rs (fB w)],
      wr := fun w => [rs (fD w)], asOk := fun _ => true }
  | 0x012 => some {
      build := fun h w => .sMinu h (flag w 12) (fD w) (fA w) (fB w), drov := true, rsv := fun _ => msk 29 15,
      val := fun _ w => if 2 ≤ (fTy w).toNat then some 0xA2 else none, rd := fun _ w => [rs (fA w), rs (fB w)],
      wr := fun w => [rs (fD w)], asOk := fun _ => true }
  | 0x013 => some {
      build := fun h w => .sMaxu h (flag w 12) (fD w) (fA w) (fB w), drov := true, rsv := fun _ => msk 29 15,
      val := fun _ w => if 2 ≤ (fTy w).toNat then some 0xA2 else none, rd := fun _ w => [rs (fA w), rs (fB w)],
      wr := fun w => [rs (fD w)], asOk := fun _ => true }
  | 0x014 => some {
      build := fun h w => .sClz h (flag w 12) (fD w) (fA w), drov := true, rsv := fun _ => mB ||| msk 29 15,
      val := fun _ w => if 2 ≤ (fTy w).toNat then some 0xA2 else none, rd := fun _ w => [rs (fA w)],
      wr := fun w => [rs (fD w)], asOk := fun _ => true }
  | 0x015 => some {
      build := fun h w => .sPopc h (flag w 12) (fD w) (fA w), drov := true, rsv := fun _ => mB ||| msk 29 15,
      val := fun _ w => if 2 ≤ (fTy w).toNat then some 0xA2 else none, rd := fun _ w => [rs (fA w)],
      wr := fun w => [rs (fD w)], asOk := fun _ => true }
  | 0x01B => some {
      build := fun h w => .sMov h (flag w 12) (fD w) (fA w), drov := true, rsv := fun _ => mB ||| msk 29 15,
      val := fun _ w => if 2 ≤ (fTy w).toNat then some 0xA2 else none, rd := fun _ w => [rs (fA w)],
      wr := fun w => [rs (fD w)], asOk := fun _ => true }
  | 0x016 => some {
      build := fun h w => .sBfx h (flag w 12) (flag w 17) (fld w 24 6) (fld w 18 6) (fD w) (fA w), drov := true,
      rsv := fun _ => mB ||| msk 16 15,
      val := fun _ w => if 2 ≤ (fTy w).toNat || (if flag w 12 then 32 else 64) < (fld w 24 6).toNat + (fld w 18 6).toNat + 1 then some 0xA2 else none,
      rd := fun _ w => [rs (fA w)], wr := fun w => [rs (fD w)], asOk := fun _ => true }
  | 0x017 => some {
      build := fun h w => .sBfi h (flag w 12) (fld w 24 6) (fld w 18 6) (fD w) (fA w), drov := true,
      rsv := fun _ => mB ||| msk 17 15,
      val := fun _ w => if 2 ≤ (fTy w).toNat || (if flag w 12 then 32 else 64) < (fld w 24 6).toNat + (fld w 18 6).toNat + 1 then some 0xA2 else none,
      rd := fun _ w => [rs (fA w), rs (fD w)], wr := fun w => [rs (fD w)], asOk := fun _ => true }
  | 0x018 => some {
      build := fun h w => .sMad h (flag w 12) (fD w) (fA w) (fB w) (fC w), drov := true, rsv := fun _ => msk 21 15,
      val := fun _ w => if 2 ≤ (fTy w).toNat then some 0xA2 else none,
      rd := fun _ w => [rs (fA w), rs (fB w), rs (fC w)], wr := fun w => [rs (fD w)], asOk := fun _ => true }
  | 0x019 => some {
      build := fun h w => .sCmp h (flag w 12) (fld w 22 4) (fD w) (fA w) (fB w), drov := true,
      rsv := fun _ => msk 29 26 ||| msk 21 15,
      val := fun _ w => if 2 ≤ (fTy w).toNat || 11 < (fld w 22 4).toNat then some 0xA2 else none,
      rd := fun _ w => [rs (fA w), rs (fB w)], wr := fun w => [rs (fD w)], asOk := fun _ => true }
  | 0x01A => some {
      build := fun h w => .sSel h (fD w) (fA w) (fB w) (fC w), drov := true, rsv := fun _ => msk 21 15,
      val := fun _ w => nz (fTy w), rd := fun _ w => [rs (fA w), rs (fB w), rs (fC w)], wr := fun w => [rs (fD w)],
      asOk := fun _ => true }
  | 0x020 => some {
      build := fun h w => .sAddi h (fD w) (fA w) (fX w), drov := true, rsv := fun _ => mB, rd := fun _ w => [rs (fA w)],
      wr := fun w => [rs (fD w)], asOk := fun _ => true }
  | 0x021 => some {
      build := fun h w => .sAndi h (fD w) (fA w) (fX w), drov := true, rsv := fun _ => mB, rd := fun _ w => [rs (fA w)],
      wr := fun w => [rs (fD w)], asOk := fun _ => true }
  | 0x022 => some {
      build := fun h w => .sOri h (fD w) (fA w) (fX w), drov := true, rsv := fun _ => mB, rd := fun _ w => [rs (fA w)],
      wr := fun w => [rs (fD w)], asOk := fun _ => true }
  | 0x023 => some {
      build := fun h w => .sXori h (fD w) (fA w) (fX w), drov := true, rsv := fun _ => mB, rd := fun _ w => [rs (fA w)],
      wr := fun w => [rs (fD w)], asOk := fun _ => true }
  | 0x024 => some {
      build := fun h w => .sShli h (fD w) (fA w) (fld w 12 6), drov := true, rsv := fun _ => mB ||| msk 29 18,
      rd := fun _ w => [rs (fA w)], wr := fun w => [rs (fD w)], asOk := fun _ => true }
  | 0x025 => some {
      build := fun h w => .sShri h (fD w) (fA w) (fld w 12 6), drov := true, rsv := fun _ => mB ||| msk 29 18,
      rd := fun _ w => [rs (fA w)], wr := fun w => [rs (fD w)], asOk := fun _ => true }
  | 0x026 => some {
      build := fun h w => .sSrai h (fD w) (fA w) (fld w 12 6), drov := true, rsv := fun _ => mB ||| msk 29 18,
      rd := fun _ w => [rs (fA w)], wr := fun w => [rs (fD w)], asOk := fun _ => true }
  | 0x027 => some {
      build := fun h w => .sCmpi h (fld w 30 4) (fD w) (fA w) (fX w), drov := true, rsv := fun _ => msk 37 34,
      val := fun _ w => if 11 < (fld w 30 4).toNat then some 0xA2 else none, rd := fun _ w => [rs (fA w)],
      wr := fun w => [rs (fD w)], asOk := fun _ => true }
  | 0x028 => some {
      build := fun h w => .sMovi h (fD w) (fld w 12 34), drov := true, wr := fun w => [rs (fD w)], asOk := fun _ => true }
  | 0x029 => some {
      build := fun h w => .sMovhi h (fD w) (fld w 12 30), drov := true, rsv := fun _ => msk 45 42,
      rd := fun _ w => [rs (fD w)], wr := fun w => [rs (fD w)], asOk := fun _ => true }
  | 0x02A => some {
      build := fun h w => .sAddpc h (fD w) (fX w), drov := true, rsv := fun _ => mA ||| mB, wr := fun w => [rs (fD w)],
      asOk := fun _ => true }
  | 0x040 => some {
      build := fun h w => .bra h (fX w), drov := true, rsv := fun _ => mD ||| mA ||| mB }
  | 0x041 => some {
      build := fun h w => .brS h (flag w 30) (fA w) (fX w), drov := true, rsv := fun _ => mD ||| msk 37 31,
      rd := fun _ w => [rs (fA w)] }
  | 0x042 => some {
      build := fun h w => .brAny h (flag w 42) (fld w 38 4) (fX w), rsv := fun _ => mD ||| msk 45 43 ||| mB,
      rd := fun _ w => [rm (fld w 38 4)] }
  | 0x043 => some {
      build := fun h w => .brAll h (flag w 42) (fld w 38 4) (fX w), rsv := fun _ => mD ||| msk 45 43 ||| mB,
      rd := fun _ w => [rm (fld w 38 4)] }
  | 0x044 => some {
      build := fun h w => .brDiv h (flag w 42) (fld w 38 4) (fD w ++ fB w) (fX w), rsv := fun _ => msk 45 43,
      rd := fun _ w => [rm (fld w 38 4)] }
  | 0x045 => some {
      build := fun h _ => .join h, rsv := fun _ => mDABX, g0 := true }
  | 0x046 => some {
      build := fun h w => .loop h (fD w) (fX w), drov := true, rsv := fun _ => mA ||| mB, rd := fun _ w => [rs (fD w)],
      wr := fun w => [rs (fD w)] }
  | 0x047 => some {
      build := fun h w => .call h (fA w) (fX w), drov := true, rsv := fun _ => mD ||| mB,
      val := fun c w => if (fA w).toNat % 8 != 0 || (c.drover && fA w != 0) then some 0xA2 else none }
  | 0x048 => some {
      build := fun h _ => .ret h, drov := true, rsv := fun _ => mDABX, g0 := true }
  | 0x049 => some {
      build := fun h w => .callT h (flag w 46) (fA w) (fB w), rsv := fun _ => msk 53 47 ||| mX,
      val := fun _ w => if (fB w).toNat % 8 != 0 then some 0xA2 else none,
      rd := fun _ w => [if flag w 46 then rs (fA w) else rv (fA w)] }
  | 0x04A => some {
      build := fun h w => .jmpT h (flag w 46) (fA w) (fX w), rsv := fun _ => msk 53 47 ||| mB,
      rd := fun _ w => [if flag w 46 then rs (fA w) else rv (fA w)] }
  | 0x04B => some {
      build := fun h _ => .exit h, rsv := fun _ => mDABX }
  | 0x04C => some {
      build := fun h w => .plane h (fD w) (fA w) (fld w 36 2) (fld w 12 24),
      val := fun _ w => if fld w 12 24 == 0 || (fld w 12 24).toNat ≤ (fD w).toNat then some 0xA2 else none,
      rd := fun _ w => [rv (fA w)] }
  | 0x04D => some {
      build := fun h w => .planeI h (fld w 40 6 ++ fD w) (fld w 38 2) (fld w 36 2) (fld w 12 24),
      val := fun _ w => if fld w 12 24 == 0 || (fld w 12 24).toNat ≤ (fld w 40 6 ++ fD w).toNat then some 0xA2 else none }
  | 0x04E => some {
      build := fun h _ => .allBegin h, rsv := fun _ => mDABX, g0 := true }
  | 0x04F => some {
      build := fun h _ => .allEnd h, rsv := fun _ => mDABX, g0 := true }
  | 0x050 => some {
      build := fun h _ => .barT h, rsv := fun _ => mDABX }
  | 0x051 => some {
      build := fun h _ => .barC h, rsv := fun _ => mDABX }
  | 0x053 => some {
      build := fun h _ => .yield h, rsv := fun _ => mDABX }
  | 0x052 => some {
      build := fun h w => .waitcnt h (flag w 28) (fld w 12 16), rsv := fun _ => mD ||| mA ||| mB,
      val := fun _ w => nz (fld w 29 1) }
  | 0x054 => some {
      build := fun h w => .launch h (fA w), rsv := fun _ => mD ||| mB ||| mX, rd := fun _ w => [rs (fA w)] }
  | 0x055 => some {
      build := fun h w => .chwait h (fA w), rsv := fun _ => mD ||| mB ||| mX, rd := fun _ w => [rs (fA w)] }
  | 0x056 => some {
      build := fun h _ => .nop h, drov := true, rsv := fun _ => mDABX }
  | 0x080 => some {
      build := fun h w => .vAdd h (flag w 13) (fD w) (fA w) (fB w), rsv := fun _ => msk 29 15, val := fun _ w => tyIn w 2,
      rd := fun _ w => [rv (fA w), rv (fB w)], wr := fun w => [rv (fD w)], asOk := fun _ => true }
  | 0x081 => some {
      build := fun h w => .vSub h (flag w 13) (fD w) (fA w) (fB w), rsv := fun _ => msk 29 15, val := fun _ w => tyIn w 2,
      rd := fun _ w => [rv (fA w), rv (fB w)], wr := fun w => [rv (fD w)], asOk := fun _ => true }
  | 0x082 => some {
      build := fun h w => .vMul h (flag w 13) (fD w) (fA w) (fB w), rsv := fun _ => msk 29 15, val := fun _ w => tyIn w 2,
      rd := fun _ w => [rv (fA w), rv (fB w)], wr := fun w => [rv (fD w)], asOk := fun _ => true }
  | 0x083 => some {
      build := fun h w => .vMulh h (fD w) (fA w) (fB w), rsv := fun _ => msk 29 15, val := fun _ w => tyIn w 0,
      rd := fun _ w => [rv (fA w), rv (fB w)], wr := fun w => [rv (fD w)], asOk := fun _ => true }
  | 0x084 => some {
      build := fun h w => .vMulhu h (fD w) (fA w) (fB w), rsv := fun _ => msk 29 15, val := fun _ w => tyIn w 0,
      rd := fun _ w => [rv (fA w), rv (fB w)], wr := fun w => [rv (fD w)], asOk := fun _ => true }
  | 0x086 => some {
      build := fun h w => .vAnd h (fD w) (fA w) (fB w), rsv := fun _ => msk 29 15, val := fun _ w => tyIn w 0,
      rd := fun _ w => [rv (fA w), rv (fB w)], wr := fun w => [rv (fD w)], asOk := fun _ => true }
  | 0x087 => some {
      build := fun h w => .vOr h (fD w) (fA w) (fB w), rsv := fun _ => msk 29 15, val := fun _ w => tyIn w 0,
      rd := fun _ w => [rv (fA w), rv (fB w)], wr := fun w => [rv (fD w)], asOk := fun _ => true }
  | 0x088 => some {
      build := fun h w => .vXor h (fD w) (fA w) (fB w), rsv := fun _ => msk 29 15, val := fun _ w => tyIn w 0,
      rd := fun _ w => [rv (fA w), rv (fB w)], wr := fun w => [rv (fD w)], asOk := fun _ => true }
  | 0x089 => some {
      build := fun h w => .vAndn h (fD w) (fA w) (fB w), rsv := fun _ => msk 29 15, val := fun _ w => tyIn w 0,
      rd := fun _ w => [rv (fA w), rv (fB w)], wr := fun w => [rv (fD w)], asOk := fun _ => true }
  | 0x08A => some {
      build := fun h w => .vShl h (flag w 13) (fD w) (fA w) (fB w), rsv := fun _ => msk 29 15, val := fun _ w => tyIn w 2,
      rd := fun _ w => [rv (fA w), rv (fB w)], wr := fun w => [rv (fD w)], asOk := fun _ => true }
  | 0x08B => some {
      build := fun h w => .vShr h (flag w 13) (fD w) (fA w) (fB w), rsv := fun _ => msk 29 15, val := fun _ w => tyIn w 2,
      rd := fun _ w => [rv (fA w), rv (fB w)], wr := fun w => [rv (fD w)], asOk := fun _ => true }
  | 0x08C => some {
      build := fun h w => .vSra h (flag w 13) (fD w) (fA w) (fB w), rsv := fun _ => msk 29 15, val := fun _ w => tyIn w 2,
      rd := fun _ w => [rv (fA w), rv (fB w)], wr := fun w => [rv (fD w)], asOk := fun _ => true }
  | 0x08D => some {
      build := fun h w => .vMin h (flag w 13) (fD w) (fA w) (fB w), rsv := fun _ => msk 29 15, val := fun _ w => tyIn w 2,
      rd := fun _ w => [rv (fA w), rv (fB w)], wr := fun w => [rv (fD w)], asOk := fun _ => true }
  | 0x08E => some {
      build := fun h w => .vMax h (flag w 13) (fD w) (fA w) (fB w), rsv := fun _ => msk 29 15, val := fun _ w => tyIn w 2,
      rd := fun _ w => [rv (fA w), rv (fB w)], wr := fun w => [rv (fD w)], asOk := fun _ => true }
  | 0x08F => some {
      build := fun h w => .vMinu h (flag w 13) (fD w) (fA w) (fB w), rsv := fun _ => msk 29 15, val := fun _ w => tyIn w 2,
      rd := fun _ w => [rv (fA w), rv (fB w)], wr := fun w => [rv (fD w)], asOk := fun _ => true }
  | 0x090 => some {
      build := fun h w => .vMaxu h (flag w 13) (fD w) (fA w) (fB w), rsv := fun _ => msk 29 15, val := fun _ w => tyIn w 2,
      rd := fun _ w => [rv (fA w), rv (fB w)], wr := fun w => [rv (fD w)], asOk := fun _ => true }
  | 0x085 => some {
      build := fun h w => .vMad h (fD w) (fA w) (fB w) (fC w), rsv := fun _ => msk 21 15, val := fun _ w => tyIn w 0,
      rd := fun _ w => [rv (fA w), rv (fB w), rv (fC w)], wr := fun w => [rv (fD w)], asOk := fun _ => true }
  | 0x091 => some {
      build := fun h w => .vAbs h (flag w 13) (fD w) (fA w), rsv := fun _ => mB ||| msk 29 15, val := fun _ w => tyIn w 2,
      rd := fun _ w => [rv (fA w)], wr := fun w => [rv (fD w)], asOk := fun _ => true }
  | 0x092 => some {
      build := fun h w => .vClz h (fD w) (fA w), rsv := fun _ => mB ||| msk 29 15, val := fun _ w => tyIn w 0,
      rd := fun _ w => [rv (fA w)], wr := fun w => [rv (fD w)], asOk := fun _ => true }
  | 0x093 => some {
      build := fun h w => .vPopc h (fD w) (fA w), rsv := fun _ => mB ||| msk 29 15, val := fun _ w => tyIn w 0,
      rd := fun _ w => [rv (fA w)], wr := fun w => [rv (fD w)], asOk := fun _ => true }
  | 0x09B => some {
      build := fun h w => .vMov h (fD w) (fA w), rsv := fun _ => mB ||| msk 29 15, val := fun _ w => tyIn w 0,
      rd := fun _ w => [rv (fA w)], wr := fun w => [rv (fD w)], asOk := fun _ => true }
  | 0x094 => some {
      build := fun h w => .vBfx h (flag w 17) (fld w 24 6) (fld w 18 6) (fD w) (fA w), rsv := fun _ => mB ||| msk 16 12,
      val := fun _ w => if 32 < (fld w 24 6).toNat + (fld w 18 6).toNat + 1 then some 0xA2 else none,
      rd := fun _ w => [rv (fA w)], wr := fun w => [rv (fD w)], asOk := fun _ => true }
  | 0x095 => some {
      build := fun h w => .vBfi h (fld w 24 6) (fld w 18 6) (fD w) (fA w), rsv := fun _ => mB ||| msk 17 12,
      val := fun _ w => if 32 < (fld w 24 6).toNat + (fld w 18 6).toNat + 1 then some 0xA2 else none,
      rd := fun _ w => [rv (fA w), rv (fD w)], wr := fun w => [rv (fD w)], asOk := fun _ => true }
  | 0x096 => some {
      build := fun h w => .vAddsat h (flag w 13) (flag w 12) (fD w) (fA w) (fB w), rsv := fun _ => msk 29 15,
      val := fun _ w => tyIn w 3, rd := fun _ w => [rv (fA w), rv (fB w)], wr := fun w => [rv (fD w)],
      asOk := fun _ => true }
  | 0x097 => some {
      build := fun h w => .vSubsat h (flag w 13) (flag w 12) (fD w) (fA w) (fB w), rsv := fun _ => msk 29 15,
      val := fun _ w => tyIn w 3, rd := fun _ w => [rv (fA w), rv (fB w)], wr := fun w => [rv (fD w)],
      asOk := fun _ => true }
  | 0x098 => some {
      build := fun h w => .vDot4 h (flag w 12) (flag w 13) (fD w) (fA w) (fB w) (fC w), rsv := fun _ => msk 21 15,
      val := fun _ w => tyIn w 3, rd := fun _ w => [rv (fA w), rv (fB w), rv (fC w)], wr := fun w => [rv (fD w)],
      asOk := fun _ => true }
  | 0x099 => some {
      build := fun h w => .vCmp h (fld w 22 4) (fld w 46 4) (fA w) (fB w), rsv := fun _ => msk 29 26 ||| msk 21 15,
      val := fun _ w => if fTy w != 0 || 11 < (fld w 22 4).toNat then some 0xA2 else none,
      rd := fun _ w => [rv (fA w), rv (fB w)], wr := fun w => [rm (fD w)], asOk := fun _ => true }
  | 0x09A => some {
      build := fun h w => .vSel h (fD w) (fA w) (fB w) (fld w 22 4), rsv := fun _ => msk 29 26 ||| msk 21 15,
      val := fun _ w => tyIn w 0, rd := fun _ w => [rv (fA w), rv (fB w), rm (fld w 22 4)], wr := fun w => [rv (fD w)],
      asOk := fun _ => true }
  | 0x09C => some {
      build := fun h w => .vMovs h (fD w) (fA w), rsv := fun _ => mB ||| mX, rd := fun _ w => [rs (fA w)],
      wr := fun w => [rv (fD w)], asOk := fun _ => true }
  | 0x0A0 => some {
      build := fun h w => .vAddi h (fD w) (fA w) (fX w), rsv := fun _ => mB, rd := fun _ w => [rv (fA w)],
      wr := fun w => [rv (fD w)], asOk := fun _ => true }
  | 0x0A1 => some {
      build := fun h w => .vAndi h (fD w) (fA w) (fX w), rsv := fun _ => mB, rd := fun _ w => [rv (fA w)],
      wr := fun w => [rv (fD w)], asOk := fun _ => true }
  | 0x0A2 => some {
      build := fun h w => .vShli h (fD w) (fA w) (fld w 12 6), rsv := fun _ => mB ||| msk 29 18,
      rd := fun _ w => [rv (fA w)], wr := fun w => [rv (fD w)], asOk := fun _ => true }
  | 0x0A3 => some {
      build := fun h w => .vShri h (fD w) (fA w) (fld w 12 6), rsv := fun _ => mB ||| msk 29 18,
      rd := fun _ w => [rv (fA w)], wr := fun w => [rv (fD w)], asOk := fun _ => true }
  | 0x0A4 => some {
      build := fun h w => .vSrai h (fD w) (fA w) (fld w 12 6), rsv := fun _ => mB ||| msk 29 18,
      rd := fun _ w => [rv (fA w)], wr := fun w => [rv (fD w)], asOk := fun _ => true }
  | 0x0A5 => some {
      build := fun h w => .vMovi h (fD w) (fld w 12 34), wr := fun w => [rv (fD w)], asOk := fun _ => true }
  | 0x0C0 => some {
      build := fun h w => .fAdd h (fmodOf w) (fD w) (fA w) (fB w), rsv := fun _ => msk 29 22 ||| msk 17 17,
      val := fun _ w => tyIn w 0, rd := fun _ w => [rv (fA w), rv (fB w)], wr := fun w => [rv (fD w)] }
  | 0x0C1 => some {
      build := fun h w => .fSub h (fmodOf w) (fD w) (fA w) (fB w), rsv := fun _ => msk 29 22 ||| msk 17 17,
      val := fun _ w => tyIn w 0, rd := fun _ w => [rv (fA w), rv (fB w)], wr := fun w => [rv (fD w)] }
  | 0x0C2 => some {
      build := fun h w => .fMul h (fmodOf w) (fD w) (fA w) (fB w), rsv := fun _ => msk 29 22 ||| msk 17 17,
      val := fun _ w => tyIn w 0, rd := fun _ w => [rv (fA w), rv (fB w)], wr := fun w => [rv (fD w)] }
  | 0x0C8 => some {
      build := fun h w => .fDiv h (fmodOf w) (fD w) (fA w) (fB w), rsv := fun _ => msk 29 22 ||| msk 17 17,
      val := fun _ w => tyIn w 0, rd := fun _ w => [rv (fA w), rv (fB w)], wr := fun w => [rv (fD w)],
      look := fun _ => true }
  | 0x0C3 => some {
      build := fun h w => .fFma h (fmodOf w) (fD w) (fA w) (fB w) (fC w), val := fun _ w => tyIn w 0,
      rd := fun _ w => [rv (fA w), rv (fB w), rv (fC w)], wr := fun w => [rv (fD w)] }
  | 0x0C4 => some {
      build := fun h w => .fMin h (fmodOf w) (fD w) (fA w) (fB w), rsv := fun _ => msk 29 20 ||| msk 17 17,
      val := fun _ w => tyIn w 0, rd := fun _ w => [rv (fA w), rv (fB w)], wr := fun w => [rv (fD w)] }
  | 0x0C5 => some {
      build := fun h w => .fMax h (fmodOf w) (fD w) (fA w) (fB w), rsv := fun _ => msk 29 20 ||| msk 17 17,
      val := fun _ w => tyIn w 0, rd := fun _ w => [rv (fA w), rv (fB w)], wr := fun w => [rv (fD w)] }
  | 0x0C6 => some {
      build := fun h w => .fCmp h (fmodOf w) (fld w 22 3) (fld w 46 4) (fA w) (fB w),
      rsv := fun _ => msk 29 26 ||| msk 21 20 ||| msk 17 17,
      val := fun _ w => if fTy w != 0 || flag w 25 then some 0xA2 else none, rd := fun _ w => [rv (fA w), rv (fB w)],
      wr := fun w => [rm (fD w)] }
  | 0x0C7 => some {
      build := fun h w => .fClass h (fD w) (fA w), rsv := fun _ => mB ||| mX, rd := fun _ w => [rv (fA w)],
      wr := fun w => [rv (fD w)] }
  | 0x0C9 => some {
      build := fun h w => .fSqrt h (fmodOf w) (fD w) (fA w), rsv := fun _ => mB ||| msk 29 22 ||| msk 18 17 ||| msk 15 15,
      val := fun _ w => tyIn w 0, rd := fun _ w => [rv (fA w)], wr := fun w => [rv (fD w)], look := fun _ => true }
  | 0x0D1 => some {
      build := fun h w => .fRnd h (fmodOf w) (fD w) (fA w), rsv := fun _ => mB ||| msk 29 22 ||| msk 18 17 ||| msk 15 15,
      val := fun _ w => tyIn w 0, rd := fun _ w => [rv (fA w)], wr := fun w => [rv (fD w)] }
  | 0x0CA => some {
      build := fun h w => .fRcp h (fmodOf w) (fD w) (fA w), rsv := fun _ => mB ||| msk 29 20 ||| msk 18 17 ||| msk 15 15,
      val := fun _ w => tyIn w 0, rd := fun _ w => [rv (fA w)], wr := fun w => [rv (fD w)], look := fun _ => true }
  | 0x0CB => some {
      build := fun h w => .fRsq h (fmodOf w) (fD w) (fA w), rsv := fun _ => mB ||| msk 29 20 ||| msk 18 17 ||| msk 15 15,
      val := fun _ w => tyIn w 0, rd := fun _ w => [rv (fA w)], wr := fun w => [rv (fD w)], look := fun _ => true }
  | 0x0CC => some {
      build := fun h w => .fExp2 h (fmodOf w) (fD w) (fA w), rsv := fun _ => mB ||| msk 29 20 ||| msk 18 17 ||| msk 15 15,
      val := fun _ w => tyIn w 0, rd := fun _ w => [rv (fA w)], wr := fun w => [rv (fD w)], look := fun _ => true }
  | 0x0CD => some {
      build := fun h w => .fLog2 h (fmodOf w) (fD w) (fA w), rsv := fun _ => mB ||| msk 29 20 ||| msk 18 17 ||| msk 15 15,
      val := fun _ w => tyIn w 0, rd := fun _ w => [rv (fA w)], wr := fun w => [rv (fD w)], look := fun _ => true }
  | 0x0CE => some {
      build := fun h w => .fSinpi h (fmodOf w) (fD w) (fA w), rsv := fun _ => mB ||| msk 29 20 ||| msk 18 17 ||| msk 15 15,
      val := fun _ w => tyIn w 0, rd := fun _ w => [rv (fA w)], wr := fun w => [rv (fD w)], look := fun _ => true }
  | 0x0CF => some {
      build := fun h w => .fCospi h (fmodOf w) (fD w) (fA w), rsv := fun _ => mB ||| msk 29 20 ||| msk 18 17 ||| msk 15 15,
      val := fun _ w => tyIn w 0, rd := fun _ w => [rv (fA w)], wr := fun w => [rv (fD w)], look := fun _ => true }
  | 0x0D0 => some {
      build := fun h w => .fTanh h (fmodOf w) (fD w) (fA w), rsv := fun _ => mB ||| msk 29 20 ||| msk 18 17 ||| msk 15 15,
      val := fun _ w => tyIn w 0, rd := fun _ w => [rv (fA w)], wr := fun w => [rv (fD w)], look := fun _ => true }
  | 0x0D2 => some {
      build := fun h w => .fCvt h (fld w 24 6) (fld w 18 6) (fld w 15 3) (flag w 14) (fld w 30 3) (fld w 33 5) (fD w) (fA w),
      rsv := fun w => msk 13 12 ||| (if fld w 15 3 == 5 then 0 else msk 37 33),
      val := fun _ w => if !isLaneDst (fld w 24 6) || !isLaneSrc (fld w 18 6) || 5 < (fld w 15 3).toNat || 32 / fmtWidth (fld w 18 6) ≤ (fld w 30 3).toNat then some 0xA2 else none,
      rd := fun _ w => rv (fA w) :: srRegs (fld w 15 3) (fld w 33 5), wr := fun w => [rv (fD w)] }
  | 0x0D3 => some {
      build := fun h w => if flag w 23 then .fCvtiToFloat h (fld w 24 6) (fld w 16 7) (fld w 14 2) (fD w) (fA w) else .fCvtiToInt h (fld w 24 6) (fld w 16 7) (fld w 14 2) (fD w) (fA w),
      rsv := fun _ => mB ||| msk 13 12, val := fun _ w => if isIntFmt (fld w 24 6) then none else some 0xA2,
      rd := fun _ w => [rv (fA w)], wr := fun w => [rv (fD w)] }
  | 0x0D4 => some {
      build := fun h w => .fPack h (fld w 24 6) (fld w 21 3) (flag w 20) (fld w 18 2) (fld w 13 5) (fD w) (fA w) (fB w),
      rsv := fun w => msk 12 12 ||| (if fld w 21 3 == 5 then 0 else msk 17 13),
      val := fun _ w => if !isLaneDst (fld w 24 6) || 16 < fmtWidth (fld w 24 6) || 5 < (fld w 21 3).toNat || 32 / fmtWidth (fld w 24 6) ≤ 2 * (fld w 18 2).toNat + 1 then some 0xA2 else none,
      rd := fun _ w => [rv (fA w), rv (fB w), rv (fD w)] ++ srRegs (fld w 21 3) (fld w 13 5), wr := fun w => [rv (fD w)] }
  | 0x0D5 => some {
      build := fun h w => .fUnpk h (fld w 24 6) (fld w 22 2) (fD w) (fA w), rsv := fun _ => mB ||| msk 21 12,
      val := fun _ w => if !isLaneSrc (fld w 24 6) || 16 < fmtWidth (fld w 24 6) || 32 / fmtWidth (fld w 24 6) ≤ 2 * (fld w 22 2).toNat + 1 then some 0xA2 else none,
      rd := fun _ w => [rv (fA w)], wr := fun w => vs (fD w) 2, al := fun w => (fD w).toNat % 2 == 0 }
  | 0x0D6 => some {
      build := fun h w => .hAdd h (flag w 12) (fmodOf w) (fD w) (fA w) (fB w), rsv := fun _ => msk 29 22 ||| msk 17 17,
      val := fun _ w => if 2 ≤ (fTy w).toNat then some 0xA2 else none, rd := fun _ w => [rv (fA w), rv (fB w)],
      wr := fun w => [rv (fD w)] }
  | 0x0D7 => some {
      build := fun h w => .hMul h (flag w 12) (fmodOf w) (fD w) (fA w) (fB w), rsv := fun _ => msk 29 22 ||| msk 17 17,
      val := fun _ w => if 2 ≤ (fTy w).toNat then some 0xA2 else none, rd := fun _ w => [rv (fA w), rv (fB w)],
      wr := fun w => [rv (fD w)] }
  | 0x0D8 => some {
      build := fun h w => .hFma h (flag w 12) (fmodOf w) (fD w) (fA w) (fB w) (fC w),
      val := fun _ w => if 2 ≤ (fTy w).toNat then some 0xA2 else none,
      rd := fun _ w => [rv (fA w), rv (fB w), rv (fC w)], wr := fun w => [rv (fD w)] }
  | 0x0D9 => some {
      build := fun h w => .fScale h (fmodOf w) (fD w) (fA w) (fB w), rsv := fun _ => msk 29 22 ||| msk 18 17 ||| msk 15 15,
      val := fun _ w => tyIn w 0, rd := fun _ w => [rv (fA w), rv (fB w)], wr := fun w => [rv (fD w)] }
  | 0x0DA => some {
      build := fun h w => .fDeq h (fld w 24 6) (fld w 18 6) (fld w 15 3) (fld w 13 2) (fD w) (fA w) (fB w),
      rsv := fun _ => msk 12 12,
      val := fun _ w => if !isDeqFmt (fld w 24 6) || !isScaleFmt (fld w 18 6) || 32 / fmtWidth (fld w 24 6) ≤ (fld w 15 3).toNat then some 0xA2 else none,
      rd := fun _ w => [rv (fA w), rv (fB w)], wr := fun w => [rv (fD w)] }
  | 0x100 => some {
      build := fun h w => .laneid h (fD w), rsv := fun _ => mA ||| mB ||| mX, wr := fun w => [rv (fD w)],
      asOk := fun _ => true }
  | 0x101 => some {
      build := fun h w => .shflIdx h (fld w 18 3) (fD w) (fA w) (fB w), rsv := fun _ => msk 29 21 ||| msk 17 12,
      val := fun c w => if c.seg (fld w 18 3) then none else some 0xA2, rd := fun _ w => [rv (fA w), rv (fB w)],
      wr := fun w => [rv (fD w)], look := fun _ => true }
  | 0x102 => some {
      build := fun h w => .shflUp h (fld w 18 3) (fld w 12 6) (fD w) (fA w), rsv := fun _ => mB ||| msk 29 21,
      val := fun c w => if c.seg (fld w 18 3) then none else some 0xA2, rd := fun _ w => [rv (fA w)],
      wr := fun w => [rv (fD w)], look := fun _ => true }
  | 0x103 => some {
      build := fun h w => .shflDn h (fld w 18 3) (fld w 12 6) (fD w) (fA w), rsv := fun _ => mB ||| msk 29 21,
      val := fun c w => if c.seg (fld w 18 3) then none else some 0xA2, rd := fun _ w => [rv (fA w)],
      wr := fun w => [rv (fD w)], look := fun _ => true }
  | 0x104 => some {
      build := fun h w => .shflXor h (fld w 18 3) (fld w 12 6) (fD w) (fA w), rsv := fun _ => mB ||| msk 29 21,
      val := fun c w => if c.seg (fld w 18 3) && (fld w 12 6).toNat < c.segLanes (fld w 18 3) then none else some 0xA2,
      rd := fun _ w => [rv (fA w)], wr := fun w => [rv (fD w)], look := fun _ => true }
  | 0x105 => some {
      build := fun h w => .voteAny h (flag w 42) (fld w 46 4) (fld w 38 4), rsv := fun _ => msk 45 43 ||| mB ||| mX,
      rd := fun _ w => [rm (fld w 38 4)], wr := fun w => [rm (fD w)] }
  | 0x106 => some {
      build := fun h w => .voteAll h (flag w 42) (fld w 46 4) (fld w 38 4), rsv := fun _ => msk 45 43 ||| mB ||| mX,
      rd := fun _ w => [rm (fld w 38 4)], wr := fun w => [rm (fD w)] }
  | 0x107 => some {
      build := fun h w => .ballot h (fD w) (fA w), rsv := fun _ => mB ||| mX, rd := fun _ w => [rv (fA w)],
      wr := fun w => [rs (fD w)] }
  | 0x108 => some {
      build := fun h w => .rdxAdd h (fld w 12 2) (fD w) (fA w), rsv := fun _ => mB ||| msk 29 15,
      val := fun _ w => if 2 < (fTy w).toNat then some 0xA2 else none, rd := fun _ w => [rv (fA w)],
      wr := fun w => [rs (fD w)], look := fun _ => true }
  | 0x109 => some {
      build := fun h w => .rdxMin h (fld w 12 2) (fD w) (fA w), rsv := fun _ => mB ||| msk 29 15,
      val := fun _ w => if 2 < (fTy w).toNat then some 0xA2 else none, rd := fun _ w => [rv (fA w)],
      wr := fun w => [rs (fD w)], look := fun _ => true }
  | 0x10A => some {
      build := fun h w => .rdxMax h (fld w 12 2) (fD w) (fA w), rsv := fun _ => mB ||| msk 29 15,
      val := fun _ w => if 2 < (fTy w).toNat then some 0xA2 else none, rd := fun _ w => [rv (fA w)],
      wr := fun w => [rs (fD w)], look := fun _ => true }
  | 0x10B => some {
      build := fun h w => .scanAdd h (flag w 15) (flag w 13) (fD w) (fA w), rsv := fun _ => mB ||| msk 29 16,
      val := fun _ w => tyIn w 2, rd := fun _ w => [rv (fA w)], wr := fun w => [rv (fD w)], look := fun _ => true }
  | 0x10C => some {
      build := fun h w => .v2s h (flag w 18) (fld w 12 6) (fD w) (fA w), rsv := fun _ => mB ||| msk 29 19,
      val := fun c w => if (fld w 12 6).toNat < c.width then none else some 0xA2, rd := fun _ w => [rv (fA w)],
      wr := fun w => [rs (fD w)] }
  | 0x10D => some {
      build := fun h w => .s2l h (fld w 12 6) (fD w) (fA w), rsv := fun _ => mB ||| msk 29 18,
      val := fun c w => if (fld w 12 6).toNat < c.width then none else some 0xA2, rd := fun _ w => [rs (fA w)],
      wr := fun w => [rv (fD w)] }
  | 0x10E => some {
      build := fun h w => .mAnd h (fld w 46 4) (fld w 38 4) (fld w 30 4), rsv := fun _ => mX,
      rd := fun _ w => [rm (fA w), rm (fB w)], wr := fun w => [rm (fD w)] }
  | 0x10F => some {
      build := fun h w => .mOr h (fld w 46 4) (fld w 38 4) (fld w 30 4), rsv := fun _ => mX,
      rd := fun _ w => [rm (fA w), rm (fB w)], wr := fun w => [rm (fD w)] }
  | 0x110 => some {
      build := fun h w => .mXor h (fld w 46 4) (fld w 38 4) (fld w 30 4), rsv := fun _ => mX,
      rd := fun _ w => [rm (fA w), rm (fB w)], wr := fun w => [rm (fD w)] }
  | 0x111 => some {
      build := fun h w => .mNot h (fld w 46 4) (fld w 38 4), rsv := fun _ => mB ||| mX, rd := fun _ w => [rm (fA w)],
      wr := fun w => [rm (fD w)] }
  | 0x112 => some {
      build := fun h w => .mMov h (fld w 46 4) (fld w 38 4), rsv := fun _ => mB ||| mX, rd := fun _ w => [rm (fA w)],
      wr := fun w => [rm (fD w)] }
  | 0x113 => some {
      build := fun h w => .mPopc h (fD w) (fld w 38 4), rsv := fun _ => mB ||| mX, rd := fun _ w => [rm (fA w)],
      wr := fun w => [rs (fD w)] }
  | 0x114 => some {
      build := fun h w => .mFfs h (fD w) (fld w 38 4), rsv := fun _ => mB ||| mX, rd := fun _ w => [rm (fA w)],
      wr := fun w => [rs (fD w)] }
  | 0x116 => some {
      build := fun h w => .mTos h (fD w) (fld w 38 4), rsv := fun _ => mB ||| mX, rd := fun _ w => [rm (fA w)],
      wr := fun w => [rs (fD w)] }
  | 0x115 => some {
      build := fun h w => .mFroms h (fld w 46 4) (fA w), rsv := fun _ => mB ||| mX, rd := fun _ w => [rs (fA w)],
      wr := fun w => [rm (fD w)] }
  | 0x117 => some {
      build := fun h w => .mGetx h (fD w), rsv := fun _ => mA ||| mB ||| mX, wr := fun w => [rs (fD w)] }
  | 0x118 => some {
      build := fun h w => .mSetx h (fA w), rsv := fun _ => mD ||| mB ||| mX, rd := fun _ w => [rs (fA w)] }
  | 0x140 => some {
      build := fun h w => .ld h (memxOf w) (fD w) (fA w) (fB w), rsv := fun _ => msk 15 12,
      val := fun _ w => if !(memxOf w).ok 3 || (flag w 17 && 2 ≤ (fSize w).toNat) then some 0xA2 else none,
      rd := fun _ w => [rs (fA w), rv (fB w)], wr := fun w => vs (fD w) (szRegs w), al := fun w => pairOk w,
      look := fun _ => true, asOk := fun w => fld w 23 2 == 0 }
  | 0x141 => some {
      build := fun h w => .st h (memxOf w) (fD w) (fA w) (fB w), rsv := fun _ => msk 15 12 ||| msk 17 17,
      val := fun _ w => if !(memxOf w).ok 5 then some 0xA2 else none,
      rd := fun _ w => [rs (fA w), rv (fB w)] ++ vs (fD w) (szRegs w), al := fun w => pairOk w }
  | 0x142 => some {
      build := fun h w => .ldS h (memxOf w) (fD w) (fA w) (fB w), drov := true, rsv := fun _ => msk 15 12,
      val := fun _ w => if !(memxOf w).ok 3 || (flag w 17 && fSize w == 3) then some 0xA2 else none,
      rd := fun _ w => rs (fA w) :: sOff (fB w), wr := fun w => [rs (fD w)], look := fun _ => true,
      asOk := fun w => fld w 23 2 == 0 }
  | 0x143 => some {
      build := fun h w => .stS h (memxOf w) (fD w) (fA w) (fB w), drov := true, rsv := fun _ => msk 15 12 ||| msk 17 17,
      val := fun _ w => if !(memxOf w).ok 5 then some 0xA2 else none,
      rd := fun _ w => rs (fD w) :: rs (fA w) :: sOff (fB w) }
  | 0x144 => some {
      build := fun h w => .ldg h (memxOf w) (fD w) (fA w), rsv := fun _ => mB ||| msk 15 12,
      val := fun _ w => if !(memxOf w).ok 3 || fld w 18 2 != 0 || (flag w 17 && fSize w == 3) then some 0xA2 else none,
      rd := fun _ w => vs (fA w) 2, wr := fun w => vs (fD w) (szRegs w),
      al := fun w => pairOk w && (fA w).toNat % 2 == 0, look := fun _ => true, asOk := fun w => fld w 23 2 == 0 }
  | 0x145 => some {
      build := fun h w => .stg h (memxOf w) (fD w) (fA w), rsv := fun _ => mB ||| msk 15 12 ||| msk 17 17,
      val := fun _ w => if !(memxOf w).ok 5 || fld w 18 2 != 0 then some 0xA2 else none,
      rd := fun _ w => vs (fA w) 2 ++ vs (fD w) (szRegs w), al := fun w => pairOk w && (fA w).toNat % 2 == 0 }
  | 0x146 => some {
      build := fun h w => .atom h (memxOf w) (fld w 12 4) (fD w) (fA w) (fB w),
      val := fun _ w => if !(memxOf w).ok 15 || !aopOk false (fld w 12 4) (fSize w) then some 0xA2 else none,
      rd := fun _ w => [rs (fA w), rv (fB w)] ++ vs (fD w) (casRegs w), wr := fun w => vs (fD w) (szRegs w),
      al := fun w => atomRegOk false (fld w 12 4) (fSize w) (fD w), look := fun _ => true }
  | 0x147 => some {
      build := fun h w => .atomS h (memxOf w) (fld w 12 4) (fD w) (fA w) (fB w), drov := true,
      val := fun _ w => if !(memxOf w).ok 15 || !aopOk false (fld w 12 4) (fSize w) then some 0xA2 else none,
      rd := fun _ w => rs (fA w) :: sOff (fB w) ++ ss (fD w) (if fld w 12 4 == 9 then 2 else 1),
      wr := fun w => [rs (fD w)], al := fun w => atomRegOk true (fld w 12 4) (fSize w) (fD w), look := fun _ => true }
  | 0x148 => some {
      build := fun h w => .rstore h (memxOf w) (fld w 12 4) (fD w) (fA w) (fB w),
      val := fun _ w => if !(memxOf w).ok 5 || !aopOk true (fld w 12 4) (fSize w) then some 0xA2 else none,
      rd := fun _ w => [rs (fA w), rv (fB w)] ++ vs (fD w) (szRegs w), al := fun w => pairOk w }
  | 0x149 => some {
      build := fun h w => .fence h (fld w 23 2) (fld w 20 3), drov := true,
      rsv := fun _ => mD ||| mA ||| mB ||| msk 29 25 ||| msk 19 12,
      val := fun _ w => if fld w 23 2 == 0 || 6 ≤ (fld w 20 3).toNat then some 0xA2 else none }
  | 0x14A => some {
      build := fun h w => if flag w 29 then .cinvAll h else .cinvRange h (fA w) (fB w),
      rsv := fun w => mD ||| msk 28 12 ||| (if flag w 29 then mA ||| mB else 0),
      rd := fun _ w => if flag w 29 then [] else [rs (fA w), rs (fB w)] }
  | 0x14B => some {
      build := fun h w => .pref h (fSize w) (fld w 18 2) (flag w 16) (fA w) (fB w),
      rsv := fun _ => mD ||| msk 22 20 ||| sxAop,
      val := fun _ w => if fld w 27 3 != 0 || fld w 23 2 != 0 then some 0xA2 else none,
      rd := fun _ w => [rs (fA w), rv (fB w)], asOk := fun _ => true }
  | 0x180 => some {
      build := fun h w => .kset h (fld w 27 3) (fld w 46 4) (fA w), drov := true, rsv := fun _ => mB ||| msk 26 12,
      val := fun _ w => if fld w 27 3 == 0 || fld w 27 3 == 1 || fld w 27 3 == 3 then none else some 0xA2,
      rd := fun _ w => [rs (fA w)], wr := fun w => [rk (fD w)], asOk := fun _ => true }
  | 0x181 => some {
      build := fun h w => .kmod h (fld w 12 3) (fld w 46 4) (fA w), drov := true, rsv := fun _ => mB ||| msk 29 15,
      rd := fun _ w => [rk (fD w), rs (fA w)], wr := fun w => [rk (fD w)], asOk := fun _ => true }
  | 0x182 => some {
      build := fun h w => .boxLd h (flag w 29) (fld w 22 7) (fld w 19 3) (fD w) (fld w 38 4) (fB w),
      rsv := fun w => msk 45 42 ||| msk 18 12 ||| (if flag w 29 then 0 else msk 28 22),
      val := fun _ w => sc6 (fld w 19 3),
      rd := fun _ w => [rk (fld w 38 4), rs (fD w)] ++ ss (fB w) 3 ++ (if flag w 29 then [rs (0#1 ++ fld w 22 7)] else []) }
  | 0x183 => some {
      build := fun h w => .boxSt h (fld w 27 2) (fld w 24 3) (fD w) (fld w 38 4) (fB w), rsv := fun _ => msk 23 12,
      val := fun _ w => if flag w 29 || 6 ≤ (fld w 24 3).toNat then some 0xA2 else none,
      rd := fun _ w => [rk (fA w), rs (fD w)] ++ ss (fB w) 3 }
  | 0x184 => some {
      build := fun h w => .boxCp h (fld w 26 4) (fld w 23 2) (fld w 20 3) (fD w) (fld w 38 4) (fB w),
      rsv := fun _ => msk 19 12, val := fun _ w => if flag w 25 || 6 ≤ (fld w 20 3).toNat then some 0xA2 else none,
      rd := fun _ w => [rk (fA w), rk (fld w 26 4)] ++ ss (fB w) 3 ++ ss (fD w) 3 }
  | 0x185 => some {
      build := fun h _ => .cpfence h, rsv := fun _ => mDABX }
  | 0x186 => some {
      build := fun h w => .cpwait h (fld w 20 3) (flag w 19) (fA w),
      rsv := fun w => mD ||| mB ||| msk 29 23 ||| msk 18 12 ||| (if flag w 19 then mA else 0),
      val := fun _ w => sc6 (fld w 20 3), rd := fun _ w => if flag w 19 then [] else [rs (fA w)] }
  | 0x18C => some {
      build := fun h w => .mwait h (fld w 20 3) (flag w 19) (fA w),
      rsv := fun w => mD ||| mB ||| msk 29 23 ||| msk 18 12 ||| (if flag w 19 then mA else 0),
      val := fun _ w => sc6 (fld w 20 3), rd := fun _ w => if flag w 19 then [] else [rs (fA w)] }
  | 0x187 => some {
      build := fun h w => .mldN h (fld w 27 3) (fld w 46 2) (fA w) (fB w) (fld w 19 8),
      rsv := fun _ => msk 53 48 ||| msk 18 12, val := fun _ w => sc6 (fld w 27 3),
      rd := fun _ w => [rw (fld w 46 2), rs (fA w), rs (fB w), rs (fld w 19 8)] }
  | 0x188 => some {
      build := fun h w => .mldW h (fld w 27 3) (fld w 46 2) (fA w) (fB w), rsv := fun _ => msk 53 48 ||| msk 26 12,
      val := fun _ w => sc6 (fld w 27 3), rd := fun _ w => [rw (fld w 46 2), rs (fA w), rs (fB w)] }
  | 0x189 => some {
      build := fun h w => .mma h (fld w 27 3) (fld w 22 5) (fld w 15 7) (fld w 13 2) (flag w 12) (fld w 46 4) (fA w) (fB w),
      rsv := fun _ => msk 53 50,
      val := fun _ w => if 6 ≤ (fld w 27 3).toNat || 128 < (fld w 15 7).toNat + (fld w 22 5).toNat + 1 then some 0xA2 else none,
      rd := fun c w => [rt (fld w 46 4), rw (fld w 13 2), rs (fB w)] ++ vs (fA w) (((fld w 22 5).toNat + 1) * (64 / c.width)) }
  | 0x18A => some {
      build := fun h w => .mmaz h (fld w 27 3) (fld w 22 5) (fld w 15 7) (fld w 13 2) (flag w 12) (fld w 46 4) (fA w) (fB w),
      rsv := fun _ => msk 53 50,
      val := fun _ w => if 6 ≤ (fld w 27 3).toNat || 128 < (fld w 15 7).toNat + (fld w 22 5).toNat + 1 then some 0xA2 else none,
      rd := fun c w => [rt (fld w 46 4), rw (fld w 13 2), rs (fB w)] ++ vs (fA w) (((fld w 22 5).toNat + 1) * (64 / c.width)) }
  | 0x18B => some {
      build := fun h _ => .mfence h, rsv := fun _ => mDABX }
  | 0x18D => some {
      build := fun h w => .epi h (fld w 27 3) (fld w 20 7) (fld w 13 7) (fld w 46 4) (fA w) (fB w),
      rsv := fun _ => msk 53 50 ||| msk 12 12,
      val := fun _ w => if 6 ≤ (fld w 27 3).toNat || 128 < (fld w 20 7).toNat + (fld w 13 7).toNat + 1 then some 0xA2 else none,
      rd := fun _ w => [rt (fld w 46 4), rs (fA w), rs (fB w)] }
  | 0x18E => some {
      build := fun h w => .epiRs h (fld w 27 3) (fld w 20 7) (fld w 13 7) (fld w 46 4) (fA w) (fB w),
      rsv := fun _ => msk 53 50 ||| msk 12 12,
      val := fun _ w => if 6 ≤ (fld w 27 3).toNat || 128 < (fld w 20 7).toNat + (fld w 13 7).toNat + 1 then some 0xA2 else none,
      rd := fun _ w => [rt (fld w 46 4), rs (fA w), rs (fB w)] }
  | 0x18F => some {
      build := fun h w => .cbarInit h (fld w 27 3) (fld w 20 3) (fA w) (fB w),
      rsv := fun _ => mD ||| msk 26 25 ||| msk 19 12,
      val := fun _ w => if !(fld w 27 3 == 1 || fld w 27 3 == 2) || 6 ≤ (fld w 20 3).toNat || fld w 23 2 != 0 then some 0xA2 else none,
      rd := fun _ w => [rs (fA w), rs (fB w)] }
  | 0x190 => some {
      build := fun h w => .cbarArr h (fld w 27 3) (flag w 24) (fld w 20 3) (fD w) (fA w) (fB w),
      rsv := fun _ => msk 26 25 ||| msk 19 12,
      val := fun _ w => if !(fld w 27 3 == 1 || fld w 27 3 == 2) || 6 ≤ (fld w 20 3).toNat || flag w 23 then some 0xA2 else none,
      rd := fun _ w => [rs (fA w), rs (fB w)], wr := fun w => [rs (fD w)] }
  | 0x191 => some {
      build := fun h w => .cbarWait h (fld w 27 3) (flag w 23) (fld w 20 3) (fA w) (fB w),
      rsv := fun _ => mD ||| msk 26 25 ||| msk 19 12,
      val := fun _ w => if !(fld w 27 3 == 1 || fld w 27 3 == 2) || 6 ≤ (fld w 20 3).toNat || flag w 24 then some 0xA2 else none,
      rd := fun _ w => [rs (fA w), rs (fB w)] }
  | 0x192 => some {
      build := fun h w => .cbarTest h (fld w 27 3) (flag w 23) (fld w 20 3) (fD w) (fA w) (fB w),
      rsv := fun _ => msk 26 25 ||| msk 19 12,
      val := fun _ w => if !(fld w 27 3 == 1 || fld w 27 3 == 2) || 6 ≤ (fld w 20 3).toNat || flag w 24 then some 0xA2 else none,
      rd := fun _ w => [rs (fA w), rs (fB w)], wr := fun w => [rs (fD w)] }
  | 0x193 => some {
      build := fun h w => collOf h (fld w 25 2) (fld w 27 3) (flag w 24) (fld w 46 4) (fld w 38 4) (fB w),
      rsv := fun w => msk 53 50 ||| msk 45 42 ||| msk 23 12 ||| (if flag w 24 then msk 49 46 else 0),
      val := fun _ w => sc6 (fld w 27 3), rd := fun _ w => [rk (fld w 38 4)] ++ ss (fB w) 2 }
  | 0x194 => some {
      build := fun h w => .collStep h (fld w 27 3) (fA w) (fB w), rsv := fun _ => mD ||| msk 26 12,
      val := fun _ w => sc6 (fld w 27 3), rd := fun _ w => rs (fA w) :: ss (fB w) 2 }
  | 0x195 => some {
      build := fun h w => .drvStart h (fld w 27 3) (fD w) (fA w) (fB w), rsv := fun _ => msk 26 12,
      val := fun _ w => sc6 (fld w 27 3), rd := fun _ w => rs (fA w) :: ss (fB w) 2, wr := fun w => [rs (fD w)] }
  | 0x1C0 => some {
      build := fun h w => .sRdsr h (fld w 12 12) (fD w), drov := true, rsv := fun _ => mA ||| mB ||| msk 29 24,
      val := fun c w => if (srAccess c.drover (fld w 12 12)).1 then none else some 0xA2, wr := fun w => [rs (fD w)],
      look := fun w => fld w 12 12 == 0x10 }
  | 0x1C1 => some {
      build := fun h w => .sWrsr h (fld w 12 12) (fA w), drov := true, rsv := fun _ => mD ||| mB ||| msk 29 24,
      val := fun c w => if !(srAccess c.drover (fld w 12 12)).1 then some 0xA2 else if (srAccess c.drover (fld w 12 12)).2 then none else some 0xA8,
      rd := fun _ w => [rs (fA w)] }
  | 0x1C2 => some {
      build := fun h w => .trap h (fld w 12 8), drov := true, rsv := fun _ => mD ||| mA ||| mB ||| msk 29 20,
      val := fun _ w => if fld w 12 8 == 255 then some 0xA2 else none }
  | 0x1C3 => some {
      build := fun h _ => .tret h, drov := true, rsv := fun _ => mDABX, g0 := true }
  | 0x1C4 => some {
      build := fun h w => resumeOf h (fld w 12 2) (fD w) (fA w),
      rsv := fun w => mB ||| msk 29 14 ||| (if fld w 12 2 == 0 then 0 else mA),
      val := fun _ w => if fld w 12 2 == 3 then some 0xA2 else none, g0 := true,
      rd := fun _ w => if fld w 12 2 == 0 then [rs (fA w)] else [], wr := fun w => [rs (fD w)] }
  | 0x1C5 => some {
      build := fun h w => .snap h (flag w 12) (fD w), rsv := fun _ => mA ||| mB ||| msk 29 13, wr := fun w => [rs (fD w)] }
  | 0x1C6 => some {
      build := fun h w => .snapTry h (flag w 12) (fD w), rsv := fun _ => mA ||| mB ||| msk 29 13,
      wr := fun w => [rs (fD w)] }
  | 0x1C7 => some {
      build := fun h w => .snapw h (flag w 12) (fD w), rsv := fun _ => mA ||| mB ||| msk 29 13, wr := fun w => [rs (fD w)] }
  | 0x1C8 => some {
      build := fun h w => .brk h (fld w 12 8), rsv := fun _ => mD ||| mA ||| mB ||| msk 29 20 }
  | 0x1C9 => some {
      build := fun h w => .trace h (fld w 12 16) (fA w), drov := true, rsv := fun _ => mD ||| mB ||| msk 29 28,
      rd := fun _ w => [rs (fA w)] }
  | 0x1CA => some {
      build := fun h w => .prog h (fld w 12 4), drov := true, rsv := fun _ => mD ||| mA ||| mB ||| msk 29 16 }
  | 0x1CB => some {
      build := fun h w => .rand h (fld w 12 2) (fD w) (fA w) (fB w), rsv := fun _ => msk 29 14,
      val := fun _ w => if fld w 12 2 == 3 then some 0xA2 else none, rd := fun _ w => [rs (fA w), rs (fB w)],
      wr := fun w => vs (fD w) (2 ^ (fld w 12 2).toNat), al := fun w => (fD w).toNat % 2 ^ (fld w 12 2).toNat == 0 }
  | 0x1CC => some {
      build := fun h w => .knell h (fA w), rsv := fun _ => mD ||| mB ||| mX, rd := fun _ w => [rs (fA w)] }
  | 0x1CD => some {
      build := fun h _ => .halt h, rsv := fun _ => mDABX }
  | 0x1D0 => some {
      build := fun h w => bxiOf h (fld w 28 2) (fld w 23 5) (fld w 20 3) (fld w 17 2) (fD w) (fld w 38 4) (fB w),
      gang := false, drov := true,
      rsv := fun w => msk 45 42 ||| msk 16 12 ||| (if fld w 28 2 == 2 then 0 else msk 22 20) ||| (if fld w 28 2 == 0 then msk 19 17 else 0),
      val := fun _ w => if fld w 28 2 == 3 || flag w 19 then some 0xA2 else none,
      rd := fun _ w => [rk (fld w 38 4)] ++ ss (fB w) 3 ++ ss (0#3 ++ fld w 23 5) (if fld w 28 2 == 2 then 3 else 1),
      wr := fun w => [rs (fD w)] }
  | 0x1D1 => some {
      build := fun h w => .bxw h (fA w), gang := false, drov := true, rsv := fun _ => mD ||| mB ||| mX,
      rd := fun _ w => [rs (fA w)] }
  | 0x1D2 => some {
      build := fun h w => .darr h (fA w) (fB w), gang := false, drov := true, rsv := fun _ => mD ||| mX,
      rd := fun _ w => [rs (fA w), rs (fB w)] }
  | 0x1D3 => some {
      build := fun h w => .dwait h (fA w) (fB w), gang := false, drov := true, rsv := fun _ => mD ||| mX,
      rd := fun _ w => [rs (fA w), rs (fB w)] }
  | 0x1D4 => some {
      build := fun h w => if flag w 29 then .idxldRead h (fld w 25 2) (fD w) (fA w) else .idxldFill h (fld w 24 5) (fld w 38 4) (fB w),
      gang := false, drov := true,
      rsv := fun w => if flag w 29 then mB ||| msk 28 27 ||| msk 24 12 else mD ||| msk 23 12,
      rd := fun _ w => if flag w 29 then [rs (fA w)] else [rk (fA w)] ++ ss (fB w) 3 ++ [rs (0#3 ++ fld w 24 5)],
      wr := fun w => if flag w 29 then [rs (fD w)] else [] }
  | 0x1D5 => some {
      build := fun h w => .tblld h (fld w 27 3) (fld w 12 2) (fD w) (fA w) (fB w), gang := false, drov := true,
      rsv := fun _ => msk 26 14,
      val := fun _ w => if fld w 27 3 == 0 || fld w 27 3 == 1 || fld w 27 3 == 3 then none else some 0xA2,
      rd := fun _ w => [rs (fA w), rs (fB w)], wr := fun w => [rs (fD w)] }
  | 0x1D6 => some {
      build := fun h _ => .dend h, gang := false, drov := true, rsv := fun _ => mDABX }
  | _ => none

/-- A failed check of R195: the cause is PAIR for steps 9, ILLEGAL otherwise; TRAPREG names the half (R196). -/
structure DecErr where
  pair : Bool
  detail : BitVec 8
  reg : Nat
deriving DecidableEq, Repr

/-- !m0 is no guard, a drover word is unguarded, some words must be unguarded (R184, R204, R244, R358). -/
def guardBad (c : DecCtx) (g0 : Bool) (g : BitVec 4) : Bool := g == 8 || ((c.drover || g0) && g != 0)

/-- The checks of R195, steps 3 to 8, on a full-form word. -/
def decodeFull (c : DecCtx) (w : U64) : Except DecErr Instr :=
  match rowOf (fld w 54 9).toNat with
  | none => .error ⟨false, 0xA0, 0⟩
  | some r =>
    if !(if c.drover then r.drov else r.gang) then .error ⟨false, 0xA5, 0⟩
    else if w &&& r.rsv w != 0 then .error ⟨false, 0xA1, 0⟩
    else if guardBad c r.g0 (fld w 8 4) then .error ⟨false, 0xA2, 0⟩
    else match r.val c w with
      | some d => .error ⟨false, d, 0⟩
      | none =>
        if !((r.rd c w).all (·.ok c) && (r.wr w).all (·.ok c) && r.al w) then .error ⟨false, 0xA6, 0⟩
        else if fld w 0 4 != 0 && !r.look w then .error ⟨false, 0xA3, 0⟩
        else if flag w 7 && !r.asOk w then .error ⟨false, 0xA4, 0⟩
        else .ok (r.build (hintOf w) w)

/-- The half-form opcode map (R214). -/
def halfOpOf (n : Nat) : Option HalfOp :=
  match n with
  | 0x00 => some .hnop | 0x01 => some .sAdd | 0x02 => some .sSub | 0x03 => some .sAnd | 0x04 => some .sOr
  | 0x05 => some .sXor | 0x06 => some .sMov | 0x07 => some .sAddi | 0x08 => some .sShli | 0x09 => some .sShri
  | 0x0A => some .sMin | 0x0B => some .sMax | 0x10 => some .vAdd | 0x11 => some .vSub | 0x12 => some .vAnd
  | 0x13 => some .vOr | 0x14 => some .vXor | 0x15 => some .vMov | 0x16 => some .vMovs | 0x17 => some .vAddi
  | 0x18 => some .vShli | 0x19 => some .vShri | 0x1A => some .vMin | 0x1B => some .vMax | 0x20 => some .fAdd
  | 0x21 => some .fSub | 0x22 => some .fMul | 0x23 => some .fMin | 0x24 => some .fMax | 0x26 => some .hAdd
  | 0x27 => some .hMul | 0x30 => some .mAnd | 0x31 => some .mOr | 0x32 => some .mXor | 0x33 => some .mMov
  | _ => none

/-- The OPH of a half (R214). -/
def HalfOp.code : HalfOp → BitVec 7
  | .hnop => 0x00 | .sAdd => 0x01 | .sSub => 0x02 | .sAnd => 0x03 | .sOr => 0x04 | .sXor => 0x05 | .sMov => 0x06
  | .sAddi => 0x07 | .sShli => 0x08 | .sShri => 0x09 | .sMin => 0x0A | .sMax => 0x0B | .vAdd => 0x10 | .vSub => 0x11
  | .vAnd => 0x12 | .vOr => 0x13 | .vXor => 0x14 | .vMov => 0x15 | .vMovs => 0x16 | .vAddi => 0x17 | .vShli => 0x18
  | .vShri => 0x19 | .vMin => 0x1A | .vMax => 0x1B | .fAdd => 0x20 | .fSub => 0x21 | .fMul => 0x22 | .fMin => 0x23
  | .fMax => 0x24 | .hAdd => 0x26 | .hMul => 0x27 | .mAnd => 0x30 | .mOr => 0x31 | .mXor => 0x32 | .mMov => 0x33

/-- The 31 bits of a half that begins at bit lo of the word, and its fields (R186). -/
def halfAt (w : U64) (lo : Nat) (op : HalfOp) : Half := ⟨op, fld w (lo + 18) 6, fld w (lo + 12) 6, fld w (lo + 8) 1 ++ fld w (lo + 9) 3⟩

/-- The bits a half reserves (R186, R187). -/
def halfRsv (w : U64) (lo : Nat) (op : HalfOp) : Bool :=
  if op == .hnop then fld w lo 24 != 0 else fld w lo 8 != 0

/-- Step 7 on a half: mask numbers above 15, and the scalar registers of a drover (R187, R215). -/
def halfRegsBad (c : DecCtx) (x : Half) : Bool :=
  match x.op.cls with
  | 1 => !(c.s x.d.toNat && (x.op.imm || c.s x.a.toNat))
  | 3 => !(x.d.toNat < 16 && x.a.toNat < 16)
  | _ => false

/-- The checks of R195, steps 3 to 9, on a pair-form word: each step on H1, then on H2. -/
def decodePair (c : DecCtx) (w : U64) : Except DecErr Instr :=
  match halfOpOf (fld w 56 7).toNat, halfOpOf (fld w 25 7).toNat with
  | none, _ => .error ⟨false, 0xA0, 0⟩
  | _, none => .error ⟨false, 0xA0, 1⟩
  | some p, some q =>
    let x := halfAt w 32 p
    let y := halfAt w 1 q
    if c.drover && 2 ≤ p.cls then .error ⟨false, 0xA5, 0⟩
    else if c.drover && 2 ≤ q.cls then .error ⟨false, 0xA5, 1⟩
    else if halfRsv w 32 p then .error ⟨false, 0xA1, 0⟩
    else if halfRsv w 1 q then .error ⟨false, 0xA1, 1⟩
    else if guardBad c false x.guard then .error ⟨false, 0xA2, 0⟩
    else if guardBad c false y.guard then .error ⟨false, 0xA2, 1⟩
    else if halfRegsBad c x then .error ⟨false, 0xA6, 0⟩
    else if halfRegsBad c y then .error ⟨false, 0xA6, 1⟩
    else if flag w 0 && !p.intHalf then .error ⟨false, 0xA4, 0⟩
    else if flag w 0 && !q.intHalf then .error ⟨false, 0xA4, 1⟩
    else if sameDest x y then .error ⟨true, 0xB0, 1⟩
    else if bankConflict x y then .error ⟨true, 0xB1, 1⟩
    else if p == .hnop && q == .hnop then .ok (.hnop (flag w 0))
    else .ok (.pairWord (flag w 0) x y)

/-- The instruction of a word, or the check it fails (R195, steps 3 to 9). -/
def decodeWord (c : DecCtx) (w : U64) : Except DecErr Instr :=
  if flag w 63 then decodePair c w else decodeFull c w

/-- The registers a word reads and writes, for the scoreboard (R191, R195). -/
def halfTouch (x : Half) : List RegRef × List RegRef :=
  match x.op.cls with
  | 1 => (if x.op.imm then [rs x.d] else [rs x.d, rs x.a], [rs x.d])
  | 2 => (if x.op.imm then [rv x.d] else if x.op == .vMovs then [rs x.a] else [rv x.d, rv x.a], [rv x.d])
  | 3 => ([rm x.d, rm x.a], [rm x.d])
  | _ => ([], [])

def guardReg (g : BitVec 4) : List RegRef := if g.extractLsb' 0 3 == 0 then [] else [rm (g.extractLsb' 0 3)]

/-- The registers a word reads, and those it writes (R191). -/
def wordRegs (c : DecCtx) (w : U64) : List RegRef × List RegRef :=
  if flag w 63 then
    match halfOpOf (fld w 56 7).toNat, halfOpOf (fld w 25 7).toNat with
    | some p, some q =>
      let a := halfTouch (halfAt w 32 p)
      let b := halfTouch (halfAt w 1 q)
      (guardReg (halfAt w 32 p).guard ++ guardReg (halfAt w 1 q).guard ++ a.1 ++ b.1, a.2 ++ b.2)
    | _, _ => ([], [])
  else match rowOf (fld w 54 9).toNat with
    | some r => (guardReg (fld w 8 4) ++ r.rd c w, r.wr w)
    | none => ([], [])

/-- The control words of R167: they must agree across occupied planes. -/
def isControlWord (w : U64) : Bool :=
  let op := (fld w 54 9).toNat
  !flag w 63 && ((0x40 ≤ op && op ≤ 0x51) || (0x53 ≤ op && op ≤ 0x54) || (0x182 ≤ op && op ≤ 0x195))

/-- The instruction a word of spec/opcode_table.json stands for: a gang word, or where a gang may not execute it, a drover
word. The table's words are 64 bits; `nbits` lower than that leaves the upper bits zero. -/
def decodeTableWord (nbits w : Nat) : Option Instr :=
  let word : U64 := BitVec.ofNat 64 (w % 2 ^ nbits)
  match decodeWord ⟨false, 32, 2⟩ word with
  | .ok i => some i
  | .error _ =>
    match decodeWord ⟨true, 1, 0⟩ word with
    | .ok i => some i
    | .error _ => none

/-- A field placed at bit lo of a word. -/
def put {n : Nat} (x : BitVec n) (lo : Nat) : U64 := x.setWidth 64 <<< lo
/-- One bit placed at bit lo of a word. -/
def putB (b : Bool) (lo : Nat) : U64 := put (BitVec.ofBool b) lo
/-- The hints of a full-form word (R177). -/
def putH (h : Hint) : U64 := put h.guard 8 ||| putB h.as 7 ||| putB h.gw 6 ||| put h.gap 4 ||| put h.look 0
/-- OP and hints (R177). -/
def opW (op : BitVec 9) (h : Hint) : U64 := put op 54 ||| putH h
/-- The X-M layout (R182). -/
def putX (x : MemX) : U64 :=
  put x.space 27 ||| put x.size 25 ||| put x.ord 23 ||| put x.scope 20 ||| put x.scale 18 ||| putB x.sx 17 ||| putB x.nt 16
/-- RM, NEG and ABS of the X-R layout (R180). -/
def putM (m : FMod) : U64 :=
  put m.rm 20 ||| putB m.negA 19 ||| putB m.negB 18 ||| putB m.negC 17 ||| putB m.absA 16 ||| putB m.absB 15
/-- A half placed at bit lo (R186). -/
def putHalf (x : Half) (lo : Nat) : U64 :=
  put x.op.code (lo + 24) ||| put x.d (lo + 18) ||| put x.a (lo + 12) ||| put (x.guard.extractLsb' 0 3) (lo + 9) |||
    put (x.guard.extractLsb' 3 1) (lo + 8)

/-- The word of an instruction; an event has none (R177 to R188, R212, R214). -/
def encode : Instr → Option U64
  | .sAdd h a b c d => some (opW 0x000 h ||| putB a 12 ||| put b 46 ||| put c 38 ||| put d 30)
  | .sSub h a b c d => some (opW 0x001 h ||| putB a 12 ||| put b 46 ||| put c 38 ||| put d 30)
  | .sMul h a b c d => some (opW 0x002 h ||| putB a 12 ||| put b 46 ||| put c 38 ||| put d 30)
  | .sMulh h a b c d => some (opW 0x003 h ||| putB a 12 ||| put b 46 ||| put c 38 ||| put d 30)
  | .sMulhu h a b c d => some (opW 0x004 h ||| putB a 12 ||| put b 46 ||| put c 38 ||| put d 30)
  | .sDiv h a b c d => some (opW 0x005 h ||| putB a 12 ||| put b 46 ||| put c 38 ||| put d 30)
  | .sDivu h a b c d => some (opW 0x006 h ||| putB a 12 ||| put b 46 ||| put c 38 ||| put d 30)
  | .sRem h a b c d => some (opW 0x007 h ||| putB a 12 ||| put b 46 ||| put c 38 ||| put d 30)
  | .sRemu h a b c d => some (opW 0x008 h ||| putB a 12 ||| put b 46 ||| put c 38 ||| put d 30)
  | .sAnd h a b c d => some (opW 0x009 h ||| putB a 12 ||| put b 46 ||| put c 38 ||| put d 30)
  | .sOr h a b c d => some (opW 0x00A h ||| putB a 12 ||| put b 46 ||| put c 38 ||| put d 30)
  | .sXor h a b c d => some (opW 0x00B h ||| putB a 12 ||| put b 46 ||| put c 38 ||| put d 30)
  | .sAndn h a b c d => some (opW 0x00C h ||| putB a 12 ||| put b 46 ||| put c 38 ||| put d 30)
  | .sShl h a b c d => some (opW 0x00D h ||| putB a 12 ||| put b 46 ||| put c 38 ||| put d 30)
  | .sShr h a b c d => some (opW 0x00E h ||| putB a 12 ||| put b 46 ||| put c 38 ||| put d 30)
  | .sSra h a b c d => some (opW 0x00F h ||| putB a 12 ||| put b 46 ||| put c 38 ||| put d 30)
  | .sMin h a b c d => some (opW 0x010 h ||| putB a 12 ||| put b 46 ||| put c 38 ||| put d 30)
  | .sMax h a b c d => some (opW 0x011 h ||| putB a 12 ||| put b 46 ||| put c 38 ||| put d 30)
  | .sMinu h a b c d => some (opW 0x012 h ||| putB a 12 ||| put b 46 ||| put c 38 ||| put d 30)
  | .sMaxu h a b c d => some (opW 0x013 h ||| putB a 12 ||| put b 46 ||| put c 38 ||| put d 30)
  | .sClz h a b c => some (opW 0x014 h ||| putB a 12 ||| put b 46 ||| put c 38)
  | .sPopc h a b c => some (opW 0x015 h ||| putB a 12 ||| put b 46 ||| put c 38)
  | .sMov h a b c => some (opW 0x01B h ||| putB a 12 ||| put b 46 ||| put c 38)
  | .sBfx h a b c d e f => some (opW 0x016 h ||| putB a 12 ||| putB b 17 ||| put c 24 ||| put d 18 ||| put e 46 ||| put f 38)
  | .sBfi h a b c d e => some (opW 0x017 h ||| putB a 12 ||| put b 24 ||| put c 18 ||| put d 46 ||| put e 38)
  | .sMad h a b c d e => some (opW 0x018 h ||| putB a 12 ||| put b 46 ||| put c 38 ||| put d 30 ||| put e 22)
  | .sCmp h a b c d e => some (opW 0x019 h ||| putB a 12 ||| put b 22 ||| put c 46 ||| put d 38 ||| put e 30)
  | .sSel h a b c d => some (opW 0x01A h ||| put a 46 ||| put b 38 ||| put c 30 ||| put d 22)
  | .sAddi h a b c => some (opW 0x020 h ||| put a 46 ||| put b 38 ||| put c 12)
  | .sAndi h a b c => some (opW 0x021 h ||| put a 46 ||| put b 38 ||| put c 12)
  | .sOri h a b c => some (opW 0x022 h ||| put a 46 ||| put b 38 ||| put c 12)
  | .sXori h a b c => some (opW 0x023 h ||| put a 46 ||| put b 38 ||| put c 12)
  | .sShli h a b c => some (opW 0x024 h ||| put a 46 ||| put b 38 ||| put c 12)
  | .sShri h a b c => some (opW 0x025 h ||| put a 46 ||| put b 38 ||| put c 12)
  | .sSrai h a b c => some (opW 0x026 h ||| put a 46 ||| put b 38 ||| put c 12)
  | .sCmpi h a b c d => some (opW 0x027 h ||| put a 30 ||| put b 46 ||| put c 38 ||| put d 12)
  | .sMovi h a b => some (opW 0x028 h ||| put a 46 ||| put b 12)
  | .sMovhi h a b => some (opW 0x029 h ||| put a 46 ||| put b 12)
  | .sAddpc h a b => some (opW 0x02A h ||| put a 46 ||| put b 12)
  | .bra h a => some (opW 0x040 h ||| put a 12)
  | .brS h a b c => some (opW 0x041 h ||| putB a 30 ||| put b 38 ||| put c 12)
  | .brAny h a b c => some (opW 0x042 h ||| putB a 42 ||| put b 38 ||| put c 12)
  | .brAll h a b c => some (opW 0x043 h ||| putB a 42 ||| put b 38 ||| put c 12)
  | .brDiv h a b c d => some (opW 0x044 h ||| putB a 42 ||| put b 38 ||| put (c.extractLsb' 8 8) 46 ||| put (c.extractLsb' 0 8) 30 ||| put d 12)
  | .join h => some (opW 0x045 h)
  | .loop h a b => some (opW 0x046 h ||| put a 46 ||| put b 12)
  | .call h a b => some (opW 0x047 h ||| put a 38 ||| put b 12)
  | .ret h => some (opW 0x048 h)
  | .callT h a b c => some (opW 0x049 h ||| putB a 46 ||| put b 38 ||| put c 30)
  | .jmpT h a b c => some (opW 0x04A h ||| putB a 46 ||| put b 38 ||| put c 12)
  | .exit h => some (opW 0x04B h)
  | .plane h a b c d => some (opW 0x04C h ||| put a 46 ||| put b 38 ||| put c 36 ||| put d 12)
  | .planeI h a b c d => some (opW 0x04D h ||| put (a.extractLsb' 8 6) 40 ||| put (a.extractLsb' 0 8) 46 ||| put b 38 ||| put c 36 ||| put d 12)
  | .allBegin h => some (opW 0x04E h)
  | .allEnd h => some (opW 0x04F h)
  | .barT h => some (opW 0x050 h)
  | .barC h => some (opW 0x051 h)
  | .yield h => some (opW 0x053 h)
  | .waitcnt h a b => some (opW 0x052 h ||| putB a 28 ||| put b 12)
  | .launch h a => some (opW 0x054 h ||| put a 38)
  | .chwait h a => some (opW 0x055 h ||| put a 38)
  | .nop h => some (opW 0x056 h)
  | .vAdd h a b c d => some (opW 0x080 h ||| putB a 13 ||| put b 46 ||| put c 38 ||| put d 30)
  | .vSub h a b c d => some (opW 0x081 h ||| putB a 13 ||| put b 46 ||| put c 38 ||| put d 30)
  | .vMul h a b c d => some (opW 0x082 h ||| putB a 13 ||| put b 46 ||| put c 38 ||| put d 30)
  | .vMulh h a b c => some (opW 0x083 h ||| put a 46 ||| put b 38 ||| put c 30)
  | .vMulhu h a b c => some (opW 0x084 h ||| put a 46 ||| put b 38 ||| put c 30)
  | .vAnd h a b c => some (opW 0x086 h ||| put a 46 ||| put b 38 ||| put c 30)
  | .vOr h a b c => some (opW 0x087 h ||| put a 46 ||| put b 38 ||| put c 30)
  | .vXor h a b c => some (opW 0x088 h ||| put a 46 ||| put b 38 ||| put c 30)
  | .vAndn h a b c => some (opW 0x089 h ||| put a 46 ||| put b 38 ||| put c 30)
  | .vShl h a b c d => some (opW 0x08A h ||| putB a 13 ||| put b 46 ||| put c 38 ||| put d 30)
  | .vShr h a b c d => some (opW 0x08B h ||| putB a 13 ||| put b 46 ||| put c 38 ||| put d 30)
  | .vSra h a b c d => some (opW 0x08C h ||| putB a 13 ||| put b 46 ||| put c 38 ||| put d 30)
  | .vMin h a b c d => some (opW 0x08D h ||| putB a 13 ||| put b 46 ||| put c 38 ||| put d 30)
  | .vMax h a b c d => some (opW 0x08E h ||| putB a 13 ||| put b 46 ||| put c 38 ||| put d 30)
  | .vMinu h a b c d => some (opW 0x08F h ||| putB a 13 ||| put b 46 ||| put c 38 ||| put d 30)
  | .vMaxu h a b c d => some (opW 0x090 h ||| putB a 13 ||| put b 46 ||| put c 38 ||| put d 30)
  | .vMad h a b c d => some (opW 0x085 h ||| put a 46 ||| put b 38 ||| put c 30 ||| put d 22)
  | .vAbs h a b c => some (opW 0x091 h ||| putB a 13 ||| put b 46 ||| put c 38)
  | .vClz h a b => some (opW 0x092 h ||| put a 46 ||| put b 38)
  | .vPopc h a b => some (opW 0x093 h ||| put a 46 ||| put b 38)
  | .vMov h a b => some (opW 0x09B h ||| put a 46 ||| put b 38)
  | .vBfx h a b c d e => some (opW 0x094 h ||| putB a 17 ||| put b 24 ||| put c 18 ||| put d 46 ||| put e 38)
  | .vBfi h a b c d => some (opW 0x095 h ||| put a 24 ||| put b 18 ||| put c 46 ||| put d 38)
  | .vAddsat h a b c d e => some (opW 0x096 h ||| putB a 13 ||| putB b 12 ||| put c 46 ||| put d 38 ||| put e 30)
  | .vSubsat h a b c d e => some (opW 0x097 h ||| putB a 13 ||| putB b 12 ||| put c 46 ||| put d 38 ||| put e 30)
  | .vDot4 h a b c d e f => some (opW 0x098 h ||| putB a 12 ||| putB b 13 ||| put c 46 ||| put d 38 ||| put e 30 ||| put f 22)
  | .vCmp h a b c d => some (opW 0x099 h ||| put a 22 ||| put b 46 ||| put c 38 ||| put d 30)
  | .vSel h a b c d => some (opW 0x09A h ||| put a 46 ||| put b 38 ||| put c 30 ||| put d 22)
  | .vMovs h a b => some (opW 0x09C h ||| put a 46 ||| put b 38)
  | .vAddi h a b c => some (opW 0x0A0 h ||| put a 46 ||| put b 38 ||| put c 12)
  | .vAndi h a b c => some (opW 0x0A1 h ||| put a 46 ||| put b 38 ||| put c 12)
  | .vShli h a b c => some (opW 0x0A2 h ||| put a 46 ||| put b 38 ||| put c 12)
  | .vShri h a b c => some (opW 0x0A3 h ||| put a 46 ||| put b 38 ||| put c 12)
  | .vSrai h a b c => some (opW 0x0A4 h ||| put a 46 ||| put b 38 ||| put c 12)
  | .vMovi h a b => some (opW 0x0A5 h ||| put a 46 ||| put b 12)
  | .fAdd h a b c d => some (opW 0x0C0 h ||| putM a ||| put b 46 ||| put c 38 ||| put d 30)
  | .fSub h a b c d => some (opW 0x0C1 h ||| putM a ||| put b 46 ||| put c 38 ||| put d 30)
  | .fMul h a b c d => some (opW 0x0C2 h ||| putM a ||| put b 46 ||| put c 38 ||| put d 30)
  | .fDiv h a b c d => some (opW 0x0C8 h ||| putM a ||| put b 46 ||| put c 38 ||| put d 30)
  | .fFma h a b c d e => some (opW 0x0C3 h ||| putM a ||| put b 46 ||| put c 38 ||| put d 30 ||| put e 22)
  | .fMin h a b c d => some (opW 0x0C4 h ||| putM a ||| put b 46 ||| put c 38 ||| put d 30)
  | .fMax h a b c d => some (opW 0x0C5 h ||| putM a ||| put b 46 ||| put c 38 ||| put d 30)
  | .fCmp h a b c d e => some (opW 0x0C6 h ||| putM a ||| put b 22 ||| put c 46 ||| put d 38 ||| put e 30)
  | .fClass h a b => some (opW 0x0C7 h ||| put a 46 ||| put b 38)
  | .fSqrt h a b c => some (opW 0x0C9 h ||| putM a ||| put b 46 ||| put c 38)
  | .fRnd h a b c => some (opW 0x0D1 h ||| putM a ||| put b 46 ||| put c 38)
  | .fRcp h a b c => some (opW 0x0CA h ||| putM a ||| put b 46 ||| put c 38)
  | .fRsq h a b c => some (opW 0x0CB h ||| putM a ||| put b 46 ||| put c 38)
  | .fExp2 h a b c => some (opW 0x0CC h ||| putM a ||| put b 46 ||| put c 38)
  | .fLog2 h a b c => some (opW 0x0CD h ||| putM a ||| put b 46 ||| put c 38)
  | .fSinpi h a b c => some (opW 0x0CE h ||| putM a ||| put b 46 ||| put c 38)
  | .fCospi h a b c => some (opW 0x0CF h ||| putM a ||| put b 46 ||| put c 38)
  | .fTanh h a b c => some (opW 0x0D0 h ||| putM a ||| put b 46 ||| put c 38)
  | .fCvt h a b c d e f g i => some (opW 0x0D2 h ||| put a 24 ||| put b 18 ||| put c 15 ||| putB d 14 ||| put e 30 ||| put f 33 ||| put g 46 ||| put i 38)
  | .fCvtiToFloat h a b c d e => some (opW 0x0D3 h ||| put a 24 ||| put b 16 ||| put c 14 ||| put d 46 ||| put e 38 ||| putB true 23)
  | .fCvtiToInt h a b c d e => some (opW 0x0D3 h ||| put a 24 ||| put b 16 ||| put c 14 ||| put d 46 ||| put e 38)
  | .fPack h a b c d e f g i => some (opW 0x0D4 h ||| put a 24 ||| put b 21 ||| putB c 20 ||| put d 18 ||| put e 13 ||| put f 46 ||| put g 38 ||| put i 30)
  | .fUnpk h a b c d => some (opW 0x0D5 h ||| put a 24 ||| put b 22 ||| put c 46 ||| put d 38)
  | .hAdd h a b c d e => some (opW 0x0D6 h ||| putB a 12 ||| putM b ||| put c 46 ||| put d 38 ||| put e 30)
  | .hMul h a b c d e => some (opW 0x0D7 h ||| putB a 12 ||| putM b ||| put c 46 ||| put d 38 ||| put e 30)
  | .hFma h a b c d e f => some (opW 0x0D8 h ||| putB a 12 ||| putM b ||| put c 46 ||| put d 38 ||| put e 30 ||| put f 22)
  | .fScale h a b c d => some (opW 0x0D9 h ||| putM a ||| put b 46 ||| put c 38 ||| put d 30)
  | .fDeq h a b c d e f g => some (opW 0x0DA h ||| put a 24 ||| put b 18 ||| put c 15 ||| put d 13 ||| put e 46 ||| put f 38 ||| put g 30)
  | .laneid h a => some (opW 0x100 h ||| put a 46)
  | .shflIdx h a b c d => some (opW 0x101 h ||| put a 18 ||| put b 46 ||| put c 38 ||| put d 30)
  | .shflUp h a b c d => some (opW 0x102 h ||| put a 18 ||| put b 12 ||| put c 46 ||| put d 38)
  | .shflDn h a b c d => some (opW 0x103 h ||| put a 18 ||| put b 12 ||| put c 46 ||| put d 38)
  | .shflXor h a b c d => some (opW 0x104 h ||| put a 18 ||| put b 12 ||| put c 46 ||| put d 38)
  | .voteAny h a b c => some (opW 0x105 h ||| putB a 42 ||| put b 46 ||| put c 38)
  | .voteAll h a b c => some (opW 0x106 h ||| putB a 42 ||| put b 46 ||| put c 38)
  | .ballot h a b => some (opW 0x107 h ||| put a 46 ||| put b 38)
  | .rdxAdd h a b c => some (opW 0x108 h ||| put a 12 ||| put b 46 ||| put c 38)
  | .rdxMin h a b c => some (opW 0x109 h ||| put a 12 ||| put b 46 ||| put c 38)
  | .rdxMax h a b c => some (opW 0x10A h ||| put a 12 ||| put b 46 ||| put c 38)
  | .scanAdd h a b c d => some (opW 0x10B h ||| putB a 15 ||| putB b 13 ||| put c 46 ||| put d 38)
  | .v2s h a b c d => some (opW 0x10C h ||| putB a 18 ||| put b 12 ||| put c 46 ||| put d 38)
  | .s2l h a b c => some (opW 0x10D h ||| put a 12 ||| put b 46 ||| put c 38)
  | .mAnd h a b c => some (opW 0x10E h ||| put a 46 ||| put b 38 ||| put c 30)
  | .mOr h a b c => some (opW 0x10F h ||| put a 46 ||| put b 38 ||| put c 30)
  | .mXor h a b c => some (opW 0x110 h ||| put a 46 ||| put b 38 ||| put c 30)
  | .mNot h a b => some (opW 0x111 h ||| put a 46 ||| put b 38)
  | .mMov h a b => some (opW 0x112 h ||| put a 46 ||| put b 38)
  | .mPopc h a b => some (opW 0x113 h ||| put a 46 ||| put b 38)
  | .mFfs h a b => some (opW 0x114 h ||| put a 46 ||| put b 38)
  | .mTos h a b => some (opW 0x116 h ||| put a 46 ||| put b 38)
  | .mFroms h a b => some (opW 0x115 h ||| put a 46 ||| put b 38)
  | .mGetx h a => some (opW 0x117 h ||| put a 46)
  | .mSetx h a => some (opW 0x118 h ||| put a 38)
  | .ld h a b c d => some (opW 0x140 h ||| putX a ||| put b 46 ||| put c 38 ||| put d 30)
  | .st h a b c d => some (opW 0x141 h ||| putX a ||| put b 46 ||| put c 38 ||| put d 30)
  | .ldS h a b c d => some (opW 0x142 h ||| putX a ||| put b 46 ||| put c 38 ||| put d 30)
  | .stS h a b c d => some (opW 0x143 h ||| putX a ||| put b 46 ||| put c 38 ||| put d 30)
  | .ldg h a b c => some (opW 0x144 h ||| putX a ||| put b 46 ||| put c 38)
  | .stg h a b c => some (opW 0x145 h ||| putX a ||| put b 46 ||| put c 38)
  | .atom h a b c d e => some (opW 0x146 h ||| putX a ||| put b 12 ||| put c 46 ||| put d 38 ||| put e 30)
  | .atomS h a b c d e => some (opW 0x147 h ||| putX a ||| put b 12 ||| put c 46 ||| put d 38 ||| put e 30)
  | .rstore h a b c d e => some (opW 0x148 h ||| putX a ||| put b 12 ||| put c 46 ||| put d 38 ||| put e 30)
  | .fence h a b => some (opW 0x149 h ||| put a 23 ||| put b 20)
  | .cinvAll h => some (opW 0x14A h ||| putB true 29)
  | .cinvRange h a b => some (opW 0x14A h ||| put a 38 ||| put b 30)
  | .pref h a b c d e => some (opW 0x14B h ||| put a 25 ||| put b 18 ||| putB c 16 ||| put d 38 ||| put e 30)
  | .kset h a b c => some (opW 0x180 h ||| put a 27 ||| put b 46 ||| put c 38)
  | .kmod h a b c => some (opW 0x181 h ||| put a 12 ||| put b 46 ||| put c 38)
  | .boxLd h a b c d e f => some (opW 0x182 h ||| putB a 29 ||| put b 22 ||| put c 19 ||| put d 46 ||| put e 38 ||| put f 30)
  | .boxSt h a b c d e => some (opW 0x183 h ||| put a 27 ||| put b 24 ||| put c 46 ||| put d 38 ||| put e 30)
  | .boxCp h a b c d e f => some (opW 0x184 h ||| put a 26 ||| put b 23 ||| put c 20 ||| put d 46 ||| put e 38 ||| put f 30)
  | .cpfence h => some (opW 0x185 h)
  | .cpwait h a b c => some (opW 0x186 h ||| put a 20 ||| putB b 19 ||| put c 38)
  | .mwait h a b c => some (opW 0x18C h ||| put a 20 ||| putB b 19 ||| put c 38)
  | .mldN h a b c d e => some (opW 0x187 h ||| put a 27 ||| put b 46 ||| put c 38 ||| put d 30 ||| put e 19)
  | .mldW h a b c d => some (opW 0x188 h ||| put a 27 ||| put b 46 ||| put c 38 ||| put d 30)
  | .mma h a b c d e f g i => some (opW 0x189 h ||| put a 27 ||| put b 22 ||| put c 15 ||| put d 13 ||| putB e 12 ||| put f 46 ||| put g 38 ||| put i 30)
  | .mmaz h a b c d e f g i => some (opW 0x18A h ||| put a 27 ||| put b 22 ||| put c 15 ||| put d 13 ||| putB e 12 ||| put f 46 ||| put g 38 ||| put i 30)
  | .mfence h => some (opW 0x18B h)
  | .epi h a b c d e f => some (opW 0x18D h ||| put a 27 ||| put b 20 ||| put c 13 ||| put d 46 ||| put e 38 ||| put f 30)
  | .epiRs h a b c d e f => some (opW 0x18E h ||| put a 27 ||| put b 20 ||| put c 13 ||| put d 46 ||| put e 38 ||| put f 30)
  | .cbarInit h a b c d => some (opW 0x18F h ||| put a 27 ||| put b 20 ||| put c 38 ||| put d 30)
  | .cbarArr h a b c d e f => some (opW 0x190 h ||| put a 27 ||| putB b 24 ||| put c 20 ||| put d 46 ||| put e 38 ||| put f 30)
  | .cbarWait h a b c d e => some (opW 0x191 h ||| put a 27 ||| putB b 23 ||| put c 20 ||| put d 38 ||| put e 30)
  | .cbarTest h a b c d e f => some (opW 0x192 h ||| put a 27 ||| putB b 23 ||| put c 20 ||| put d 46 ||| put e 38 ||| put f 30)
  | .collAr h a b c d e => some (opW 0x193 h ||| put a 27 ||| putB b 24 ||| put c 46 ||| put d 38 ||| put e 30)
  | .collRs h a b c d e => some (opW 0x193 h ||| put a 27 ||| putB b 24 ||| put c 46 ||| put d 38 ||| put e 30 ||| put 1#2 25)
  | .collAg h a b c d e => some (opW 0x193 h ||| put a 27 ||| putB b 24 ||| put c 46 ||| put d 38 ||| put e 30 ||| put 2#2 25)
  | .collBc h a b c d e => some (opW 0x193 h ||| put a 27 ||| putB b 24 ||| put c 46 ||| put d 38 ||| put e 30 ||| put 3#2 25)
  | .collStep h a b c => some (opW 0x194 h ||| put a 27 ||| put b 38 ||| put c 30)
  | .drvStart h a b c d => some (opW 0x195 h ||| put a 27 ||| put b 46 ||| put c 38 ||| put d 30)
  | .sRdsr h a b => some (opW 0x1C0 h ||| put a 12 ||| put b 46)
  | .sWrsr h a b => some (opW 0x1C1 h ||| put a 12 ||| put b 38)
  | .trap h a => some (opW 0x1C2 h ||| put a 12)
  | .tret h => some (opW 0x1C3 h)
  | .resumeByMask h a b => some (opW 0x1C4 h ||| put a 46 ||| put b 38)
  | .resumeComplete h a => some (opW 0x1C4 h ||| put a 46 ||| put 1#2 12)
  | .resumeDiscard h a => some (opW 0x1C4 h ||| put a 46 ||| put 2#2 12)
  | .snap h a b => some (opW 0x1C5 h ||| putB a 12 ||| put b 46)
  | .snapTry h a b => some (opW 0x1C6 h ||| putB a 12 ||| put b 46)
  | .snapw h a b => some (opW 0x1C7 h ||| putB a 12 ||| put b 46)
  | .brk h a => some (opW 0x1C8 h ||| put a 12)
  | .trace h a b => some (opW 0x1C9 h ||| put a 12 ||| put b 38)
  | .prog h a => some (opW 0x1CA h ||| put a 12)
  | .rand h a b c d => some (opW 0x1CB h ||| put a 12 ||| put b 46 ||| put c 38 ||| put d 30)
  | .knell h a => some (opW 0x1CC h ||| put a 38)
  | .halt h => some (opW 0x1CD h)
  | .bxiLd h a b c d => some (opW 0x1D0 h ||| put a 23 ||| put b 46 ||| put c 38 ||| put d 30)
  | .bxiSt h a b c d e => some (opW 0x1D0 h ||| put a 23 ||| put b 17 ||| put c 46 ||| put d 38 ||| put e 30 ||| put 1#2 28)
  | .bxiCp h a b c d e f => some (opW 0x1D0 h ||| put a 23 ||| put b 20 ||| put c 17 ||| put d 46 ||| put e 38 ||| put f 30 ||| put 2#2 28)
  | .bxw h a => some (opW 0x1D1 h ||| put a 38)
  | .darr h a b => some (opW 0x1D2 h ||| put a 38 ||| put b 30)
  | .dwait h a b => some (opW 0x1D3 h ||| put a 38 ||| put b 30)
  | .idxldRead h a b c => some (opW 0x1D4 h ||| put a 25 ||| put b 46 ||| put c 38 ||| putB true 29)
  | .idxldFill h a b c => some (opW 0x1D4 h ||| put a 24 ||| put b 38 ||| put c 30)
  | .tblld h a b c d e => some (opW 0x1D5 h ||| put a 27 ||| put b 12 ||| put c 46 ||| put d 38 ||| put e 30)
  | .dend h => some (opW 0x1D6 h)
  | .pairWord as x y => some (putB true 63 ||| putHalf x 32 ||| putHalf y 1 ||| putB as 0)
  | .hnop as => some (putB true 63 ||| putB as 0)
  | _ => none

end Sys2Proof
end

