-- ==== Sys2Proof/Machine/AgentTypes.lean ====
section
/-!
DEFINITION. The records of a gang and of a drover context: paths, stacks, the register window, trap state (R164 to R174,
R203 to R211, R412 to R428, R384 to R391).
-/
namespace Sys2Proof.Machine

/-- Values of registers: scalar registers, lanes of physical vector registers (register * 64 + lane), mask registers. -/
structure RegVals where
  s : List (Nat × U64)
  v : List (Nat × U32)
  m : List (Nat × U64)
deriving DecidableEq, Repr
def RegVals.none : RegVals := ⟨[], [], []⟩

/-- An open LOOK shadow: the words left in it, the operation in flight of its instruction I, if it has one, and what the registers
that I writes held before it (R191). While planes still owe I's own offset, the shadow has not begun. -/
structure Shadow where
  left : Nat
  op : Option Nat
  was : RegVals
  fresh : Bool
deriving DecidableEq, Repr

/-- A path of a gang (R170): its offset, its lanes, the planes whose word of this offset has issued (R167), and what the
scheduler keeps of it (R191, R407, R408). A drover has one path. -/
structure Path where
  /-- Names the path within its gang. -/
  id : Nat
  pc : Offs
  lanes : U64
  /-- Planes below this one have issued their word of the offset pc (R167). -/
  plane : Nat
  /-- Cycles since the path last issued, or since its gang last stopped (R407). -/
  age : Nat
  /-- The word at pc has issued and waits: it issues again when what it waits for may have come. -/
  stalled : Bool
  /-- A taken arm, first among the runnable paths (R408, R427). -/
  taken : Bool
  /-- The LOOK shadows that its words stand in (R191). -/
  shadows : List Shadow
  /-- The number under which the memory words of the offset pc count, once one has issued (R305). -/
  ins : Option Nat
  /-- Where the path goes on after the word at pc, offset and plane, where that word issues again for a fault that came back with its data while
  words after it had issued (R361, R412). -/
  back : List (Offs × Nat)
deriving DecidableEq, Repr

/-- An arm or a group that has not started: its lanes and where it starts (R248, R253). -/
structure Arm where
  lanes : U64
  start : Offs
deriving DecidableEq, Repr

/-- The kinds of divergence entry (R248, R253): a TABLE entry of JMP.T joins by JOIN, one of CALL.T by RET. -/
inductive SplitKind where
  | split | jmpT | callT
deriving DecidableEq, Repr

/-- An entry of the divergence stack (R170, R248, R249, R253). -/
structure DivEntry where
  kind : SplitKind
  /-- The path that pushed it, which its lanes form again. -/
  owner : Nat
  join : Offs
  /-- Every lane of the entry. -/
  lanes : U64
  /-- Arms or groups that have not started, in order. -/
  todo : List Arm
  /-- The paths that run its arms and have not arrived. -/
  running : List Nat
  /-- The frame size of CALL.T. -/
  frame : Nat
  /-- The owner was a taken arm (R408). -/
  taken : Bool
  /-- The slice offset of a spilled entry, of the words that a TABLE entry adds where it is one (R74, R253). -/
  spill : Option Nat
deriving DecidableEq, Repr

/-- An entry of the call stack (R250): owned by a path; its lanes are those of the path at the call. -/
structure CallEntry where
  ret : Offs
  frame : Nat
  owner : Nat
  lanes : U64
  /-- Made by CALL.T for one of several groups: its return is the group's arrival (R253). -/
  group : Bool
  spill : Option Nat
deriving DecidableEq, Repr

/-- An open frame of the register window: its logical base, its size, and its slice offset when spilled (R206, R207). -/
structure Frame where
  base : Nat
  size : Nat
  spill : Option Nat
deriving DecidableEq, Repr

/-- The plane region a gang is in (R166, R255). -/
structure Region where
  base : Offs
  n : Nat
  len : Nat
deriving DecidableEq, Repr

/-- A control set (R427), with what the stacks and the spill region hold at that point. -/
structure ControlSet where
  paths : List Path
  exec : U64
  save : Option U64
  planes : SMap Nat
  region : Option Region
  wb : Nat
  rb : Nat
  spill : Nat
  parked : Bool
  calls : List CallEntry
  divs : List DivEntry
  frames : List Frame
  /-- Words that do not hit again when they issue again, by path and offset (R418, R452). -/
  noHit : List (Nat × Offs)
deriving DecidableEq, Repr

/-- The report of a trap (R26, R209, R210). -/
structure TrapRegs where
  cause : U64
  pc : U64
  mask : U64
  addr : U64
  reg : U64
deriving DecidableEq, Repr

/-- A pending entry (R413, R428): the lanes of an instruction that have not been performed, with the operands that they
captured at issue: per lane the address or index, and two words of data. -/
structure PendEntry where
  /-- The place of its instruction in the order of issue (R363, R413), and the WB under which it issued; no register shows them. -/
  order : Nat
  wb : Nat
  replay : Bool
  planes : BitVec 4
  off : Offs
  lanes : U64
  word : U64
  addr : SMap U64
  data : SMap (U64 × U64)
deriving DecidableEq, Repr

/-- Who settles pending entries: a RESUME, the host, or the resumption of a saved team, with the host's command that it received (R363,
R430, R462). -/
inductive Settler where
  | word
  | host (complete : Bool)
  | replay (cmd : Option Bool)
deriving DecidableEq, Repr

/-- A settlement under way: whose it is, the entries that it has passed, and whether the one that it stands at has been sent. -/
structure Settling where
  by_ : Settler
  n : Nat
  sent : Bool
deriving DecidableEq, Repr

/-- A trap being taken: it enters its handler once what was sent has finished (R412, R413, R415). -/
structure Stopping where
  regs : TrapRegs
  /-- The return point: the offset and the planes that have issued there (R361). -/
  pc : Offs
  plane : Nat
  path : Nat
  /-- The entry of the lanes that failed (R413, R418). -/
  entries : List PendEntry
deriving DecidableEq, Repr

/-- A breakpoint or watchpoint hit that is owed: its report, whether the gang parks in non-stop mode, and whether the word was one of a trap
handler (R418, R452, R453). -/
structure Hit where
  regs : TrapRegs
  nonstop : Bool
  inTrap : Bool
deriving DecidableEq, Repr

/-- Why a gang is to park once what it sent has finished: a hit with NONSTOP (R192, R453), or the policy of a divergence, PARK or HALT, where
it is still to park after a trap that is being taken (R446). -/
inductive Pausing where
  | hit (r : TrapRegs)
  | park
  | halt
deriving DecidableEq, Repr

/-- A settlement concerns the entry: a resumed team settles its replay entries (R430). -/
def settles (x : Settling) (e : PendEntry) : Bool := match x.by_ with | .replay _ => e.replay | _ => true

/-- A dropped store to report (R53). -/
structure Dropped where
  addr : U64
  lanes : U64
  detail : BitVec 8
deriving DecidableEq, Repr

/-- An engine operation's report that a wait takes up (R322, R354, R377). -/
structure EngFault where
  /-- A matrix operation, else a copy. -/
  mat : Bool
  /-- Its batch, or its sequence number in a drover; none while its batch is open. -/
  batch : Option U32
  /-- The detail of COPYFAULT or MATFAULT, and what TRAPREG[23:16] and TRAPREG[15:0] hold. -/
  detail : BitVec 8
  under : BitVec 8
  info : BitVec 16
  addr : U64
  order : Nat
deriving DecidableEq, Repr

/-- The operand latch of a gang (R345): rows of registers, and the tag of what it holds. -/
structure Latch where
  valid : Bool
  nrows : Nat
  reg : Nat
  rows : SMap U32
deriving DecidableEq, Repr

/-- A gang, or a drover context with one lane and one path (R6, R164, R203, R384). -/
structure Agent where
  /-- The model's own name of the agent. -/
  id : Nat
  drover : Bool
  /-- The team and the grid, by the model's own names. -/
  team : Nat
  grid : Nat
  /-- GANGIDX; a drover's context number. -/
  idx : Nat
  die : Nat
  /-- The core of a gang; the drover number of a context. -/
  core : Nat
  /-- The gang scheduler of the core and the slot (R159). -/
  sched : Nat
  slot : Nat
  /-- W and Q (R205). -/
  width : Nat
  q : Nat
  sregs : SMap U64
  vregs : SMap U32
  /-- Words of them that hold an error that cannot be corrected, by their keys (R354). -/
  flawed : List Nat
  mregs : SMap U64
  kregs : SMap (BitVec 512)
  exec : U64
  live : U64
  /-- The plane of each lane (R166). -/
  planes : SMap Nat
  region : Option Region
  /-- The ALL.BEGIN save slot (R174). -/
  save : Option U64
  /-- The runnable paths and those that a call holds (R170, R208). -/
  paths : List Path
  nextPath : Nat
  /-- Cycles, this one among them, in which a GAP lets no word of the agent issue (R189), and in which its last word gives way (R190). -/
  gap : Nat
  gw : Nat
  /-- What registers hold whose reading in a LOOK shadow the word at issue has cast (R191). -/
  lent : RegVals
  divs : List DivEntry
  calls : List CallEntry
  frames : List Frame
  wb : Nat
  rb : Nat
  /-- The spill depth, bytes per lane (R73). -/
  spill : Nat
  fp : BitVec 5
  prog : SMap U64
  /-- The batches closed last (R323, R351): operations of open batches carry none. -/
  mbatch : U32
  cbatch : U32
  trap : TrapRegs
  trapvec : U64
  pend : List PendEntry
  /-- Entries are being settled (R363, R430, R462). -/
  resuming : Option Settling
  /-- The trap-return set; held in trap mode only (R415). -/
  handler : Option ControlSet
  stopping : Option Stopping
  /-- The gang parks once what it sent has finished, and after the trap that it is being taken to (R192, R446, R453). -/
  pausing : Option Pausing
  /-- A fault that a forced save met, raised at resumption (R423). -/
  heldFault : Option TrapRegs
  /-- Hits of the word at issue or of a word that faulted (R418, R452), and the words that do not hit again, by path and offset. -/
  hits : List Hit
  noHit : List (Nat × Offs)
  parked : Bool
  /-- Parked by a hit with NONSTOP (R453). -/
  nonstop : Bool
  /-- Stopped by YIELD (R420). -/
  yielded : Bool
  /-- Saved by force, while its team is saved (R426). -/
  forced : Bool
  /-- Waits at BAR.T or BAR.C (R257). -/
  atBarT : Bool
  atBarC : Bool
  dropped : List Dropped
  engFaults : List EngFault
  latch : Latch
  /-- What a walk found for the page that the word at hand missed (R30, R31). -/
  walked : List (Nat × Nat × BitVec 8)
  /-- The sequence counter of a drover's transfers (R376). -/
  seq : U32
  /-- Barriers of the binding set, oldest first, by the model's name of the team and the offset in its allocation (R391). -/
  bset : List (Nat × Nat)
  /-- The index buffer (R379). -/
  ixbuf : SMap Byte
  /-- The binding number and its team; none for DRV.START (R161, R374). -/
  binding : Option Nat
  /-- The recorded cores of the home team and of its cluster: core, team, allocation base (R398). -/
  recorded : List (Nat × Nat × Nat)
  /-- The deadline of a drover program's work (R410). -/
  deadline : U64
  /-- Its last word at issue waits (R395); and where that is a BXI which found the walker's queue full: the core, the offset at which it
  stands, and its place in the order (R410). -/
  waits : Bool
  want : Option (Nat × Offs × List Nat)
  /-- Ended: by DEND or by fault, with operations still to complete (R389, R390, R395). -/
  ended : Bool
  endFault : Option (BitVec 8)
deriving DecidableEq, Repr

/-- Every lane below w. -/
def lowMask (w : Nat) : U64 := if 64 ≤ w then BitVec.allOnes 64 else BitVec.ofNat 64 (2 ^ w - 1)

/-- No agent. -/
def Agent.absent : Agent where
  id := 0
  drover := false
  team := 0
  grid := 0
  idx := 0
  die := 0
  core := 0
  sched := 0
  slot := 0
  width := 32
  q := 256
  sregs := []
  vregs := []
  flawed := []
  mregs := []
  kregs := []
  exec := 0
  live := 0
  planes := []
  region := none
  save := none
  paths := []
  nextPath := 1
  gap := 0
  gw := 0
  lent := RegVals.none
  divs := []
  calls := []
  frames := []
  wb := 0
  rb := 0
  spill := 0
  fp := 0
  prog := []
  mbatch := 0
  cbatch := 0
  trap := ⟨0, 0, 0, 0, 0⟩
  trapvec := 0
  pend := []
  resuming := none
  handler := none
  stopping := none
  pausing := none
  heldFault := none
  hits := []
  noHit := []
  parked := false
  nonstop := false
  yielded := false
  forced := false
  atBarT := false
  atBarC := false
  dropped := []
  engFaults := []
  latch := ⟨false, 0, 0, []⟩
  walked := []
  seq := 0
  bset := []
  ixbuf := []
  binding := none
  recorded := []
  deadline := 0
  waits := false
  want := none
  ended := false
  endFault := none

end Sys2Proof.Machine
end

