-- ==== Sys2Proof/Machine/MemTypes.lean ====
section
/-!
DEFINITION. The records of the memory system: translations, caches, range locks, partial sums, outstanding accesses, error
logs (R16, R31 to R35, R38 to R44, R51 to R57, R59 to R69, R78 to R80, R121 to R128).
-/
namespace Sys2Proof.Machine

/-- A translation held by a TLB: the level of its leaf gives the page size (R15, R16, R31). -/
structure TlbEntry where
  ctx : Nat
  /-- The virtual page, as VA divided by the page size. -/
  vpage : Nat
  level : Nat
  /-- The leaf. -/
  leaf : U64
deriving DecidableEq, Repr

/-- A table pointer held by the walk cache of a die (R32): the entry that was read at a level for a virtual prefix. -/
structure WalkEntry where
  ctx : Nat
  level : Nat
  pre : Nat
  entry : U64
deriving DecidableEq, Repr

/-- A translation miss (R31, R32): the context, the 64 KiB virtual page, and the agents that wait for it, each with the core whose L1
TLB it uses. -/
structure Walk where
  ctx : Nat
  vpn : Nat
  asks : List (Option Nat × Nat)
  /-- An invalidation met it: it starts again (R35). -/
  restart : Bool
deriving DecidableEq, Repr

/-- A line of an L1, newest first in its list (R65): its physical address divided by 128, and its 128 bytes. -/
structure L1Line where
  line : Nat
  data : List Byte
deriving DecidableEq, Repr

/-- An entry of a core's range-lock table (R78): the operation, its kind, and the bytes of the pool from lo to before hi. -/
structure Lock where
  op : Nat
  dst : Bool
  lo : Nat
  hi : Nat
deriving DecidableEq, Repr

/-- A partial sum (R122, R123, R125): where it is held (a core's reduction buffer, or a die's L2), its operation and its
touched elements. A BF16 or FP16 element is held in FP32. -/
structure Partial where
  die : Nat
  core : Option Nat
  line : Nat
  aop : BitVec 4
  size : Nat
  bf : Bool
  elems : SMap U64
deriving DecidableEq, Repr

/-- The directory's state of a line (R43). -/
inductive DirState where
  | i
  | s (dies : BitVec 8)
  | u
deriving DecidableEq, Repr

/-- What a memory operation does at its point of coherence. -/
inductive MemKind where
  | load | store | atomic | reduce | fill
deriving DecidableEq, Repr

/-- How far one lane's access has come: it waits for its turn, the home has asked for copies to be invalidated, it has left
the module, its data or its acknowledgement is here, or it met an error. -/
inductive PartState where
  | waiting | invalidating | away | done | failed (detail : BitVec 8)
deriving DecidableEq, Repr

/-- One lane's access of an outstanding operation. -/
structure Part where
  lane : Nat
  /-- The effective address, as a trap reports it. -/
  ea : U64
  /-- The physical address. -/
  pa : Nat
  /-- The module that the access goes to, as the remap table gave it when it was read (R21). -/
  phys : BitVec 12
  data : U64
  cmp : U64
  st : PartState
  /-- Its page has L1NC (R16, R66). -/
  nc : Bool
deriving DecidableEq, Repr

/-- Where the result of a load goes: a scalar register, a physical vector register (and the next, for 64 bits), a
descriptor register, or nowhere. -/
inductive Dest where
  | scalar (n : Nat)
  | vector (reg : Nat) (reg2 : Nat)
  | none
deriving DecidableEq, Repr

/-- A memory instruction in flight (R66, R305, R413). -/
structure MemOp where
  id : Nat
  agent : Nat
  path : Nat
  kind : MemKind
  aop : BitVec 4
  bf : Bool
  /-- Bytes of each lane's access. -/
  size : Nat
  sx : Bool
  dest : Dest
  /-- Acquire or release at the scope (R101, R102). -/
  acq : Bool
  scope : Nat
  /-- The lines that its answer brings into the L1 (R63, R65 to R68): none of a page with L1NC, of a drover, or after a clear. -/
  fills : List Nat
  nt : Bool
  parts : List Part
  /-- The word, its offset and its plane, for a report (R413, R428). -/
  word : U64
  off : Offs
  plane : Nat
  /-- The words of one offset of a region count as one instruction (R305). -/
  ins : Nat
  /-- Gangs that took bytes of this store from the store queue (R101). -/
  readers : List Nat
  /-- The core whose L1 and store queue it uses, none for a drover; its die, its number in the error log, its grid. -/
  core : Option Nat
  die : Nat
  no : BitVec 7
  grid : Nat
  /-- The lanes that were active before the guard, for the report of a gang-uniform word (R297). -/
  mask : U64
  /-- Sent when a pending entry is settled: lanes that fail stay pending in it (R363). -/
  settles : Bool
  /-- It has reached neither the store queue nor a bank: a release at gang or team scope whose earlier loads have not returned (R101), or the
  access of one plane of an offset (R83). -/
  held : Bool
  /-- The engine operation that it belongs to: the issuer's counters leave it out (R113, R130). -/
  eng : Option Nat
deriving DecidableEq, Repr

/-- An entry of a die's error log (R57). -/
structure ErrEntry where
  pa : Nat
  kind : BitVec 4
  source : BitVec 4
  agent : BitVec 7
  gt : U64
deriving DecidableEq, Repr

/-- A superblock that an L2 holds (R40): its number, the sectors that it takes, and the lines of it that are held as read copies or
partial sums where it is homed on another die. -/
structure L2Tag where
  sb : Nat
  n : Nat
  lines : BitVec 4
deriving DecidableEq, Repr

/-- What the error codes have not yet met (R51): a unit with an error that is corrected at each read, in DRAM, in L2 data, in an L2 tag
or in die scratchpad; an uncorrectable DRAM unit below a superblock that the L2 holds. -/
inductive Flaw where
  | weakDram | weakL2 | weakTag | weakScratch | hidden
deriving DecidableEq, Repr

/-- An error that strikes a memory of a die (R51): the cycle, the memory by its SOURCE of R57 (0 DRAM, 1 L2 data, 2 L2 tag, 3 die
scratchpad) or a memory of a core (4 its pool, 5 a vector register, 6 a tile, 7 a buffer), an address in the unit (there the model's names:
an offset from the first pool; agent, team, key), and whether it is more than the code corrects. -/
structure Strike where
  cyc : U64
  /-- The die whose L2 is struck: that of the home, or one that holds a copy. -/
  die : Nat
  source : BitVec 4
  addr : Nat
  double : Bool
deriving DecidableEq, Repr

/-- A codebook table slot of a box walker (R394): its table, and whether it is FULL. -/
structure Slot where
  full : Bool
  data : List Byte
deriving DecidableEq, Repr

/-- A core (R59 to R70, R78, R392 to R394). -/
structure CoreState where
  /-- The KiB of the L1 (R59). -/
  l1kib : Nat
  /-- Its lines, most recently used first (R65). -/
  l1 : List L1Line
  /-- Tags of the sampling sets, most recently used first (R62). -/
  shadow : List Nat
  /-- A, Hs, Hc and Hl of the interval (R62). -/
  ia : Nat
  ihs : Nat
  ihc : Nat
  ihl : Nat
  /-- A reclaim fell in this cycle (R63). -/
  reclaimed : Bool
  tlb : List TlbEntry
  locks : List Lock
  /-- Transfers in the walker's queue, and the one that runs (R392). -/
  queue : List Nat
  running : Option Nat
  slots : List Slot
deriving DecidableEq, Repr

/-- A core at reset: an L1 of 512 KiB, all else empty (R59, R64). -/
def CoreState.reset : CoreState where
  l1kib := 512
  l1 := []
  shadow := []
  ia := 0
  ihs := 0
  ihc := 0
  ihl := 0
  reclaimed := false
  tlb := []
  locks := []
  queue := []
  running := none
  slots := List.replicate 4 ⟨false, List.replicate 16 0⟩

/-- A packhorse record (R152, R153) before its header is laid out. -/
structure Rec where
  kind : BitVec 8
  /-- Bit 0: colour 0; bit 1: colour 1. -/
  colours : BitVec 2
  die : Nat
  core : Nat
  bad : Bool
  loc : U64
  aux : U64
  data : List Byte
deriving DecidableEq, Repr

/-- A binding or a DRV.START that waits for a drover context (R385, R410). -/
structure BindReq where
  team : Nat
  grid : Nat
  binding : Option Nat
  /-- DRV.START: the gang that waits, the offset at which it waits, and the GT at which it began to wait. -/
  agent : Nat
  off : Offs
  gtIssue : U64
  /-- The program, the argument, and the deadline. -/
  prog : U64
  arg : U64
  deadline : U64
  order : Nat
deriving DecidableEq, Repr

/-- A die (R32, R36 to R57, R384, R401 to R406). -/
structure DieState where
  tlb : List TlbEntry
  wcache : List WalkEntry
  walkQ : List Walk
  walking : List Walk
  /-- What walks have found missing for engines: the operation, the context, the page, the failing check (R26, R32). -/
  walked : List (Nat × Nat × Nat × Nat × Nat)
  /-- What its L2 holds, most recently used first (R40, R122). -/
  l2 : List L2Tag
  /-- What is wrong with the read copies in its L2 (R51): the address of the unit, its SOURCE of R57, and whether the code cannot correct it. -/
  copyFlaws : List (Nat × BitVec 4 × Bool)
  /-- The instruction caches of its drovers, most recently used first: the drover, the line, its bytes (R386). -/
  icache : List (Nat × Nat × List Byte)
  /-- Activations of each row, and rows whose bank is held (R38). -/
  rows : SMap Nat
  heldRows : List Nat
  errlog : List ErrEntry
  errOvf : Bool
  /-- Offered teams, in order; a cluster is listed by each of its teams (R158). -/
  offered : List Nat
  /-- Requests that reserving units have raised: the first team of the unit, and the teams that it asked to give way (R404). -/
  asks : List (Nat × List Nat)
  /-- Reserving units for which no choice of teams was found: they try again when a resident team is freed or saved (R404). -/
  tried : List Nat
  binds : List BindReq
  /-- Drover contexts of a restored snapshot that wait for a free context (R444). -/
  restored : List Agent
  /-- Records staged by the packhorse, oldest first (R139, R151). -/
  staging : List Rec
deriving DecidableEq, Repr

/-- A die at reset. -/
def DieState.reset : DieState where
  tlb := []
  wcache := []
  walkQ := []
  walking := []
  walked := []
  l2 := []
  copyFlaws := []
  icache := []
  rows := []
  heldRows := []
  errlog := []
  errOvf := false
  offered := []
  asks := []
  tried := []
  binds := []
  restored := []
  staging := []

end Sys2Proof.Machine
end

