-- ==== Sys2Proof/Machine/WorkTypes.lean ====
section
/-!
DEFINITION. The records of grids and teams (R154 to R163, R257 to R261, R400 to R406, R419 to R430).
-/
namespace Sys2Proof.Machine

/-- The fields of a launch record (R154). -/
structure LaunchRec where
  entry : U64
  gx : Nat
  gy : Nat
  gz : Nat
  gangs : Nat
  wcode : Nat
  vregs : Nat
  scratch : Nat
  lpriv : Nat
  csize : Nat
  l1min : Nat
  l1max : Nat
  arrays : Nat
  prio : Nat
  diemask : Nat
  deadline : U64
  tblbase : U64
  tbllen : Nat
  dskib : Nat
  trapvec : U64
  param : U64
  /-- BIND0 to BIND3: program and argument. -/
  binds : List (U64 × U64)
deriving DecidableEq, Repr

/-- No record. -/
def LaunchRec.absent : LaunchRec :=
  ⟨0, 1, 1, 1, 1, 1, 32, 0, 0, 0, 512, 1536, 0, 0, 0, 0, 0, 0, 0, 0, 0, []⟩

/-- States of a grid (R162). A grid in a launch queue has no record of its own yet. -/
inductive GridState where
  | running | retired
deriving DecidableEq, Repr

/-- A grid (R154 to R163). -/
structure Grid where
  /-- The model's own name, in the order of dispatch. -/
  id : Nat
  gridid : U32
  ctx : Nat
  recva : U64
  rc : LaunchRec
  /-- The team that launched it and the parent's GRIDID. -/
  parent : Option Nat
  parentId : U32
  depth : Nat
  state : GridState
  /-- The first fault (R161, R389), and whether the host ended it (R462). -/
  fault : Option (BitVec 8)
  ended : Bool
  /-- No further teams: a bound program faulted (R161). -/
  noMore : Bool
  /-- The next linear team index to offer. -/
  next : Nat
  /-- The dies on which it holds die scratchpad, with its base there (R48). -/
  dscratch : SMap Nat
  /-- A host request stands (R425). -/
  hostReq : Bool
deriving DecidableEq, Repr

/-- States of a team (R162). -/
inductive TeamState where
  | offered | starting | running | saved | exited
deriving DecidableEq, Repr

/-- A stationary buffer (R203, R334, R341, R493): whether it holds weights, its weights and its side store, and the format
record of the last load issued into it: bits [49:35] of its format block. -/
structure Buffer where
  full : Bool
  weights : SMap Byte
  side : SMap Byte
  fmt : Option (BitVec 15)
  /-- It holds an error that cannot be corrected (R354). -/
  flawed : Bool
deriving DecidableEq, Repr

/-- A buffer that no load has been issued into. -/
def Buffer.empty : Buffer := ⟨false, [], [], none, false⟩

/-- A write that a saved team is owed (R422). -/
inductive HeldWrite where
  /-- A completion record: its offset in the allocation and its bytes. -/
  | record (off : Nat) (bytes : List Byte)
  /-- An arrival on a barrier: its offset and its count. -/
  | arrive (off : Nat) (count : Nat)
  /-- A broken mark, with its reason (R390). -/
  | broken (off : Nat) (why : BitVec 3)
deriving DecidableEq, Repr

/-- A team (R158 to R163). -/
structure Team where
  id : Nat
  teamid : U32
  grid : Nat
  state : TeamState
  lin : Nat
  member : Nat
  /-- The teams of its cluster unit, in member order, itself among them. -/
  unit : List Nat
  die : Nat
  core : Nat
  /-- The offset of its allocation in the pool, its bytes, and the bytes of its scratchpad part (R60). -/
  base : Nat
  size : Nat
  spad : Nat
  /-- The physical arrays that it owns (R160). -/
  arrays : List Nat
  /-- Cycles since it was offered (R403). -/
  waited : Nat
  /-- Placement order (R404). -/
  placed : Nat
  filled : Bool
  bindsLeft : Nat
  started : Bool
  preq : Bool
  /-- The distributor that asked, or the host (R405). -/
  reqHost : Bool
  pdl : Nat
  pdlDone : Bool
  /-- Children: the record address and the grid; none while queued (R261). -/
  children : List (U64 × Option Nat × Nat)
  /-- The group named last (R209). -/
  coll : Nat
  tiles : SMap U32
  /-- Elements of its tiles that hold an error that cannot be corrected, by their keys (R354). -/
  flawed : List Nat
  bufs : SMap Buffer
  held : List HeldWrite
  /-- Barriers of aborted collectives, by offset, with the issuing gangs: the next of them to wait there reports it (R373). -/
  aborts : List (Nat × List Nat)
  /-- The save slot: address and bytes (R424). -/
  slot : Option (Nat × Nat)
  /-- The offset in the slot of the entries held for it (R429, item 6). -/
  heldAt : Nat
  /-- The agents saved with it (R427). -/
  saved : List Agent
  saveOrder : Nat
  /-- A resume command of the host to a gang saved parked (R430): the gang and whether it completes its entries. -/
  resume : List (Nat × Bool)
deriving DecidableEq, Repr

/-- No team. -/
def Team.absent : Team where
  id := 0
  teamid := 0
  grid := 0
  state := .exited
  lin := 0
  member := 0
  unit := []
  die := 0
  core := 0
  base := 0
  size := 0
  spad := 0
  arrays := []
  waited := 0
  placed := 0
  filled := false
  bindsLeft := 0
  started := false
  preq := false
  reqHost := false
  pdl := 0
  pdlDone := false
  children := []
  coll := 0
  tiles := []
  flawed := []
  bufs := []
  held := []
  aborts := []
  slot := none
  heldAt := 0
  saved := []
  saveOrder := 0
  resume := []

/-- No grid. -/
def Grid.absent : Grid where
  id := 0
  gridid := 0
  ctx := 0
  recva := 0
  rc := LaunchRec.absent
  parent := none
  parentId := 0xFFFFFFFF
  depth := 0
  state := .retired
  fault := none
  ended := false
  noMore := false
  next := 0
  dscratch := []
  hostReq := false

/-- An entry of a launch queue (R400): the record, its context, and for a child the launching team and its ordinal; CYC at its enqueue,
and 0 for the host's or a number that grows with die and core for a LAUNCH. -/
structure Queued where
  recva : U64
  ctx : Nat
  parent : Option Nat
  parentId : U32
  depth : Nat
  ordinal : Nat
  born : U64
  rank : Nat
deriving DecidableEq, Repr

end Sys2Proof.Machine
end

