-- ==== Sys2Proof/Machine/EngineTypes.lean ====
section
/-!
DEFINITION. The records of the engines: transfers of the box walkers, matrix and epilogue operations, collectives.
-/
namespace Sys2Proof.Machine

/-- What a transfer copies (R310, R375). -/
inductive XferKind where
  | ld | st | cp | table
deriving DecidableEq, Repr

/-- How far a transfer has come (R142, R321, R396): its element cursor; the running source CRC with the source bytes that it covers and the
metadata of the row at hand; the bytes written, by address. -/
structure Progress where
  n : Nat
  crc : Nat
  seen : List U64
  rowMeta : List (U64 × Byte)
  out : SMap Byte
deriving DecidableEq, Repr

/-- Before the first element. -/
def Progress.start : Progress := ⟨0, 0xFFFFFFFF, [], [], []⟩

/-- A transfer of a box walker (R310 to R322, R376, R392), or a TBLLD that waits for its slot (R380, R394). -/
structure Xfer where
  id : Nat
  kind : XferKind
  /-- The issuing agent, and whether that is a drover. -/
  agent : Nat
  drover : Bool
  team : Nat
  grid : Nat
  /-- The walker's die and core (number in the module). -/
  die : Nat
  core : Nat
  /-- The die whose scratchpad is space 3: that of the issuing agent (R13, R49). -/
  sdie : Nat
  /-- The descriptor, and the destination descriptor of a copy between tensors. -/
  desc : BitVec 512
  desc2 : BitVec 512
  /-- The coordinate words. -/
  coord : List U64
  coord2 : List U64
  /-- The scratchpad offset in the target team's allocation, and that team. -/
  off : Nat
  target : Nat
  /-- MC and its member mask (R318). -/
  mc : Bool
  mask : U64
  rop : BitVec 2
  /-- Its batch: none while open (R323); its sequence number in a drover (R376). -/
  batch : Option U32
  seq : U32
  deadline : U64
  gtIssue : U64
  order : Nat
  agentNo : Nat
  /-- In the walker's queue with its locks registered (R78, R392). -/
  accepted : Bool
  /-- Its range locks are registered (R78, R80). -/
  locked : Bool
  /-- How far it has come; how far it had before the element whose write is not acknowledged yet (R53, R322). -/
  prog : Progress
  before : Option Progress
  /-- The destination CRC and the cursor of a snapshot from which it was restored (R396). -/
  base : Option (Nat × Nat)
  /-- The issuer, as a trace record names it (R450). -/
  issuer : Nat
  /-- TBLLD: the space, and the slot (R380). -/
  space : Nat
  slot : Nat
deriving DecidableEq, Repr

/-- The operations of the matrix and epilogue engines. -/
inductive MatKind where
  | mldN | mldW | mma | mmaz | epi | epiRs
deriving DecidableEq, Repr

/-- Why a matrix or epilogue operation ended early (R354): the detail, what TRAPREG[23:16] and [15:0] hold, and the address. -/
structure MatHalt where
  detail : Nat
  under : Nat
  info : Nat
  addr : U64
deriving DecidableEq, Repr

/-- An operation of a matrix or epilogue engine in flight (R333). -/
structure MatOp where
  id : Nat
  kind : MatKind
  agent : Nat
  team : Nat
  grid : Nat
  die : Nat
  core : Nat
  /-- Tile handle and buffer. -/
  tile : Nat
  buf : Nat
  row0 : Nat
  nrows : Nat
  /-- The operand words of the instruction, as read at issue. -/
  s1 : U64
  s2 : U64
  s3 : U64
  /-- The activation rows, as the registers or the latch gave them: word w of row r at key 64 r + w. -/
  rows : SMap U32
  batch : Option U32
  deadline : U64
  order : Nat
  /-- The descriptor of an epilogue as it was read (R348). -/
  desc : BitVec 512
  /-- The rows of an EPI.RS that have been sent (R350). -/
  sent : Nat
  /-- The fault of an EPI.RS whose elements sent before it are not yet registered (R118, R354): its detail, what TRAPREG holds, its address. -/
  stop : Option MatHalt
  /-- Rows of A whose registers could not be corrected when they were read (R354). -/
  lost : List Nat
  /-- The issuer, as a trace record names it (R450). -/
  issuer : Nat
deriving DecidableEq, Repr

structure EngineState where
  xfers : List Xfer
  mats : List MatOp
deriving DecidableEq, Repr

def EngineState.reset : EngineState := ⟨[], []⟩

end Sys2Proof.Machine
end

