-- ==== Sys2Proof/Machine/SystemTypes.lean ====
section
/-!
DEFINITION. The records of snapshots, of the fabric and its groups, of the host interface and of the module's clocks and power.
-/
namespace Sys2Proof.Machine

/-- States of a colour (R147). -/
inductive ColState where
  | free | recording | streaming | complete
deriving DecidableEq, Repr

/-- A colour of the snapshots on this module (R135 to R151). -/
structure Colour where
  st : ColState
  fail : Bool
  local_ : Bool
  /-- A request or a cairn has started the colour and its cut has not begun (R140, R147). -/
  asked : Bool
  /-- A cut has begun: in-scope issue has stopped (R140). -/
  cutting : Bool
  /-- Input channels logged for the colour (R140, R441). -/
  chans : List Nat
  /-- Granules in scope at the cut, as ranges of granule numbers, and those whose pending bit has been cleared (R137). -/
  pend : List (Nat × Nat)
  capt : List Nat
  /-- Records of each die, CLOSE excluded (R153). -/
  count : SMap Nat
  /-- Dies whose CLOSE record is durable or has failed (R147). -/
  closed : List Nat
  /-- An abort is under way, and the dies whose ABORT record is not durable (R147). -/
  abort : Bool
  aborting : List Nat
  /-- The completion has been reported (R443). -/
  reported : Bool
deriving DecidableEq, Repr

def Colour.free : Colour := ⟨.free, false, false, false, false, [], [], [], [], [], false, [], false⟩

/-- A write of a collective: in its source, which it updates in place, or in its destination; its offset, the bytes that are written as
one access each, and all of them. -/
structure CollWrite where
  src : Bool
  off : Nat
  step : Nat
  bytes : List Byte
deriving DecidableEq, Repr

/-- A collective of this module's member team in flight (R369 to R372, R435 to R439). -/
structure Coll where
  id : Nat
  grp : Nat
  /-- 0 ar, 1 rs, 2 ag, 3 bc, 4 a vote of COLL.STEP. -/
  op : Nat
  seq : Nat
  agent : Nat
  team : Nat
  grid : Nat
  die : Nat
  core : Nat
  /-- The source and destination descriptors and the control pair. -/
  src : BitVec 512
  dst : BitVec 512
  ctl0 : U64
  ctl1 : U64
  inpl : Bool
  tfmt : Nat
  n : Nat
  root : Nat
  /-- The vote of COLL.STEP. -/
  vote : Bool
  deadline : U64
  gtIssue : U64
  /-- The issuer, as a trace record names it (R450). -/
  issuer : Nat
  /-- The gangs that have issued it; it starts with the last (R371). -/
  issued : List Nat
  started : Bool
  /-- Chunks held by phase: key (phase * 2 + done) * 2^32 + chunk, as FP32, INT32 or bytes. -/
  held : SMap (List Byte)
  /-- Chunks written with their final value, and chunks delivered to other members. -/
  doneChunks : List Nat
  result : Option Bool
  /-- Writes of its result that have not been made, oldest first (R436, R437). -/
  writes : List CollWrite
deriving DecidableEq, Repr

/-- A slot of a router's reduction buffer (R442). -/
structure RouterBuf where
  port : Nat
  vc : Nat
  header : BitVec 128
  data : List Byte
deriving DecidableEq, Repr

/-- A chunk that waits for an output port of VC2: the deadline of its operation, GT at its issue and its die, by which the arbiter orders it
(R410, R438). -/
structure ChunkOut where
  port : Nat
  deadline : U64
  gtIssue : U64
  die : Nat
  packet : Packet
deriving DecidableEq, Repr

/-- An entry of the LINK-fault log (R157). -/
structure LinkEntry where
  retire : Bool
  recva : U64
  link : U64
  ctx : Nat
  grid : U32
deriving DecidableEq, Repr

/-- A LINK write under way (R156, R157): its name, its value, the entry that the log takes if it cannot be performed, its grid, whether it is
that of a dispatch, and whether the store has left. -/
structure LinkDue where
  op : Nat
  value : U64
  entry : LinkEntry
  grid : Nat
  dispatch : Bool
  sent : Bool
deriving DecidableEq, Repr

/-- What a request over Link A does: a posted write with or without Relaxed Ordering, a read, an atomic by its AOP code (R129), or the write of
LQENQ of a queue, whose value is the operand (R461). -/
inductive HostKind where
  | write (ro : Bool)
  | read
  | atomic (aop : Nat)
  | enqueue (queue : Nat)
deriving DecidableEq, Repr
/-- A request over Link A that has arrived and has not been performed (R129): its requester, its place in BAR2, its bytes, and the
operands. -/
structure HostReq where
  rid : BitVec 16
  kind : HostKind
  off : Nat
  len : Nat
  data : List Byte
  x : U64
  cmp : U64
deriving DecidableEq, Repr

/-- How the last answer ended: with its data, as an Unsupported Request (R459), or without data that cannot be corrected (R52). -/
inductive ReplyStatus where
  | success | unsupported | uncorrectable
deriving DecidableEq, Repr
/-- An entry of the park log (R467). -/
structure ParkEntry where
  nonstop : Bool
  trapMode : Bool
  gang : U64
  grid : U32
  cause : BitVec 16
deriving DecidableEq, Repr

/-- A causal trial (R454, R455). -/
structure Trial where
  start : U64
  /-- Per agent, since the last payment: its in-range issue cycles, and those of others for which it is owed delay. -/
  inRange : SMap Nat
  owed : SMap Nat
  /-- Cycles for which an agent is still held from issue. -/
  hold : SMap Nat
  /-- In-range issue cycles that CXVD does not yet hold, and the cycles since the last payment. -/
  unpaid : Nat
  cycles : Nat
deriving DecidableEq, Repr

structure SystemState where
  /-- Colours 0 and 1 (R146). -/
  c0 : Colour
  c1 : Colour
  /-- Notices that the coordinator has received for each colour, and the OR of their fail bits (R443). -/
  notices : SMap Nat
  noticeFail : SMap Bool
  /-- Cairns of an aborted cut that are still awaited, by colour and channel: they are discarded on arrival (R147). -/
  lateCairns : List (Bool × Nat)
  /-- Positions in each channel's log, by channel (R441). -/
  logPos : SMap Nat
  /-- What the packhorses have written to their target regions: the address, on a link the bus address, and the bytes of each record (R150, R152,
R460). -/
  region : List (Nat × List Byte)
  /-- A restore runs: its colour (R444). -/
  restoring : Option Bool
  /-- Packets on the input channels, oldest first, and those sent, by channel (R431). -/
  inq : SMap (List Packet)
  outq : SMap (List Packet)
  /-- Waybill checkpoints that are due: channel, index, digest (R445). -/
  wbDue : List (Nat × Nat × U64)
  /-- Ports that are down, and the ports by which messages of the collectives of each open group have left or come (R431, R440). -/
  portsDown : List Nat
  ringPorts : SMap (List Nat)
  /-- Requests over Link A that have not been performed, in the order of their arrival (R129). -/
  hostq : List HostReq
  colls : List Coll
  /-- The next operation of each group, k of R435. -/
  seqs : SMap Nat
  routers : List RouterBuf
  /-- Chunks that wait for an output port, in the order in which they came (R410, R438, R442). -/
  inject : List ChunkOut
  /-- In-place sums that have ended early and owe the phase byte of the chunk that they wrote last (R437, R447). -/
  ending : List Coll
  /-- Groups that were open when a snapshot was restored and have issued nothing since (R447). -/
  restoredGrps : List Nat
  /-- STEP reports held by each group during agreement, and the GT at which GRPKTO passes (R440). -/
  reports : SMap (List (Nat × U64))
  agreeBy : SMap U64
  /-- Queued TLBINV requests (R34). -/
  tlbq : List U64
  lnklog : List LinkEntry
  /-- LINK writes that have not been performed (R156, R157). -/
  linkDue : List LinkDue
  lnkOvf : Bool
  parklog : List ParkEntry
  parkOvf : Bool
  trial : Option Trial
  /-- Cycles until the freeze registers latch (R456). -/
  freezeIn : Option Nat
  /-- GT of the last trace record of each stream, by die * 65 + stream; the streams that have a SYNC record; records lost since
  the last LOST record (R448, R450). -/
  trGt : SMap U64
  trSync : SMap Bool
  trLost : SMap Nat
  /-- Writes of the module's own that their homes have not taken, oldest first (R42, R448). -/
  posted : List (Nat × List Byte)
  /-- The highest step of MCLK at which the limits of R466 hold, as the controller last found it. -/
  allowed : Nat
  /-- The GiB of BAR2 that the host has configured (R459). -/
  bar2Size : Nat
  /-- Vectors of the MSI-X messages sent, oldest first (R463). -/
  msix : List Nat
  /-- The slot of the firmware image that runs; none where none was verified, which the controller reports over PLDM (R465). -/
  image : Option Nat
  pldm : Bool
  /-- Memory-error interrupts raised to the management controller (R54). -/
  memNotice : Nat
  /-- The bytes of the last answer to a requester on a link or to the management side band, and how it ended. -/
  reply : List Byte
  status : ReplyStatus
deriving DecidableEq, Repr

def SystemState.reset : SystemState where
  c0 := Colour.free
  c1 := Colour.free
  notices := []
  noticeFail := []
  lateCairns := []
  logPos := []
  region := []
  restoring := none
  inq := []
  outq := []
  wbDue := []
  portsDown := []
  ringPorts := []
  hostq := []
  colls := []
  seqs := []
  routers := []
  inject := []
  ending := []
  restoredGrps := []
  reports := []
  agreeBy := []
  tlbq := []
  lnklog := []
  linkDue := []
  lnkOvf := false
  parklog := []
  parkOvf := false
  trial := none
  freezeIn := none
  trGt := []
  trSync := []
  trLost := []
  posted := []
  allowed := 60
  bar2Size := 512
  msix := []
  image := some 0
  pldm := false
  memNotice := 0
  reply := []
  status := .success

end Sys2Proof.Machine
end

