-- ==== Sys2Proof/Machine/State.lean ====
section
/-!
DEFINITION. The state of a module (R1 to R494): every piece of state that the manual names, as plain data, and the state
after reset.
-/
namespace Sys2Proof.Machine

/-- Why the machine stops. -/
inductive Fault where
  /-- Raised by step when the module has no power or its clocks are stopped for good (R465, R466): nothing runs until it is
  powered on again. Safe: the manual gives a module without power no step. -/
  | poweredOff
deriving DecidableEq, Repr

/-- Why an instruction has no meaning. -/
inductive Refusal where
  /-- Raised by exec for an instruction that the model does not describe. Safe: nothing is said about it. -/
  | notModelled (mnemonic : String)
deriving DecidableEq, Repr

/-- Power states (R465, R466): off, on and running, clocks stopped by a thermal shutdown. -/
inductive Power where
  | off | on | shutdown
deriving DecidableEq, Repr

/-- Everything that a freeze latches (R456): the whole of the module's state. -/
structure Blocks where
  /-- Bytes of memory, by the module's own address: REGION and OFFSET of a physical address (R19) below 2^44, and above
  that the pools of the 512 cores (R59), 2 MiB each. An unlisted byte reads 0 (DESIGN CHOICE [3]). -/
  mem : SMap Byte
  /-- 64-byte units of DRAM and 8-byte words of SRAM that are uncorrectable (R51, R52), by the address of their first byte. -/
  bad : List Nat
  /-- The values that DRAM holds below modified bytes of the home L2s (R42, R54): the bytes of superblocks written since
  their last write-back. -/
  dram : SMap Byte
  /-- Superblocks that the home L2s hold modified; 8-byte words of home L2 data, and lines whose L2 tag is, uncorrectable (R51, R54). -/
  dirty : List Nat
  badL2 : List Nat
  badTags : List Nat
  /-- Errors that no read has met or that each read corrects, by the address of their unit (R51). -/
  flaws : List (Nat × Flaw)
  /-- The directory, by line (R43). -/
  dir : SMap DirState
  /-- Partial sums, oldest first (R122). -/
  partials : List Partial
  /-- Memory instructions in flight, oldest first (R66, R305). -/
  ops : List MemOp
  /-- The registers of BAR0 that hold a value of their own, by offset (R459, R469): an unlisted one holds its reset value. -/
  bar : SMap U64
  cores : SMap CoreState
  dies : SMap DieState
  grids : List Grid
  teams : List Team
  /-- The launch queues 0 to 7 (R400). -/
  queues : SMap (List Queued)
  /-- The die that took the last team (R158). -/
  lastDie : Nat
  /-- The gang or context at issue, and every other one. -/
  g : Agent
  agents : List Agent
  /-- The path at issue (R407), by its number within g. -/
  cur : Nat
  /-- The word at issue, its lanes before EXEC and guard, and its planes (R167, R172). -/
  word : U64
  lanes : U64
  pmask : BitVec 4
  /-- A word has been selected for issue: the next step issues it (R408). -/
  sel : Bool
  /-- Schedulers that have issued in this cycle (R408). -/
  served : List Nat
  eng : EngineState
  sys : SystemState
  /-- GT, its fraction of a nanosecond in units of 1 / MCLK, and CYC (R2, R209). -/
  gt : U64
  gtFrac : Nat
  cyc : U64
  /-- MCLK in kHz (R2, R468). -/
  mclk : Nat
  power : Power
  /-- Counts the free values used (DESIGN CHOICE [2]). -/
  fresh : Nat
  /-- Names the next agent, team, grid and operation (the model's own). -/
  serial : Nat
deriving DecidableEq, Repr

/-- The state of the machine: the module, what a freeze has latched, and the events that come next. -/
structure State extends Blocks where
  /-- What the freeze latched (R456). -/
  frozen : Option Blocks
  /-- Events from outside the cores, in the order in which they come (DESIGN CHOICE [1]). -/
  agenda : List Instr
  /-- Errors that will strike the memories (R51, DESIGN CHOICE [96]). -/
  strikes : List Strike
deriving DecidableEq, Repr

/-- The module right after reset. -/
def State.reset : State where
  mem := []
  bad := []
  dram := []
  dirty := []
  badL2 := []
  badTags := []
  flaws := []
  dir := []
  partials := []
  ops := []
  bar := []
  cores := []
  dies := []
  grids := []
  teams := []
  queues := []
  lastDie := 7
  g := Agent.absent
  agents := []
  cur := 0
  word := 0
  lanes := 0
  pmask := 0
  sel := false
  served := []
  eng := EngineState.reset
  sys := SystemState.reset
  gt := 0
  gtFrac := 0
  cyc := 0
  mclk := 600000
  power := .on
  fresh := 0
  serial := 1
  frozen := none
  agenda := []
  strikes := []

end Sys2Proof.Machine
end

