-- ==== Sys2Proof/Machine/Access.lean ====
section
/-!
DEFINITION. Reading the state: registers of an agent, cores, dies, teams, grids, bytes of memory (R9, R19, R59, R164, R203 to R206).
-/
namespace Sys2Proof.Machine

/-- The marker of a physical vector register, a scalar register, a tile (R164). -/
def vMarker (p : Nat) : U32 := BitVec.ofNat 32 (0x7F810000 + p)
def sMarker (n : Nat) : U64 := BitVec.ofNat 64 ((0x7F820000 + n) * (2 ^ 32 + 1))
def tMarker (h : Nat) : U32 := BitVec.ofNat 32 (0x7F830000 + h)

/-- What a scalar register reads as that nothing has written: a marker in a gang, zero in a drover (R161, R164, R374). -/
def Agent.sDefault (a : Agent) (n : Nat) : U64 := if a.drover then 0 else sMarker n
/-- A scalar register (R203). -/
def Agent.sget (a : Agent) (n : Nat) : U64 := SMap.get (a.sDefault n) a.sregs n
def Agent.sset (a : Agent) (n : Nat) (v : U64) : Agent := { a with sregs := SMap.set (a.sDefault n) a.sregs n v }

/-- The physical register that vN names (R205). -/
def Agent.phys (a : Agent) (n : Nat) : Nat := (a.wb + n) % a.q
/-- One lane of a physical vector register (R164, R203). -/
def Agent.pget (a : Agent) (p l : Nat) : U32 := SMap.get (vMarker p) a.vregs (p * 64 + l)
def Agent.pset (a : Agent) (p l : Nat) (v : U32) : Agent :=
  { a with vregs := SMap.set (vMarker p) a.vregs (p * 64 + l) v, flawed := a.flawed.filter (· != p * 64 + l) }
/-- One lane of an architectural vector register (R205). -/
def Agent.vget (a : Agent) (n l : Nat) : U32 := a.pget (a.phys n) l

/-- A mask register: m0 reads all ones (R204). -/
def Agent.mget (a : Agent) (n : Nat) : U64 := if n = 0 then BitVec.allOnes 64 else SMap.get 0 a.mregs n
/-- A write of a mask register in the lanes of `sel`: bits above W clear, m0 discards it (R204). -/
def Agent.mset (a : Agent) (n : Nat) (sel v : U64) : Agent :=
  if n = 0 then a
  else { a with mregs := SMap.set 0 a.mregs n (((a.mget n &&& ~~~sel) ||| (v &&& sel)) &&& lowMask a.width) }

/-- A descriptor register; zero is empty (R164, R307). -/
def Agent.kget (a : Agent) (n : Nat) : BitVec 512 := SMap.get 0 a.kregs n
def Agent.kset (a : Agent) (n : Nat) (v : BitVec 512) : Agent := { a with kregs := SMap.set 0 a.kregs n v }

/-- The plane of a lane (R166). -/
def Agent.plane (a : Agent) (l : Nat) : Nat := SMap.get 0 a.planes l
/-- The lanes of a set that are in plane p. -/
def Agent.inPlane (a : Agent) (m : U64) (p : Nat) : U64 := laneSet a.width fun l => bit m l && a.plane l == p
/-- The planes that lanes of a set occupy, ascending (R167). -/
def Agent.occupied (a : Agent) (m : U64) : List Nat := (List.range 4).filter fun p => (lanesOf m).any fun l => a.plane l == p
/-- OCC of PLANES: the planes some lane of a set is in (R169). -/
def planeMask (ps : List Nat) : BitVec 4 := BitVec.ofNat 4 (sumNat (ps.map (2 ^ ·)))

/-- A path by its number. -/
def Agent.path? (a : Agent) (id : Nat) : Option Path := a.paths.find? (·.id == id)
def Path.empty : Path := ⟨0, 0, 0, 0, 0, false, false, [], none, []⟩

/-- A call with F nonzero holds every path that has no lane of its own in it (R208). -/
def Agent.heldBy (a : Agent) (p : Path) : Bool := a.calls.any fun c => c.frame != 0 && c.lanes &&& p.lanes == 0
/-- The runnable paths (R170): those with a live lane. -/
def Agent.livePaths (a : Agent) : List Path := a.paths.filter fun p => p.lanes &&& a.live != 0
/-- Those of them that no call holds (R208). -/
def Agent.runnable (a : Agent) : List Path := a.paths.filter fun p => p.lanes &&& a.live != 0 && !a.heldBy p

/-- In trap mode (R415). -/
def Agent.trapMode (a : Agent) : Bool := a.handler.isSome

/-- One path with every live lane in one plane (R173, R174). -/
def Agent.united (a : Agent) : Bool :=
  match a.runnable with
  | [p] => p.lanes &&& a.live == a.live && (a.occupied a.live).length == 1
  | _ => false
/-- A whole gang (R173). -/
def Agent.whole (a : Agent) : Bool := a.united && a.live == lowMask a.width && a.exec &&& lowMask a.width == lowMask a.width

/-- The offset that follows o in program order: at the last position of a region, past its copies (R166, R168). DEDUCED [11]. -/
def Agent.after (a : Agent) (o : Offs) : Offs :=
  match a.region with
  | some r => if o + 1 = r.base + BitVec.ofNat 54 r.len then r.base + BitVec.ofNat 54 (r.n * r.len) else o + 1
  | none => o + 1

/-- A core, a die, a team, a grid, an agent. -/
def State.core (s : State) (c : Nat) : CoreState := SMap.get CoreState.reset s.cores c
def State.setCore (s : State) (c : Nat) (x : CoreState) : State := { s with cores := SMap.set CoreState.reset s.cores c x }
def State.die (s : State) (d : Nat) : DieState := SMap.get DieState.reset s.dies d
def State.setDie (s : State) (d : Nat) (x : DieState) : State := { s with dies := SMap.set DieState.reset s.dies d x }
def State.team (s : State) (t : Nat) : Team := (s.teams.find? (·.id == t)).getD Team.absent
def State.setTeam (s : State) (x : Team) : State := { s with teams := updFirst (·.id == x.id) (fun _ => x) s.teams }
def State.grid (s : State) (g : Nat) : Grid := (s.grids.find? (·.id == g)).getD Grid.absent
def State.setGrid (s : State) (x : Grid) : State := { s with grids := updFirst (·.id == x.id) (fun _ => x) s.grids }
/-- Every agent, the one at issue first. -/
def State.all (s : State) : List Agent := if s.g.id = 0 then s.agents else s.g :: s.agents
def State.agent? (s : State) (i : Nat) : Option Agent := s.all.find? (·.id == i)
/-- An agent replaced, wherever it stands. -/
def State.setAgent (s : State) (a : Agent) : State :=
  if s.g.id = a.id then { s with g := a } else { s with agents := updFirst (·.id == a.id) (fun _ => a) s.agents }

/-- The core of an agent, as its number in the module. -/
def Agent.coreNo (a : Agent) : Nat := a.die * 64 + a.core
/-- The team, the grid and the launch record of the agent at issue. -/
def State.tm (s : State) : Team := s.team s.g.team
def State.gr (s : State) : Grid := s.grid s.g.grid
def State.rc (s : State) : LaunchRec := s.gr.rc
/-- The path at issue. -/
def State.path (s : State) : Path := (s.g.path? s.cur).getD Path.empty

/-- A byte of memory; an unlisted one is 0. DESIGN CHOICE [3]. -/
def State.getByte (s : State) (a : Nat) : Byte := SMap.get 0 s.mem a
/-- n bytes from address a. -/
def State.getBytes (s : State) (a n : Nat) : List Byte := (List.range n).map fun i => s.getByte (a + i)
/-- The value of n bytes from address a (R9). -/
def State.getVal (s : State) (a n : Nat) : Nat := ofBytes (s.getBytes a n)

/-- Where the pool of a core begins in the model's addresses (R59). -/
def poolBase (core : Nat) : Nat := 2 ^ 44 + core * 2 ^ 21
/-- Where a team's allocation begins. -/
def Team.origin (t : Team) : Nat := poolBase (t.die * 64 + t.core) + t.base

end Sys2Proof.Machine
end

