-- ==== Sys2Proof/Machine/Regs.lean ====
section
/-!
DEFINITION. The control registers of BAR0: where they lie (R459, R469), what they hold at reset, and which of their bits a
write changes (R10, R18 to R23, R39, R50, R64, R128, R135, R149, R150, R395, R406, R424, R425, R433, R443 to R445, R448,
R451, R454, R456, R460 to R463, R468).
-/
namespace Sys2Proof.Machine

/-- Offsets of the blocks (R459, R469). -/
def rDieMem (d off : Nat) : Nat := 0x100000 + 0x100000 * d + off
def rSched (d off : Nat) : Nat := rDieMem d 0x10000 + off
def rDrv (d off : Nat) : Nat := rDieMem d 0x20000 + off
def rTrace (d off : Nat) : Nat := rDieMem d 0x30000 + off
def rPh (d off : Nat) : Nat := rDieMem d 0x40000 + off
def rCore (c off : Nat) : Nat := 0x1000000 + 0x10000 * c + off
def rXlat (off : Nat) : Nat := 0x3000000 + off
def rRemap (i : Nat) : Nat := 0x3010000 + 8 * i
def rSnap (off : Nat) : Nat := 0x3020000 + off
def rFab (off : Nat) : Nat := 0x3030000 + off
def rSave (off : Nat) : Nat := 0x3040000 + off
def rExp (off : Nat) : Nat := 0x3050000 + off
def rRb (off : Nat) : Nat := 0x3800000 + off
/-- Registers of the host interface. -/
def rHintst : Nat := 0x098
def rLqres : Nat := 0x080
def rHgres : Nat := 0x090

/-- What a register holds at reset (the Reset columns of the rules above). -/
def regReset (off : Nat) : U64 :=
  if off = 0x0D0 then 6200
  else if off = 0x0D8 then 48
  else if 0x100000 ≤ off && off < 0x900000 then
    let r := off % 0x100000
    if r = 0 then 0x10800 else if r = 0x10000 then 0x000186A000400001 else if r = 0x30010 then 1 else 0
  else if 0x1000000 ≤ off && off < 0x3000000 then
    let r := off % 0x10000
    if r = 0 then 0x0401 else if 0x180 ≤ r && r < 0x1C0 then 0x78000 else 0
  else if off = rXlat 0x810 || off = rXlat 0x818 then Config.myPhys.setWidth 64
  else if off = rXlat 0x820 then Config.myPhys.setWidth 64
  else if 0x3010000 ≤ off && off < 0x3018000 then
    if off = rRemap Config.myPhys.toNat then 0x80000000 ||| Config.myPhys.setWidth 64 else 0
  else if off = rSnap 0xD0 then 0x10000
  else if off = rFab 0xA08 then 10000
  else if off = rFab 0xA18 then 0x0000040000000000
  else if off = rSave 0x28 then 0x186A0
  else if off = rExp 0x18 then 0xF000
  else 0

/-- The value a register holds. -/
def State.reg (s : State) (off : Nat) : U64 := SMap.get (regReset off) s.bar off
/-- A register given a value. -/
def State.setReg (s : State) (off : Nat) (v : U64) : State := { s with bar := SMap.set (regReset off) s.bar off v }
/-- A counter advanced by n, modulo 2^64. -/
def State.count (s : State) (off n : Nat) : State := s.setReg off (s.reg off + BitVec.ofNat 64 n)
/-- A counter of sectors advanced by what one access moves. -/
def State.addSectors (s : State) (off n : Nat) : State := { s with bar := SMap.insert s.bar off (s.reg off + BitVec.ofNat 64 n) }
/-- An event of an interrupt: its bit of HINTST is set, and, where HINTEN enables it, the message of its vector is sent (R463). -/
def State.interrupt (s : State) (n : Nat) : State :=
  let s := s.setReg rHintst (s.reg rHintst ||| lane n)
  if (s.reg 0xA0).getLsbD n then { s with sys := { s.sys with msix := s.sys.msix ++ [n] } } else s

/-- The address under which a byte outside the module stands on its link: LAWIN + o on Link A, LBWIN + o on Link B; one inside keeps its own
(R19, R460). -/
def State.busAddr (s : State) (pa : Nat) : Nat :=
  match pa / 2 ^ 40 % 16 with
  | 2 => ((s.reg 0xC0).toNat + pa % 2 ^ 40) % 2 ^ 64
  | 3 => ((s.reg 0xC8).toNat + pa % 2 ^ 40) % 2 ^ 64
  | _ => pa
/-- Dispatches, offers and the placements of each die happen at most once in a cycle (R401 to R403): their marks among what has been
served in this cycle. -/
def onceDispatch : Nat := 65536
def onceOffer : Nat := 65537
def oncePlace (d : Nat) : Nat := 65538 + d
/-- Marks of the same kind: the decision on a core's L1 (R62), and an agent's stall at the range locks (R80). -/
def onceInterval (core : Nat) : Nat := 2 ^ 20 + core
def onceLocks (id : Nat) : Nat := 2 ^ 21 + id
def State.did (s : State) (k : Nat) : Bool := s.served.contains k
def State.once (k : Nat) (s : State) : State := { s with served := k :: s.served }

def State.mylmn (s : State) : BitVec 12 := (s.reg (rXlat 0x810)).extractLsb' 0 12
def State.myphys (s : State) : BitVec 12 := (s.reg (rXlat 0x818)).extractLsb' 0 12
/-- REMAP[n]: the physical number, where the entry is valid (R21). DESIGN CHOICE [97]: after a valid entry has changed under a resident
grid every later request goes to the new destination; the manual leaves open which (R22). -/
def State.remap (s : State) (n : BitVec 12) : Option (BitVec 12) :=
  let e := s.reg (rRemap n.toNat)
  if e.getLsbD 31 then some (e.extractLsb' 0 12) else none

/-- Physical coordinates lie in DOMBOX (R20, R23). -/
def State.inDomain (s : State) (p : BitVec 12) : Bool :=
  let b := s.reg (rXlat 0x820)
  let ok := fun (lo ext c : Nat) => lo ≤ c && c ≤ lo + ext
  ok (b.extractLsb' 0 4).toNat (b.extractLsb' 12 2).toNat (p.extractLsb' 0 4).toNat &&
  ok (b.extractLsb' 4 4).toNat (b.extractLsb' 14 2).toNat (p.extractLsb' 4 4).toNat &&
  ok (b.extractLsb' 8 4).toNat (b.extractLsb' 16 2).toNat (p.extractLsb' 8 4).toNat

/-- The bits of a stored register that a write changes; none for a register that is not written so. -/
def writeMask (off : Nat) : U64 :=
  let ones : U64 := BitVec.allOnes 64
  let m := fun (hi lo : Nat) => BitVec.ofNat 64 ((2 ^ (hi - lo + 1) - 1) * 2 ^ lo)
  if off = 0x0A0 then m 8 0
  else if off = 0x0A8 then m 4 0
  else if off = 0x0B0 then ones
  else if off = 0x0B8 then m 8 0
  else if off = 0x0C0 || off = 0x0C8 then m 63 12
  else if off = 0x0D0 then m 12 0
  else if off = 0x0D8 then m 5 0
  else if 0x100000 ≤ off && off < 0x900000 then
    let r := off % 0x100000
    if r = 0 then m 17 0
    else if r ≤ 0x68 then ones
    else if r = 0x80 then m 0 0
    else if 0x88 ≤ r && r ≤ 0x98 then ones
    else if r = 0x10000 then m 63 16 ||| m 0 0
    else if r = 0x10008 || r = 0x10010 then ones
    else if r = 0x200C0 || r = 0x200C8 then ones
    else if r = 0x30000 then m 55 12
    else if r = 0x30008 then m 31 0
    else if r = 0x30010 then m 63 32 ||| m 0 0
    else if r = 0x30220 then ones
    else if r = 0x40000 then m 55 6
    else if r = 0x40008 then m 39 6
    else if 0x40010 ≤ r && r ≤ 0x40028 then ones
    else 0
  else if 0x1000000 ≤ off && off < 0x3000000 then
    let r := off % 0x10000
    if r = 0 then m 15 8 ||| m 0 0
    else if 0x10 ≤ r && r ≤ 0x30 then ones
    else if r = 0x48 || r = 0x50 then ones
    else if 0x100 ≤ r && r < 0x140 then ones
    else if 0x140 ≤ r && r < 0x180 then m 53 0
    else if 0x180 ≤ r && r < 0x1C0 then m 63 31 ||| m 23 15 ||| m 1 0
    else if 0x1C0 ≤ r && r < 0x1E0 then m 63 31 ||| m 23 17 ||| m 1 0
    else if 0x1E0 ≤ r && r < 0x200 then m 56 0
    else if 0x200 ≤ r && r < 0x220 then m 5 0
    else 0
  else if 0x3000000 ≤ off && off < 0x3000800 then m 55 12 ||| m 0 0
  else if off = rXlat 0x810 then m 11 0
  else if off = rXlat 0x820 then m 17 0
  else if 0x3010000 ≤ off && off < 0x3018000 then m 31 31 ||| m 11 0
  else if off = rSnap 0 then m 9 9 ||| m 5 0
  else if rSnap 0x8 ≤ off && off < rSnap 0x28 then ones
  else if rSnap 0x28 ≤ off && off < rSnap 0xA8 then m 63 63 ||| m 49 0
  else if off = rSnap 0xD0 then m 28 16 ||| m 11 0
  else if off = rSnap 0xD8 then m 55 6
  else if off = rSnap 0xE0 then m 39 6
  else if rFab 0 ≤ off && off < rFab 0x200 then m 43 20
  else if rFab 0x200 ≤ off && off < rFab 0x400 then ones
  else if rFab 0x400 ≤ off && off < rFab 0x600 then m 31 0
  else if rFab 0x600 ≤ off && off < rFab 0x800 then ones
  else if off = rFab 0xA08 then m 31 0
  else if off = rFab 0xA10 then ones
  else if off = rFab 0xA18 then m 63 32 ||| m 2 0
  else if rFab 0xA20 ≤ off && off < rFab 0xBA0 then ones
  else if off = rFab 0xBA0 then m 55 3
  else if off = rFab 0xBA8 then m 31 0
  else if off = rFab 0xBB0 then ones
  else if off = rSave 0 then m 55 12
  else if off = rSave 0x8 then m 27 0
  else if off = rSave 0x18 || off = rSave 0x20 then ones
  else if off = rSave 0x28 then m 31 0
  else if off = rExp 0 then ones
  else if off = rExp 8 || off = rExp 0x10 then m 53 0
  else if off = rExp 0x18 then m 63 32 ||| m 23 12 ||| m 0 0
  else if off = rExp 0x20 then ones
  else if off = rRb 0 then ones
  else 0

/-- The lock group of a register (R464): a bit of HLOCK. -/
def lockGroup (off : Nat) : Option Nat :=
  if 0x3000000 ≤ off && off < 0x3020000 then some 0
  else if 0x3020000 ≤ off && off < 0x3040000 then some 1
  else if 0x3040000 ≤ off && off < 0x3050000 then some 2
  else if 0x3050000 ≤ off && off < 0x3060000 then some 3
  else if off = 0x0D0 || off = 0x0D8 then some 4
  else if 0x100000 ≤ off && off < 0x900000 then
    let r := off % 0x100000
    if 0x10000 ≤ r && r < 0x20000 then some 2 else if 0x30000 ≤ r && r < 0x40000 then some 3
    else if 0x40000 ≤ r && r < 0x50000 then some 1 else none
  else if 0x1000000 ≤ off && off < 0x3000000 && 0x100 ≤ off % 0x10000 then some 3
  else none

/-- The next free value (DESIGN CHOICE [2]). -/
def State.free (s : State) : U64 := Config.freeWord s.fresh
def State.useFree (s : State) (n : Nat) : State := { s with fresh := s.fresh + n }
/-- A free choice below n: which of several allowed things happens (DESIGN CHOICE [1]). -/
def State.choose (s : State) (n : Nat) : Nat := Config.pick s.fresh % n

end Sys2Proof.Machine
end

