-- ==== Sys2Proof/Machine/Packhorse.lean ====
section
/-!
DEFINITION. The packhorses: records, their staging, and their writes to the target region (R147, R150 to R153).
-/
namespace Sys2Proof.Machine

def State.colour (s : State) (c : Bool) : Colour := if c then s.sys.c1 else s.sys.c0
def State.setColour (s : State) (c : Bool) (x : Colour) : State :=
  if c then { s with sys := { s.sys with c1 := x } } else { s with sys := { s.sys with c0 := x } }
/-- The tag of one colour. -/
def tagOf (col : Bool) : BitVec 2 := if col then 2 else 1
/-- The region of a physical address (R19). -/
def regionOf (pa : Nat) : Nat := pa / 2 ^ 40 % 16

/-- A cut that has been asked for stops words and transfers of its scope at once (R140, step 1). -/
def Colour.stops (c : Colour) : Bool := c.asked || c.cutting

/-- The bytes of a record (R152). -/
def recBytes (r : Rec) : List Byte :=
  let h := w64 (r.data.length * 2 ^ 32 + r.core % 256 * 2 ^ 24 + r.die * 2 ^ 16 + b01 r.bad * 2 ^ 10 + r.colours.toNat * 2 ^ 8 +
    r.kind.toNat) ++ le64 r.loc ++ le64 r.aux
  padTo 64 (h ++ w64 (crc32c (h ++ r.data)) ++ r.data)
/-- The bytes that a record takes. -/
def Rec.bytes (r : Rec) : Nat := upTo (32 + r.data.length) 64
/-- A record region lies where R150 lets it: region 2 or 3 of this module. -/
def State.regionOk (s : State) (pa : Nat) : Bool :=
  (regionOf pa == 2 || regionOf pa == 3) && pa / 2 ^ 44 % 4096 == s.mylmn.toNat
/-- FAILc: pending bits clear, and no further records for the colour (R147). -/
def failColour (col : Bool) (s : State) : State :=
  let c := s.colour col
  if c.st == .free then s
  else
    let s := s.setColour col { c with fail := true, pend := [], capt := [], closed := List.range 8, aborting := [] }
    { s with dies := s.dies.map fun (e : Nat × DieState) => (e.1, { e.2 with
        staging := (e.2.staging.map fun (r : Rec) => { r with colours := r.colours &&& ~~~tagOf col }).filter fun r => r.colours != 0 }) }
/-- What a record that is durable or has failed means for its colours (R147, R151). -/
def recordDone (r : Rec) (s : State) : State :=
  let one := fun (col : Bool) (s : State) =>
    let c := s.colour col
    if r.colours &&& tagOf col = 0 then s
    else if r.kind == 0x0F then s.setColour col { c with closed := r.die :: c.closed }
    else if r.kind == 0x10 then s.setColour col { c with aborting := c.aborting.filter (· != r.die) }
    else s
  one true (one false s)
/-- A staged record of a die is written where the region has room, or its write fails. They reach the region in no particular order: which
is next is free (R151). -/
def writeRecord (d : Nat) (link : Bool) (s : State) : State :=
  let x := s.die d
  match x.staging[s.choose (max 1 x.staging.length)]? with
  | none => s
  | some r =>
    let s := s.useFree 1
    let pos := s.reg (rPh d 0x10)
    let base := (s.reg (rPh d 0)).toNat
    let ok := link && s.regionOk base && pos.toNat + r.bytes ≤ (s.reg (rPh d 8)).toNat
    let s := s.setDie d { x with staging := x.staging.erase r }
    if ok then
      recordDone r { s.setReg (rPh d 0x10) (pos + BitVec.ofNat 64 r.bytes) with
        sys := { s.sys with region := s.sys.region ++ [(s.busAddr (base + pos.toNat), recBytes r)] } }
    else
      let s := if r.colours.getLsbD 0 then failColour false s else s
      if r.colours.getLsbD 1 then failColour true s else s
/-- The bytes that a die has staged. -/
def DieState.staged (x : DieState) : Nat := sumNat (x.staging.map (·.bytes))
/-- Staging is full: the capture and the write that it guards wait until a staged record has been written (R143, R151); for how many cycles
is free (R150). DESIGN CHOICE [84]: that write takes place within the step. -/
def makeRoom (fuel d n : Nat) (write : Bool) (s : State) : State :=
  match fuel with
  | 0 => s
  | k + 1 =>
    if (s.die d).staging.isEmpty || (s.die d).staged + n ≤ 8388608 then s
    else
      let s := if write then { s with fresh := s.fresh + 1 }.count (rPh d 0x28) (1 + s.free.toNat % 2 ^ 16) else s
      makeRoom k d n write (writeRecord d true s)
/-- A record staged at its die, tagged with colours, and counted for its CLOSE record (R151, R153). A colour that has failed, also by a write
that made room for this record, takes no further record (R147). -/
def stage (write : Bool) (r : Rec) (s : State) : State :=
  let s := makeRoom (s.die r.die).staging.length r.die r.bytes write s
  let lost := (if s.sys.c0.fail then 1 else (0 : BitVec 2)) ||| (if s.sys.c1.fail then 2 else 0)
  let r := { r with colours := r.colours &&& ~~~lost }
  if r.colours = 0 then s else
  let x := s.die r.die
  let s := s.setDie r.die { x with staging := x.staging ++ [r] }
  let add := fun (c : Colour) => if r.kind == 0x0F || r.kind == 0x10 then c else
    { c with count := SMap.set 0 c.count r.die (SMap.get 0 c.count r.die + 1) }
  let s := if r.colours.getLsbD 0 then s.setColour false (add s.sys.c0) else s
  if r.colours.getLsbD 1 then s.setColour true (add s.sys.c1) else s

end Sys2Proof.Machine
end

