-- ==== Sys2Proof/Machine/Capture.lean ====
section
/-!
DEFINITION. Granules and their capture (R137 to R145), packhorse records (R151 to R153), and the error log of a die (R57).
Granules are numbered: a unit of 16 KiB of DRAM or die scratchpad by its address, then the pools, then the registers of
agents, tiles and buffers.
-/
namespace Sys2Proof.Machine

def grMem (a : Nat) : Nat := if a < 2 ^ 44 then a / 16384 else 2 ^ 40 + (a - 2 ^ 44) / 2048
def grVec (agent p : Nat) : Nat := 2 ^ 50 + agent * 256 + p / 8
def grScalar (agent : Nat) : Nat := 2 ^ 51 + agent
def grTile (team h : Nat) : Nat := 2 ^ 52 + team * 16 + h
def grBuf (team b : Nat) : Nat := 2 ^ 53 + team * 4 + b

/-- Pc of a granule (R137). -/
def Colour.pending (c : Colour) (gr : Nat) : Bool := (c.pend.any fun r => r.1 ≤ gr && gr ≤ r.2) && !c.capt.contains gr
/-- No granule has a pending bit. -/
def State.calm (s : State) : Bool := s.sys.c0.pend.isEmpty && s.sys.c1.pend.isEmpty

/-- GT in the low 48 bits, and an entry of the error log (R57): the counters count every event. -/
def logError (d : Nat) (pa : Nat) (kind source : BitVec 4) (agent : BitVec 7) (s : State) : State :=
  let s := s.count (rDieMem d (if kind == 0 then 0x60 else 0x68)) 1
  let x := s.die d
  let e : ErrEntry := ⟨pa, kind, source, agent, s.gt⟩
  if x.errlog.length < 16 then s.setDie d { x with errlog := x.errlog ++ [e] }
  else if kind == 0 then s
  else if x.errlog.any (·.kind == 0) then
    s.setDie d { x with errlog := (updFirst (·.kind == 0) (fun _ => e) x.errlog.reverse).reverse }
  else s.setDie d { x with errOvf := true }

/-- An entry for own memory: the log holds the physical address of its unit (R19, R57). For a memory of a core the manual gives neither a
physical address nor a SOURCE: both are free. DESIGN CHOICE [107]. -/
def logOwn (d a : Nat) (kind source : BitVec 4) (agent : BitVec 7) (s : State) : State :=
  if a < 2 ^ 41 then logError d (a + s.mylmn.toNat * 2 ^ 44) kind source agent s
  else logError d (s.free.toNat % 2 ^ 56) kind (s.free.extractLsb' 56 4) agent (s.useFree 1)

/-- The die of an own address: its DRAM, its die scratchpad, its pools. -/
def dieOf (a : Nat) : Nat :=
  if a < 2 ^ 40 then a / 2 ^ 36 % 8 else if a < 2 ^ 41 then a / 2 ^ 26 % 8 else if a < 2 ^ 44 then 0 else (a - 2 ^ 44) / 2 ^ 27 % 8

/-- A correctable error in what a read of n bytes from a meets is corrected, counted and logged (R51). -/
def correct (kinds : List Flaw) (a n : Nat) (agentNo : BitVec 7) (s : State) : State :=
  let src := fun (f : Flaw) => match f with | .weakDram => 0 | .weakL2 => 1 | .weakTag => 2 | _ => (3 : BitVec 4)
  let size := fun (f : Flaw) => match f with | .weakDram => 64 | .weakTag => 128 | _ => 8
  (s.flaws.filter fun f => kinds.contains f.2 && f.1 < a + n && a < f.1 + size f.2).foldl
    (fun s f => logOwn (dieOf a) f.1 0 (src f.2) agentNo s) s

/-- A translation context is in the snapshot's scope (R135, R136). -/
def State.inScope (s : State) (ctx : Nat) : Bool := (s.reg (rSnap (8 + 8 * (ctx / 64)))).getLsbD (ctx % 64)
def State.gridInScope (s : State) (g : Nat) : Bool := s.inScope (s.grid g).ctx

/-- The team whose allocation holds a byte of a core's pool (R60). -/
def State.teamAt (s : State) (core off : Nat) : Option Team :=
  s.teams.find? fun t => t.die * 64 + t.core == core && t.base ≤ off && off < t.base + t.size &&
    (t.state != .offered && t.state != .saved)

/-- The team part of LOC (R153). -/
def State.teamLoc (s : State) (t : Team) : U64 := (s.grid t.grid).gridid ++ t.teamid

/-- The bytes of a stationary buffer with its side store, and its format record (R493). -/
def bufBytes (x : Buffer) : List Byte :=
  ((List.range 32768).map fun i => SMap.get 0 x.weights i) ++ (List.range 2048).map fun i => SMap.get 0 x.side i
def bufFmt (x : Buffer) : U64 := ((x.fmt.getD 0).setWidth 64 <<< 48) ||| (if x.full then 0 else 0x8000000000000000)

/-- One lane register as the granule of a vector group, registers in order, lanes in order (R137, R153). -/
def vecBytes (a : Agent) (g : Nat) : List Byte :=
  (List.range 8).flatMap fun i => (List.range a.width).flatMap fun l => le32 (a.pget (8 * g + i) l)

/-- An uncorrectable unit of a granule of DRAM or die scratchpad, in DRAM, in its L2, or in the L2's tag; and its source (R57, R145). -/
def State.badIn (s : State) (gr : Nat) : Option (Nat × BitVec 4) :=
  ((s.bad.find? fun u => u / 16384 == gr).map fun u => (u, if u < 2 ^ 40 then 0 else 3)) <|>
  ((s.badL2.find? fun u => u / 16384 == gr).map fun u => (u, 1)) <|>
  ((s.badTags.find? fun l => l / 128 == gr).map fun l => (l * 128, 2))
/-- A capture reads the L2 where it holds a superblock, and DRAM elsewhere: what the codes correct there is counted and logged (R51). -/
def correctGranule (gr : Nat) (s : State) : State :=
  let a := gr * 16384
  if 2 ^ 40 ≤ gr then s
  else if 2 ^ 40 ≤ a then correct [.weakScratch] a 16384 70 s
  else
    let s := correct [.weakL2, .weakTag] a 16384 70 s
    (s.flaws.filter fun f => f.2 == .weakDram && a ≤ f.1 && f.1 < a + 16384 && ((s.die (dieOf a)).l2.all (·.sb != f.1 / 512))).foldl
      (fun s f => logOwn (dieOf a) f.1 0 0 70 s) s
/-- The record of a granule (R143, R153). -/
def granuleRec (s : State) (gr : Nat) : Rec :=
  if gr < 2 ^ 40 then
    let a := gr * 16384
    let bad := (s.badIn gr).isSome
    let data := if bad then [] else s.getBytes a 16384
    let dram := a < 2 ^ 40
    { kind := if dram then 2 else 3, colours := 0, die := if dram then a / 2 ^ 36 % 8 else a / 2 ^ 26 % 8, core := 255, bad
      loc := BitVec.ofNat 64 (a + s.mylmn.toNat * 2 ^ 44)
      aux := if dram then 0 else
        match s.grids.find? (fun g => g.state == .running && (g.dscratch.any fun e => e.1 == a / 2 ^ 26 % 8 &&
            e.2 ≤ a % 2 ^ 26 && a % 2 ^ 26 < e.2 + upTo g.rc.dskib 64 * 1024)) with
        | some g => g.gridid.setWidth 64
        | none => 0
      data }
  else if gr < 2 ^ 50 then
    let p := gr - 2 ^ 40
    let core := p / 1024
    let off := p % 1024 * 2048
    let a := 2 ^ 44 + p * 2048
    let bad := s.bad.any fun u => a ≤ u && u < a + 2048
    let data := if bad then [] else s.getBytes a 2048
    match s.teamAt core off with
    | some t => ⟨4, 0, core / 64, core % 64, bad, s.teamLoc t, BitVec.ofNat 64 (off - t.base), data⟩
    | none => ⟨4, 0, core / 64, core % 64, bad, 0, 0, data⟩
  else if gr < 2 ^ 51 then
    let i := (gr - 2 ^ 50) / 256
    let a := (s.agent? i).getD Agent.absent
    let v := (gr - 2 ^ 50) % 256
    let bad := a.flawed.any fun w => w / 512 == v
    ⟨5, 0, a.die, a.core, bad, s.teamLoc (s.team a.team),
      BitVec.ofNat 64 (a.idx * 2 ^ 48 + v), if bad then [] else vecBytes a v⟩
  else if gr < 2 ^ 52 then
    let a := (s.agent? (gr - 2 ^ 51)).getD Agent.absent
    ⟨6, 0, a.die, a.core, false, s.teamLoc (s.team a.team), BitVec.ofNat 64 (a.idx * 2 ^ 48),
      (List.range 128).flatMap fun n => le64 (a.sget n)⟩
  else if gr < 2 ^ 53 then
    let t := s.team ((gr - 2 ^ 52) / 16)
    let h := (gr - 2 ^ 52) % 16
    let bad := t.flawed.any fun w => w / 16384 == h
    ⟨7, 0, t.die, t.core, bad, s.teamLoc t, BitVec.ofNat 64 h, if bad then [] else
      (List.range 16384).flatMap fun i => le32 (SMap.get (tMarker h) t.tiles (h * 16384 + i))⟩
  else
    let t := s.team ((gr - 2 ^ 53) / 4)
    let b := (gr - 2 ^ 53) % 4
    let x := SMap.get Buffer.empty t.bufs b
    ⟨8, 0, t.die, t.core, x.flawed, s.teamLoc t, BitVec.ofNat 64 b ||| bufFmt x, if x.flawed then [] else bufBytes x⟩

/-- The capture of a pending granule: its record is staged and its pending bits clear (R139, R143, R145). The cycles for which a first write
waits for its capture are free: the manual gives typical times only. DESIGN CHOICE [84]. -/
def capture (sweep : Bool) (gr : Nat) (s : State) : State :=
  let p0 := s.sys.c0.pending gr
  let p1 := s.sys.c1.pending gr
  if !p0 && !p1 then s
  else
    let r := granuleRec s gr
    let r := { r with colours := BitVec.ofBool p1 ++ BitVec.ofBool p0 }
    let s := stage (!sweep) r s
    let s := if sweep then s else { s with fresh := s.fresh + 1 }.count (rPh r.die 0x28) (s.free.toNat % 2 ^ 16)
    let s := if !r.bad then correctGranule gr s
      else match s.badIn gr with
      | some u => logOwn r.die u.1 2 u.2 70 s
      | none => logOwn r.die (2 ^ 44) 2 0 70 s
    let s := if p0 then s.setColour false { s.sys.c0 with capt := gr :: s.sys.c0.capt } else s
    let s := if p1 then s.setColour true { s.sys.c1 with capt := gr :: s.sys.c1.capt } else s
    s.count (rPh r.die (if sweep then 0x20 else 0x18)) 1

/-- Before a write: every pending granule that it touches is captured (R138, R143). -/
def touch (grs : List Nat) (s : State) : State :=
  if s.calm then s else grs.foldl (fun s gr => capture false gr s) s

end Sys2Proof.Machine
end

