-- ==== Sys2Proof/Machine/Home.lean ====
section
/-!
DEFINITION. Writes of memory (R9, R42, R138); the homes of the module's memory: the L2 of each die with its directory, partial sums
and their merge, write-back, uncorrectable data (R36 to R57, R121 to R128); the atomic operations (R125, R298, R299).
-/
namespace Sys2Proof.Machine

/-- Bytes stored from address a upwards, the lowest first (R9). -/
def putBytes (a : Nat) (bs : List Byte) (m : SMap Byte) : SMap Byte :=
  match bs with
  | [] => m
  | b :: r => putBytes (a + 1) r (SMap.set 0 m a b)

/-- The granules of n bytes from a. -/
def grRange (a n : Nat) : List Nat := if n = 0 then [] else (List.range (grMem (a + n - 1) - grMem a + 1)).map (· + grMem a)

/-- The home L2 keeps what DRAM holds below bytes that it modifies (R42, R54). -/
def keepDram (a : Nat) (n : Nat) (s : State) : State :=
  let old := (List.range n).foldl (fun m i => if m.any (·.1 == a + i) then m else SMap.insert m (a + i) (s.getByte (a + i))) s.dram
  let sbs := (List.range ((a + n - 1) / 512 - a / 512 + 1)).map (· + a / 512)
  { s with dram := old, dirty := s.dirty ++ sbs.filter fun x => !s.dirty.contains x }

/-- A write of memory: what it touches is captured first (R138); a write of DRAM is held modified by its home L2 (R42). -/
def State.writeMem (s : State) (a : Nat) (bs : List Byte) : State :=
  if bs.isEmpty then s
  else
    let s := touch (grRange a bs.length) s
    let s := if a < 2 ^ 40 then keepDram a bs.length s else s
    { s with mem := putBytes a bs s.mem }

/-- The unit of the error code that holds byte a (R51, R53): its first byte and its size. -/
def unitOf (a : Nat) : Nat × Nat := if a < 2 ^ 40 then (a / 64 * 64, 64) else (a / 8 * 8, 8)
/-- The uncorrectable units that n bytes from a meet: address, size, source (R51, R52, R57). -/
def State.badUnits (s : State) (a n : Nat) : List (Nat × Nat × BitVec 4) :=
  ((s.badTags.map fun l => (l * 128, 128, (2 : BitVec 4))) ++ (s.badL2.map fun w => (w, 8, (1 : BitVec 4))) ++
    s.bad.map fun u => (u, (unitOf u).2, (if u < 2 ^ 40 then 0 else 3 : BitVec 4))).filter fun u => u.1 < a + n && a < u.1 + u.2.1

/-- A write performed: dropped and logged as a lost write where it merges with an uncorrectable unit, else stored; a unit
that it covers is good again (R53). The answer says whether it was dropped. -/
def commit (a : Nat) (bs : List Byte) (agentNo : BitVec 7) (s : State) : State × Bool :=
  let n := bs.length
  let covers := fun (u k : Nat) => a ≤ u && u + k ≤ a + n
  match (s.badUnits a n).find? fun u => !covers u.1 u.2.1 with
  | some u => (logOwn (dieOf a) u.1 3 u.2.2 agentNo s, true)
  | none =>
    let s := s.writeMem a bs
    ({ s with
      bad := s.bad.filter fun u => !covers u (unitOf u).2
      badL2 := s.badL2.filter fun w => !covers w 8
      badTags := s.badTags.filter fun l => !covers (l * 128) 128
      flaws := s.flaws.filter fun f => !((f.2 == .weakL2 || f.2 == .weakScratch) && f.1 < a + n && a < f.1 + 8) }, false)
/-- A write of part of a word reads the rest of it: what the code corrects there is counted and logged (R51). -/
def correctRest (a n : Nat) (agentNo : BitVec 7) (s : State) : State :=
  ((([a, a + n - 1].map (· / 8 * 8)).eraseDups).filter fun u => !(a ≤ u && u + 8 ≤ a + n)).foldl
    (fun s u => correct [.weakL2, .weakScratch] u 8 agentNo s) s

-- Atomic operations and reduce-stores (R125, R298).

/-- Floating-point minimum and maximum of atomics and reduce-stores: a NaN operand gives the canonical NaN; -0 is below +0 (R125). -/
def fMinMax (f : FFmt) (mx : Bool) (x y : Nat) : Nat :=
  let a := decodeF f x
  let b := decodeF f y
  let less := ltVal a b || (eqVal a b && a.isNeg && !b.isNeg)
  if a.isNan || b.isNan then nanResult f else if less != mx then x else y
/-- The format of a floating-point operand of n bits. -/
def aopFmt (n : Nat) (bf : Bool) : FFmt := if n = 32 then fp32 else if bf then bf16 else fp16
/-- Apply of R299 on n-bit values; .swap and .cas store their operand. -/
def applyAop (aop n : Nat) (bf : Bool) (old x : Nat) : Nat :=
  let f := fun (op : (n : Nat) → BitVec n → BitVec n → BitVec n) => (op n (BitVec.ofNat n old) (BitVec.ofNat n x)).toNat
  let t := aopFmt n bf
  match aop with
  | 0 => f iAdd
  | 1 => f iMin
  | 2 => f iMax
  | 3 => f iMinu
  | 4 => f iMaxu
  | 5 => f iAnd
  | 6 => f iOr
  | 7 => f iXor
  | 10 => (addF t .rne (decodeF t old) (decodeF t x)).1
  | 11 => fMinMax t false old x
  | 12 => fMinMax t true old x
  | _ => x % 2 ^ n
/-- The value that a read-modify-write leaves: a .cas writes only where the old value is the comparand (R299). -/
def rmw (aop n : Nat) (bf : Bool) (old x cmp : Nat) : Nat := if aop = 9 && old != cmp then old else applyAop aop n bf old x

-- The DRAM of a die and its L2 (R36 to R42, R50, R51).

/-- The die whose stack holds an address of DRAM, as superblock. -/
def sbDie (sb : Nat) : Nat := sb / 2 ^ 27 % 8
def sbBytes (s : State) (sb : Nat) : List Byte := s.getBytes (sb * 512) 512
/-- The channel of a superblock: the exclusive-or of five fields of its offset (R37). -/
def channelOf (sb : Nat) : Nat :=
  let f := fun (i : Nat) => BitVec.ofNat 6 (sb / 64 ^ i % 64)
  (f 0 ^^^ f 1 ^^^ f 2 ^^^ f 3 ^^^ BitVec.ofNat 6 (sb / 2 ^ 24 % 8)).toNat
/-- A row of a die and its bank: the channel, and the place within it, which is not visible to software (R37). DESIGN CHOICE [9]. -/
def rowKey (sb : Nat) : Nat := channelOf sb + 64 * Config.rowOf sb
def bankKey (row : Nat) : Nat := row % 64 + 64 * Config.bankOf (row / 64)
/-- The bank of an address of DRAM is held for refresh management (R38). -/
def State.rowHeld (s : State) (a : Nat) : Bool :=
  (s.die (sbDie (a / 512))).heldRows.any fun r => bankKey r == bankKey (rowKey (a / 512))
/-- An activation of the row of a superblock is counted (R38). -/
def activate (sb : Nat) (s : State) : State :=
  let x := s.die (sbDie sb)
  s.setDie (sbDie sb) { x with rows := SMap.set 0 x.rows (rowKey sb) (SMap.get 0 x.rows (rowKey sb) + 1) }

/-- A die's L2 holds a superblock, or a line of one (R40). -/
def DieState.tag? (x : DieState) (sb : Nat) : Option L2Tag := x.l2.find? (·.sb == sb)
def DieState.hasLine (x : DieState) (l : Nat) : Bool := match x.tag? (l / 4) with | some t => t.lines.getLsbD (l % 4) | none => false
/-- How many lines a set of the four of a superblock has. -/
def linesIn (m : BitVec 4) : Nat := ((List.range 4).filter fun i => m.getLsbD i).length
/-- A copy or a partial of a line leaves a die's L2. -/
def l2Drop (d l : Nat) (s : State) : State :=
  let x := s.die d
  match x.tag? (l / 4) with
  | none => s
  | some t =>
    let m := t.lines &&& ~~~(BitVec.ofNat 4 (2 ^ (l % 4)))
    let u : L2Tag := ⟨t.sb, linesIn m, m⟩
    let l2 := if m = 0 then x.l2.filter (·.sb != t.sb) else updFirst (·.sb == t.sb) (fun _ => u) x.l2
    s.setDie d { x with l2 := l2, copyFlaws := x.copyFlaws.filter fun f => f.1 / 128 != l }

/-- Bytes that DRAM has held come back: what the L2 held over them is lost (R54). -/
def dramBack (held : SMap Byte) (s : State) : State :=
  held.foldl (fun (s : State) e => let s := touch [grMem e.1] s; { s with mem := SMap.set 0 s.mem e.1 e.2 }) s
/-- A line that the L2 has written since its superblock was last written back. -/
def State.modified (s : State) (l : Nat) : Bool := s.dram.any fun e => e.1 / 128 == l
/-- A line leaves its home L2 with a word or a tag that cannot be corrected: one that is lost interrupts the host and the management
controller (R52, R54). -/
def lineLeaves (d : Nat) (lost : Bool) (u : Option (Nat × Nat × BitVec 4)) (s : State) : State :=
  match u with
  | none => s
  | some u =>
    if lost then
      let s := s.interrupt 1
      logOwn d u.1 3 u.2.2 127 { s with sys := { s.sys with memNotice := s.sys.memNotice + 1 } }
    else logOwn d u.1 2 u.2.2 127 s
/-- A superblock leaves its home L2: written to DRAM where it is modified. A modified line with a word or a tag that cannot be corrected is
not written: DRAM keeps what it held, and host and management controller are interrupted; in a line that is not modified only the log
records it (R41, R50, R52, R54). -/
def writeBack (sb : Nat) (s : State) : State :=
  let d := sbDie sb
  let x := s.die d
  let s := s.setDie d { x with l2 := x.l2.filter (·.sb != sb) }
  let wasDirty := s.dirty.contains sb
  let s := if wasDirty then correct [.weakL2, .weakTag] (sb * 512) 512 127 s else s
  let units := if wasDirty then (s.badUnits (sb * 512) 512).filter fun u => u.2.2 == 1 || u.2.2 == 2 else []
  let lines := (List.range 4).map (4 * sb + ·)
  let mods := lines.filter fun l => s.modified l
  let unitIn := fun (l : Nat) => units.find? fun u => u.1 / 128 == l
  let lost := mods.filter fun l => (unitIn l).isSome
  let kept := fun (l : Nat) => wasDirty && !lost.contains l
  let s := dramBack (s.dram.filter fun e => lost.contains (e.1 / 128)) s
  let shown := s.flaws.filterMap fun f => if f.1 / 512 == sb && f.2 == .hidden && !kept (f.1 / 128) then some f.1 else none
  let s := { s with
    dram := s.dram.filter fun e => e.1 / 512 != sb
    dirty := s.dirty.filter (· != sb)
    bad := shown ++ s.bad
    badL2 := s.badL2.filter fun w => w / 512 != sb
    badTags := s.badTags.filter fun l => l / 4 != sb
    flaws := s.flaws.filter fun f => f.1 / 512 != sb || f.2 == .weakScratch || (f.2 == .weakDram && !kept (f.1 / 128)) }
  let s := lines.foldl (fun s l => lineLeaves d (lost.contains l) (unitIn l) s) s
  if !wasDirty || (!mods.isEmpty && lost.length = mods.length) then s
  else
    let n := (Config.sectors (sbBytes s sb)).toNat
    activate sb ((s.count (rDieMem d (0x18 + 8 * n)) 1).addSectors (rDieMem d 0x40) (n + 1))

-- Partial sums (R122 to R127).

/-- The uncorrectable unit that a read of n bytes from a meets first, and the detail of MEMERR (R52, R56). -/
def State.badFirst (s : State) (a n : Nat) : Option ((Nat × Nat × BitVec 4) × BitVec 8) :=
  ((s.badUnits a n).head?).map fun u => (u, if u.2.2 = 0 then 0x80 else if u.2.2 = 3 then (if u.1 < 2 ^ 41 then 0x82 else Config.sramDetail) else 0x81)
def State.readBad (s : State) (a n : Nat) : Option (BitVec 8) := (s.badFirst a n).map (·.2)
/-- The element type of a partial: 2-byte floating-point elements are held in FP32 (R125). -/
def heldBits (size : Nat) : Nat := if size = 2 then 32 else 8 * size
/-- An element as it is held. -/
def widenElem (size : Nat) (bf : Bool) (x : Nat) : Nat :=
  if size = 2 then (roundF fp32 (decodeF (aopFmt 16 bf) x) .rne false 0).1 else x
/-- The identity of an operation, in the type in which it is held (R122). -/
def identityOf (aop size : Nat) : Nat :=
  let n := heldBits size
  match aop with
  | 10 => 0x80000000
  | 11 => 0x7F800000
  | 12 => 0xFF800000
  | 1 => 2 ^ (n - 1) - 1
  | 2 => 2 ^ (n - 1)
  | 3 => 2 ^ n - 1
  | _ => 0

/-- A line of a partial, and whose it is. -/
def Partial.ofLine (p : Partial) (line : Nat) : Bool := p.line == line
/-- A reduce-store joins a partial of its operation and its element type: SX tells BF16 from FP16 and nothing else (R123, R298). DESIGN
CHOICE [107]: an addition has no signedness, so INT32 and UINT32 additions share a partial. -/
def Partial.accepts (p : Partial) (aop size : Nat) (bf : Bool) : Bool := p.aop.toNat == aop && p.size == size && (size ≠ 2 || p.bf == bf)

/-- The home value of one element combined with its touched partial values, in order: the last addition of a 16-bit element is
rounded once, to its type (R125). -/
def foldElem (aop size : Nat) (bf : Bool) (home : Nat) (xs : List Nat) : Nat :=
  if size = 2 then
    let t := aopFmt 16 bf
    let w := xs.dropLast.foldl (fun a x => applyAop aop 32 bf a x) (widenElem 2 bf home)
    match xs.getLast? with
    | none => home
    | some x => if aop = 10 then (addF t .rne (decodeF fp32 w) (decodeF fp32 x)).1
      else (roundF t (decodeF fp32 (applyAop aop 32 bf w x)) .rne false 0).1
  else xs.foldl (fun a x => applyAop aop (8 * size) bf a x) home

/-- The home applies partials of one line in order: only touched elements are combined (R122, R124). An element that meets a unit which
cannot be corrected is dropped, and the unit is logged as a lost write (R53). -/
def applyPartials (line : Nat) (ps : List Partial) (s : State) : State :=
  match ps with
  | [] => s
  | p :: _ =>
    let touched := fun (o : Nat) => ps.filterMap fun (q : Partial) => (q.elems.find? (·.1 == o)).map (·.2.toNat)
    let offs := ((List.range (128 / max p.size 1)).map (· * p.size)).filter fun o => !(touched o).isEmpty
    let lost := (s.badUnits (line * 128) 128).filter fun u => offs.any fun o => u.1 < line * 128 + o + p.size && line * 128 + o < u.1 + u.2.1
    let s := lost.foldl (fun s u => logOwn (dieOf u.1) u.1 3 u.2.2 127 s) s
    offs.foldl (fun s o =>
      let a := line * 128 + o
      if (s.badFirst a p.size).isSome then s
      else
        let s := correct [.weakL2] a p.size 127 s
        (commit a (bytesOf p.size (foldElem p.aop.toNat p.size p.bf (s.getVal a p.size) (touched o))) 127 s).1) s

/-- The partials of a line in the order of MergeLine: per die its L2's, then its cores' in ascending order (R124). -/
def mergeOrder (s : State) (line : Nat) : List Partial :=
  (List.range 8).flatMap fun d =>
    let mine := s.partials.filter fun p => p.line == line && p.die == d
    (mine.filter (·.core.isNone)) ++ (List.range 64).flatMap fun c => mine.filter fun p => p.core == some (d * 64 + c)

/-- MergeLine of R124: every partial of the line goes into the home value, and leaves its L2 or its buffer. Units of DRAM that it has just
read (`miss`) and that cannot be corrected have no consumer (R52). -/
def mergeLine (miss : Bool) (line : Nat) (s : State) : State :=
  if s.partials.any (·.line == line) then
    let ps := mergeOrder s line
    let unread := if miss then (s.badUnits (line * 128) 128).filter (·.2.2 == 0) else []
    let s := unread.foldl (fun s u => logOwn (dieOf u.1) u.1 2 u.2.2 127 s) s
    let s := applyPartials line ps { s with partials := s.partials.filter fun p => p.line != line }
    let s := ps.foldl (fun s p => if p.core.isNone then l2Drop p.die line s else s) s
    s.count (rDieMem (dieOf (line * 128)) 0x98) 1
  else s

/-- The directory's state of a line (R43). -/
def State.dirOf (s : State) (line : Nat) : DirState := SMap.get .i s.dir line
def State.setDir (s : State) (line : Nat) (x : DirState) : State := { s with dir := SMap.set .i s.dir line x }
/-- The copies of a line that the directory lists. -/
def sharersOf (x : DirState) : List Nat := match x with | .s v => (List.range 8).filter fun d => v.getLsbD d | _ => []

/-- Every copy of a line is invalidated and acknowledged (R42, R43). -/
def invalidateAll (line : Nat) (s : State) : State :=
  let v := sharersOf (s.dirOf line)
  if v.isEmpty then s
  else (v.foldl (fun s d => l2Drop d line s) (s.count (rDieMem (dieOf (line * 128)) 0x48) v.length)).setDir line .i

-- What an L2 holds (R40, R41, R122).

/-- The lines that n bytes from a lie in. -/
def linesOf (a n : Nat) : List Nat := if n = 0 then [] else (List.range ((a + n - 1) / 128 - a / 128 + 1)).map (· + a / 128)

/-- A write of the line waits for its copies to be invalidated: requests for it wait for that write (R42, R44). -/
def State.lineBusy (s : State) (line : Nat) : Bool :=
  s.ops.any fun o => o.parts.any fun p => p.st == .invalidating && p.pa % 2 ^ 44 / 128 == line
/-- The L2 of die d has a read copy of a line that the directory lists: it serves d's reads (R43, R99). -/
def State.copyServes (s : State) (d : Option Nat) (l : Nat) : Bool :=
  match d with
  | some x => x != dieOf (l * 128) && (sharersOf (s.dirOf l)).contains x && (s.die x).hasLine l
  | none => false
/-- The home cannot serve a request for n bytes from a yet: the line has a write in progress, or the bank that must be read is held (R38,
R42, R44). -/
def State.homeWaits (s : State) (d : Option Nat) (a n : Nat) : Bool :=
  a < 2 ^ 40 && (linesOf a n).any fun l =>
    !s.copyServes d l && (s.lineBusy l || (((s.die (sbDie (l / 4))).tag? (l / 4)).isNone && s.rowHeld (l * 128)))

/-- A superblock, or a line of one of another die (`ln`), stands in a die's L2, most recently used or, non-temporal, least (R182): with the
sectors that its bytes compress to, and no more of them than it has lines there (R40). DESIGN CHOICE [107]. -/
def l2Put (d sb : Nat) (ln : BitVec 4) (nt : Bool) (s : State) : State :=
  let x := s.die d
  let m := ((x.tag? sb).map (·.lines)).getD 0 ||| ln
  let full := (Config.sectors (sbBytes s sb)).toNat + 1
  let n := if sbDie sb = d then full else min (linesIn m) full
  let rest := x.l2.filter (·.sb != sb)
  s.setDie d { x with l2 := if nt then rest ++ [⟨sb, n, m⟩] else ⟨sb, n, m⟩ :: rest }
/-- The tags and the sectors of an L2 suffice for what it holds: a superblock takes no more than four sectors (R40). -/
def DieState.l2Fits (x : DieState) : Bool :=
  4 * x.l2.length ≤ 1048576 || (x.l2.length ≤ 524288 && sumNat (x.l2.map (·.n)) ≤ 1048576)
/-- A superblock can leave an L2 now: its write-back, or the home of a partial in it, does not wait for a held bank or for a write in
progress. One that cannot is passed over (R38). DESIGN CHOICE [107]. -/
def State.mayLeave (s : State) (d : Nat) (t : L2Tag) : Bool :=
  if sbDie t.sb = d then !(s.dirty.contains t.sb && s.rowHeld (t.sb * 512))
  else s.partials.all fun p => !(p.core.isNone && p.die == d && p.line / 4 == t.sb) || !s.homeWaits none (p.line * 128) 128
/-- A request for a superblock at its home, counted: served from the L2, or read from DRAM with an activation of its row (R38, R40, R50).
The answer says whether DRAM was read. -/
def l2Ask (agentNo : BitVec 7) (sb : Nat) (s : State) : State × Bool :=
  let d := sbDie sb
  if ((s.die d).tag? sb).isSome then (s.count (rDieMem d 0x8) 1, false)
  else
    let n := (Config.sectors (sbBytes s sb)).toNat + 1
    (correct [.weakDram] (sb * 512) 512 agentNo (activate sb ((s.count (rDieMem d 0x10) 1).addSectors (rDieMem d 0x38) n)), true)
/-- A partial of an L2 or a buffer applied at its home line, for which the home is asked (R50, R122). The manual gives the directory no event
for it: the line stays in U. DESIGN CHOICE [107]. -/
def applyAtHome (p : Partial) (s : State) : State := applyPartials p.line [p] (l2Ask 127 (p.line / 4) s).1
/-- A partial leaves a core's reduction buffer or an L2: into the L2 of its die, or to the home line (R122). The answer says whether it
has gone into an L2. -/
def evictPartial (p : Partial) (s : State) : State × Bool :=
  let s := { s with partials := s.partials.erase p }
  let s := s.count (rDieMem p.die 0x90) 1
  if p.core.isNone || p.die = dieOf (p.line * 128) then (applyAtHome p s, false)
  else
    match s.partials.find? fun q => q.line == p.line && q.die == p.die && q.core.isNone with
    | some q =>
      let e := p.elems.foldl (fun (m : SMap U64) (k : Nat × U64) =>
        let old := (m.find? (·.1 == k.1)).map (·.2.toNat)
        SMap.insert m k.1 (match old with
          | some y => BitVec.ofNat 64 (applyAop p.aop.toNat (heldBits p.size) p.bf y k.2.toNat)
          | none => k.2)) q.elems
      ({ s with partials := updFirst (· == q) (fun q => { q with elems := e }) s.partials }, true)
    | none => ({ (s.count (rDieMem p.die 0x88) 1) with partials := s.partials ++ [{ p with core := none }] }, true)
/-- A superblock taken up by an L2, which gives up its least recently used ones until it has the tags and the sectors (R40, R41): its own
are written back, copies vanish, partials are applied at their home lines, which come into the L2 of their home (R122). -/
def l2Take (fuel d sb : Nat) (ln : BitVec 4) (nt : Bool) (s : State) : State :=
  match fuel with
  | 0 => s
  | n + 1 =>
    let s := l2Put d sb ln nt s
    if (s.die d).l2Fits then s
    else
      match ((s.die d).l2.filter fun t => t.sb != sb && s.mayLeave d t).getLast? with
      | none => s
      | some t =>
        if sbDie t.sb = d then l2Take n d sb ln nt (writeBack t.sb s)
        else
          let x := s.die d
          let s := s.setDie d { x with l2 := x.l2.filter (·.sb != t.sb), copyFlaws := x.copyFlaws.filter fun f => f.1 / 512 != t.sb }
          let ps := s.partials.filter fun p => p.core.isNone && p.die == d && p.line / 4 == t.sb
          let s := ps.foldl (fun s p => l2Take n (sbDie t.sb) t.sb 0 false (evictPartial p s).1) s
          l2Take n d sb ln nt s

/-- A request for a line at its home: partials are merged first, and the L2 takes what the superblock now needs (R41, R43, R124). -/
def homeLine (nt : Bool) (agentNo : BitVec 7) (l : Nat) (s : State) : State :=
  let (s, miss) := l2Ask agentNo (l / 4) s
  l2Take 16 (sbDie (l / 4)) (l / 4) 0 nt (mergeLine miss l s)
/-- A line whose partials are merged for no reader: its state leaves U (R124, R140). -/
def mergeAlone (l : Nat) (s : State) : State := (homeLine false 127 l s).setDir l .i
/-- A line is read at its home for die d: a die that is not the home is listed and takes a copy, and an agent of the home die never changes
the state of the line. A reader outside the module is listed nowhere: it leaves a line of state U, whose partials it has had merged, in I.
The manual gives no row for it (R43). DESIGN CHOICE [107]. -/
def readLineHome (d : Option Nat) (nt : Bool) (agentNo : BitVec 7) (l : Nat) (s : State) : State :=
  let s := homeLine nt agentNo l s
  match d with
  | none => if s.dirOf l = .u then s.setDir l .i else s
  | some x =>
    if x = dieOf (l * 128) then s
    else
      let v := match s.dirOf l with | .s v => v | _ => 0
      l2Take 16 x (l / 4) (BitVec.ofNat 4 (2 ^ (l % 4))) nt (s.setDir l (.s (v ||| BitVec.ofNat 8 (2 ^ x))))
/-- A line is read for die d: from the copy in its own L2, or at the home (R43). -/
def readLine (d : Option Nat) (nt : Bool) (agentNo : BitVec 7) (l : Nat) (s : State) : State :=
  if s.copyServes d l then l2Take 16 (d.getD 0) (l / 4) (BitVec.ofNat 4 (2 ^ (l % 4))) nt (s.count (rDieMem (d.getD 0) 0x8) 1)
  else readLineHome d nt agentNo l s
/-- What a read at the home finds: uncorrectable data is logged, as delivered or as of no consumer (`used`), and not delivered (R52). -/
def homeData (used : Bool) (agentNo : BitVec 7) (a n : Nat) (s : State) : State × Except (BitVec 8) (List Byte) :=
  match s.badFirst a n with
  | some (u, e) => (logOwn (dieOf a) u.1 (if used then 1 else 2) u.2.2 agentNo s, .error e)
  | none => (s, .ok (s.getBytes a n))
/-- What a read of a copy in the L2 of die d finds (R51, R52). -/
def copyData (d : Nat) (used : Bool) (agentNo : BitVec 7) (a n : Nat) (s : State) : State × Except (BitVec 8) (List Byte) :=
  let fs := (s.die d).copyFlaws.filter fun f => f.1 < a + n && a < f.1 + (if f.2.1 == 2 then 128 else 8)
  match fs.find? (·.2.2) with
  | some f => (logOwn d f.1 (if used then 1 else 2) f.2.1 agentNo s, .error 0x81)
  | none => (fs.foldl (fun s f => logOwn d f.1 0 f.2.1 agentNo s) s, .ok (s.getBytes a n))
/-- A read of own DRAM at its home, with the copy that it leaves there (R33, R43). -/
def readAtHome (d : Option Nat) (used nt : Bool) (agentNo : BitVec 7) (a n : Nat) (s : State) : State × Except (BitVec 8) (List Byte) :=
  homeData used agentNo a n ((linesOf a n).foldl (fun s l => readLineHome d nt agentNo l s) (correct [.weakL2, .weakTag] a n agentNo s))
/-- A read of own memory at its point of coherence, by an agent of die d or from outside (R43, R49). -/
def readHome (d : Option Nat) (used nt : Bool) (agentNo : BitVec 7) (a n : Nat) (s : State) : State × Except (BitVec 8) (List Byte) :=
  let ls := linesOf a n
  if 2 ^ 40 ≤ a then homeData used agentNo a n (correct [.weakScratch] a n agentNo s)
  else if ls.all (s.copyServes d) then copyData (d.getD 0) used agentNo a n (ls.foldl (fun s l => readLine d nt agentNo l s) s)
  else homeData used agentNo a n (ls.foldl (fun s l => readLine d nt agentNo l s) (correct [.weakL2, .weakTag] a n agentNo s))

/-- A write applied at the home of its lines, which has been asked for them: copies are invalidated, and the L2 takes the sectors that it now
needs; the answer says whether it was dropped (R41, R42, R43, R53). -/
def applyHome (nt : Bool) (agentNo : BitVec 7) (a : Nat) (bs : List Byte) (s : State) : State × Bool :=
  if 2 ^ 40 ≤ a then commit a bs agentNo s
  else
    let ls := linesOf a bs.length
    let (s, x) := commit a bs agentNo (ls.foldl (fun (s : State) l => (invalidateAll l s).setDir l .i) s)
    (((ls.map (· / 4)).eraseDups).foldl (fun s sb => l2Take 16 (sbDie sb) sb 0 nt s) s, x)
/-- A write of own memory performed at its point of coherence (R41, R42, R43, R49, R53). -/
def writeHome (nt : Bool) (agentNo : BitVec 7) (a : Nat) (bs : List Byte) (s : State) : State × Bool :=
  let s := if 2 ^ 40 ≤ a then s
    else (linesOf a bs.length).foldl (fun s l => homeLine nt agentNo l s) (correct [.weakTag] a bs.length agentNo s)
  applyHome nt agentNo a bs (correctRest a bs.length agentNo s)
/-- A read-modify-write performed at its point of coherence, as one request (R42, R50, R125): its answer is the old value. -/
def atomicHome (nt : Bool) (agentNo : BitVec 7) (a n : Nat) (f : Nat → Nat) (s : State) : State × Except (BitVec 8) (List Byte) :=
  match readHome none true nt agentNo a n s with
  | (s, .error e) => (s, .error e)
  | (s, .ok bs) => ((applyHome nt agentNo a (bytesOf n (f (ofBytes bs))) s).1, .ok bs)

/-- A reduce-store applied at home (R123): one that meets a unit that cannot be corrected is dropped (R53). -/
def reduceHome (nt : Bool) (aop size : Nat) (bf : Bool) (a x : Nat) (agentNo : BitVec 7) (s : State) : State × Bool :=
  let s := if 2 ^ 40 ≤ a then correct [.weakScratch] a size agentNo s
    else homeLine nt agentNo (a / 128) (correct [.weakL2, .weakTag] a size agentNo s)
  match s.badFirst a size with
  | some (u, _) => (logOwn (dieOf a) u.1 3 u.2.2 agentNo s, true)
  | none => applyHome nt agentNo a (bytesOf size (applyAop aop (8 * size) bf (s.getVal a size) x)) s

/-- A partial leaves a core's buffer or an L2, by the replacement of either (R122). -/
def evictOut (nt : Bool) (p : Partial) (s : State) : State :=
  let sb := p.line / 4
  let (s, kept) := evictPartial p (if p.core.isNone then l2Drop p.die p.line s else s)
  if kept then l2Take 16 p.die sb (BitVec.ofNat 4 (2 ^ (p.line % 4))) nt s else l2Take 16 (sbDie sb) sb 0 nt s
/-- A partial can leave now: its home, where it goes there, does not wait (R38, R42). -/
def State.mayEvict (s : State) (p : Partial) : Bool :=
  (p.core.isSome && p.die ≠ dieOf (p.line * 128)) || !s.homeWaits none (p.line * 128) 128
/-- A reduce-store of a core joins or opens a partial of its line, or is applied at home (R123, R128). -/
def State.joins (s : State) (core : Option Nat) (d aop size : Nat) (bf : Bool) (line : Nat) : Bool :=
  core.isSome && !(s.reg (rDieMem d 0x80)).getLsbD 0 && s.partials.all fun p => p.line != line || p.accepts aop size bf
/-- The entry of a core's buffer that a reduce-store to a line needs free (R122). -/
def State.fullBuffer (s : State) (core : Option Nat) (line : Nat) : Option Partial :=
  let mine := s.partials.filter fun p => p.core == core
  if mine.any (·.line == line) || mine.length < 32 then none else mine.head?
/-- A reduce-store waits for the entry that its core's buffer must give up (R38, R122). -/
def State.bufferWaits (s : State) (core : Option Nat) (d aop size : Nat) (bf : Bool) (line : Nat) : Bool :=
  s.joins core d aop size bf line && (s.fullBuffer core line).any fun p => !s.mayEvict p
/-- A reduce-store to DRAM of this module, registered (R122, R123, R127, R128): combined into the partial of the core's buffer,
which opens where none is, or applied at home. -/
def reduceStore (nt : Bool) (core : Option Nat) (d aop size : Nat) (bf : Bool) (a x : Nat) (agentNo : BitVec 7) (s : State) : State × Bool :=
  let line := a / 128
  let off := a % 128
  if !s.joins core d aop size bf line then reduceHome nt aop size bf a x agentNo s
  else
    let s := (invalidateAll line s).setDir line .u
    let s := if s.partials.any fun p => p.line == line && p.core == core then s
      else
        let s := match s.fullBuffer core line with | some p => evictOut nt p s | none => s
        { (s.count (rDieMem d 0x88) 1) with partials := s.partials ++ [⟨d, core, line, BitVec.ofNat 4 aop, size, bf, []⟩] }
    let upd := fun (p : Partial) =>
      let old := match p.elems.find? (·.1 == off) with | some e => e.2.toNat | none => identityOf aop size
      { p with elems := SMap.insert p.elems off (BitVec.ofNat 64 (applyAop aop (heldBits size) bf old (widenElem size bf x))) }
    ({ s with partials := updFirst (fun p => p.line == line && p.core == core) upd s.partials }, false)

/-- An L2 partial that L2 replacement has selected leaves it: whether and which is free (R122). -/
def evictSome (s : State) : State :=
  let ls := s.partials.filter fun p => p.core.isNone && s.mayEvict p
  if ls.isEmpty then s
  else
    match ls[s.choose (ls.length + 1)]? with
    | some p => evictOut false p (s.useFree 1)
    | none => s.useFree 1

/-- A write that the module itself makes, which nothing awaits: performed when the home of its lines can take it, in the order in which such
writes were made (R42, R448). -/
def postedDue (s : State) : State :=
  match s.sys.posted with
  | [] => s
  | (a, bs) :: r => if s.homeWaits none a bs.length then s else (writeHome false 127 a bs { s with sys := { s.sys with posted := r } }).1
def postWrite (a : Nat) (bs : List Byte) (s : State) : State :=
  let s := { s with sys := { s.sys with posted := s.sys.posted ++ [(a, bs)] } }
  if s.sys.posted.length = 1 then postedDue s else s

-- Errors that strike (R51).

/-- An error that cannot be corrected strikes a memory of a core (R354): a word of its pool, a word of a vector register, an element of a
tile, a buffer. -/
def strikeCore (x : Strike) (s : State) : State :=
  let k := x.addr
  match x.source.toNat with
  | 4 => let u := 2 ^ 44 + k % 2 ^ 30 / 8 * 8; { s with bad := if s.bad.contains u then s.bad else u :: s.bad }
  | 5 => { s with agents := updFirst (·.id == k / 65536) (fun (a : Agent) => { a with flawed := k % 65536 :: a.flawed }) s.agents }
  | 6 => { s with teams := updFirst (·.id == k / 2 ^ 18) (fun (t : Team) => { t with flawed := k % 2 ^ 18 :: t.flawed }) s.teams }
  | 7 => { s with teams := updFirst (·.id == k / 4) (fun (t : Team) => { t with
      bufs := SMap.set Buffer.empty t.bufs (k % 4) { SMap.get Buffer.empty t.bufs (k % 4) with flawed := true } }) s.teams }
  | _ => s
/-- An error strikes a unit: one that the code corrects is met by each read; a DRAM unit below a superblock that its L2 holds is not read. -/
def strike (x : Strike) (s : State) : State :=
  let inL2 := ((s.die (sbDie (x.addr / 512))).tag? (x.addr / 512)).isSome
  let flaw := fun (u : Nat) (f : Flaw) => { s with flaws := s.flaws ++ (if s.flaws.contains (u, f) then [] else [(u, f)]) }
  let inCopy := x.source.toNat ≤ 2 && 0 < x.source.toNat && x.die != sbDie (x.addr / 512) && (s.die x.die).hasLine (x.addr % 2 ^ 39 / 128)
  if inCopy then
    let y := s.die x.die
    let u := if x.source == 2 then x.addr % 2 ^ 39 / 128 * 128 else x.addr % 2 ^ 39 / 8 * 8
    s.setDie x.die { y with copyFlaws := y.copyFlaws ++ [(u, x.source, x.double)] }
  else
  match x.source.toNat with
  | 0 =>
    let u := x.addr % 2 ^ 39 / 64 * 64
    if !x.double then flaw u .weakDram
    else if inL2 then flaw u .hidden
    else { s with bad := if s.bad.contains u then s.bad else u :: s.bad }
  | 1 =>
    let u := x.addr % 2 ^ 39 / 8 * 8
    if !inL2 then s else if x.double then { s with badL2 := if s.badL2.contains u then s.badL2 else u :: s.badL2 } else flaw u .weakL2
  | 2 =>
    let l := x.addr % 2 ^ 39 / 128
    if !inL2 then s else if x.double then { s with badTags := if s.badTags.contains l then s.badTags else l :: s.badTags }
    else flaw (l * 128) .weakTag
  | 3 =>
    let u := 2 ^ 40 + x.addr % 2 ^ 29 / 8 * 8
    if x.double then { s with bad := if s.bad.contains u then s.bad else u :: s.bad } else flaw u .weakScratch
  | _ => if x.double then strikeCore x s else s

end Sys2Proof.Machine
end

