-- ==== Sys2Proof/Machine/Trace.lean ====
section
/-!
DEFINITION. Trace records (R448 to R450), and the trigger of a freeze (R456).
-/
namespace Sys2Proof.Machine

/-- The freeze trigger: the registers latch 16 cycles after it; a trigger while one is held is ignored (R456). -/
def trigger (s : State) : State :=
  if s.frozen.isSome || s.sys.freezeIn.isSome then s else { s with sys := { s.sys with freezeIn := some 16 } }

/-- GT minus that of the stream's last record, 0 where it has none (R449). -/
def State.sinceRecord (s : State) (die st : Nat) : Nat :=
  match s.sys.trGt.find? (·.1 == die * 65 + st) with | some e => s.gt.toNat - e.2.toNat | none => 0
/-- One record written to a stream's ring (R448, R449); a record of a kind in FRZK fires the freeze trigger (R456). -/
def traceRaw (die st kind dt : Nat) (pmask id off mask pay : Nat) (s : State) : State :=
  let seg := (s.reg (rTrace die 8)).toNat % 2 ^ 32
  let base := (s.reg (rTrace die 0)).toNat % 2 ^ 44 + st * seg
  let wp := rTrace die (0x18 + 8 * st)
  let pos := (s.reg wp).toNat
  let bs := bytesOf 8 (kind * 2 ^ 60 + dt % 65536 * 2 ^ 44 + pmask % 16 * 2 ^ 36 + id % 2 ^ 36) ++ bytesOf 8 (off % 2 ^ 54) ++
    bytesOf 8 mask ++ bytesOf 8 pay
  let s := postWrite (base + pos % seg) bs s
  let s := s.setReg wp (BitVec.ofNat 64 (pos + 32))
  let s := { s with sys := { s.sys with trGt := SMap.insert s.sys.trGt (die * 65 + st) s.gt } }
  if (s.reg (rTrace die 0x10)).getLsbD (48 + kind) then trigger s else s

/-- A stream's ring takes another record: a full one does only where its oldest may be overwritten (R448). -/
def State.traceRoom (s : State) (die st : Nat) : Bool :=
  (s.reg (rTrace die 0x10)).getLsbD 0 || (s.reg (rTrace die (0x18 + 8 * st))).toNat + 32 ≤ (s.reg (rTrace die 8)).toNat % 2 ^ 32
/-- A record written where its kind is and the ring has room. -/
def traceOne (die st kind dt pmask id off mask pay : Nat) (s : State) : State :=
  if (s.reg (rTrace die 0x10)).getLsbD (32 + kind) && s.traceRoom die st then
    traceRaw die st kind dt pmask id off mask pay s
  else s
/-- The FULLTIME record, with DT 0, that comes before one whose DT would exceed 65,535 (R450). -/
def fullTime (die st : Nat) (s : State) : State :=
  if 65535 < s.sinceRecord die st then traceOne die st 0 0 0 0 0 0 s.gt.toNat s else s
/-- A record of the stream's own that is due before another. -/
def traceOwn (die st kind pay : Nat) (s : State) : State :=
  let s := fullTime die st s
  traceOne die st kind (s.sinceRecord die st) 0 0 0 0 pay s
/-- A record that finds no room is dropped and counted (R448). -/
def traceLose (die st : Nat) (s : State) : State :=
  let k := die * 65 + st
  { (s.count (rTrace die 0x220) 1) with sys := { s.sys with trLost := SMap.set 0 s.sys.trLost k (SMap.get 0 s.sys.trLost k + 1) } }
/-- A trace record (R448 to R450): LOST, SYNC and FULLTIME records come first where they are due; a full ring drops it or overwrites its
oldest. -/
def trace (die st kind : Nat) (pmask id off mask pay : Nat) (s : State) : State :=
  let seg := (s.reg (rTrace die 8)).toNat % 2 ^ 32
  if seg = 0 || !(s.reg (rTrace die 0x10)).getLsbD (32 + (if kind = 5 then 4 else kind)) then s
  else
    let k := die * 65 + st
    if !s.traceRoom die st then traceLose die st s
    else
      let lost := SMap.get 0 s.sys.trLost k
      let s := if lost = 0 then s
        else traceOwn die st 0xB lost { s with sys := { s.sys with trLost := SMap.set 0 s.sys.trLost k 0 } }
      let s := if SMap.get false s.sys.trSync k then s
        else traceOwn die st 1 s.gt.toNat { s with sys := { s.sys with trSync := SMap.set false s.sys.trSync k true } }
      let s := fullTime die st s
      if s.traceRoom die st then traceRaw die st kind (s.sinceRecord die st) pmask id off mask pay s else traceLose die st s

/-- GANGID of a gang, CORE of any agent (R210). -/
def State.gangid (s : State) (a : Agent) : U64 := ((s.team a.team).teamid ++ BitVec.ofNat 4 a.idx).setWidth 64
def Agent.coreReg (a : Agent) : U64 :=
  if a.drover then BitVec.ofNat 64 (0x8000 + a.die * 256 + a.idx) else BitVec.ofNat 64 (a.die * 256 + a.core)
/-- The stream of an agent's records and the ID that they carry (R448, R449). -/
def traceAgent (a : Agent) (kind pmask off mask pay : Nat) (s : State) : State :=
  trace a.die (if a.drover then 64 else a.core) kind pmask (if a.drover then a.coreReg else s.gangid a).toNat off mask pay s

end Sys2Proof.Machine
end

