-- ==== Sys2Proof/Machine/Groups.lean ====
section
/-!
DEFINITION. Counted barriers (R326 to R331), collective groups, knells and agreement (R373, R433, R434, R439, R440).
-/
namespace Sys2Proof.Machine

-- Packets.

/-- The coordinate of a physical module along dimension d: 0 X, 1 Y, 2 Z (R20). -/
def physPos (m : BitVec 12) (d : Nat) : Nat := m.toNat / 16 ^ d % 16
/-- The way from a to b along d goes in the + direction: the shorter around a ring of 16, with a tie to + (R431). DEDUCED [59]. -/
def goesUp (a b : BitVec 12) (d : Nat) : Bool := (physPos b d + 16 - physPos a d) % 16 ≤ 8
/-- The dimensions in which a packet travels, in order (R431). -/
def wayDims (a b : BitVec 12) : List Nat := [0, 1, 2].filter fun d => physPos a d != physPos b d
/-- The port by which a packet from a to b leaves a (R431). -/
def portOut (a b : BitVec 12) : Option Nat := (wayDims a b).head?.map fun d => if goesUp a b d then 2 * d else 2 * d + 1
/-- The port towards a physical module by dimension order; a free choice where a packet has no way to go. DEDUCED [59]. -/
def State.portTo (s : State) (m : Option (BitVec 12)) : Nat := ((m.bind fun m => portOut s.myphys m)).getD (s.choose 6)
/-- A packet is sent on a channel of a port (R431): channel number = port * 4 + VC. -/
def sendOn (port : Nat) (p : Packet) (s : State) : State :=
  let ch := port * 4 + p.vc.toNat
  { s with sys := { s.sys with outq := SMap.set [] s.sys.outq ch (SMap.get [] s.sys.outq ch ++ [p]) } }
/-- A message of a collective of a group has passed a port (R431, R440). -/
def notePort (g port : Nat) (s : State) : State :=
  let l := SMap.get [] s.sys.ringPorts g
  if l.contains port then s else { s with sys := { s.sys with ringPorts := SMap.set [] s.sys.ringPorts g (l ++ [port]) } }
/-- A packet leaves for a physical module. -/
def sendTo (m : Option (BitVec 12)) (p : Packet) (s : State) : State :=
  let p := { p with phys := m.getD 0 }
  let s1 := sendOn (s.portTo m) p (s.useFree 1)
  if p.kind == 4 || p.kind == 5 then notePort (p.tag.toNat % 64) (s.portTo m) s1 else s1
/-- A packet that reads the remap entry of its destination at injection (R21). -/
def sendPacket (p : Packet) (s : State) : State := sendTo (s.remap p.dlmn) p s

-- Counted barriers.

/-- The fields of a barrier (R326). -/
structure Barrier where
  expected : Nat
  arrived : Nat
  phase : Bool
  broken : Bool
  why : Nat
  /-- Bits [127:68]. -/
  rest : Nat
deriving DecidableEq, Repr
def decodeBarrier (x : Nat) : Barrier :=
  ⟨x % 2 ^ 32, x / 2 ^ 32 % 2 ^ 32, x.testBit 64, x.testBit 65, x / 2 ^ 66 % 4, x / 2 ^ 68⟩
def Barrier.bits (b : Barrier) : Nat :=
  b.expected + b.arrived * 2 ^ 32 + (if b.phase then 2 ^ 64 else 0) + (if b.broken then 2 ^ 65 else 0) + b.why * 2 ^ 66 + b.rest * 2 ^ 68
def State.barrier (s : State) (a : Nat) : Barrier := decodeBarrier (s.getVal a 16)
def putBarrier (a : Nat) (b : Barrier) (s : State) : State := s.writeMem a (bytesOf 16 b.bits)
/-- The update of an arrival with count k (R329). -/
def Barrier.arrive (b : Barrier) (k : Nat) : Barrier :=
  if b.broken || k = 0 then b
  else if b.expected < b.arrived + k then { b with broken := true, why := 2 }
  else if b.arrived + k = b.expected then { b with arrived := 0, phase := !b.phase }
  else { b with arrived := b.arrived + k }
def barArrive (a k : Nat) (s : State) : State := putBarrier a ((s.barrier a).arrive k) s
/-- A broken mark set by the module (R326). -/
def barBreak (a why : Nat) (s : State) : State :=
  let b := s.barrier a
  putBarrier a (if b.broken then b else { b with broken := true, why := why }) s

/-- An entry held for a saved team (R494). -/
def heldBytes (w : HeldWrite) : List Byte :=
  match w with
  | .record o bs => w64 (o % 2 ^ 32 * 2 ^ 32 + 1) ++ bs.take 16 ++ zeros (16 - bs.length) ++ w64 0
  | .arrive o _ => w64 (o % 2 ^ 32 * 2 ^ 32 + 2) ++ zeros 24
  | .broken o why => w64 (o % 2 ^ 32 * 2 ^ 32 + why.toNat % 4 * 256 + 3) ++ zeros 24
/-- An entry that comes to be held for a saved team joins the record in its slot: the entry, H, and the record's bytes (R429, items 1
and 6). -/
def noteHeld (x : Team) (w : HeldWrite) (s : State) : State :=
  match x.slot with
  | none => s
  | some (a, _) =>
    let h := x.held.length
    let e := a + x.heldAt
    postWrite (a + 0x38) (w64 (x.heldAt + 64 + 32 * h)) (postWrite e (w64 (h + 1)) (postWrite (e + 32 + 32 * h) (heldBytes w) s))
/-- A write owed to a team: held while the team is saved (R422). -/
def owe (t : Nat) (w : HeldWrite) (s : State) : State :=
  let x := s.team t
  if x.state == .saved then noteHeld x w (s.setTeam { x with held := x.held ++ [w] })
  else if s.teams.all (·.id != t) then s
  else match w with
    | .record off bs => s.writeMem (x.origin + off) bs
    | .arrive off k => barArrive (x.origin + off) k s
    | .broken off why => barBreak (x.origin + off) why.toNat s

/-- Range locks of an operation are released (R80). -/
def unlock (op : Nat) (s : State) : State :=
  { s with cores := s.cores.map fun e => (e.1, { e.2 with locks := e.2.locks.filter fun l => l.op != op }) }

-- Groups.

/-- A group's states (R433). -/
def State.grpState (s : State) (g : Nat) : Nat := (s.reg (rFab (8 * g))).toNat / 2 ^ 61
def setGrpState (g st : Nat) (s : State) : State :=
  s.setReg (rFab (8 * g)) (BitVec.ofNat 64 ((s.reg (rFab (8 * g))).toNat % 2 ^ 61 + st * 2 ^ 61))
/-- Extents, members, the base and this module's member number (R434). -/
def State.grpExt (s : State) (g : Nat) : Nat × Nat × Nat :=
  let c := s.reg (rFab (8 * g))
  ((c.extractLsb' 32 4).toNat + 1, (c.extractLsb' 36 4).toNat + 1, (c.extractLsb' 40 4).toNat + 1)
def State.grpSize (s : State) (g : Nat) : Nat := let (x, y, z) := s.grpExt g; x * y * z
def State.grpBase (s : State) (g : Nat) : Nat := ((s.reg (rFab (8 * g))).extractLsb' 20 12).toNat
def State.grpSelf (s : State) (g : Nat) : Nat := s.mylmn.toNat - s.grpBase g
def State.grpStep (s : State) (g : Nat) : U64 := s.reg (rFab (0x600 + 8 * g))
/-- A team is this module's member of a group (R434). -/
def State.isMember (s : State) (g : Nat) (t : Team) : Bool :=
  (s.reg (rFab (0x400 + 8 * g))).toNat % 2 ^ 32 == (s.grid t.grid).gridid.toNat && (s.reg (rFab (0x200 + 8 * g))).toNat == t.lin

/-- A message of a group to member m (R432, R440). -/
def grpPacket (s : State) (g m kind vc : Nat) (seq : Nat) (addr : U64) (payload : List Byte) : Packet where
  dlmn := BitVec.ofNat 12 (s.grpBase g + m)
  slmn := s.mylmn
  kind := BitVec.ofNat 4 kind
  vc := BitVec.ofNat 2 vc
  tag := BitVec.ofNat 24 (g + seq % 2 ^ 18 * 64)
  addr := addr
  payload := payload
  phys := 0
/-- A message to every other member (R440). -/
def sendOthers (g kind vc : Nat) (addr : U64) (s : State) : State :=
  ((List.range (s.grpSize g)).filter (· != s.grpSelf g)).foldl (fun s m => sendPacket (grpPacket s g m kind vc 0 addr []) s) s

/-- A collective ends by a knell, a close or a fault of its own: its barrier is broken, and the next wait of an issuing gang
reports it (R373). A phase byte that it owes for a chunk that it has written is still written; a chunk of which nothing is written is not
(R437, R447). -/
def abortColl (c : Coll) (s : State) : State :=
  let off := (c.ctl0 >>> 32).toNat
  let owed := (c.writes.take 1).filter (·.step == 1)
  let s := { s with sys := { s.sys with
    colls := s.sys.colls.filter (·.id != c.id)
    ending := s.sys.ending ++ if owed.isEmpty then [] else [{ c with writes := owed }] } }
  let s := owe c.team (.broken off 3) (unlock c.id s)
  let t := s.team c.team
  s.setTeam { t with aborts := t.aborts ++ [(off, c.issued)] }
/-- Every collective of a group ends, and what the routers hold of it is discarded. -/
def endColls (g : Nat) (s : State) : State :=
  let s := (s.sys.colls.filter (·.grp == g)).foldl (fun s c => abortColl c s) s
  { s with sys := { s.sys with
    routers := s.sys.routers.filter fun r => (r.header.extractLsb' 64 6).toNat != g
    inject := s.sys.inject.filter fun x => x.packet.tag.toNat % 64 != g
    restoredGrps := s.sys.restoredGrps.filter (· != g) } }

/-- Every member's STEP is held: the least is agreed (R440). -/
def checkAgree (g : Nat) (s : State) : State :=
  let rs := SMap.get [] s.sys.reports g
  if s.grpState g = 2 && (List.range (s.grpSize g)).all fun m => rs.any (·.1 == m) then
    let v := (rs.map (·.2.toNat)).foldl min (2 ^ 64 - 1)
    (setGrpState g 3 (s.setReg (rFab (0x800 + 8 * g)) (BitVec.ofNat 64 v))).interrupt 3
  else s
/-- A STEP report of member m is held (R440). -/
def holdReport (g m : Nat) (v : U64) (s : State) : State :=
  let rs := SMap.get [] s.sys.reports g
  checkAgree g { s with sys := { s.sys with
    reports := SMap.set [] s.sys.reports g (rs.filter (·.1 != m) ++ [(m, v)]) } }
/-- A knell is received or sent: the group is KNELLED, its collectives end, its STEP goes to every member (R440). -/
def knellGroup (g : Nat) (s : State) : State :=
  if s.grpState g ≠ 1 then s
  else
    let s := endColls g (setGrpState g 2 s)
    let us := max 1 ((s.reg (rFab 0xA08)).toNat % 2 ^ 32)
    let s := { s with sys := { s.sys with agreeBy := SMap.set 0 s.sys.agreeBy g (s.gt + BitVec.ofNat 64 (us * 1000)) } }
    holdReport g (s.grpSelf g) (s.grpStep g) (sendOthers g 8 3 (s.grpStep g) s)
/-- This member knells a group (R440). -/
def sendKnell (g : Nat) (s : State) : State := if s.grpState g ≠ 1 then s else knellGroup g (sendOthers g 7 3 0 s)
/-- A fatal fault in group g: the group, and each other group of its member team, is knelled (R440). -/
def fatalFault (g : Nat) (s : State) : State :=
  let same := (List.range 64).filter fun k => k != g && s.grpState k = 1 &&
    s.reg (rFab (0x400 + 8 * k)) == s.reg (rFab (0x400 + 8 * g)) && s.reg (rFab (0x200 + 8 * k)) == s.reg (rFab (0x200 + 8 * g))
  same.foldl (fun s k => sendKnell k s) (sendKnell g s)
/-- A fatal fault of a member team: of every open group to which it belongs (R440). -/
def teamFatal (t : Team) (s : State) : State :=
  ((List.range 64).filter fun k => s.grpState k = 1 && s.isMember k t).foldl (fun s k => sendKnell k s) s

-- Requests for a snapshot (R146, R147).

def ColState.code (x : ColState) : Nat := match x with | .free => 0 | .recording => 1 | .streaming => 2 | .complete => 3
/-- The ports whose neighbours are in the snapshot domain (R135). -/
def State.snapPorts (s : State) : List Nat := (List.range 6).filter fun p => (s.reg (rSnap 0)).getLsbD p
/-- A colour starts: its cut is asked for; with channels to log it records, else it streams (R147). -/
def startColour (c : Bool) (logged : Option Nat) (s : State) : State :=
  let chans := (s.snapPorts.flatMap fun p => (List.range 4).map (4 * p + ·)).filter fun h => logged != some h
  s.setColour c { Colour.free with st := if chans.isEmpty then .streaming else .recording, asked := true, chans := chans }
/-- A request for a colour: its outcome code (R146). -/
def snapRequest (c : Bool) (s : State) : Nat × State :=
  if !(s.reg (rSnap 0)).getLsbD 9 then (3, s)
  else match (s.colour c).st with
    | .free => (0, startColour c none s)
    | .recording => (1, s)
    | _ => (2, s)
/-- SNAPST (R148). -/
def State.snapst (s : State) : U64 :=
  let b := fun (x : Bool) (n : Nat) => if x then 2 ^ n else 0
  BitVec.ofNat 64 (b s.sys.c1.local_ 7 + b s.sys.c0.local_ 6 + b s.sys.c1.fail 5 + b s.sys.c0.fail 4 + s.sys.c1.st.code * 4 + s.sys.c0.st.code)

end Sys2Proof.Machine
end

