-- ==== Sys2Proof/Machine/Ops.lean ====
section
/-!
DEFINITION. The shared operations of the instructions: active lanes and guards, register writes, the end of an issue, taking
a trap and returning from one, the register window, splits and joins (R165 to R174, R184, R185, R203 to R211, R246 to R254,
R360 to R363, R412 to R418).
-/
namespace Sys2Proof.Machine

/-- The cause codes of R27. -/
def cIllegal : Nat := 0x01
def cPair : Nat := 0x02
def cUninit : Nat := 0x03
def cConverge : Nat := 0x04
def cPlane : Nat := 0x05
def cDispatch : Nat := 0x06
def cDepth : Nat := 0x07
def cSpill : Nat := 0x08
def cXlate : Nat := 0x10
def cAccess : Nat := 0x11
def cAlign : Nat := 0x12
def cRange : Nat := 0x13
def cMemerr : Nat := 0x14
def cCluster : Nat := 0x15
def cSpace : Nat := 0x16
def cBrk : Nat := 0x30
def cWatch : Nat := 0x31
def cSwtrap : Nat := 0x32
def cCopy : Nat := 0x40
def cMat : Nat := 0x41
def cColl : Nat := 0x42
def cBar : Nat := 0x43

/-- A report (R26): cause, detail, lanes, address, register. The offset is filled in by the stop. -/
def rep (cause detail : Nat) (mask addr reg : U64) : TrapRegs :=
  ⟨BitVec.ofNat 64 (cause % 256 + detail % 256 * 256), 0, mask, addr, reg⟩

/-- The lanes of the issue that are in LIVE and in EXEC, before the guard (R172). -/
def State.before (s : State) : U64 := s.lanes &&& s.g.live &&& s.g.exec
/-- The lanes that pass a guard field (R184). -/
def Agent.passing (a : Agent) (g : BitVec 4) : U64 :=
  if g.getLsbD 3 then ~~~(a.mget (g.toNat % 8)) else a.mget (g.toNat % 8)
/-- The active lanes of the issue (R172). -/
def State.act (s : State) (h : Hint) : U64 := s.before &&& s.g.passing h.guard

/-- Before a scalar register, vector registers of an agent change, their granules are captured (R138). -/
def touchS (s : State) : State := touch [grScalar s.g.id] s
def touchV (n : Nat) (s : State) : State := touch [grVec s.g.id (s.g.phys n)] s
/-- A write of a scalar register (R203). -/
def setS (d : Nat) (v : U64) (s : State) : State :=
  let s := touchS s
  { s with g := s.g.sset d v }
/-- A write of the lanes in m of vector register d (R203, R205). -/
def setV (d : Nat) (m : U64) (f : Nat → U32) (s : State) : State :=
  if m = 0 then s
  else
    let s := touchV d s
    { s with g := (lanesOf m).foldl (fun a l => a.pset (a.phys d) l (f l)) s.g }
/-- A write of the pair of registers d and d + 1 (R204). -/
def setV2 (d : Nat) (m : U64) (f : Nat → U64) (s : State) : State :=
  setV (d + 1) m (fun l => hi32 (f l)) (setV d m (fun l => lo32 (f l)) s)
/-- A write of the lanes in m of mask register d (R204). -/
def setM (d : Nat) (m v : U64) (s : State) : State := { s with g := s.g.mset d m v }
/-- A write of EXEC: the bits of the lanes in m, which are lanes of the issuing path in the issuing planes (R171). -/
def setX (m v : U64) (s : State) : State :=
  { s with g := { s.g with exec := ((s.g.exec &&& ~~~m) ||| (v &&& m)) &&& lowMask s.g.width } }
/-- Sticky flags raised (R211). -/
def raiseFlags (f : BitVec 5) (s : State) : State := { s with g := { s.g with fp := s.g.fp ||| f } }

/-- The path at issue replaced. -/
def State.updPath (s : State) (f : Path → Path) : State :=
  { s with g := { s.g with paths := updFirst (·.id == s.cur) f s.g.paths } }
/-- The highest and the lowest plane of a set. -/
def topPlane (m : BitVec 4) : Nat := if m.getLsbD 3 then 3 else if m.getLsbD 2 then 2 else if m.getLsbD 1 then 1 else 0
def lowPlane (m : BitVec 4) : Nat :=
  if m.getLsbD 0 then 0 else if m.getLsbD 1 then 1 else if m.getLsbD 2 then 2 else if m.getLsbD 3 then 3 else 0
/-- Planes of the path above the one at issue still owe their word of this offset (R167). -/
def State.owed (s : State) : Bool := (s.g.occupied (s.path.lanes &&& s.g.live)).any fun p => topPlane s.pmask < p

/-- What the decoder reads of an agent. -/
def State.decCtx (s : State) (a : Agent) : DecCtx := ⟨a.drover, a.width, (s.team a.team).arrays.length⟩
/-- The registers that the word at issue writes, for its LOOK shadow (R191). -/
def State.dests (s : State) : List RegRef := (wordRegs (s.decCtx s.g) s.word).2

/-- GAP n leaves n cycles after the word without another of its gang; GW gives way in the next one (R189, R190). -/
def Agent.hinted (h : Hint) (a : Agent) : Agent :=
  { a with gap := if h.gap = 0 then 0 else h.gap.toNat + 1, gw := if h.gw then 2 else 0 }
/-- The shadows of a path one word on: the words of all planes at one offset count once, and one that has been opened at this offset begins
with the next (R191). -/
def Path.spent (p : Path) : List Shadow :=
  (p.shadows.map fun x => if x.fresh then { x with fresh := false } else { x with left := x.left - 1 }).filter (0 < ·.left)
/-- The operation that the word at issue has just sent (R191). -/
def State.newOp (s : State) : Option Nat :=
  match s.ops.getLast? with
  | some o => if o.agent == s.g.id && o.path == s.cur && o.off == s.path.pc && o.id + 1 == s.serial then some o.id else none
  | none => none

/-- Words of the gang that are still not to hit again, once the word at issue has issued (R452). -/
def State.hitsAgain (s : State) : List (Nat × Offs) := s.g.noHit.filter (· != (s.cur, s.path.pc))
/-- The issue of the word ends and its path is at offset pc; its hints take effect (R189 to R191). The next plane's word
comes first where planes are owed. A drover ignores LOOK (R386). -/
def finish (h : Hint) (same : Bool) (pc : Offs) (s : State) : State :=
  let new := if h.look = 0 || s.g.drover then [] else [⟨h.look.toNat, s.newOp, RegVals.none, same⟩]
  let again := s.hitsAgain
  let s := s.updPath fun p =>
    { p with
      back := []
      pc := pc
      plane := if same then topPlane s.pmask + 1 else 0
      age := 0
      stalled := false
      shadows := (if same then p.shadows else p.spent) ++ new
      ins := if same then p.ins else none }
  { s with sel := false, g := ({ s.g with walked := [], noHit := again }).hinted h }

-- Plane regions (R166, R167, R255).

/-- Offset o lies in the region. -/
def Region.has (r : Region) (o : Offs) : Bool := (o - r.base).toNat < r.len
/-- Some lane of lanes m moves to offset o, outside the region, while a live lane of the gang is outside plane 0 (R167, item 3). -/
def Agent.strands (a : Agent) (m : U64) (o : Offs) : Bool :=
  match a.region with
  | some r => m &&& a.live != 0 && !r.has o && (lanesOf a.live).any fun l => a.plane l != 0
  | none => false
/-- The lanes that no path runs: they wait at a join, or their arm has not started (R170). -/
def Agent.waiting (a : Agent) : U64 := a.paths.foldl (fun m p => m &&& ~~~p.lanes) a.live
/-- A lane is still in the region: a path stands there, lanes wait there, or a lane is outside plane 0. DESIGN CHOICE [107]: the region stays
recorded for the whole gang while one of its paths is outside it; the rules speak of one shared offset. -/
def Agent.within (a : Agent) (r : Region) : Bool :=
  (a.paths.any fun p => r.has p.pc) || ((lanesOf a.live).any fun l => a.plane l != 0) ||
    a.divs.any fun e => e.lanes &&& a.waiting != 0 && (r.has e.join || e.todo.any fun t => r.has t.start)
/-- INREG clears when the gang has left the region (R166, R255). -/
def Agent.leave (a : Agent) : Agent :=
  match a.region with
  | some r => if a.within r then a else { a with region := none }
  | none => a
def leaveRegion (s : State) : State := { s with g := s.g.leave }

/-- Where the path goes after the word at issue, offset and plane: to the next offset; after a word that has issued again for a fault that
came with its data, where it stood: what it has issued since has taken its effect (R361, R412). DEDUCED [40]. -/
def State.goesOn (s : State) : Offs × Nat := (s.path.back[0]?).getD (s.g.after s.path.pc, 0)
/-- The word completes: the next owed plane's word, else the path goes on (R167). -/
def retire (h : Hint) (s : State) : State :=
  let r := s.path.back
  if r.isEmpty && s.owed then finish h true s.path.pc s
  else leaveRegion ((finish h false s.goesOn.1 s).updPath fun p => { p with plane := s.goesOn.2, back := r.drop 1 })

/-- The word waits: it stays at issue and takes no effect (R175, R407). -/
def stall (s : State) : State :=
  { (s.updPath fun p => { p with stalled := true }) with sel := false }

/-- A gang-uniform effect: once, where some lane that is active before the guard passes it (R185). -/
def uniform (h : Hint) (f : State → State) (s : State) : State := if s.act h = 0 then s else f s

/-- What an agent has sent and awaits before it can stop: loads and atomics in flight (R412, R413). -/
def State.quiet (s : State) (id : Nat) : Bool :=
  s.ops.all fun o => o.agent != id || (match o.kind, o.dest with
    | .load, .none => true
    | .load, _ => false
    | .atomic, _ => false
    | _, _ => true)
/-- A read that a word made for itself: its result has nowhere to go when the word does not complete. -/
def MemOp.inlineRead (o : MemOp) : Bool := o.kind == .load && o.dest == .none

/-- Where an agent stands, as TRAPPC reports it: the planes that still owe their word, and the offset (R210). -/
def Agent.standsAt (a : Agent) : U64 :=
  let p := (a.runnable[0]?).getD ((a.paths[0]?).getD Path.empty)
  (planeMask ((a.occupied (p.lanes &&& a.live)).filter (p.plane ≤ ·)) ++ p.pc).setWidth 64
/-- A STOP record, of the word that a TRAPPC names: its planes, its offset, its lanes, TRAPCAUSE, and whether the agent is parked or saved
(R449, R450). -/
def traceStop (a : Agent) (pc mask : U64) (parked saved : Bool) (s : State) : State :=
  traceAgent a 3 (pc.toNat / 2 ^ 54) pc.toNat mask.toNat
    (a.trap.cause.toNat % 65536 + (if parked then 2 ^ 16 else 0) + if saved then 2 ^ 17 else 0) s
/-- A gang that parks enters the park log, and the host is interrupted (R467). -/
def logPark (nonstop : Bool) (a : Agent) (s : State) : State :=
  let e : ParkEntry := ⟨nonstop, a.trapMode, s.gangid a, (s.grid a.grid).gridid, a.trap.cause.extractLsb' 0 16⟩
  let s := if s.sys.parklog.length < 64 then { s with sys := { s.sys with parklog := s.sys.parklog ++ [e] } }
    else { s with sys := { s.sys with parkOvf := true } }
  s.interrupt 0
/-- A gang parks: it enters the park log and the host is interrupted (R417, R467); r says where it stands. -/
def park (nonstop : Bool) (r : TrapRegs) (a : Agent) (s : State) : State :=
  traceStop a r.pc r.mask true false (logPark nonstop a (s.setAgent { a with parked := true, nonstop := nonstop }))

-- Lanes that have not been sent (R413).

/-- A word of a lane-level memory instruction: LD, ST, LDG, STG, ATOM or RSTORE. -/
def laneWord (w : U64) : Bool := !flag w 63 && [0x140, 0x141, 0x144, 0x145, 0x146, 0x148].contains (Sys2Proof.fld w 54 9).toNat
/-- Lanes of the operation may be lanes that have not left the memory pipe: those of no engine, of no entry that is being settled, of no store
that another has read, and of another word than the one that stops the gang at TRAPPC `pc`, whose passing lanes commit (R28). -/
def MemOp.maySend (pc : U64) (o : MemOp) : Bool :=
  o.eng.isNone && !o.settles && o.readers.isEmpty && laneWord o.word && ((BitVec.ofNat 4 (2 ^ o.plane)) ++ o.off).setWidth 64 != pc
/-- Of an agent's operations, the newest first: the last lanes, which nothing shows to have been sent. The pipe sends in order. -/
def unsentOf (pc : U64) (l : List MemOp) : List (MemOp × List Part) :=
  match l with
  | [] => []
  | o :: r =>
    let ps := o.parts.reverse.takeWhile (·.st == .waiting)
    if !o.maySend pc || ps.isEmpty then [] else (o, ps) :: if ps.length = o.parts.length then unsentOf pc r else []
/-- The lanes of a gang that may not have been sent when it stops, of as many instructions as there is room for entries (R413, item 3). -/
def State.unsent (s : State) (a : Agent) (pc : U64) : List (MemOp × List Part) :=
  (unsentOf pc (s.ops.filter (·.agent == a.id)).reverse).take
    (32 - (a.pend.length + match a.stopping with | some t => t.entries.length | none => 0))
/-- A stop of the agent is complete at once: nothing that it sent is outstanding, and every lane has been sent (R412, R413). -/
def State.stopsNow (s : State) (a : Agent) (pc : U64) : Bool := s.quiet a.id && (s.unsent a pc).isEmpty
/-- Two entries are of one instruction. -/
def PendEntry.same (e x : PendEntry) : Bool :=
  e.order != 0 && e.order == x.order && e.replay == x.replay && e.word == x.word && e.off == x.off && e.planes == x.planes
/-- An entry takes its place in the order in which the instructions issued; lanes of one instruction share an entry (R363, R413). -/
def putEntry (e : PendEntry) (l : List PendEntry) : List PendEntry :=
  if l.any e.same then
    updFirst e.same (fun (x : PendEntry) => { x with
      lanes := x.lanes ||| e.lanes
      addr := e.addr.foldl (fun m y => SMap.insert m y.1 y.2) x.addr
      data := e.data.foldl (fun m y => SMap.insert m y.1 y.2) x.data }) l
  else (l.takeWhile fun x => x.order ≤ e.order) ++ e :: l.dropWhile fun x => x.order ≤ e.order

/-- The control set of an agent (R427). -/
def Agent.control (a : Agent) : ControlSet :=
  ⟨a.paths, a.exec, a.save, a.planes, a.region, a.wb, a.rb, a.spill, a.parked, a.calls, a.divs, a.frames, a.noHit⟩

/-- Issue goes to the handler with one path of every live lane, EXEC equal to LIVE, plane 0, an empty save slot (R415). -/
def Agent.toHandler (a : Agent) : Agent :=
  { a with
    paths := [⟨a.nextPath, (a.trapvec >>> 3).setWidth 54, a.live, 0, 0, false, false, [], none, []⟩]
    nextPath := a.nextPath + 1
    noHit := []
    exec := a.live
    planes := []
    region := none
    save := none }

/-- The stop is complete: the trap registers are written; the gang enters its handler, or parks where it has none, is in
trap mode or executed HALT, and a trap without a handler is a fatal fault of its groups (R440); a drover without a handler or in trap mode
ends by fault (R388, R389, R415, R417, R361). -/
def enterTrap (a : Agent) (t : Stopping) (s : State) : State :=
  let s := { s with ops := s.ops.filter fun o => !(o.agent == a.id && o.inlineRead) }
  let ps := updFirst (·.id == t.path) (fun (p : Path) => { p with pc := t.pc, plane := t.plane }) a.paths
  let a := ({
    a with
    paths := ps.map fun (p : Path) => { p with shadows := [], stalled := false }
    trap := t.regs
    pend := t.entries.foldl (fun l e => putEntry e l) (a.pend.filter fun (e : PendEntry) => e.lanes != 0)
    stopping := none
    resuming := none
    walked := [] }).leave
  if a.drover then
    if a.trapMode || a.trapvec >>> 3 = 0 || t.regs.cause = 0xFF32 then
      s.setAgent { a with ended := true, endFault := some (t.regs.cause.extractLsb' 0 8) }
    else (traceStop a t.regs.pc t.regs.mask false false s).setAgent { a with handler := some a.control }.toHandler
  else if a.trapMode || a.trapvec >>> 3 = 0 || t.regs.cause = 0xFF32 then
    let s := park false t.regs a s
    if a.trapvec >>> 3 = 0 && t.regs.cause != 0xFF32 then teamFatal (s.team a.team) s else s
  else
    let s := traceStop a t.regs.pc t.regs.mask false false s
    s.setAgent { a with handler := some a.control }.toHandler

/-- The agent at issue stops; it enters its handler at once when nothing that it sent is outstanding and no lane may still be to send, else when
the last of it has finished (R412, R413). -/
def stop (t : Stopping) (s : State) : State :=
  let s := { s with sel := false }
  if s.stopsNow s.g t.regs.pc then enterTrap s.g t s else { s with g := { s.g with stopping := some t } }

/-- TRAPPC: the planes at issue and the offset (R210). -/
def State.trapPc (s : State) : U64 := (s.pmask ++ s.path.pc).setWidth 64

/-- The word at issue traps and issues again after TRET: it has taken no effect (R361). -/
def raise (r : TrapRegs) (s : State) : State :=
  stop ⟨{ r with pc := s.trapPc }, s.path.pc, lowPlane s.pmask, s.cur, []⟩ { s with g := { s.g with noHit := (s.cur, s.path.pc) :: s.g.noHit } }

/-- The word at issue traps and TRET continues after it, with the planes that are still owed first (R361). The entries are
those of its failing lanes (R413). -/
def raiseAfter (r : TrapRegs) (es : List PendEntry) (s : State) : State :=
  let t : Stopping := if s.owed then ⟨{ r with pc := s.trapPc }, s.path.pc, topPlane s.pmask + 1, s.cur, es⟩
    else ⟨{ r with pc := s.trapPc }, s.g.after s.path.pc, 0, s.cur, es⟩
  stop t s

/-- The report of a failed check of R195: the lanes of the issue. -/
def illegal (detail : Nat) (s : State) : State := raise (rep cIllegal detail (s.lanes &&& s.g.live) 0 0) s

/-- An instruction that issues only in a whole gang, whatever its guard (R173, R185). -/
def whole (f : State → State) (s : State) : State :=
  if s.g.whole then f s else raise (rep cConverge 0 (s.lanes &&& s.g.live) 0 0) s

-- The register window and the spill region (R73, R74, R205 to R208).

/-- Lane-private bytes per lane, rounded up to 8 (R60). -/
def LaunchRec.slice (r : LaunchRec) : Nat := upTo r.lpriv 8
/-- Where byte `off` of a lane's slice lies (R72). -/
def State.sliceAddr (s : State) (a : Agent) (l off : Nat) : Nat :=
  let t := s.team a.team
  t.origin + upTo t.spad 2048 + a.idx * (s.grid a.grid).rc.slice * a.width + (off / 4 * a.width + l) * 4 + off % 4
/-- The lowest slice offset that a spill of the agent holds. -/
def Agent.lowest (p : Nat) (a : Agent) : Nat :=
  let m := fun (x : Nat) (o : Option Nat) => match o with | some y => min x y | none => x
  let x := a.frames.foldl (fun x f => m x f.spill) p
  let x := a.divs.foldl (fun x f => m x f.spill) x
  a.calls.foldl (fun x f => m x f.spill) x
/-- The spill depth follows what is spilled (R73). -/
def respill (s : State) : State :=
  let p := s.rc.slice
  { s with g := { s.g with spill := p - s.g.lowest p } }

/-- Registers p0 to p0 + n - 1 of every lane, written to the slice words from `off` up (R73, R207). -/
def spillRegs (base n off : Nat) (s : State) : State :=
  (List.range n).foldl (fun s i => (List.range s.g.width).foldl (fun s l =>
    s.writeMem (s.sliceAddr s.g l (off + 4 * i)) (le32 (s.g.pget ((base + i) % s.g.q) l))) s) s
/-- The same registers read back (R73, R207). -/
def refillRegs (base n off : Nat) (s : State) : State :=
  (List.range n).foldl (fun s i =>
    let p := (base + i) % s.g.q
    let s := touch [grVec s.g.id p] s
    { s with g := (List.range s.g.width).foldl (fun a l =>
      a.pset p l (BitVec.ofNat 32 (s.getVal (s.sliceAddr s.g l (off + 4 * i)) 4))) s.g }) s

/-- The oldest element that is not spilled, given a slice offset. -/
def spillOldest {α : Type} (isIn : α → Bool) (put : α → α) (l : List α) : List α := (updFirst isIn put l.reverse).reverse

/-- The slice offsets that the frame spills of a CALL take: the sizes of the frames that must leave, oldest first (R206). -/
def spillsOf (a : Agent) (f : Nat) : List Frame :=
  let need := a.wb + f + 256 - a.q
  let all : List Frame := (a.frames.filter fun x => x.spill.isNone).reverse ++ [⟨a.wb, f, none⟩]
  all.filter fun x => x.base < need && f ≠ 0

/-- The offset that the first spill which does not fit would have needed, as a negative number (R73). -/
def spillFails (start : Nat) (sizes : List Nat) : Option U64 :=
  match sizes with
  | [] => none
  | n :: r => if start < n then some (BitVec.ofNat 64 (2 ^ 64 + start - n)) else spillFails (start - n) r

/-- What a stack entry holds, before it takes its internal form: its kind and its offset, and its lanes. DESIGN CHOICE [21]. -/
def DivEntry.word (e : DivEntry) : U64 :=
  BitVec.ofNat 64 ((match e.kind with | .split => 1 | .jmpT => 2 | .callT => 3) * 2 ^ 62 + e.frame % 256 * 2 ^ 54 + e.join.toNat)
def CallEntry.word (e : CallEntry) : U64 := BitVec.ofNat 64 ((if e.group then 2 ^ 62 else 0) + e.frame % 256 * 2 ^ 54 + e.ret.toNat)
/-- A spilled entry takes one word in each of lanes 0 to 3, in a form that the module does not define (R74). -/
def spillEntry (off : Nat) (x lanes : U64) (s : State) : State :=
  let y := Config.spillForm.toFun (lanes ++ x)
  (List.range 4).foldl (fun s l => s.writeMem (s.sliceAddr s.g l off) (le32 (y.extractLsb' (32 * l) 32))) s
/-- A spilled entry as its words decode: they hold whatever software has left there (R74). -/
def State.spilled (s : State) (a : Agent) (off : Nat) : U64 × U64 :=
  let y : BitVec 128 := BitVec.ofNat 128 (sumNat ((List.range 4).map fun l => s.getVal (s.sliceAddr a l off) 4 * 2 ^ (32 * l)))
  let x := Config.spillForm.invFun y
  (x.extractLsb' 0 64, x.extractLsb' 64 64)
/-- The eight bytes that a spilled TABLE entry adds in each lane still to run: the lane's target, in no defined form (R253). -/
def spillLanes (off : Nat) (ts : List Arm) (s : State) : State :=
  ts.foldl (fun s t => (lanesOf t.lanes).foldl (fun s l =>
    let y := Config.targetForm.toFun (t.start.setWidth 64)
    (s.writeMem (s.sliceAddr s.g l off) (le32 (lo32 y))).writeMem (s.sliceAddr s.g l (off + 4)) (le32 (hi32 y))) s) s
/-- The groups still to run, as the lanes' words decode: a lane whose words software has changed starts elsewhere. -/
def State.spilledLanes (s : State) (a : Agent) (off : Nat) (ts : List Arm) : List Arm :=
  ts.flatMap fun t =>
    let at_ := fun (l : Nat) => (Config.targetForm.invFun (pair (BitVec.ofNat 32 (s.getVal (s.sliceAddr a l off) 4))
      (BitVec.ofNat 32 (s.getVal (s.sliceAddr a l (off + 4)) 4)))).setWidth 54
    (((lanesOf t.lanes).map at_).eraseDups).map fun x => ⟨laneSet 64 fun l => bit t.lanes l && at_ l == x, x⟩

/-- Call entries in hardware beyond 16, divergence entries beyond 32 (R74, R250). -/
def callOver (a : Agent) : Bool := 16 ≤ (a.calls.filter (·.spill.isNone)).length
def divOver (a : Agent) : Bool := 32 ≤ (a.divs.filter (·.spill.isNone)).length
/-- Bytes per lane that the oldest divergence entry takes: a TABLE entry takes 8 more in each lane still to run (R253). -/
def divBytes (e : DivEntry) : Nat := if e.kind == .split then 4 else 12
def oldestDiv (a : Agent) : Nat := match (a.divs.filter (·.spill.isNone)).getLast? with | some e => divBytes e | none => 4

/-- A CALL that needs these spills does not execute where one would pass slice offset 0 (R73, R207, R250). -/
def callFails (f : Nat) (s : State) : Option U64 :=
  let start := s.rc.slice - s.g.spill
  spillFails start ((if callOver s.g then [4] else []) ++ (spillsOf s.g f).map (4 * ·.size))
def divFails (s : State) : Option U64 :=
  if divOver s.g then spillFails (s.rc.slice - s.g.spill) [oldestDiv s.g] else none

/-- Call(F) of R206: frames that no longer fit are spilled; the newly exposed registers hold markers. -/
def openFrame (f : Nat) (s : State) : State :=
  if f = 0 then s
  else
    let out := spillsOf s.g f
    let s := { s with g := { s.g with frames := ⟨s.g.wb, f, none⟩ :: s.g.frames } }
    let s := out.foldl (fun s (x : Frame) =>
      let off := s.rc.slice - s.g.spill - 4 * x.size
      let s := spillRegs x.base x.size off s
      respill { s with g := { s.g with
        frames := spillOldest (·.spill.isNone) (fun y => { y with spill := some off }) s.g.frames
        rb := x.base + x.size } }) s
    let s := { s with g := { s.g with wb := s.g.wb + f } }
    (List.range f).foldl (fun s i =>
      let n := 256 - f + i
      let s := touchV n s
      { s with g := (List.range s.g.width).foldl (fun a l => a.pset (a.phys n) l (vMarker (a.phys n))) s.g }) s

/-- Ret() of R206: the callee's registers are discarded; a spilled caller frame is refilled. -/
def closeFrame (f : Nat) (s : State) : State :=
  if f = 0 then s
  else
    match s.g.frames with
    | [] => s
    | x :: r =>
      let s := { s with g := { s.g with frames := r, wb := x.base } }
      match x.spill with
      | none => s
      | some off => respill (let s := refillRegs x.base x.size off s; { s with g := { s.g with rb := x.base } })

/-- A spilled call entry, as its words decode (R74): the offset and the lanes of some of the gang. -/
def State.callAt (s : State) (a : Agent) (e : CallEntry) : CallEntry :=
  match e.spill with
  | none => e
  | some off => let x := s.spilled a off; { e with ret := x.1.setWidth 54, lanes := x.2 &&& lowMask a.width }
/-- A spilled divergence entry, as its words decode (R74, R253). -/
def State.divAt (s : State) (a : Agent) (e : DivEntry) : DivEntry :=
  match e.spill with
  | none => e
  | some off =>
    let x := s.spilled a (off + (divBytes e - 4))
    { e with join := x.1.setWidth 54, lanes := x.2 &&& lowMask a.width, todo := if e.kind == .split then e.todo else s.spilledLanes a off e.todo }
/-- After a pop, the newest spilled call entry comes back when the hardware stack is empty (R74, R250). -/
def refillCalls (s : State) : State :=
  if s.g.calls.any (·.spill.isNone) then s
  else
    match s.g.calls with
    | [] => s
    | e :: r => respill { s with g := { s.g with calls := { s.callAt s.g e with spill := none } :: r } }
/-- The same of the divergence stack (R74). -/
def refillDivs (s : State) : State :=
  if s.g.divs.any (·.spill.isNone) then s
  else
    match s.g.divs with
    | [] => s
    | e :: r => respill { s with g := { s.g with divs := { s.divAt s.g e with spill := none } :: r } }

/-- A call pushed for a path; the oldest of 16 hardware entries spills (R250). -/
def pushCall (ret : Offs) (f : Nat) (owner : Nat) (lanes : U64) (group : Bool) (s : State) : State :=
  let s := if callOver s.g then
      match (s.g.calls.filter (·.spill.isNone)).getLast? with
      | none => s
      | some o =>
        let off := s.rc.slice - s.g.spill - 4
        let s := spillEntry off o.word o.lanes s
        respill { s with g := { s.g with
          calls := spillOldest (·.spill.isNone) (fun (y : CallEntry) => { y with spill := some off }) s.g.calls } }
    else s
  openFrame f { s with g := { s.g with calls := ⟨ret, f, owner, lanes, group, none⟩ :: s.g.calls } }

/-- A divergence entry pushed; the oldest of 32 hardware entries spills (R74, R170). -/
def pushDiv (e : DivEntry) (s : State) : State :=
  let s := if divOver s.g then
      match (s.g.divs.filter (·.spill.isNone)).getLast? with
      | none => s
      | some o =>
        let off := s.rc.slice - s.g.spill - divBytes o
        let s := spillEntry (off + (divBytes o - 4)) o.word o.lanes s
        let s := if o.kind == .split then s else spillLanes off o.todo s
        respill { s with g := { s.g with
            divs := spillOldest (·.spill.isNone) (fun (y : DivEntry) => { y with spill := some off }) s.g.divs } }
    else s
  { s with g := { s.g with divs := e :: s.g.divs } }

-- Paths (R170, R248 to R254).

/-- A path that starts, with the shadows that it inherits from the path that its lanes leave (R191, R407). DEDUCED [95]. -/
def Path.start (id : Nat) (pc : Offs) (lanes : U64) (taken : Bool) (sh : List Shadow) : Path := ⟨id, pc, lanes, 0, 0, false, taken, sh, none, []⟩
def Hint.plain : Hint := ⟨0, false, false, 0, 0⟩

/-- The topmost entry that covers a path (R170). -/
def Agent.cover (a : Agent) (pid : Nat) : Option DivEntry := a.divs.find? (·.running.contains pid)

/-- A path arrives at the topmost entry that covers it: the next arm or group that has a live lane starts; after the last, the entry is
popped and its lanes form the owner's path again; where none of them is left, that is the owner's arrival (R170, R172, R249, R253).
A group of CALL.T whose call finds no room to spill, or would leave the region with a lane outside plane 0, starts at the CALL.T, which traps there
(R73, R167). DEDUCED [104]. -/
def arrive (fuel : Nat) (pid : Nat) (s : State) : State :=
  match fuel with
  | 0 => s
  | n + 1 =>
    let c := s.g.cover pid
    let sh := ((s.g.path? pid).map Path.spent).getD []
    let s := { s with g := { s.g with paths := s.g.paths.filter fun (p : Path) => p.id != pid } }
    match c with
    | none => s
    | some e =>
      let run := e.running.filter (· != pid)
      let put := fun (x : DivEntry) (s : State) =>
        { s with g := { s.g with divs := updFirst (·.owner == e.owner) (fun _ => x) s.g.divs } }
      if run ≠ [] then put { e with running := run } s
      else
        match e.todo.filter fun (t : Arm) => t.lanes &&& s.g.live != 0 with
        | t :: r =>
          let id := s.g.nextPath
          let lanes := t.lanes &&& s.g.live
          let s := put { e with running := [id], todo := r } s
          let again := e.kind == .callT && ((callFails e.frame s).isSome || s.g.strands lanes t.start)
          let p := Path.start id (if again then e.join else t.start) lanes false []
          let s := { s with g := { s.g with nextPath := id + 1, paths := s.g.paths ++ [p] } }
          if e.kind == .callT && !again then pushCall (s.g.after e.join) e.frame id lanes true s else s
        | [] =>
          let lanes := e.lanes &&& s.g.live
          let s := refillDivs (respill { s with g := { s.g with divs := s.g.divs.filter (·.owner != e.owner) } })
          if lanes = 0 then arrive n e.owner s
          else
            let p := Path.start e.owner (s.g.after e.join) lanes e.taken sh
            { s with g := { s.g with paths := s.g.paths ++ [p] } }

/-- Whether the arrival of a path completes its entry, and the lanes that then move on (R167, R249). -/
def Agent.completes (a : Agent) (pid : Nat) : Option DivEntry :=
  match a.cover pid with
  | some e => if e.running.filter (· != pid) = [] && e.todo.all fun t => t.lanes &&& a.live == 0 then some e else none
  | none => none

/-- Calls that no live lane is left in are discarded, newest first, and the window unwinds (R254). -/
def dropCalls (fuel : Nat) (s : State) : State :=
  match fuel with
  | 0 => s
  | n + 1 =>
    match s.g.calls.find? (fun c => c.lanes &&& s.g.live == 0) with
    | none => s
    | some c =>
      let s := { s with g := { s.g with calls := s.g.calls.erase c } }
      dropCalls n (refillCalls (respill (closeFrame c.frame s)))

/-- Lanes have left LIVE: they leave their paths, their arms and their calls, and a path that is left empty has arrived (R172, R254). -/
def settle (s : State) : State :=
  let s := dropCalls s.g.calls.length s
  let s := { s with g := { s.g with
    paths := s.g.paths.map fun (p : Path) => { p with lanes := p.lanes &&& s.g.live }
    divs := s.g.divs.map fun (e : DivEntry) => { e with
      todo := (e.todo.map fun (t : Arm) => { t with lanes := t.lanes &&& s.g.live }).filter fun (t : Arm) => t.lanes != 0 } } }
  (s.g.paths.filter fun (p : Path) => p.lanes == 0).foldl (fun s (p : Path) => arrive (s.g.divs.length + 1) p.id s) s

-- Moving a path (R167, R246, R255).

/-- The report of a gang that leaves its region with lanes outside plane 0 (R167). -/
def stranded (s : State) : State := raise (rep cPlane 0xD0 (s.lanes &&& s.g.live) 0 0) s

/-- A control word completes and its path goes to offset o; a move to another target than the next word is traced
(R246, R450). -/
def goTo (h : Hint) (o : Offs) (s : State) : State :=
  if s.g.strands s.path.lanes o then stranded s
  else
    let s := if o = s.path.pc + 1 then s
      else traceAgent s.g 2 s.pmask.toNat s.path.pc.toNat (s.act h).toNat o.toNat s
    leaveRegion (finish h false o s)
/-- A control word completes and its path goes to the next word. -/
def goOn (h : Hint) (s : State) : State := goTo h (s.g.after s.path.pc) s
/-- The target of a displacement: o + 1 + X (R176, R246). -/
def State.target (s : State) (n : Nat) (x : BitVec n) : Offs := s.path.pc + 1 + x.signExtend 54

/-- BR.DIV splits the path at issue into two arms (R170, R248). -/
def split (h : Hint) (t f : U64) (tpc fpc join : Offs) (s : State) : State :=
  let a := s.g
  let n := a.nextPath
  let one := (a.paths.filter fun p => p.lanes &&& a.live != 0).length == 1
  let both := t ≠ 0 ∧ f ≠ 0
  let todo : List Arm := if both ∧ ¬one then [⟨f, fpc⟩] else []
  let start := (if t = 0 then [] else [Path.start n tpc t true s.path.spent]) ++
    (if f = 0 ∨ (both ∧ ¬one) then [] else [Path.start (n + 1) fpc f false s.path.spent])
  let s := pushDiv ⟨.split, s.cur, join, t ||| f, todo, start.map (·.id), 0, s.path.taken, none⟩ s
  let ps := s.g.paths.filter (·.id != s.cur) ++ start
  leaveRegion { s with sel := false, g := ({ s.g with nextPath := n + 2, paths := ps, walked := [], noHit := s.hitsAgain }).hinted h }

/-- TRET with nothing pending: the control set saved at entry comes back; frames of the interrupted code that the handler's
calls spilled are refilled (R416). -/
def trapReturn (h : Hint) (c : ControlSet) (s : State) : State :=
  let now := s.g.frames
  let s := c.frames.foldl (fun s f =>
    match f.spill, (now.find? (·.base == f.base)).bind (·.spill) with
    | none, some off => refillRegs f.base f.size off s
    | _, _ => s) s
  let ps := c.paths.map fun p => { p with lanes := p.lanes &&& s.g.live, age := 0 }
  let s := {
    s with
    sel := false
    g := {
      s.g.hinted h with
      paths := ps
      exec := c.exec
      save := c.save
      planes := c.planes
      region := c.region
      wb := c.wb
      rb := c.rb
      calls := c.calls
      divs := c.divs
      frames := c.frames
      noHit := c.noHit
      handler := none } }
  settle (respill s)

end Sys2Proof.Machine
end

