-- ==== Sys2Proof/Machine/Operands.lean ====
section
/-!
DEFINITION. Operand forms: scalar operands of 64 and 32 bits, vector lanes and 16-bit elements, immediates, floating-point
sources with their modifiers and the marker check, and the integer operations over them (R165, R181, R237 to R242, R264 to
R273).
-/
namespace Sys2Proof.Machine

/-- What a step answers. -/
abbrev Answer := Host.Outcome State Fault Refusal

-- Integer operations of n bits (R239, R270).

def iSub (n : Nat) (a b : BitVec n) : BitVec n := a - b
def iMul (n : Nat) (a b : BitVec n) : BitVec n := a * b
/-- The high n bits of the signed product. -/
def iMulh (n : Nat) (a b : BitVec n) : BitVec n := BitVec.ofInt n (a.toInt * b.toInt / (2 ^ n : Nat))
def iMulhu (n : Nat) (a b : BitVec n) : BitVec n := BitVec.ofNat n (a.toNat * b.toNat / 2 ^ n)
def iDiv (n : Nat) (a b : BitVec n) : BitVec n := if b = 0 then BitVec.allOnes n else a.sdiv b
def iDivu (n : Nat) (a b : BitVec n) : BitVec n := if b = 0 then BitVec.allOnes n else a.udiv b
def iRem (n : Nat) (a b : BitVec n) : BitVec n := if b = 0 then a else a.srem b
def iRemu (n : Nat) (a b : BitVec n) : BitVec n := if b = 0 then a else a.umod b
def iAndn (n : Nat) (a b : BitVec n) : BitVec n := a &&& ~~~b
/-- Scalar shifts take their count modulo n (R239). -/
def iShl (n : Nat) (a b : BitVec n) : BitVec n := a <<< (b.toNat % n)
def iShr (n : Nat) (a b : BitVec n) : BitVec n := a >>> (b.toNat % n)
def iSra (n : Nat) (a b : BitVec n) : BitVec n := a.sshiftRight (b.toNat % n)
/-- Vector shifts by n or more leave nothing, or copies of the sign (R270). -/
def vShlN (n : Nat) (a b : BitVec n) : BitVec n := a <<< b.toNat
def vShrN (n : Nat) (a b : BitVec n) : BitVec n := a >>> b.toNat
def vSraN (n : Nat) (a b : BitVec n) : BitVec n := a.sshiftRight (min b.toNat n)
def iAbs (n : Nat) (a : BitVec n) : BitVec n := if a.msb then -a else a
def iClz (n : Nat) (a : BitVec n) : BitVec n := BitVec.ofNat n (clz n a.toNat)
def iPopc (n : Nat) (a : BitVec n) : BitVec n := BitVec.ofNat n (popc n a.toNat)
/-- A sum or difference clamped to the signed or unsigned range (R270). -/
def clampTo (n : Nat) (u : Bool) (x : Int) : BitVec n :=
  let (lo, hi) := intRange n (!u)
  BitVec.ofInt n (if x < lo then lo else if hi < x then hi else x)
def iAddsat (u : Bool) (n : Nat) (a b : BitVec n) : BitVec n :=
  clampTo n u (if u then (a.toNat : Int) + b.toNat else a.toInt + b.toInt)
def iSubsat (u : Bool) (n : Nat) (a b : BitVec n) : BitVec n :=
  clampTo n u (if u then (a.toNat : Int) - b.toNat else a.toInt - b.toInt)
/-- A field of LEN bits at POS, zero- or sign-extended (R242, R271). -/
def bfx (n : Nat) (sx : Bool) (pos len : Nat) (a : BitVec n) : BitVec n :=
  let v := a.toNat / 2 ^ pos % 2 ^ len
  if sx && v.testBit (len - 1) then BitVec.ofNat n (v + (2 ^ n - 2 ^ len)) else BitVec.ofNat n v
/-- The low LEN bits of a put into d at POS (R242, R271). -/
def bfi (n : Nat) (pos len : Nat) (d a : BitVec n) : BitVec n :=
  let m := BitVec.ofNat n ((2 ^ len - 1) * 2 ^ pos)
  (d &&& ~~~m) ||| ((a <<< pos) &&& m)
/-- The sum of products of bytes (R270). -/
def dot4 (ua ub : Bool) (a b c : U32) : U32 :=
  let t := fun (u : Bool) (x : U32) (i : Nat) => let y := x.extractLsb' (8 * i) 8; if u then (y.toNat : Int) else y.toInt
  c + BitVec.ofInt 32 ((List.range 4).foldl (fun z i => z + t ua a i * t ub b i) 0)
/-- The condition codes of R240. -/
def cond (n : Nat) (c : BitVec 4) (a b : BitVec n) : Bool :=
  match c.toNat with
  | 0 => a == b
  | 1 => a != b
  | 2 => a.slt b
  | 3 => !a.slt b
  | 4 => a < b
  | 5 => b ≤ a
  | 6 => !b.slt a
  | 7 => b.slt a
  | 8 => a ≤ b
  | 9 => b < a
  | 10 => a &&& b != 0
  | _ => a &&& b == 0

-- Scalar operands (R238).

/-- An operation of 64 bits, or of the low 32 bits with the result sign-extended (R238). -/
def byWidth1 (b32 : Bool) (f : (n : Nat) → BitVec n → BitVec n) (a : U64) : U64 :=
  if b32 then (f 32 (lo32 a)).signExtend 64 else f 64 a
def byWidth2 (b32 : Bool) (f : (n : Nat) → BitVec n → BitVec n → BitVec n) (a b : U64) : U64 :=
  if b32 then (f 32 (lo32 a) (lo32 b)).signExtend 64 else f 64 a b

/-- A scalar register of the agent at issue. -/
def State.sr (s : State) (r : Reg) : U64 := s.g.sget r.toNat
/-- The sign-extended immediate of X-I (R181). -/
def imm64 (i : BitVec 18) : U64 := i.signExtend 64
def imm32 (i : BitVec 18) : U32 := i.signExtend 32

/-- A gang-uniform instruction that writes one scalar register (R185, R237). -/
def scalarTo (h : Hint) (d : Reg) (v : U64) (s : State) : State := retire h (uniform h (setS d.toNat v) s)

-- Vector operands (R264, R268 to R271).

/-- A lane of a vector register of the agent at issue. -/
def State.vr (s : State) (r : Reg) (l : Nat) : U32 := s.g.vget r.toNat l
/-- A pair of vector registers as 64 bits (R204). -/
def State.vr2 (s : State) (r : Reg) (l : Nat) : U64 := pair (s.g.vget r.toNat l) (s.g.vget (r.toNat + 1) l)
/-- An operation on 32-bit elements, or on each 16-bit half (R269). -/
def elem1 (x2 : Bool) (f : (n : Nat) → BitVec n → BitVec n) (a : U32) : U32 :=
  if x2 then f 16 (a.extractLsb' 16 16) ++ f 16 (a.extractLsb' 0 16) else f 32 a
def elem2 (x2 : Bool) (f : (n : Nat) → BitVec n → BitVec n → BitVec n) (a b : U32) : U32 :=
  if x2 then f 16 (a.extractLsb' 16 16) (b.extractLsb' 16 16) ++ f 16 (a.extractLsb' 0 16) (b.extractLsb' 0 16) else f 32 a b

/-- A lane-level instruction that writes one vector register in its active lanes (R185, R264). -/
def vectorTo (h : Hint) (d : Reg) (f : Nat → U32) (s : State) : State := retire h (setV d.toNat (s.act h) f s)
/-- A lane-level instruction that writes one bit of a mask register for each active lane (R264). -/
def maskTo (h : Hint) (d : BitVec 4) (f : Nat → Bool) (s : State) : State :=
  retire h (setM d.toNat (s.act h) (laneSet s.g.width f) s)
/-- A lane-level instruction that writes one scalar register when a lane is active (R264). -/
def reduceTo (h : Hint) (d : Reg) (v : U64) (s : State) : State :=
  retire h (if s.act h = 0 then s else setS d.toNat v s)

-- Floating-point operands (R165, R267, R272).

/-- The word is a marker: its class and its register number (R164, R165). -/
def marker (x : U32) : Option (Nat × Nat) :=
  let hi := x.toNat / 65536
  if 0x7F81 ≤ hi && hi ≤ 0x7F83 then some (hi - 0x7F80, x.toNat % 65536) else none
/-- ABS, then NEG, on the sign bit at position b (R265, R273). -/
def signMods (b : Nat) (neg abs : Bool) (x : U32) : U32 :=
  let m : U32 := BitVec.ofNat 32 (2 ^ b)
  let y := if abs then x &&& ~~~m else x
  if neg then y ^^^ m else y

/-- The marker check over the words that each active lane reads as floating-point data, in operand order; else f (R165). -/
def unlessMarked (m : U64) (words : Nat → List U32) (f : State → State) (s : State) : State :=
  let hit := laneSet 64 fun l => bit m l && (words l).any fun x => (marker x).isSome
  if hit = 0 then f s
  else
    match (words (lowest hit)).findSome? marker with
    | some (c, n) => raise (rep cUninit 0 hit 0 (BitVec.ofNat 64 (c * 65536 + n))) s
    | none => f s

end Sys2Proof.Machine
end

