-- ==== Sys2Proof/Machine/Flags.lean ====
section
/-!
DEFINITION. Floating-point results and the flags they raise (R210, R211, R230, R273 to R283).
-/
namespace Sys2Proof.Machine

/-- The flags of every lane in m, together (R230). -/
def flagsOf (m : U64) (f : Nat → Nat × BitVec 5) : BitVec 5 := (lanesOf m).foldl (fun a l => a ||| (f l).2) 0

/-- A lane-level instruction with one rounded result in each active lane: the flags are ORed into FPFLAGS (R211, R264). -/
def floatTo (h : Hint) (d : Reg) (f : Nat → Nat × BitVec 5) (s : State) : State :=
  retire h (raiseFlags (flagsOf (s.act h) f) (setV d.toNat (s.act h) (fun l => BitVec.ofNat 32 (f l).1) s))
/-- The same for a mask result (R275). -/
def floatMask (h : Hint) (d : BitVec 4) (f : Nat → Bool × BitVec 5) (s : State) : State :=
  retire h (raiseFlags ((lanesOf (s.act h)).foldl (fun a l => a ||| (f l).2) 0)
    (setM d.toNat (s.act h) (laneSet s.g.width fun l => (f l).1) s))

/-- FP32 operands: decoded after ABS and NEG (R273). -/
def f32 (x : U32) : Val := decodeF fp32 x.toNat
/-- A result rounded to FP32 (R273). -/
def toF32 (rm : Rm) (x : Val) : Nat × BitVec 5 := roundF fp32 x rm false 0

def mulF (f : FFmt) (rm : Rm) (a b : Val) : Nat × BitVec 5 := roundF f (mulVal a b) rm false 0
/-- a * b + c rounded once; 0 * infinity is invalid whatever c is (R273). -/
def fmaF (f : FFmt) (rm : Rm) (a b c : Val) : Nat × BitVec 5 := roundF f (addVal (down rm) (mulVal a b) c) rm false 0

/-- a / b as a value, with DZ (R273, R274). -/
def divVal (a b : Val) : Val × BitVec 5 :=
  match a, b with
  | .nan s, y => (.nan (s || y.isSig), 0)
  | x, .nan s => (.nan (s || x.isSig), 0)
  | .inf _, .inf _ => (.nan true, 0)
  | .inf n, y => (.inf (n != y.isNeg), 0)
  | x, .inf m => (.num (x.isNeg != m) 0 0 false, 0)
  | .num n1 m1 e1 _, .num n2 m2 e2 _ =>
    if m2 = 0 then (if m1 = 0 then (.nan true, 0) else (.inf (n1 != n2), fDZ))
    else (.num (n1 != n2) (m1 * 2 ^ 160 / m2) (e1 - e2 - 160) (m1 * 2 ^ 160 % m2 != 0), 0)

/-- The integer square root, bit by bit from bit n - 1 down. -/
def isqrt (n : Nat) (x r : Nat) : Nat :=
  match n with
  | 0 => r
  | n + 1 => let t := r + 2 ^ n; isqrt n x (if t * t ≤ x then t else r)

/-- The square root (R274). -/
def sqrtVal (a : Val) : Val :=
  match a with
  | .nan s => .nan s
  | .inf n => if n then .nan true else .inf false
  | .num neg m e _ =>
    if m = 0 then .num neg 0 0 false
    else if neg then .nan true
    else
      let odd := e % 2 != 0
      let m' := (if odd then 2 * m else m) * 2 ^ 160
      let e' := ((if odd then e - 1 else e) - 160) / 2
      let r := isqrt 128 m' 0
      .num false r e' (r * r != m')
/-- 1 / sqrt a (R277). -/
def rsqVal (a : Val) : Val × BitVec 5 :=
  match a with
  | .nan s => (.nan s, 0)
  | .inf n => if n then (.nan true, 0) else (.num false 0 0 false, 0)
  | .num neg m e _ =>
    if m = 0 then (.inf neg, fDZ)
    else if neg then (.nan true, 0)
    else
      let odd := e % 2 != 0
      let m' := if odd then 2 * m else m
      let e' := if odd then e - 1 else e
      let r := isqrt 168 (2 ^ 320 / m') 0
      (.num false r (-160 - e' / 2) (r * r * m' != 2 ^ 320), 0)

/-- 320 fraction bits of pi and of ln 2. -/
def piFix : Nat := 0x3243F6A8885A308D313198A2E03707344A4093822299F31D0082EFA98EC4E6C89452821E638D01377
def ln2Fix : Nat := 0xB17217F7D1CF79ABC9E3B39803F2F6AF40F343267298B62D8A0D175B8BAAFA2BE7B876206DEBAC98

/-- sum of terms t, t * y / k, t * y^2 / (k (k+1)) ..., in units of 2^-320. -/
def expSeries (n : Nat) (k : Nat) (t y : Nat) : Nat :=
  match n with
  | 0 => t
  | n + 1 => t + expSeries n (k + 1) (t * y / 2 ^ 320 / k) y
/-- 2^f for a fraction f in units of 2^-320. -/
def pow2Fix (f : Nat) : Nat := expSeries 80 1 (2 ^ 320) (f * ln2Fix / 2 ^ 320)
/-- z - z^3 / 6 + ...: the positive and the negative terms. -/
def sinSeries (n : Nat) (k : Nat) (t z2 : Nat) (plus : Bool) : Int :=
  match n with
  | 0 => 0
  | n + 1 => (if plus then (t : Int) else -(t : Int)) + sinSeries n (k + 2) (t * z2 / 2 ^ 320 / (k * (k + 1))) z2 (!plus)
/-- sin (pi z) for z in 0 to 1/2, in units of 2^-320. -/
def sinPiFix (z : Nat) : Nat :=
  let x := z * piFix / 2 ^ 320
  (sinSeries 60 2 x (x * x / 2 ^ 320) true).toNat
/-- z + z^3 / 3 + z^5 / 5 + ... -/
def atanhSeries (n : Nat) (k : Nat) (t z2 : Nat) : Nat :=
  match n with
  | 0 => 0
  | n + 1 => t / k + atanhSeries n (k + 2) (t * z2 / 2 ^ 320) z2
/-- ln x for x = m / 2^b in 1 to 2, in units of 2^-320. -/
def lnFix (m b : Nat) : Nat :=
  let z := (m - 2 ^ b) * 2 ^ 320 / (m + 2 ^ b)
  2 * atanhSeries 110 1 z (z * z / 2 ^ 320)
/-- A magnitude known in units of 2^-320 to more than 2^-280, between neighbours in units of 2^-256: no FP32 result of a
transcendental function lies closer to a rounding boundary. -/
def ofFix (neg : Bool) (v : Nat) : Val := .num neg (v / 2 ^ 64) (-256) true

/-- 2^a (R277). -/
def exp2Val (a : Val) : Val :=
  match a with
  | .nan s => .nan s
  | .inf n => if n then .num false 0 0 false else .inf false
  | .num neg m e _ =>
    if m = 0 then .num false 1 0 false
    else
      let u : Int := if e < 20 then (m * 2 ^ (e + 320).toNat : Nat) else (2 ^ 400 : Nat)
      let u := if neg then -u else u
      let k := max (-400) (min 400 (u / (2 ^ 320 : Nat)))
      let f := (u % (2 ^ 320 : Nat)).toNat
      if f = 0 then .num false 1 k false else .num false (pow2Fix f / 2 ^ 64) (k - 256) true

/-- log2 a (R277). -/
def log2Val (a : Val) : Val × BitVec 5 :=
  match a with
  | .nan s => (.nan s, 0)
  | .inf n => if n then (.nan true, 0) else (.inf false, 0)
  | .num neg m e _ =>
    if m = 0 then (.inf true, fDZ)
    else if neg then (.nan true, 0)
    else
      let b := Nat.log2 m
      let k : Int := b + e
      if m = 2 ^ b then (ofInt k, 0)
      else
        let v : Int := k * (2 ^ 320 : Nat) + (lnFix m b * 2 ^ 320 / ln2Fix : Nat)
        (ofFix (v < 0) v.natAbs, 0)

/-- A finite value modulo 2, in units of 2^-320. -/
def modTwo (m : Nat) (e : Int) : Nat := if e < 1 then m * 2 ^ (e + 320).toNat % 2 ^ 321 else 0
/-- sin (pi x) for x in units of 2^-320, below 2: exact at multiples of 1/2. A zero takes the sign z. -/
def sinPiVal (x : Nat) (flip z : Bool) : Val :=
  let y := x % 2 ^ 320
  let neg := flip != (2 ^ 320 ≤ x : Bool)
  if y = 0 then .num z 0 0 false
  else if y = 2 ^ 319 then .num neg 1 0 false
  else ofFix neg (sinPiFix (if y < 2 ^ 319 then y else 2 ^ 320 - y))
/-- sin (pi a), reduced exactly (R277). -/
def sinpiVal (a : Val) : Val :=
  match a with
  | .nan s => .nan s
  | .inf _ => .nan true
  | .num neg m e _ => if m = 0 then .num neg 0 0 false else sinPiVal (modTwo m e) neg neg
/-- cos (pi a) (R277). -/
def cospiVal (a : Val) : Val :=
  match a with
  | .nan s => .nan s
  | .inf _ => .nan true
  | .num _ m e _ => if m = 0 then .num false 1 0 false else sinPiVal ((modTwo m e + 2 ^ 319) % 2 ^ 321) false false
/-- tanh a (R277): next below a for a tiny a. -/
def tanhVal (a : Val) : Val :=
  match a with
  | .nan s => .nan s
  | .inf n => .num n 1 0 false
  | .num neg m e _ =>
    if m = 0 then .num neg 0 0 false
    else if e + Nat.log2 m < -50 then .num neg (m * 2 ^ 60 - 1) (e - 60) true
    else if 7 ≤ e + Nat.log2 m then .num neg (2 ^ 256 - 1) (-256) true
    else
      let t := 2 * m * 2 ^ (e + 320).toNat * 2 ^ 320 / ln2Fix
      let y := pow2Fix (t % 2 ^ 320) * 2 ^ (t / 2 ^ 320)
      ofFix neg ((y - 2 ^ 320) * 2 ^ 320 / (y + 2 ^ 320))

/-- F.MIN and F.MAX on words after their modifiers (R274). -/
def minMax (mx : Bool) (x y : U32) : Nat × BitVec 5 :=
  let a := f32 x
  let b := f32 y
  let nv := flagIf (a.isSig || b.isSig) fNV
  let less := ltVal a b || (eqVal a b && a.isNeg && !b.isNeg)
  if a.isNan then (if b.isNan then 0x7FC00000 else y.toNat, nv)
  else if b.isNan then (x.toNat, nv)
  else ((if less != mx then x else y).toNat, nv)

/-- F.CMP (R275). -/
def cmpF (c : BitVec 3) (a b : Val) : Bool × BitVec 5 :=
  let un := a.isNan || b.isNan
  let sig := a.isSig || b.isSig
  match c.toNat with
  | 0 => (eqVal a b, flagIf sig fNV)
  | 1 => (un || !eqVal a b, flagIf sig fNV)
  | 2 => (ltVal a b, flagIf un fNV)
  | 3 => (ltVal a b || eqVal a b, flagIf un fNV)
  | 4 => (ltVal b a, flagIf un fNV)
  | 5 => (ltVal b a || eqVal a b, flagIf un fNV)
  | 6 => (!un, flagIf sig fNV)
  | _ => (un, flagIf sig fNV)

/-- F.CLASS (R276). -/
def classF (x : U32) : U32 :=
  let m := x.toNat % 2 ^ 31
  let neg := x.getLsbD 31
  let e := m / 2 ^ 23
  let f := m % 2 ^ 23
  let c : Nat :=
    if e = 255 then (if f = 0 then (if neg then 0 else 7) else if f < 2 ^ 22 then 8 else 9)
    else if e = 0 then (if f = 0 then (if neg then 3 else 4) else if neg then 2 else 5)
    else if neg then 1 else 6
  BitVec.ofNat 32 (2 ^ c + if (marker x).isSome then 1024 else 0)

/-- F.RND: the integral value nearest in the direction of RM; NX is never raised (R274). -/
def rndF (rm : Rm) (x : Val) : Nat × BitVec 5 :=
  match x with
  | .num neg n e _ =>
    let c := cut n e 0 false
    let u := if c.up rm neg (c.k % 2 = 1) ((c.k + 1) % 2 = 1) 0 then c.k + 1 else c.k
    roundF fp32 (.num neg u 0 false) .rne false 0
  | y => roundF fp32 y .rne false 0

/-- a * 2^n: an n beyond the exponent range of every FP32 value acts as its end. -/
def scaleVal (a : Val) (n : Int) : Val :=
  match a with
  | .num neg m e r => .num neg m (e + max (-1000) (min 1000 n)) r
  | y => y

/-- The scaled value of R233: an element times a scale; a NaN scale raises no flag of its own. -/
def scaled (a s : Val) : Val :=
  match s with
  | .nan _ => .nan a.isSig
  | _ => mulVal a s

/-- Results of a 16-bit pair, with both sets of flags (R278). -/
def halves (f : Nat → Nat × BitVec 5) : Nat × BitVec 5 := ((f 0).1 + 65536 * (f 1).1, (f 0).2 ||| (f 1).2)

/-- The global lane index (R367). -/
def State.globalLane (s : State) (a : Agent) (l : Nat) : U64 :=
  BitVec.ofNat 64 (((s.team a.team).lin * (s.grid a.grid).rc.gangs + a.idx) * a.width + l)

end Sys2Proof.Machine
end

