-- ==== Sys2Proof/Machine/Translate.lean ====
section
/-!
DEFINITION. Address spaces and translation (R11 to R35), the checks of an access (R25), range-lock checks (R79), and where
the bytes of each space lie (R60, R72, R75).
-/
namespace Sys2Proof.Machine

/-- A failed check: cause and detail (R26). -/
abbrev Bad := Nat × Nat

/-- The virtual address bits below the index of each level (R15). -/
def levelShift (l : Nat) : Nat := match l with | 0 => 16 | 1 => 21 | 2 => 30 | 3 => 39 | _ => 48
/-- The entry's index in its table (R15). -/
def levelIndex (va l : Nat) : Nat := va / 2 ^ levelShift l % (if l = 0 then 32 else 512)
/-- Bits [55:8] of an entry as an address (R16). -/
def ptePa (e : U64) : Nat := e.toNat % 2 ^ 56 / 256 * 256

/-- A table pointer names DRAM of the module's own logical number (R17, R18). -/
def State.tableOk (s : State) (pa : Nat) : Bool := pa / 2 ^ 39 % 2 ^ 5 = 0 && pa / 2 ^ 44 = s.mylmn.toNat
/-- An entry with V = 1 at level l is well formed (R17). -/
def State.entryOk (s : State) (e : U64) (l : Nat) : Bool :=
  let pa := ptePa e
  let region := pa / 2 ^ 40 % 16
  let leaf := e.getLsbD 1
  !e.getLsbD 63 && e.extractLsb' 5 3 == 0 && (if leaf then l ≤ 2 else l != 0) &&
  (leaf || (!e.getLsbD 2 && !e.getLsbD 3 && !e.getLsbD 4)) &&
  (if leaf then pa % 2 ^ levelShift l = 0 else pa % (if l = 1 then 256 else 4096) = 0) &&
  (if leaf then (region == 0 && pa / 2 ^ 39 % 2 == 0) || region == 2 || region == 3 else s.tableOk pa)

/-- No check has failed: a home cannot serve the request yet, and it is made again (R38, R42). -/
def notYet : Bad := (0, 0)
/-- The entry of a table at level l for an address: held by the walk cache of the die, or read at the home of the table, never through an
L1, as a read of the die (R32, R33, R43). An uncorrectable entry is MEMERR (R52). -/
def readEntry (d ctx va l table : Nat) (no : BitVec 7) (s : State) : State × Except Bad U64 :=
  let a := table % 2 ^ 44 + levelIndex va l * 8
  match (s.die d).wcache.find? fun x => x.ctx == ctx && x.level == l && x.pre == va / 2 ^ levelShift l with
  | some x => (s, .ok x.entry)
  | none =>
    if s.homeWaits none a 8 then (s, .error notYet)
    else
      match readAtHome (some d) true false no a 8 s with
      | (s, .error e) => (s, .error (cMemerr, e.toNat))
      | (s, .ok bs) => (s, .ok (BitVec.ofNat 64 (ofBytes bs)))
/-- The walk from level l down: a leaf and its level, or the failing check; with the table pointers read on the way (R15 to
R17, R32, R33). -/
def walkFrom (d ctx va : Nat) (no : BitVec 7) (l table : Nat) (seen : List WalkEntry) (s : State) :
    State × Except Bad (U64 × Nat) × List WalkEntry :=
  match readEntry d ctx va l table no s with
  | (s, .error b) => (s, .error b, seen)
  | (s, .ok e) =>
    if !e.getLsbD 0 then (s, .error (cXlate, 0x10 + l), seen)
    else if !s.entryOk e l then (s, .error (cXlate, 0x20 + l), seen)
    else if e.getLsbD 1 then (s, .ok (e, l), seen)
    else
      match l with
      | 0 => (s, .error (cXlate, 0x20), seen)
      | n + 1 => walkFrom d ctx va no n (ptePa e) (⟨ctx, n + 1, va / 2 ^ levelShift (n + 1), e⟩ :: seen) s

/-- A walk of a context's table (R15, R18). DESIGN CHOICE [97]: after ROOT has changed under a resident grid every later walk uses the new
one; the manual leaves open which. -/
def walk (d ctx va : Nat) (no : BitVec 7) (s : State) : State × Except Bad (U64 × Nat) × List WalkEntry :=
  let root := (s.reg (rXlat (8 * ctx))).toNat % 2 ^ 56 / 4096 * 4096
  if !s.tableOk root then (s, .error (cXlate, 0x25), []) else walkFrom d ctx va no 4 root [] s

/-- A cached translation covers an address (R31). -/
def TlbEntry.covers (e : TlbEntry) (ctx va : Nat) : Bool := e.ctx == ctx && va / 2 ^ levelShift e.level == e.vpage
/-- An entry brought in; a full cache gives up its oldest. -/
def tlbPut (n : Nat) (e : TlbEntry) (l : List TlbEntry) : List TlbEntry := (e :: l.filter (· != e)).take n

/-- Held by the L1 TLB of a core or by the shared TLB of its die (R31, R32). -/
def State.cached (s : State) (core : Option Nat) (d ctx va : Nat) : Option TlbEntry :=
  match core.bind fun c => (s.core c).tlb.find? (·.covers ctx va) with
  | some e => some e
  | none => (s.die d).tlb.find? (·.covers ctx va)

/-- A translation installed: in the shared TLB of the die and in the L1 TLB of the core that asked. -/
def install (core : Option Nat) (d : Nat) (e : TlbEntry) (s : State) : State :=
  let x := s.die d
  let s := if x.tlb.contains e then s else s.setDie d { x with tlb := tlbPut 16384 e x.tlb }
  match core with
  | none => s
  | some c => let y := s.core c; if y.tlb.contains e then s else s.setCore c { y with tlb := tlbPut 512 e y.tlb }

/-- A page walked now: the table pointers read stay in the walk cache (R32). -/
def walkPage (d ctx va : Nat) (no : BitVec 7) (s : State) : State × Except Bad (U64 × Nat) :=
  let (s, r, seen) := walk d ctx va no s
  let x := s.die d
  let new := seen.filter fun e => !x.wcache.contains e
  (s.setDie d { x with wcache := (new ++ x.wcache).take 1024 }, r)
/-- A miss goes to the die's translation service, with the L1 TLB that it fills and who waits: an agent, or an engine by the name of its
operation. Misses to one page merge, whoever asks, and wait in the service's queue while 64 walks are outstanding (R32). -/
def askFor (core : Option Nat) (who d ctx vpn : Nat) (s : State) : State :=
  let x := s.die d
  let ask := (core, who)
  let hit := fun (w : Walk) => w.ctx == ctx && w.vpn == vpn
  let join := fun (w : Walk) => { w with asks := if w.asks.contains ask then w.asks else w.asks ++ [ask] }
  if x.walking.any hit then s.setDie d { x with walking := updFirst hit join x.walking }
  else if x.walkQ.any hit then s.setDie d { x with walkQ := updFirst hit join x.walkQ }
  else s.setDie d { x with walkQ := x.walkQ ++ [⟨ctx, vpn, [ask], false⟩] }
/-- What a walk has found missing for who waits. -/
def State.walkedFor (s : State) (who d ctx vpn : Nat) : Option Bad :=
  match s.agent? who with
  | some a => (a.walked.find? (·.2.1 == vpn)).map fun w => (w.1, w.2.2.toNat)
  | none => ((s.die d).walked.find? fun w => w.1 == who && w.2.1 == ctx && w.2.2.1 == vpn).map (·.2.2.2)
/-- The translation of one page for a fetch, an engine or the dispatcher: it waits for the walk of a page that no TLB holds (R31, R32). -/
def xlate (core : Option Nat) (who d ctx va : Nat) (s : State) : State × Except Bad (U64 × Nat) :=
  match s.cached core d ctx va with
  | some e => (install core d e s, .ok (e.leaf, e.level))
  | none =>
    match s.walkedFor who d ctx (va / 65536) with
    | some b =>
      let x := s.die d
      (s.setDie d { x with walked := x.walked.filter fun w => !(w.1 == who && w.2.1 == ctx && w.2.2.1 == va / 65536) }, .error b)
    | none => (askFor core who d ctx (va / 65536) s, .error notYet)

/-- What an access does, for the checks of R25. -/
structure Acc where
  write : Bool
  fetch : Bool
  /-- An engine: any valid logical number may be named (R24). -/
  engine : Bool
deriving DecidableEq, Repr

/-- A translated address: the physical address, the physical module, and L1NC of its page. -/
structure Phys where
  pa : Nat
  phys : BitVec 12
  l1nc : Bool
deriving DecidableEq, Repr

/-- Steps 7 to 9 of R25 on a leaf. The remap table is read once, here: what was read goes with the request (R21). -/
def State.reachable (s : State) (acc : Acc) (leaf : U64) (l va : Nat) : Except Bad Phys :=
  let sh := 2 ^ levelShift l
  let pa := ptePa leaf / sh * sh + va % sh
  let lmn := BitVec.ofNat 12 (pa / 2 ^ 44)
  let region := pa / 2 ^ 40 % 16
  match s.remap lmn with
  | none => .error (cXlate, 0x30)
  | some phys =>
    if acc.write && !leaf.getLsbD 2 then .error (cAccess, 0x40)
    else if acc.fetch && !leaf.getLsbD 3 then .error (cAccess, 0x41)
    else if region != 0 && lmn != s.mylmn then .error (cAccess, 0x43)
    else if acc.fetch && lmn != s.mylmn then .error (cAccess, 0x44)
    else if !acc.engine && lmn != s.mylmn && !s.inDomain phys then .error (cAccess, 0x42)
    else .ok ⟨pa, phys, leaf.getLsbD 4⟩

/-- A canonical address (R14). -/
def canonical (ea : U64) : Bool := ea.toNat < 2 ^ 57

/-- Steps 5 to 9 of R25 for a fetch, an engine or the dispatcher. -/
def xlateAll (core : Option Nat) (who d ctx : Nat) (acc : Acc) (ea : U64) (s : State) : State × Except Bad Phys :=
  if !canonical ea then (s, .error (cXlate, 0x01))
  else
    match xlate core who d ctx ea.toNat s with
    | (s, .error e) => (s, .error e)
    | (s, .ok (leaf, l)) => (s, s.reachable acc leaf l ea.toNat)

/-- What the translation of a gang's or drover's own access finds: an address, a failing check, or a page that no TLB holds. -/
inductive Found where
  | ok (p : Phys)
  | bad (b : Bad)
  | miss (vpn : Nat)
deriving DecidableEq, Repr

/-- Steps 5 to 9 of R25 through the TLBs; what a walk for the word at hand has found stands in `walked`. -/
def State.find (s : State) (a : Agent) (acc : Acc) (ea : U64) : Found :=
  let ctx := (s.grid a.grid).ctx
  let va := ea.toNat
  if !canonical ea then .bad (cXlate, 0x01)
  else
    match s.cached (if a.drover then none else some a.coreNo) a.die ctx va with
    | some e => match s.reachable acc e.leaf e.level va with | .ok p => .ok p | .error b => .bad b
    | none =>
      match a.walked.find? (·.2.1 == va / 65536) with
      | some w => .bad (w.1, w.2.2.toNat)
      | none => .miss (va / 65536)

/-- A miss of an agent's own access. -/
def askWalk (a : Agent) (vpn : Nat) (s : State) : State :=
  askFor (if a.drover then none else some a.coreNo) a.id a.die (s.grid a.grid).ctx vpn s

/-- Entries that the shared TLB supplied come into the core's TLB (R31, R32). -/
def fillTlb (a : Agent) (va : Nat) (s : State) : State :=
  match s.cached (if a.drover then none else some a.coreNo) a.die (s.grid a.grid).ctx va with
  | some e => install (if a.drover then none else some a.coreNo) a.die e s
  | none => s

/-- A byte of scratchpad: where it lies, why it does not, or that its team is saved (R398). -/
inductive Loc where
  | at_ (a : Nat)
  | bad (b : Bad)
  | wait
deriving DecidableEq, Repr

/-- The number of members of a cluster (R12, R75). -/
def LaunchRec.members (r : LaunchRec) : Nat := if r.csize ≤ 1 then 1 else r.csize

/-- A drover's space-1 address (R13, R398): the recorded cores follow their teams. -/
def State.droverLoc (s : State) (a : Agent) (ea : U64) : Loc :=
  let core := ea.toNat / 2 ^ 32 % 64
  let off := ea.toNat % 2 ^ 21
  if ea.extractLsb' 38 26 != 0 || ea.extractLsb' 21 11 != 0 then .bad (cSpace, 0x61)
  else
    match a.recorded.find? (·.1 == core) with
    | some (_, t, base) =>
      let x := s.team t
      if x.state == .saved then .wait
      else if off < base || x.size ≤ off - base || s.teams.all (·.id != t) then .bad (cSpace, 0x60)
      else .at_ (x.origin + (off - base))
    | none =>
      match s.teamAt (a.die * 64 + core) off with
      | some x => if x.grid == a.grid then .at_ (poolBase (a.die * 64 + core) + off) else .bad (cSpace, 0x60)
      | none => .bad (cSpace, 0x60)

/-- Steps 1 to 4 of R25 for spaces 1 to 4, n bytes at an effective address, of lane l. A drover's address in space 2 has detail 0x62 whatever
its high bits are: step 2 names the two tests in no order. DESIGN CHOICE [107]. -/
def State.localLoc (s : State) (a : Agent) (space l : Nat) (ea : U64) (n : Nat) : Loc :=
  let r := (s.grid a.grid).rc
  let t := s.team a.team
  let x := ea.toNat
  if x % n ≠ 0 then .bad (cAlign, 0x50)
  else if space = 1 then
    if a.drover then s.droverLoc a ea
    else if x < r.scratch then .at_ (t.origin + x) else .bad (cSpace, 0x60)
  else if space = 2 then
    if a.drover then .bad (cSpace, 0x62)
    else if ea.extractLsb' 38 26 != 0 then .bad (cSpace, 0x61)
    else if r.members ≤ x / 2 ^ 32 then .bad (cCluster, 0x70)
    else if r.scratch ≤ x % 2 ^ 32 then .bad (cSpace, 0x60)
    else
      match t.unit[x / 2 ^ 32]? with
      | some m => .at_ ((s.team m).origin + x % 2 ^ 32)
      | none => .at_ (t.origin + x % 2 ^ 32)
  else if space = 3 then
    match (s.grid a.grid).dscratch.find? (·.1 == a.die) with
    | some e => if x < r.dskib * 1024 then .at_ (2 ^ 40 + a.die * 2 ^ 26 + e.2 + x) else .bad (cSpace, 0x60)
    | none => .bad (cSpace, 0x60)
  else if a.drover then .bad (cSpace, 0x62)
  else if x < r.lpriv then .at_ (s.sliceAddr a l x) else .bad (cSpace, 0x60)

/-- The bytes of a slice access lie in lane words that are not adjacent (R72): the address of its byte i. -/
def State.localByte (s : State) (a : Agent) (space l : Nat) (ea : U64) (at0 i : Nat) : Nat :=
  if space = 4 then s.sliceAddr a l (ea.toNat + i) else at0 + i

/-- The range-lock check of a gang's access to n bytes at pool address k (R79). -/
def State.locked (s : State) (write : Bool) (k n : Nat) : Option Bad :=
  if k < 2 ^ 44 then none
  else
    let c := (k - 2 ^ 44) / 2 ^ 21
    let o := (k - 2 ^ 44) % 2 ^ 21
    let hit := (s.core c).locks.filter fun e => e.lo < o + n && o < e.hi
    if write then (if hit.isEmpty then none else some (cRange, 0x91))
    else if hit.any (·.dst) then some (cRange, 0x90) else none

end Sys2Proof.Machine
end

