-- ==== Sys2Proof/Machine/MemPath.lean ====
section
/-!
DEFINITION. The path of a memory instruction: the store queue and the L1 of a core, the lanes of an access, their checks, the
operation that waits for what the homes answer, releases and acquires (R25 to R29, R65 to R72, R83 to R85, R99 to R104, R293 to
R301, R305, R452).
-/
namespace Sys2Proof.Machine

-- The store queue and what is in flight (R66, R305).

/-- The core whose L1 and store queue an agent uses; a drover has none (R387). -/
def Agent.l1Core (a : Agent) : Option Nat := if a.drover then none else some a.coreNo
def State.l1Of (s : State) (id : Nat) : Option Nat := (s.agent? id).bind (·.l1Core)
/-- The error log's number of an agent (R57). -/
def Agent.logNo (a : Agent) : BitVec 7 := BitVec.ofNat 7 (if a.drover then 64 + a.core else a.core)

/-- A part names a byte range of a physical address, or of a cluster member's pool, above 2^60. -/
def Part.bytes (p : Part) (n : Nat) : Nat × Nat := (p.pa, p.pa + n)
/-- The byte of a store's operand that lies at address x. -/
def Part.byteAt (p : Part) (x : Nat) : Byte := (p.data >>> (8 * (x - p.pa))).setWidth 8
def meets (p q : Nat × Nat) : Bool := p.1 < q.2 && q.1 < p.2
def PartState.isOver (x : PartState) : Bool := match x with | .done => true | .failed _ => true | _ => false
def MemOp.isOver (o : MemOp) : Bool := o.parts.all (·.st.isOver)
def MemOp.isStore (o : MemOp) : Bool := o.kind == .store
/-- Counted in STCNT, in LDCNT: of the reads that words make for themselves, KSET's (R305); no access of an engine. -/
def MemOp.counts (st : Bool) (o : MemOp) : Bool :=
  o.eng.isNone && match o.kind with
  | .store | .reduce => st
  | .load => !st && (!o.inlineRead || o.word.extractLsb' 54 9 == 0x180)
  | .atomic => !st || (match o.dest with | .scalar _ => false | _ => true)
  | .fill => false
/-- STCNT and LDCNT: the words of one offset of a region count once (R305). -/
def State.inFlight (s : State) (id : Nat) (st : Bool) : Nat :=
  ((s.ops.filter fun o => o.agent == id && o.counts st).map (·.ins)).eraseDups.length

/-- Two operations of one offset of a plane region, from different planes: they count as one instruction, and nothing orders them (R83,
item 4). -/
def MemOp.together (o q : MemOp) : Bool := o.agent == q.agent && o.path == q.path && o.ins == q.ins && o.plane != q.plane
/-- The store stands in the store queue of a core (R66, R101). -/
def MemOp.queuedAt (q : MemOp) (core : Nat) : Bool := q.isStore && q.core == some core && !q.held && q.eng.isNone
/-- The newest byte at an address in a core's store queue, with the store that supplies it, of the parts that satisfy `ok` (R66). -/
def State.queued (s : State) (core : Nat) (ok : MemOp → Part → Bool) (x : Nat) : Option (Byte × Nat) :=
  (s.ops.reverse).findSome? fun q =>
    if q.queuedAt core then
      (q.parts.reverse.find? fun p => p.pa ≤ x && x < p.pa + q.size && ok q p && (match p.st with | .failed _ => false | _ => true)).map
        fun p => (p.byteAt x, q.id)
    else none

/-- An older operation holds this part back: the same gang's at the same bytes (R104), or a store of the core's queue (R66); a
load waits for its gang's reduce-stores to the line (R123); a release waits until it may perform (R101). Lanes of one store that meet are
performed in the order that its issue chose (R83, item 1). -/
def State.blocked (s : State) (o : MemOp) (p : Part) : Bool :=
  o.held ||
  (o.isStore && (o.parts.takeWhile (·.lane != p.lane)).any fun r => r.pa == p.pa && !r.st.isOver) ||
  (s.ops.takeWhile (·.id != o.id)).any fun q =>
    o.eng.isNone && q.eng.isNone && !o.together q &&
    (q.agent == o.agent || (match o.core with | some c => q.queuedAt c | none => false)) && q.parts.any fun r =>
      (!r.st.isOver || (o.kind == .load && q.isStore)) &&
      (meets (p.bytes o.size) (r.bytes q.size) ||
        (q.kind == .reduce && o.kind != .reduce && q.agent == o.agent && p.pa / 128 == r.pa / 128))

-- The L1 (R62, R65 to R68).

/-- The ways of a core's L1 (R59). -/
def CoreState.ways (c : CoreState) : Nat := c.l1kib / 32
/-- The first n lines of set `k` in a list that is newest first; lines of other sets stay. -/
def keepWays (n k : Nat) (l : List L1Line) : List L1Line :=
  match l with
  | [] => []
  | x :: r => if x.line % 256 == k then (match n with | 0 => keepWays 0 k r | m + 1 => x :: keepWays m k r) else x :: keepWays n k r
/-- A line comes to the front of its set, or to its end when it is non-temporal (R182). -/
def l1Put (nt : Bool) (x : L1Line) (c : CoreState) : CoreState :=
  let k := x.line % 256
  let l := c.l1.filter (·.line != x.line)
  if nt then { c with l1 := keepWays (c.ways - 1) k l ++ [x] } else { c with l1 := keepWays c.ways k (x :: l) }
def CoreState.line? (c : CoreState) (n : Nat) : Option L1Line := c.l1.find? (·.line == n)
/-- The first n tags of a set. -/
def keepTags (n k : Nat) (l : List Nat) : List Nat :=
  match l with
  | [] => []
  | x :: r => if x % 256 == k then (match n with | 0 => keepTags 0 k r | m + 1 => x :: keepTags m k r) else x :: keepTags n k r
/-- An access of the L1 is counted, and in a sampling set its shadow tags are read (R62, R64). DESIGN CHOICE [98]: each lane of a load or a
store, and each word fetched, is one access. DESIGN CHOICE [107]: each access enters the shadow tags, also one that allocates no line in the
L1, such as a store that misses or an access to a page with L1NC. -/
def l1Count (core line : Nat) (hit : Bool) (s : State) : State :=
  let s := s.count (rCore core (if hit then 0x10 else 0x18)) 1
  if line % 256 % 8 ≠ 0 then s
  else
    let c := s.core core
    let depth := ((c.shadow.filter fun t => t % 256 == line % 256).findIdx? (· == line)).getD 4096
    let inc := fun (n : Nat) => if depth < n then 1 else 0
    s.setCore core {
      c with
      ia := c.ia + 1
      ihs := c.ihs + inc (c.ways - 2)
      ihc := c.ihc + inc c.ways
      ihl := c.ihl + inc (c.ways + 2)
      shadow := keepTags (c.ways + 2) (line % 256) (line :: c.shadow.filter (· != line)) }
/-- Every line of a core's L1 is cleared, and a fill in flight is not installed (R68). -/
def l1Clear (core : Nat) (s : State) : State :=
  let s := s.setCore core { s.core core with l1 := [] }
  { s with ops := s.ops.map fun (o : MemOp) => if o.core == some core then { o with fills := [] } else o }
/-- The lines that satisfy p are dropped, and a fill of one in flight is not installed (R67, R303). -/
def l1Drop (core : Nat) (p : Nat → Bool) (s : State) : State :=
  let c := s.core core
  let s := s.setCore core { c with l1 := c.l1.filter fun x => !p x.line }
  { s with ops := s.ops.map fun (o : MemOp) => if o.core == some core then { o with fills := o.fills.filter fun l => !p l } else o }
/-- A line that an answer has overtaken goes: what comes next from its home is newer (R94, R104). -/
def l1Forget (core : Option Nat) (line : Nat) (s : State) : State :=
  match core with
  | none => s
  | some c => let x := s.core c; s.setCore c { x with l1 := x.l1.filter fun y => y.line != line }
/-- A line comes into an L1: bytes that the core's queue has not had performed lie over it (R66). -/
def l1Install (core line : Nat) (nt : Bool) (data : List Byte) (s : State) : State :=
  let mix := fun (i : Nat) (b : Byte) => ((s.queued core (fun _ p => !p.st.isOver) (line * 128 + i)).map (·.1)).getD b
  let d := (List.range 128).map fun i => mix i ((data[i]?).getD 0)
  s.setCore core (l1Put nt ⟨line, d⟩ (s.core core))

-- Lanes of an access.

/-- What a memory instruction does (R182, R293). -/
structure Form where
  kind : MemKind
  space : Nat
  /-- Bytes of each lane's access. -/
  n : Nat
  acq : Bool
  rel : Bool
  scope : Nat
  sx : Bool
  nt : Bool
  aop : Nat
  bf : Bool
  dest : Dest
  /-- Gang-uniform (R185). -/
  uni : Bool
deriving DecidableEq, Repr

/-- One lane's access: its effective address, its operand, and the comparand of a .cas. -/
structure Req where
  lane : Nat
  ea : U64
  data : U64
  cmp : U64
deriving DecidableEq, Repr

/-- Where a lane's access goes: bytes of a pool or of the die scratchpad, a physical address, a failing check; or it waits. -/
inductive Spot where
  | own (bytes : List Nat)
  | far (a : Nat)
  | glob (p : Phys)
  | bad (b : Bad)
  | miss (vpn : Nat)
  | wait
deriving DecidableEq, Repr

def MemKind.writes (k : MemKind) : Bool := match k with | .load => false | .fill => false | _ => true
/-- The link carries integer add, exchange and compare of 32 and 64 bits; of reduce-stores only add (R46, R121, R300, R301). -/
def linkCarries (k : MemKind) (aop n : Nat) : Bool :=
  4 ≤ n && (aop = 0 || (k == .atomic && (aop = 8 || aop = 9)))

/-- An access of the agent's own that its core holds back (a release that has not performed, a word of another plane) meets these bytes: a
later access to them waits (R94, R104). The words of one offset hold nothing of each other (R83, item 4). -/
def State.heldMeets (s : State) (a : Agent) (pa n : Nat) : Bool :=
  s.ops.any fun q => q.agent == a.id && q.held && q.parts.any (fun p => meets (pa, pa + n) (p.pa, p.pa + q.size)) &&
    !(q.path == s.cur && s.path.ins == some q.ins && q.plane != topPlane s.pmask)
/-- The checks of one lane's access in their order (R25, R52, R79, R300). -/
def State.place (s : State) (a : Agent) (f : Form) (r : Req) : Spot :=
  if f.space = 0 then
    if r.ea.toNat % f.n ≠ 0 then .bad (cAlign, 0x50)
    else
      match s.find a ⟨f.kind.writes, false, false⟩ r.ea with
      | .miss v => .miss v
      | .bad b => .bad b
      | .ok p =>
        if (f.kind == .atomic || f.kind == .reduce) && 2 ≤ regionOf p.pa && !linkCarries f.kind f.aop f.n then .bad (cAccess, 0x45)
        else if f.kind != .fill && s.heldMeets a p.pa f.n then .wait
        else .glob p
  else
    match s.localLoc a f.space r.lane r.ea f.n with
    | .bad b => .bad b
    | .wait => .wait
    | .at_ k =>
      let bytes := (List.range f.n).map fun i => s.localByte a f.space r.lane r.ea k i
      let lock := if a.drover || f.space = 3 then none else bytes.findSome? fun b => s.locked f.kind.writes b 1
      match lock with
      | some b => .bad b
      | none =>
        if f.space = 2 && (s.team a.team).origin / 2 ^ 21 ≠ k / 2 ^ 21 then (if s.heldMeets a (2 ^ 60 + k) f.n then .wait else .far k)
        else
          match if f.kind == .load || f.kind == .atomic then s.readBad k f.n else none with
          | some e => .bad (cMemerr, e.toNat)
          | none => if s.heldMeets a (2 ^ 60 + k) f.n then .wait else .own bytes

/-- The lanes of a destination register: lane l of a load receives v (R294, R295). -/
def deliver (id : Nat) (d : Dest) (sx : Bool) (n l : Nat) (v : U64) (s : State) : State :=
  match s.agent? id, d with
  | some a, .scalar k => (touch [grScalar a.id] s).setAgent (a.sset k (extend sx (8 * n) v))
  | some a, .vector p q =>
    let s := touch (if n = 8 then [grVec a.id p, grVec a.id q] else [grVec a.id p]) s
    let a := a.pset p l (lo32 (extend sx (8 * n) v))
    s.setAgent (if n = 8 then a.pset q l (hi32 v) else a)
  | _, _ => s

/-- n bytes at a list of addresses (R9). -/
def State.bytesAt (s : State) (bs : List Nat) : U64 := BitVec.ofNat 64 (ofBytes (bs.map s.getByte))
/-- Bytes written at a list of addresses, lane words of a slice one by one (R72). -/
def writeBytes (agentNo : BitVec 7) (as : List Nat) (v : U64) (s : State) : State × Bool :=
  let n := as.length
  let bs := bytesOf n v.toNat
  let a := (as[0]?).getD 0
  if (as[n - 1]?).getD 0 = a + (n - 1) then commit a bs agentNo s
  else
    let (s, x) := commit a (bs.take 4) agentNo s
    let (s, y) := commit ((as[4]?).getD 0) (bs.drop 4) agentNo s
    (s, x || y)

/-- A dropped store is remembered until the gang waits for STCNT (R53). -/
def noteDrop (id : Nat) (ea : U64) (l : Nat) (s : State) : State :=
  match s.agent? id with
  | some a => s.setAgent { a with dropped := a.dropped ++ [⟨ea, lane l, 0x83⟩] }
  | none => s

/-- One lane performed at its bank or at the die scratchpad (R49, R69, R295 to R301). -/
def performOwn (a : Agent) (f : Form) (r : Req) (as : List Nat) (s : State) : State :=
  let old := s.bytesAt as
  match f.kind with
  | .load => deliver a.id f.dest f.sx f.n r.lane old s
  | .fill => s
  | k =>
    let lost := if k == .reduce then s.badFirst ((as[0]?).getD 0) f.n else none
    match lost with
    | some (u, _) => noteDrop a.id r.ea r.lane (logOwn (dieOf u.1) u.1 3 u.2.2 a.logNo s)
    | none =>
    let s := if k == .store then correctRest ((as[0]?).getD 0) f.n a.logNo s else s
    let new := if k == .store then r.data
      else BitVec.ofNat 64 (rmw f.aop (8 * f.n) f.bf old.toNat (r.data.toNat % 2 ^ (8 * f.n)) (r.cmp.toNat % 2 ^ (8 * f.n)))
    let (s, lost) := writeBytes a.logNo as new s
    let s := if lost then noteDrop a.id r.ea r.lane s else s
    if k == .atomic then deliver a.id f.dest false f.n r.lane old s else s

/-- A lane put at its place of an order. -/
def insertBy (k : Nat → Nat) (r : Req) (l : List Req) : List Req :=
  match l with
  | [] => [r]
  | x :: t => if k r.lane ≤ k x.lane then r :: x :: t else x :: insertBy k r t
/-- The order in which the lanes of one instruction are performed at a bank or at die scratchpad: free where two of them meet (R70, R83).
Lanes that only read there see one state in any order; those that go to a home are served there in any order (nextPart). DESIGN CHOICE
[5]. -/
def laneOrder (f : Form) (rs : List Req) (s : State) : List Req :=
  let clash := rs.any fun r => rs.any fun q =>
    r.lane != q.lane && meets (r.ea.toNat, r.ea.toNat + f.n) (q.ea.toNat, q.ea.toNat + f.n)
  if f.kind == .load || f.space = 4 || !clash then rs
  else rs.foldl (fun l r => insertBy (fun i => Config.pick (s.fresh + i)) r l) []

/-- The cycles of the banks for one instruction's scratchpad accesses, less one (R70). -/
def bankConflicts (ws : List Nat) : Nat :=
  let u := ws.eraseDups
  ((List.range 64).foldl (fun m b => max m ((u.filter (· % 64 == b)).length)) 1) - 1

-- The operation of an instruction's accesses to memory.

/-- A load that misses fetches its line, where the page lets it into the L1 (R45, R66). -/
def MemOp.wholeLine (o : MemOp) (p : Part) : Bool := (o.kind == .load || o.kind == .fill) && o.core.isSome && !p.nc
/-- What a request's header says of its access beside its address, which takes bits 55 to 0 of ADDR: [57:56] the logarithm of its size, [58] a whole
line or a reduce-store, [59] BF16, [63:60] its operation. DESIGN CHOICE [18]. -/
def accessSize (q : Packet) : Nat := if q.kind = 0 && q.addr.getLsbD 58 then 128 else 2 ^ (q.addr.extractLsb' 56 2).toNat
def accessOp (q : Packet) : Nat := (q.addr.extractLsb' 60 4).toNat
def accessBf (q : Packet) : Bool := q.addr.getLsbD 59
def reducing (q : Packet) : Bool := q.addr.getLsbD 58
/-- The address of a request in the memory of its home. -/
def placeOf (q : Packet) : Nat := q.addr.toNat % 2 ^ 44
/-- The transaction number of a part, and whether another request under way has it: a request waits for its number (R432). -/
def transaction (o : MemOp) (p : Part) : Nat := o.id % 2 ^ 18 * 64 + p.lane % 64
def State.numberTaken (s : State) (o : MemOp) (p : Part) : Bool :=
  s.ops.any fun q => q.id != o.id && q.parts.any fun r => r.st == .away && transaction q r = transaction o p
/-- A packet of a request to another module (R432): one part of an operation. -/
def requestPacket (s : State) (o : MemOp) (p : Part) : Packet where
  dlmn := BitVec.ofNat 12 (p.pa / 2 ^ 44)
  slmn := s.mylmn
  kind := match o.kind with | .load => 0 | .fill => 0 | .store => 1 | _ => 2
  vc := 0
  tag := BitVec.ofNat 24 (transaction o p)
  addr :=
    let line := o.wholeLine p
    BitVec.ofNat 64 ((if line then p.pa / 128 * 128 else p.pa) % 2 ^ 56 + Nat.log2 o.size % 4 * 2 ^ 56 +
      (if line || o.kind == .reduce then 2 ^ 58 else 0) + (if o.bf then 2 ^ 59 else 0) + o.aop.toNat * 2 ^ 60)
  payload := match o.kind with
    | .load | .fill => []
    | .store => bytesOf o.size p.data.toNat
    | _ => bytesOf o.size p.data.toNat ++ (if o.aop = 9 then bytesOf o.size p.cmp.toNat else [])
  phys := p.phys

def putOp (o : MemOp) (s : State) : State := { s with ops := updFirst (·.id == o.id) (fun _ => o) s.ops }
def updPart (o : MemOp) (l : Nat) (f : Part → Part) (s : State) : State :=
  putOp { o with parts := updFirst (fun p => p.lane == l) f o.parts } s
/-- A physical address in another module. -/
def State.isRemote (s : State) (p : Part) : Bool := p.pa < 2 ^ 60 && regionOf p.pa < 2 && p.phys != s.myphys
/-- Requests to other modules leave it once nothing older holds them back. -/
def sendParts (id : Nat) (s : State) : State :=
  match s.ops.find? (·.id == id) with
  | none => s
  | some o => o.parts.foldl (fun s p =>
      if p.st == .waiting && s.isRemote p && !s.blocked o p && !s.numberTaken o p then
        match s.ops.find? (·.id == id) with
        | some o => updPart o p.lane (fun p => { p with st := .away }) (sendTo (some p.phys) (requestPacket s o p) s)
        | none => s
      else s) s

/-- The value that a load's part takes at once: from queued stores, or from a line of the L1 (R66). A store that has been performed and whose
acknowledgement is under way supplies nothing: a newer value may have been seen since, and the load waits and then reads (R94, R96, R99,
R104). `blind` leaves out the stores of its own instruction in other planes (R83, item 4). -/
def State.nearValue (s : State) (core : Nat) (blind : Bool) (o : MemOp) (p : Part) : Option (U64 × List Nat × Bool) :=
  let ok := fun (q : MemOp) (r : Part) => !(blind && o.together q) && !r.st.isOver
  let qs := (List.range o.size).map fun i => s.queued core ok (p.pa + i)
  let older := (s.ops.any fun q => q.agent == o.agent && q.id != o.id && q.eng.isNone && !o.together q && q.parts.any fun r =>
    !r.st.isOver && (!q.isStore || q.held) &&
      (meets (p.bytes o.size) (r.bytes q.size) || (q.kind == .reduce && p.pa / 128 == r.pa / 128)))
  let unseen := s.ops.any fun q => q.queuedAt core && q.parts.any fun r => !ok q r && meets (p.bytes o.size) (r.bytes q.size)
  if older || (o.acq && 2 ≤ o.scope) then none
  else if qs.all (·.isSome) then
    some (BitVec.ofNat 64 (ofBytes (qs.map fun q => (q.map (·.1)).getD 0)), qs.filterMap fun q => q.map (·.2), false)
  else if qs.any (·.isSome) || p.nc || unseen then none
  else
    match (s.core core).line? (p.pa / 128) with
    | some x => some (BitVec.ofNat 64 (ofBytes ((List.range o.size).map fun i => (x.data[p.pa % 128 + i]?).getD 0)), [], true)
    | none => none

/-- A load's part is served by the core where it can be (R66). -/
def serveLocal (core : Nat) (id l : Nat) (s : State) : State :=
  match s.ops.find? (·.id == id) with
  | none => s
  | some o =>
    match o.parts.find? (·.lane == l) with
    | none => s
    | some p =>
      let split := s.ops.any fun q => o.together q && q.isStore
      let blind := split && s.choose 2 = 1
      let s := if split then s.useFree 1 else s
      match s.nearValue core blind o p with
      | none => l1Count core (p.pa / 128) false s
      | some (v, ids, hit) =>
        let s := if hit then
            let s := l1Count core (p.pa / 128) true s
            let c := s.core core
            match c.line? (p.pa / 128) with
            | some x => s.setCore core (l1Put o.nt x c)
            | none => s
          else s
        let s := updPart o l (fun p => { p with data := v, st := .done }) s
        { s with ops := s.ops.map fun q => if ids.contains q.id then { q with readers := (o.agent :: q.readers).eraseDups } else q }

/-- What a store does to its core's L1: present lines take its bytes, in their place of the LRU order (DESIGN CHOICE [98]), or at its end
where the store is non-temporal (R182); a line that it writes whole is allocated (R65, R66). -/
def storeL1 (core : Nat) (o : MemOp) (s : State) : State :=
  let ps := o.parts.filter fun p => p.pa < 2 ^ 60
  let byteOf := fun (x : Nat) => (ps.reverse.find? fun (p : Part) => p.pa ≤ x && x < p.pa + o.size).map fun p => p.byteAt x
  let s := ps.foldl (fun s p => l1Count core (p.pa / 128) ((s.core core).line? (p.pa / 128)).isSome s) s
  let lines := (ps.map fun p => (p.pa / 128, p.nc)).eraseDups
  lines.foldl (fun s (e : Nat × Bool) =>
    let bs := (List.range 128).map fun i => byteOf (e.1 * 128 + i)
    let c := s.core core
    match c.line? e.1 with
    | some x =>
      let y : L1Line := ⟨e.1, (List.range 128).map fun i => ((bs[i]?).getD none).getD ((x.data[i]?).getD 0)⟩
      s.setCore core (if o.nt then l1Put true y c else { c with l1 := updFirst (·.line == e.1) (fun _ => y) c.l1 })
    | none => if bs.all (·.isSome) && !e.2 then s.setCore core (l1Put o.nt ⟨e.1, bs.map (·.getD 0)⟩ c) else s) s

/-- The number of the instruction that a word counts under (R305): the words of one offset of a region share it. -/
def State.insNo (s : State) : Nat := s.path.ins.getD s.serial

/-- An operation comes to its core: a load looks in the store queue and the L1, a store enters the queue, an atomic or a reduce-store
drops its lines; requests to other modules leave (R66, R67). -/
def openOp (id : Nat) (s : State) : State :=
  match s.ops.find? (·.id == id) with
  | none => s
  | some o =>
    let s := match o.core with
      | none => s
      | some c =>
        match o.kind with
        | .load => o.parts.foldl (fun s p => if p.pa < 2 ^ 60 then serveLocal c id p.lane s else s) s
        | .store => storeL1 c o s
        | .fill => s
        | _ => l1Drop c (fun l => o.parts.any fun p => p.pa / 128 == l) s
    sendParts id s
/-- The lanes that go to memory leave as one operation (R295, R296, R305); a release that may not perform yet is held (R101). -/
def launchOp (f : Form) (held : Bool) (ps : List (Req × Nat × Option Phys)) (s : State) : State :=
  if ps.isEmpty then s
  else
    let parts : List Part := ps.map fun e =>
      ⟨e.1.lane, e.1.ea, e.2.1, (e.2.2.map (·.phys)).getD s.myphys, e.1.data, e.1.cmp, .waiting, (e.2.2.map (·.l1nc)).getD false⟩
    let reads := f.kind == .load || f.kind == .fill
    let o : MemOp := {
      id := s.serial
      agent := s.g.id
      path := s.cur
      kind := f.kind
      aop := BitVec.ofNat 4 f.aop
      bf := f.bf
      size := f.n
      sx := f.sx
      dest := f.dest
      acq := f.acq
      scope := f.scope
      fills := if reads && !s.g.drover then ((parts.filter fun p => p.pa < 2 ^ 60 && !p.nc).map (·.pa / 128)).eraseDups else []
      nt := f.nt
      parts
      word := s.word
      off := s.path.pc
      plane := topPlane s.pmask
      ins := s.insNo
      readers := []
      core := s.g.l1Core
      die := s.g.die
      no := s.g.logNo
      grid := s.g.grid
      mask := s.before
      settles := false
      held
      eng := none }
    let s := s.updPath fun (p : Path) => { p with ins := some (p.ins.getD s.serial) }
    let s := { s with ops := s.ops ++ [o], serial := s.serial + 1 }
    if held then s else openOp o.id s

-- Watchpoints (R452).

/-- The filters of a breakpoint or watchpoint control register match a gang (R451). -/
def State.dbgMatches (s : State) (a : Agent) (c : U64) : Bool :=
  c.getLsbD 0 && (!c.getLsbD 31 || c.extractLsb' 32 32 == (s.team a.team).teamid) &&
  (!c.getLsbD 19 || (c.extractLsb' 20 4).toNat == a.idx)
/-- The watchpoints of the core that an access of space 0 hits (R452). -/
def watchHits (f : Form) (rs : List Req) (s : State) : List Hit :=
  if f.space ≠ 0 || s.g.drover || s.g.noHit.contains (s.cur, s.path.pc) then []
  else
    (List.range 4).filterMap fun n =>
      let c := s.reg (rCore s.g.coreNo (0x1C0 + 8 * n))
      let lo := (s.reg (rCore s.g.coreNo (0x1E0 + 8 * n))).toNat % 2 ^ 57
      let len := 2 ^ min 30 ((s.reg (rCore s.g.coreNo (0x200 + 8 * n))).toNat % 64)
      let kind := (c.extractLsb' 17 2).toNat
      let hitKind := match f.kind with | .load => kind % 2 = 1 | .atomic => kind ≠ 0 | _ => 2 ≤ kind
      let hs := rs.filter fun r => meets (r.ea.toNat, r.ea.toNat + f.n) (lo, lo + len)
      if s.dbgMatches s.g c && hitKind then
        match hs with
        | [] => none
        | r :: _ => some ⟨{ rep cWatch n (hs.foldl (fun m r => m ||| lane r.lane) 0) r.ea 0 with pc := s.trapPc }, c.getLsbD 1, s.g.trapMode⟩
      else none

-- Releases, acquires and the counters (R101 to R103, R305).

/-- Every earlier load and atomic of the agent has its value (R101). -/
def State.loadsBack (s : State) (id : Nat) : Bool := s.inFlight id false = 0
/-- An access of the agent is held back in its core: it has reached neither the store queue nor a bank (R101, item 2). -/
def State.holds (s : State) (id : Nat) : Bool := s.ops.any fun q => q.agent == id && q.held
/-- What a release at this scope waits for (R101): earlier loads are back and nothing is held back; at cluster scope or wider STCNT is zero,
and stores of other gangs that it has read from the store queue are acknowledged. -/
def State.mayRelease (s : State) (id scope : Nat) : Bool :=
  s.loadsBack id && !s.holds id && (scope < 2 || (s.inFlight id true = 0 && s.ops.all fun o => !o.readers.contains id))
/-- An acquire of the agent is unfinished: it holds back every later access (R102). -/
def State.acquiring (s : State) (id : Nat) : Bool := s.ops.any fun o => o.agent == id && o.acq
/-- The report of dropped stores, where there are some (R53). DESIGN CHOICE [103]: several stores dropped before one wait make one report,
with the address of the first and the lanes of all; the rule speaks of one. -/
def dropReport (a : Agent) : Option TrapRegs :=
  match a.dropped with
  | [] => none
  | d :: _ => some (rep cMemerr 0x83 (a.dropped.foldl (fun m x => m ||| x.lanes) 0) d.addr 0)
/-- An instruction that waits for STCNT to reach zero reports dropped stores, and issues again after TRET (R53, R361). -/
def whenDrained (f : State → State) (s : State) : State :=
  if s.inFlight s.g.id true ≠ 0 then stall s
  else
    match dropReport s.g with
    | some t => raise t { s with g := { s.g with dropped := [] } }
    | none => f s
/-- A release of an instruction that waits for it, then f (R101, R53). -/
def released (scope : Nat) (f : State → State) (s : State) : State :=
  if !s.loadsBack s.g.id || s.holds s.g.id then stall s
  else if scope < 2 then f s
  else if s.ops.any fun o => o.readers.contains s.g.id then stall s
  else whenDrained f s
/-- The release of EXIT at module scope, which waits for what its frames hold, then f (R100, R254). -/
def exitRelease (f : State → State) (s : State) : State :=
  if s.ops.any fun o => o.agent == s.g.id && !s.g.frames.isEmpty && (match o.dest with | .vector _ _ => true | _ => false) then stall s
  else released 3 f s
/-- The end of an acquire at cluster scope or wider: the core's L1 is cleared (R68, R102). -/
def acquired (a : Agent) (scope : Nat) (s : State) : State :=
  if scope < 2 then s else match a.l1Core with | some c => l1Clear c s | none => s

/-- The report and the entry of the lanes that failed (R26, R28, R413). -/
def badReport (f : Form) (mask : U64) (bs : List (Req × Bad)) : TrapRegs :=
  match bs with
  | [] => rep 0 0 0 0 0
  | (r, c, d) :: _ => rep c d (if f.uni then mask else bs.foldl (fun m x => m ||| lane x.1.lane) 0) r.ea 0
def entryOf (f : Form) (order wb : Nat) (word : U64) (planes : BitVec 4) (off : Offs) (rs : List Req) : PendEntry where
  order := order
  wb := wb
  replay := false
  planes := planes
  off := off
  lanes := rs.foldl (fun m r => m ||| lane r.lane) 0
  word := word
  addr := rs.map fun r => (r.lane, r.ea)
  data := rs.map fun r => (r.lane, if f.aop = 9 && f.kind == .atomic then (r.cmp, r.data) else (r.data, 0))

/-- One part of an operation performed at the bank of a core, or at die scratchpad (R49, R51, R69, R75, R76): data that cannot be corrected is
not delivered, and a reduce-store to it is dropped (R52, R53). -/
def bankAccess (o : MemOp) (p : Part) (s : State) : State :=
  let a := p.pa - 2 ^ 60
  let n := 8 * o.size
  let s := if o.isStore then correctRest a o.size o.no s else correct [.weakScratch] a o.size o.no s
  let old := s.getVal a o.size
  match if o.isStore then none else s.badFirst a o.size with
  | some (u, e) => updPart o p.lane (fun p => { p with st := .failed (if o.kind == .reduce then 0x83 else e) })
      (logOwn (dieOf a) u.1 (if o.kind == .reduce then 3 else 1) u.2.2 o.no s)
  | none =>
    if o.kind == .load then updPart o p.lane (fun p => { p with data := BitVec.ofNat 64 old, st := .done }) s
    else
      let new := if o.isStore then p.data.toNat else rmw o.aop.toNat n o.bf old (p.data.toNat % 2 ^ n) (p.cmp.toNat % 2 ^ n)
      let (s, lost) := commit a (bytesOf o.size new) o.no s
      updPart o p.lane (fun p => if lost then { p with st := .failed 0x83 } else { p with data := BitVec.ofNat 64 old, st := .done }) s
/-- f of an operation's part as it stands now. -/
def withPart (id l : Nat) (f : MemOp → Part → State → State) (s : State) : State :=
  match s.ops.find? (·.id == id) with
  | none => s
  | some o => match o.parts.find? (·.lane == l) with | some p => f o p s | none => s
/-- A part performed with those lanes of its store that write the same bytes: in the coherence order they stand together (R83, item 1). -/
def performTogether (f : MemOp → Part → State → State) (o : MemOp) (p : Part) (s : State) : State :=
  if o.isStore then
    (o.parts.filter fun r => r.pa == p.pa && !r.st.isOver).foldl (fun s r => withPart o.id r.lane f s) s
  else f o p s
/-- The bank is one of the operation's own core, or die scratchpad: what its core issues to it arrives in order (R49, R69, R114). -/
def MemOp.ownBank (o : MemOp) (p : Part) : Bool :=
  2 ^ 60 ≤ p.pa && (let k := p.pa - 2 ^ 60; k < 2 ^ 44 || match o.core with | some c => (k - 2 ^ 44) / 2 ^ 21 == c | none => true)
/-- The bank conflicts of the words of one instruction are added to the counter of the core that holds them (R70). -/
def countConflicts (core : Nat) (ws : List Nat) (s : State) : State :=
  let n := bankConflicts ws
  if n = 0 then s else s.count (rCore core 0x28) n
/-- The path at issue has lanes in several planes: each issues its own word of the offset (R167). -/
def State.split (s : State) : Bool := 1 < (s.g.occupied (s.path.lanes &&& s.g.live)).length
/-- The lanes that pass every check are performed, or leave for memory (R28). A release whose earlier loads have not returned, or that follows
one which is held, leaves as an operation that is held (R101); so does, by a free choice, the access of one plane to scratchpad where other
planes have a word at the offset, so that those may be performed in any order (R83, item 4). DESIGN CHOICE [5]. -/
def performLanes (f : Form) (good : List (Req × Spot)) (s : State) : State :=
  let order := laneOrder f (good.map (·.1)) s
  let s := if order == good.map (·.1) then s else s.useFree 64
  let free := f.space ≠ 0 && f.space ≠ 4 && !s.g.drover && s.split
  let held := (f.rel && f.scope < 2 && (!s.loadsBack s.g.id || s.holds s.g.id)) || (free && s.choose 2 = 1)
  let s := if free then s.useFree 1 else s
  let spot := fun (r : Req) => ((good.find? (·.1.lane == r.lane)).map (·.2)).getD .wait
  let words := order.flatMap fun r => match spot r with
    | .own bs => (bs.map (· / 4)).eraseDups
    | .far k => ((List.range f.n).map fun i => (k + i) / 4).eraseDups
    | _ => []
  let cores := (words.map fun w => (4 * w - 2 ^ 44) / 2 ^ 21).eraseDups
  let s := if (f.space = 1 || f.space = 2 || f.space = 4) && !s.g.drover then
      cores.foldl (fun s c => countConflicts c (words.filter fun w => (4 * w - 2 ^ 44) / 2 ^ 21 == c) s) s
    else s
  let s := if held then s else order.foldl (fun s r => match spot r with
    | .own bs =>
      let k := (bs[0]?).getD 0
      let s := if f.kind != .store && k < 2 ^ 44 then correct [.weakScratch] k f.n s.g.logNo s else s
      performOwn s.g f r bs s
    | _ => s) s
  let far := order.filterMap fun r => match spot r with
    | .glob p => some (r, p.pa, some p)
    | .far k => some (r, 2 ^ 60 + k, none)
    | .own bs => if held then some (r, 2 ^ 60 + (bs[0]?).getD 0, none) else none
    | _ => none
  let s := launchOp f held far s
  if f.acq && far.isEmpty && !order.isEmpty then acquired s.g f.scope s else s

/-- Uncorrectable die scratchpad that a lane has met is logged and counted (R50, R52, R57). -/
def logBad (f : Form) (r : Req) (s : State) : State :=
  match s.localLoc s.g f.space r.lane r.ea f.n with
  | .at_ k => (match s.badFirst k f.n with
    | some (u, _) => logOwn (dieOf k) u.1 1 u.2.2 s.g.logNo s
    | none => s)
  | _ => s
/-- The lanes of a memory access go through their checks: pages that no TLB holds are walked first (R25, R28, R31). The answer is
the lanes that failed, or nothing while the access waits. -/
def accessLanes (f : Form) (rs : List Req) (s : State) : Option (List (Req × Bad)) × State :=
  let spots := rs.map fun r => (r, s.place s.g f r)
  let misses := spots.filterMap fun e => match e.2 with | .miss v => some v | _ => none
  if !misses.isEmpty then (none, misses.eraseDups.foldl (fun s v => askWalk s.g v s) s)
  else if spots.any fun e => e.2 == .wait then (none, s)
  else
    let bad := spots.filterMap fun e => match e.2 with | .bad b => some (e.1, b) | _ => none
    let good := spots.filter fun e => match e.2 with | .bad _ => false | _ => true
    let s := if f.space = 0 then (rs.filter (·.ea.toNat % f.n = 0)).foldl (fun s r => fillTlb s.g r.ea.toNat s) s else s
    let s := bad.foldl (fun s e => if e.2.1 = cMemerr then logBad f e.1 s else s) s
    (some bad, if f.uni && !bad.isEmpty then s else performLanes f good s)

/-- The instruction would raise a counter of outstanding instructions beyond 255: STCNT counts stores and the atomics of lanes, LDCNT what
returns; a word of another plane that has raised the counter counts for this one too (R305). -/
def State.countersFull (s : State) (f : Form) : Bool :=
  let scalar := match f.dest with | .scalar _ => true | _ => false
  let st := f.kind == .store || f.kind == .reduce || (f.kind == .atomic && !scalar)
  let full := fun (k : Bool) => 255 ≤ s.inFlight s.g.id k && !s.ops.any fun o => o.agent == s.g.id && o.counts k && s.path.ins == some o.ins
  (st && full true) || ((f.kind == .load || f.kind == .atomic) && full false)

/-- A memory instruction with these lanes (R295 to R301). -/
def memory (h : Hint) (f : Form) (rs : List Req) (s : State) : State :=
  if rs.isEmpty then retire h s
  else if s.countersFull f then stall s
  else if f.rel && f.scope < 2 && f.space = 4 && (!s.loadsBack s.g.id || s.holds s.g.id) then stall s
  else
    (if f.rel && 2 ≤ f.scope then released f.scope else id) (fun (s : State) =>
      let order := s.serial
      match accessLanes f rs s with
      | (none, s) => stall s
      | (some bad, s) =>
        let s := { s with g := { s.g with hits := s.g.hits ++ (watchHits f rs s).take 1 } }
        if bad.isEmpty then retire h s
        else if f.uni then raise (badReport f s.before bad) s
        else raiseAfter (badReport f s.before bad) [entryOf f order s.g.wb s.word s.pmask s.path.pc (bad.map (·.1))] s) s

end Sys2Proof.Machine
end

