-- ==== Sys2Proof/Machine/Memory.lean ====
section
/-!
DEFINITION. The memory instructions (R293 to R305).
-/
namespace Sys2Proof.Machine

/-- The form of an instruction with the X-M layout (R182). -/
def formOf (k : MemKind) (x : MemX) (aop : BitVec 4) (dest : Dest) (uni : Bool) : Form where
  kind := k
  space := x.space.toNat
  n := 2 ^ x.size.toNat
  acq := x.ord.getLsbD 0
  rel := x.ord.getLsbD 1
  scope := x.scope.toNat
  sx := x.sx
  nt := x.nt && x.space == 0
  aop := aop.toNat
  bf := x.sx
  dest := dest
  uni := uni

/-- The physical registers of a vector destination. -/
def Agent.vdest (a : Agent) (d : Reg) : Dest := .vector (a.phys d.toNat) (a.phys (d.toNat + 1))
/-- The effective address of a lane: s[A] + sign-extended v[B] × scale (R12). -/
def State.laneEa (s : State) (scale : BitVec 2) (a b : Reg) (l : Nat) : U64 :=
  s.sr a + (s.vr b l).signExtend 64 <<< scale.toNat
/-- The effective address of a scalar form: B = 0 names no register (R12, R294). -/
def State.scalarEa (s : State) (scale : BitVec 2) (a b : Reg) : U64 := s.sr a + (if b = 0 then 0 else s.sr b <<< scale.toNat)
/-- The operand of a lane: its register, or the pair for 64 bits (R294). -/
def State.laneData (s : State) (size : BitVec 2) (d : Reg) (l : Nat) : U64 :=
  if size = 3 then s.vr2 d l else (s.vr d l).setWidth 64
/-- The lanes of a lane-level instruction, each with its address, operand and comparand. -/
def State.reqs (s : State) (h : Hint) (ea data cmp : Nat → U64) : List Req := (lanesOf (s.act h)).map fun l => ⟨l, ea l, data l, cmp l⟩
/-- The one access of a gang-uniform form, of the lowest lane active before the guard (R185, R294). -/
def State.uniReq (s : State) (h : Hint) (ea data cmp : U64) : List Req :=
  if s.act h = 0 then [] else [⟨lowest s.before, ea, data, cmp⟩]

/-- LD (R293 to R297). -/
def execLd (h : Hint) (x : MemX) (d a b : Reg) (s : State) : Answer :=
  .next (memory h (formOf .load x 0 (s.g.vdest d) false) (s.reqs h (s.laneEa x.scale a b) (fun _ => 0) (fun _ => 0)) s)
/-- ST (R293 to R297). -/
def execSt (h : Hint) (x : MemX) (d a b : Reg) (s : State) : Answer :=
  .next (memory h (formOf .store x 0 .none false) (s.reqs h (s.laneEa x.scale a b) (s.laneData x.size d) (fun _ => 0)) s)
/-- LD.S (R293 to R297). -/
def execLdS (h : Hint) (x : MemX) (d a b : Reg) (s : State) : Answer :=
  .next (memory h (formOf .load x 0 (.scalar d.toNat) true) (s.uniReq h (s.scalarEa x.scale a b) 0 0) s)
/-- ST.S (R293 to R297). -/
def execStS (h : Hint) (x : MemX) (d a b : Reg) (s : State) : Answer :=
  .next (memory h (formOf .store x 0 .none true) (s.uniReq h (s.scalarEa x.scale a b) (s.sr d) 0) s)
/-- LDG: the address is the pair v[A] (R294). -/
def execLdg (h : Hint) (x : MemX) (d a : Reg) (s : State) : Answer :=
  .next (memory h (formOf .load x 0 (s.g.vdest d) false) (s.reqs h (s.vr2 a) (fun _ => 0) (fun _ => 0)) s)
/-- STG (R294). -/
def execStg (h : Hint) (x : MemX) (d a : Reg) (s : State) : Answer :=
  .next (memory h (formOf .store x 0 .none false) (s.reqs h (s.vr2 a) (s.laneData x.size d) (fun _ => 0)) s)

/-- The words of an operand that an operation reads as floating-point data (R165, R299). -/
def aopWords (aop : BitVec 4) (w : U32) : List U32 := if 10 ≤ aop.toNat then [w] else []

/-- ATOM (R298 to R300): the comparand of a .cas is vD, its new value the next register or pair. -/
def execAtom (h : Hint) (x : MemX) (aop : BitVec 4) (d a b : Reg) (s : State) : Answer :=
  let cas := aop == 9
  let next : Reg := d + (if x.size = 3 then 2 else 1)
  let data := if cas then s.laneData x.size next else s.laneData x.size d
  let cmp := if cas then s.laneData x.size d else fun _ => 0
  .next (unlessMarked (s.act h) (fun l => aopWords aop (s.vr d l))
    (memory h (formOf .atomic x aop (s.g.vdest d) false) (s.reqs h (s.laneEa x.scale a b) data cmp)) s)
/-- ATOM.S (R298 to R300). -/
def execAtomS (h : Hint) (x : MemX) (aop : BitVec 4) (d a b : Reg) (s : State) : Answer :=
  let cas := aop == 9
  .next (unlessMarked (if s.act h = 0 then 0 else s.before) (fun _ => aopWords aop (lo32 (s.sr d)))
    (memory h (formOf .atomic x aop (.scalar d.toNat) true)
      (s.uniReq h (s.scalarEa x.scale a b) (if cas then s.sr (d + 1) else s.sr d) (if cas then s.sr d else 0))) s)
/-- RSTORE (R301). -/
def execRstore (h : Hint) (x : MemX) (aop : BitVec 4) (d a b : Reg) (s : State) : Answer :=
  .next (unlessMarked (s.act h) (fun l => aopWords aop (s.vr d l))
    (memory h (formOf .reduce x aop .none false) (s.reqs h (s.laneEa x.scale a b) (s.laneData x.size d) (fun _ => 0))) s)

/-- FENCE: every earlier load has returned and STCNT is zero; an acquire at cluster scope or wider then clears the L1 (R101 to
R103, R302). -/
def fenceThen (ord : BitVec 2) (scope : Nat) (f : State → State) (s : State) : State :=
  if !s.loadsBack s.g.id then stall s
  else if ord.getLsbD 1 && 2 ≤ scope && s.ops.any fun o => o.readers.contains s.g.id then stall s
  else whenDrained (fun s => f (if ord.getLsbD 0 then acquired s.g scope s else s)) s
def execFence (h : Hint) (ord : BitVec 2) (scope : BitVec 3) (s : State) : Answer :=
  .next (if s.act h = 0 then retire h s else fenceThen ord scope.toNat (retire h) s)

/-- The 64 KiB steps of a range (R303). -/
def pagesOf (a n : Nat) : List Nat := if n = 0 then [] else (List.range ((a + n - 1) / 65536 - a / 65536 + 1)).map (· + a / 65536)
/-- CINV of a range: steps that fail a check are skipped; a large range clears the whole L1 (R303). -/
def cinvRange (a n : Nat) (f : State → State) (s : State) : State :=
  if 2 ^ 21 < n then f (l1Clear s.g.coreNo s)
  else
    let ps := (pagesOf a n).map fun p => (p, s.find s.g ⟨false, false, false⟩ (BitVec.ofNat 64 (max a (p * 65536))))
    let miss := ps.filterMap fun e => match e.2 with | .miss v => some v | _ => none
    if !miss.isEmpty then stall (miss.foldl (fun s v => askWalk s.g v s) s)
    else
      f (ps.foldl (fun s e => match e.2 with
        | .ok p =>
          let lo := p.pa
          let hi := lo + (min (a + n) ((e.1 + 1) * 65536) - max a (e.1 * 65536))
          l1Drop s.g.coreNo (fun l => l * 128 < hi && lo < (l + 1) * 128) s
        | _ => s) s)
/-- CINV [sA], sB (R303). -/
def execCinvRange (h : Hint) (a b : Reg) (s : State) : Answer :=
  .next (if s.act h = 0 then retire h s else cinvRange (s.sr a).toNat (s.sr b).toNat (retire h) s)
/-- CINV.all (R303). -/
def execCinvAll (h : Hint) (s : State) : Answer := .next (retire h (uniform h (fun s => l1Clear s.g.coreNo s) s))

/-- PREF: a fill of each lane's line; lanes that fail a check are dropped (R29, R304). -/
def execPref (h : Hint) (size scale : BitVec 2) (nt : Bool) (a b : Reg) (s : State) : Answer :=
  let f : Form := ⟨.fill, 0, 2 ^ size.toNat, false, false, 0, false, nt, 0, false, .none, false⟩
  let spots := (s.reqs h (s.laneEa scale a b) (fun _ => 0) (fun _ => 0)).map fun r => (r, s.place s.g f r)
  let miss := spots.filterMap fun e => match e.2 with | .miss v => some v | _ => none
  .next (if !miss.isEmpty then stall (miss.eraseDups.foldl (fun s v => askWalk s.g v s) s)
    else
      let far := spots.filterMap fun e => match e.2 with | .glob p => some (e.1, p.pa, some { p with l1nc := p.l1nc || nt }) | _ => none
      retire h (launchOp f false far s))

end Sys2Proof.Machine
end

