-- ==== Sys2Proof/Machine/Lifecycle.lean ====
section
/-!
DEFINITION. The ends of things: a gang that has exited, the departure from a barrier, a team that is freed (R76, R144, R161, R162,
R175, R254, R257, R322, R354).
-/
namespace Sys2Proof.Machine

/-- The gangs of a team that have not exited. -/
def State.gangsOf (s : State) (t : Nat) : List Agent := s.all.filter fun a => !a.drover && a.team == t

/-- A gang leaves a barrier: its path goes to the next word (R257). -/
def Agent.depart (a : Agent) : Agent :=
  let p := (a.runnable[0]?).getD Path.empty
  let o := a.after p.pc
  let ps := updFirst (·.id == p.id) (fun (q : Path) => { q with pc := o, plane := 0, stalled := false }) a.paths
  ({ a with atBarT := false, atBarC := false, paths := ps }).leave

/-- A barrier whose last live gang has arrived completes: all the waiting gangs depart (R175, R257). -/
def barriers (t : Nat) (s : State) : State :=
  let gs := s.gangsOf t
  let s := if gs.any (·.atBarT) && gs.all (·.atBarT) then gs.foldl (fun s a => s.setAgent a.depart) s else s
  let us := (s.team t).unit.flatMap s.gangsOf
  if us.any (·.atBarC) && us.all (·.atBarC) then us.foldl (fun s a => acquired a 2 (s.setAgent a.depart)) s else s

/-- Pending granules of an agent's registers are captured before they are freed (R144). -/
def captureRegs (a : Agent) (s : State) : State :=
  if s.calm then s
  else
    let s := if a.drover then s else (List.range ((a.q + 7) / 8)).foldl (fun s p => capture true (2 ^ 50 + a.id * 256 + p) s) s
    capture true (grScalar a.id) s

/-- An agent that is no more: the agent at issue, or another. -/
def removeAgent (id : Nat) (s : State) : State :=
  if s.g.id = id then { s with g := Agent.absent, sel := false }
  else { s with agents := s.agents.filter (·.id != id) }

/-- The first fault of a grid stands in LINK (R156, R161). -/
def gridFault (g : Nat) (c : BitVec 8) (s : State) : State :=
  let x := s.grid g
  s.setGrid { x with fault := some (x.fault.getD c) }

/-- Engine operations of a team, or of a grid, that are incomplete (R120, R162). -/
def State.engineBusy (s : State) (p : Nat → Nat → Bool) : Bool :=
  (s.eng.xfers.any fun x => p x.team x.grid) || (s.eng.mats.any fun x => p x.team x.grid) || s.sys.colls.any fun x => p x.team x.grid

/-- A resident team has been freed or saved: units that have reserved in vain try again (R404). -/
def tryAgain (s : State) : State :=
  { s with dies := s.dies.map fun (e : Nat × DieState) => (e.1, { e.2 with tried := [] }) }
/-- A team's resources are freed: pending granules are captured first (R144, R162). -/
def freeTeam (t : Team) (s : State) : State :=
  let s := if s.calm then s
    else
      let s := (grRange t.origin t.size).foldl (fun s g => capture true g s) s
      let s := (List.range 16).foldl (fun s h => capture true (grTile t.id h) s) s
      (List.range 4).foldl (fun s b => capture true (grBuf t.id b) s) s
  tryAgain { s with teams := s.teams.filter (·.id != t.id) }

/-- An access to a team's allocation is on its way. -/
def State.poolDue (s : State) (t : Team) : Bool :=
  s.ops.any fun o => o.parts.any fun p => !p.st.isOver && 2 ^ 60 + t.origin ≤ p.pa && p.pa < 2 ^ 60 + t.origin + t.size
/-- Teams that have exited are freed once their engine operations have completed and every member of the cluster has exited
(R76, R162). -/
def reapTeams (s : State) : State :=
  let dead := s.teams.filter fun t => t.state == .exited && !s.poolDue t && t.unit.all fun m =>
    (s.teams.all fun x => x.id != m || x.state == .exited) && !s.engineBusy (fun y _ => y == m)
  dead.foldl (fun s t => freeTeam t s) s

/-- Teams whose last access has ended are freed. -/
def execReapTeams (s : State) : Answer := .next (reapTeams s)

/-- A team whose last gang has exited is EXITED (R162). -/
def teamExits (t : Nat) (s : State) : State :=
  let x := s.team t
  if x.state == .running && (s.gangsOf t).isEmpty then reapTeams (s.setTeam { x with state := .exited }) else s

/-- The reads that the words of some agents make for themselves (R251, R260, R308) are waited for no more. -/
def dropInline (p : Nat → Bool) (s : State) : State :=
  { s with ops := s.ops.filter fun o => !(p o.agent && o.inlineRead) }
/-- LIVE is empty: the gang has exited. Faults that no wait has reported go to LINK (R254, R322, R354). -/
def gangExits (a : Agent) (s : State) : State :=
  let s := captureRegs a s
  let s := a.engFaults.foldl (fun s e => gridFault a.grid (if e.mat then 0x41 else 0x40) s) s
  let s := dropInline (· == a.id) s
  teamExits a.team (barriers a.team (removeAgent a.id s))

end Sys2Proof.Machine
end

