-- ==== Sys2Proof/Machine/Control.lean ====
section
/-!
DEFINITION. The control instructions (R244 to R263).
-/
namespace Sys2Proof.Machine

/-- A load of the agent into vector registers is in flight: what moves the window waits for it, for it would move the register
under it (R206, R207). -/
def State.vectorsDue (s : State) : Bool :=
  s.ops.any fun o => o.agent == s.g.id && match o.dest with | .vector _ _ => true | _ => false
/-- A control word without an active lane goes to the next word; else f (R185). -/
def ifActive (h : Hint) (f : State → State) (s : State) : State := if s.act h = 0 then goOn h s else f s
/-- A uniform branch: the whole path moves when it is taken (R246). -/
def branch (h : Hint) (x : BitVec 18) (taken : Bool) (s : State) : State :=
  if s.act h ≠ 0 && taken then goTo h (s.target 18 x) s else goOn h s
/-- The bits of a mask operand, XOR NEG. -/
def State.predBits (s : State) (neg : Bool) (m : BitVec 4) : U64 := if neg then ~~~(s.g.mget m.toNat) else s.g.mget m.toNat
/-- The hints of a word that leaves its path hold for its gang (R189, R190). -/
def leaveHints (h : Hint) (s : State) : State :=
  { s with sel := false, g := ({ s.g with walked := [], noHit := s.hitsAgain }).hinted h }

/-- BRA (R246). -/
def execBra (h : Hint) (x : BitVec 18) (s : State) : Answer := .next (branch h x true s)
/-- BR.S (R246). -/
def execBrS (h : Hint) (z : Bool) (a : Reg) (x : BitVec 18) (s : State) : Answer := .next (branch h x ((s.sr a == 0) == z) s)
/-- BR.ANY (R246). -/
def execBrAny (h : Hint) (neg : Bool) (m : BitVec 4) (x : BitVec 18) (s : State) : Answer :=
  .next (branch h x (s.act h &&& s.predBits neg m != 0) s)
/-- BR.ALL (R246). -/
def execBrAll (h : Hint) (neg : Bool) (m : BitVec 4) (x : BitVec 18) (s : State) : Answer :=
  .next (branch h x (s.act h &&& ~~~(s.predBits neg m) == 0) s)
/-- LOOP (R247): the counter of the gang counts down when the branch is not held back. -/
def execLoop (h : Hint) (d : Reg) (x : BitVec 18) (s : State) : Answer :=
  .next (ifActive h (fun s =>
    let v := s.sr d - 1
    let o := if v ≠ 0 then s.target 18 x else s.g.after s.path.pc
    if s.g.strands s.path.lanes o then stranded s else goTo h o (setS d.toNat v s)) s)

/-- A spill that does not fit (R73, R74). -/
def spillTrap (ea : U64) (s : State) : State := raise (rep cSpill 0 (s.lanes &&& s.g.live) ea 0) s

/-- BR.DIV (R248). -/
def execBrDiv (h : Hint) (neg : Bool) (m : BitVec 4) (join : BitVec 16) (x : BitVec 18) (s : State) : Answer :=
  .next (ifActive h (fun s =>
    let all := s.path.lanes &&& s.g.live
    let t := all &&& s.g.exec &&& s.predBits neg m
    let f := all &&& ~~~t
    let tpc := s.target 18 x
    let fpc := s.g.after s.path.pc
    if s.g.strands t tpc || s.g.strands f fpc then stranded s
    else
      match divFails s with
      | some ea => spillTrap ea s
      | none =>
        let s' := if t = 0 || tpc = s.path.pc + 1 then s else traceAgent s.g 2 s.pmask.toNat s.path.pc.toNat (s.act h).toNat tpc.toNat s
        split h t f tpc fpc (s.target 16 join) s') s)

/-- A call made inside the arm that the path runs is open (R249). -/
def Agent.hasCalls (a : Agent) (pid : Nat) : Bool := a.calls.any (·.owner == pid)
/-- JOIN (R249): the arrival of the path at its topmost entry. -/
def execJoin (h : Hint) (s : State) : Answer :=
  .next (match s.g.cover s.cur with
    | none => illegal 0xA9 s
    | some e =>
      if e.join ≠ s.path.pc || e.kind == .callT || s.g.hasCalls s.cur then illegal 0xA9 s
      else if (s.g.completes s.cur).isSome && s.g.strands e.lanes (s.g.after e.join) then stranded s
      else leaveRegion (leaveHints h (arrive (s.g.divs.length + 1) s.cur s)))

/-- The call of a path to an offset (R206, R250): a drover has 16 entries and no spill region. The call of a group of CALL.T is one
whose return is the group's arrival (R253). -/
def callTo (h : Hint) (f : Nat) (o : Offs) (group : Bool) (s : State) : State :=
  if s.g.strands s.path.lanes o then stranded s
  else if s.g.drover && callOver s.g then spillTrap 0 s
  else if f ≠ 0 && s.vectorsDue then stall s
  else
    match callFails f s with
    | some ea => spillTrap ea s
    | none =>
      let ret := s.g.after s.path.pc
      goTo h o (pushCall ret f s.cur (s.path.lanes &&& s.g.live) group s)
/-- CALL (R250). -/
def execCall (h : Hint) (f : BitVec 8) (x : BitVec 18) (s : State) : Answer :=
  .next (ifActive h (callTo h f.toNat (s.target 18 x) false) s)

/-- The newest call that the path owns is closed (R206, R250). -/
def popCall (e : CallEntry) (s : State) : State :=
  let s := { s with g := { s.g with calls := s.g.calls.erase e } }
  refillCalls (respill (closeFrame e.frame s))
/-- The return offset of a call: a spilled entry's is what its words decode to (R74). -/
def returnOffset (e : CallEntry) (s : State) : Offs := (s.callAt s.g e).ret
/-- RET (R250, R253): a group of CALL.T that returns has arrived. -/
def execRet (h : Hint) (s : State) : Answer :=
  .next (match s.g.calls.find? (·.owner == s.cur) with
    | none => illegal 0xAA s
    | some e =>
      let o := returnOffset e s
      if s.g.strands s.path.lanes o then stranded s
      else if e.frame ≠ 0 && s.vectorsDue then stall s
      else if e.group then
        let s := if o = s.path.pc + 1 then s else traceAgent s.g 2 s.pmask.toNat s.path.pc.toNat (s.before).toNat o.toNat s
        let s := popCall e s
        leaveRegion (leaveHints h (arrive (s.g.divs.length + 1) s.cur s))
      else goTo h o (popCall e s))

-- Dispatch tables (R251 to R253).

/-- What a word's own read has found: nothing yet, its bytes by lane, or the report of the lanes that failed. -/
inductive Inline where
  | wait
  | ok (vs : List (Nat × U64))
  | bad (t : TrapRegs)
deriving DecidableEq, Repr

/-- The read that the word at issue has sent for itself. -/
def State.ownRead (s : State) : Option MemOp :=
  s.ops.find? fun o => o.agent == s.g.id && o.path == s.cur && o.off == s.path.pc && o.inlineRead
/-- A read that a word makes for itself (R251, R260, R308): it goes out once, and the word waits for it. -/
def inlineRead (space n : Nat) (eas : List (Nat × U64)) (s : State) : Inline × State :=
  let f : Form := ⟨.load, space, n, false, false, 0, false, false, 0, false, .none, true⟩
  match s.ownRead with
  | some o =>
    if !o.isOver then (.wait, s)
    else
      let s := { s with ops := s.ops.filter (·.id != o.id) }
      let fs := o.parts.filterMap fun p => match p.st with | .failed d => some (p, d) | _ => none
      match fs with
      | [] => (.ok (o.parts.map fun p => (p.lane, p.data)), s)
      | (p, d) :: _ => (.bad (rep cMemerr d.toNat (fs.foldl (fun m e => m ||| lane e.1.lane) 0) p.ea 0), s)
  | none =>
    let rs : List Req := eas.map fun e => ⟨e.1, e.2, 0, 0⟩
    match accessLanes f rs s with
    | (none, s) => (.wait, s)
    | (some [], s) =>
      if space = 0 then (.wait, s)
      else (.ok (rs.map fun r => (r.lane, match s.place s.g f r with | .own bs => s.bytesAt bs | _ => 0)), s)
    | (some (b :: bs), s) => (.bad (badReport { f with uni := false } 0 (b :: bs)), s)

/-- The groups of active lanes by target, in the order of their smallest index (R253). -/
def groupsOf (es : List (Nat × U64 × U64)) : List Arm :=
  let ts := (es.map (·.2.2)).eraseDups
  let key := fun (t : U64) => (es.filterMap fun e => if e.2.2 == t then some e.2.1.toNat else none).foldl min (2 ^ 64)
  let ins := fun (l : List U64) (t : U64) => (l.takeWhile fun x => key x < key t) ++ t :: (l.dropWhile fun x => key x < key t)
  (ts.foldl ins []).map fun t =>
    ⟨es.foldl (fun m e => if e.2.2 == t then m ||| lane e.1 else m) 0, (t >>> 3).setWidth 54⟩

/-- The index checks and the table reads of CALL.T and JMP.T; then k with the groups (R251, R252). -/
def tableGroups (h : Hint) (src : Bool) (a : Reg) (k : List Arm → State → State) (s : State) : State :=
  let idx := fun (l : Nat) => if src then s.sr a else (s.vr a l).setWidth 64
  let ls := lanesOf (s.act h)
  let out := ls.filter fun l => s.rc.tbllen ≤ (idx l).toNat
  match out with
  | l :: _ => raise (rep cDispatch 0xC0 (out.foldl (fun m l => m ||| lane l) 0) (idx l) 0) s
  | [] =>
    match inlineRead 0 8 (ls.map fun l => (l, s.rc.tblbase + (idx l) * 8)) s with
    | (.wait, s) => stall s
    | (.bad t, s) => raise t s
    | (.ok vs, s) =>
      let wrong := vs.filter fun e => e.2.extractLsb' 0 3 != 0 || e.2.extractLsb' 57 7 != 0
      if !wrong.isEmpty then raise (rep cDispatch 0xC1 (wrong.foldl (fun m e => m ||| lane e.1) 0) 0 0) s
      else k (groupsOf (vs.map fun e => (e.1, idx e.1, e.2))) s

/-- A TABLE entry is pushed and its first group starts (R253). -/
def runGroups (h : Hint) (kind : SplitKind) (join : Offs) (f : Nat) (gs : List Arm) (s : State) : State :=
  match gs with
  | [] => goOn h s
  | g :: r =>
    let id := s.g.nextPath
    let s := if g.start = s.path.pc + 1 then s else traceAgent s.g 2 s.pmask.toNat s.path.pc.toNat g.lanes.toNat g.start.toNat s
    let ret := s.g.after s.path.pc
    let s := pushDiv ⟨kind, s.cur, join, s.path.lanes &&& s.g.live, r, [id], f, s.path.taken, none⟩ s
    let ps := s.g.paths.filter (·.id != s.cur) ++ [Path.start id g.start g.lanes false s.path.spent]
    let s := { s with sel := false, g := ({ s.g with nextPath := id + 1, paths := ps, walked := [], noHit := s.hitsAgain }).hinted h }
    leaveRegion (if kind == .callT then pushCall ret f id g.lanes true s else s)

/-- The path is a group of a CALL.T whose call had found no room to spill: it stands at that CALL.T again (R73, R253). -/
def State.groupAgain (s : State) : Bool :=
  match s.g.cover s.cur with
  | some e => e.kind == .callT && e.join == s.path.pc && !s.g.hasCalls s.cur
  | none => false
/-- The TABLE entry of a CALL.T and its first call do not fit the slice, with what they push out (R73, R74, R253). -/
def tableCallFails (f : Nat) (s : State) : Option U64 :=
  spillFails (s.rc.slice - s.g.spill) ((if divOver s.g then [oldestDiv s.g] else []) ++ (if callOver s.g then [4] else []) ++
    (spillsOf s.g f).map (4 * ·.size))
/-- CALL.T (R253): one group is a call; several run one after another. -/
def execCallT (h : Hint) (src : Bool) (a : Reg) (f : BitVec 8) (s : State) : Answer :=
  .next (ifActive h (tableGroups h src a fun gs s =>
    match gs with
    | [g] => callTo h f.toNat g.start s.groupAgain s
    | gs =>
      if gs.any fun g => s.g.strands g.lanes g.start then stranded s
      else if f ≠ 0 && s.vectorsDue then stall s
      else
        match tableCallFails f.toNat s with
        | some ea => spillTrap ea s
        | none => runGroups h .callT s.path.pc f.toNat gs s) s)

/-- JMP.T (R253). -/
def execJmpT (h : Hint) (src : Bool) (a : Reg) (x : BitVec 18) (s : State) : Answer :=
  .next (ifActive h (tableGroups h src a fun gs s =>
    if gs.any fun g => s.g.strands g.lanes g.start then stranded s
    else
      match divFails s with
      | some ea => spillTrap ea s
      | none => runGroups h .jmpT (s.target 18 x) 0 gs s) s)

/-- EXIT (R254): the release of R100, which waits for STCNT to reach zero; its active lanes leave LIVE and their path. -/
def execExit (h : Hint) (s : State) : Answer :=
  .next (ifActive h (exitRelease fun s =>
    let out := s.act h
    let stay := s.path.lanes &&& s.g.live &&& ~~~out
    let o := s.g.after s.path.pc
    if s.g.strands stay o then stranded s
    else
      let s := { s with g := { s.g with live := s.g.live &&& ~~~out } }
      let s := if stay = 0 then leaveHints h s else finish h false o s
      let s := leaveRegion (settle s)
      if s.g.live = 0 then gangExits s.g s else s) s)

-- Planes and the save slot (R174, R255, R256).

/-- PLANE and PLANE.I (R255): the region is checked and recorded however many lanes are active (R195). -/
def plane (h : Hint) (pos : Nat) (p : Nat → Nat) (n1 : BitVec 2) (l : BitVec 24) (s : State) : State :=
  let r : Region := ⟨s.path.pc - BitVec.ofNat 54 pos, n1.toNat + 1, l.toNat⟩
  let occ := s.path.lanes &&& s.g.live
  let wrong := match s.g.region with | some x => x != r | none => false
  let high := laneSet 64 fun i => bit (s.act h) i && r.n ≤ p i
  if wrong then raise (rep cPlane 0xD2 occ 0 0) s
  else if high ≠ 0 then raise (rep cPlane 0xD1 high 0 0) s
  else
    let g := (lanesOf (s.act h)).foldl (fun (a : Agent) i => { a with planes := SMap.set 0 a.planes i (p i) }) { s.g with region := some r }
    if g.strands s.path.lanes (g.after s.path.pc) then stranded s else goOn h { s with g := g }
/-- PLANE vA (R255). -/
def execPlane (h : Hint) (pos : BitVec 8) (a : Reg) (n1 : BitVec 2) (l : BitVec 24) (s : State) : Answer :=
  .next (plane h pos.toNat (fun i => (s.vr a i).toNat % 4) n1 l s)
/-- PLANE.I p (R255). -/
def execPlaneI (h : Hint) (pos : BitVec 14) (p : BitVec 2) (n1 : BitVec 2) (l : BitVec 24) (s : State) : Answer :=
  .next (plane h pos.toNat (fun _ => p.toNat) n1 l s)

/-- ALL.BEGIN (R174, R256). -/
def execAllBegin (h : Hint) (s : State) : Answer :=
  .next (if !s.g.united then raise (rep cConverge 0 (s.lanes &&& s.g.live) 0 0) s
    else if s.g.save.isSome then illegal 0xA7 s
    else goOn h { s with g := { s.g with save := some (s.g.exec &&& s.g.live), exec := s.g.live } })
/-- ALL.END (R174, R256): an instruction of one path changes only the bits of that path's lanes (R171). -/
def execAllEnd (h : Hint) (s : State) : Answer :=
  .next (match s.g.save with
    | none => illegal 0xA7 s
    | some v =>
      let s := setX (s.lanes &&& s.g.live) v s
      goOn h { s with g := { s.g with save := none } })

-- Barriers, counters, yielding (R257 to R259).

/-- A gang arrives at a barrier and waits (R257). A gang with two runnable paths traps, whatever the guard, also where a call holds one
of them (R170, R195, R208). -/
def arriveAt (h : Hint) (scope : Nat) (mark : Agent → Agent) (s : State) : State :=
  if 1 < s.g.livePaths.length then raise (rep cConverge 0 (s.lanes &&& s.g.live) 0 0) s
  else
    ifActive h (released scope fun s =>
      let s := s.updPath fun (p : Path) => { p with age := 0, shadows := p.spent }
      let s := stall { s with g := (mark s.g).hinted h }
      barriers s.g.team s) s
/-- BAR.T (R257). -/
def execBarT (h : Hint) (s : State) : Answer := .next (arriveAt h 1 (fun a => { a with atBarT := true }) s)
/-- BAR.C (R257). -/
def execBarC (h : Hint) (s : State) : Answer := .next (arriveAt h 2 (fun a => { a with atBarC := true }) s)

/-- WAITCNT (R258). -/
def execWaitcnt (h : Hint) (ld : Bool) (bound : BitVec 16) (s : State) : Answer :=
  .next (if s.act h = 0 then retire h s
    else if bound.toNat < s.inFlight s.g.id (!ld) then stall s
    else if !ld && bound = 0 then whenDrained (retire h) s
    else retire h s)

/-- YIELD (R259, R420). -/
def execYield (h : Hint) (s : State) : Answer :=
  .next (ifActive h (fun s =>
    if !s.tm.preq then goOn h s
    else
      fenceThen 3 5 (fun s =>
        let s := goOn h (traceAgent s.g 3 s.pmask.toNat s.path.pc.toNat (s.before).toNat (s.g.trap.cause.toNat % 65536 + 2 ^ 17) s)
        { s with g := { s.g with yielded := true } }) s) s)

-- Child grids (R260, R261).

/-- The bytes of a launch queue (R400). -/
def State.queue (s : State) (q : Nat) : List Queued := SMap.get [] s.queues q
/-- Within one cycle the host's enqueue is first, then LAUNCHes by die and core (R400). -/
def enqueue (q : Nat) (x : Queued) (s : State) : State :=
  let late := fun (y : Queued) => y.born == x.born && x.rank < y.rank
  let l := s.queue q
  { s with queues := SMap.set [] s.queues q (l.takeWhile (!late ·) ++ x :: l.dropWhile (!late ·)) }
/-- The record address that a pointer names (R154). -/
def recAddr (x : U64) : U64 := x &&& ~~~(0xFF : U64)

/-- LAUNCH (R260): the leader's privilege and the depth are checked whatever the guard (R195). -/
def execLaunch (h : Hint) (a : Reg) (s : State) : Answer :=
  .next (if s.g.idx ≠ 0 then illegal 0xAB s
    else if 10 ≤ s.gr.depth then raise (rep cDepth 0 (s.lanes &&& s.g.live) 0 0) s
    else
      ifActive h (released 3 fun s =>
        let r := recAddr (s.sr a)
        match inlineRead 0 1 [(lowest s.before, r + 0x25)] s with
        | (.wait, s) => stall s
        | (.bad t, s) => raise { t with mask := s.before } s
        | (.ok vs, s) =>
          let q := min (((vs.map (·.2.toNat))[0]?).getD 0 % 256) 7
          if 1024 ≤ (s.queue q).length then stall s
          else
            let t := s.tm
            let n := t.children.length
            let s := s.setTeam { t with children := t.children ++ [(r, none, n)] }
            goOn h (enqueue q ⟨r, s.gr.ctx, some t.id, s.gr.gridid, s.gr.depth + 1, n, s.cyc, s.g.coreNo + 1⟩ s)) s)

/-- A child of a team has retired (R261). -/
def State.childDone (s : State) (c : U64 × Option Nat × Nat) : Bool :=
  match c.2.1 with | some g => s.grids.all fun x => x.id != g || x.state == .retired | none => false
/-- CHWAIT (R261): the acquire of R100. -/
def execChwait (h : Hint) (a : Reg) (s : State) : Answer :=
  .next (if s.act h = 0 then retire h s
    else
      let cs := s.tm.children
      let x := s.sr a
      let ok := if x = 0 then cs.all s.childDone
        else match (cs.filter fun c => c.1 == recAddr x).getLast? with | some c => s.childDone c | none => true
      if ok then retire h (acquired s.g 3 s) else stall s)

/-- NOP (R262). -/
def execNop (h : Hint) (s : State) : Answer := .next (retire h s)

end Sys2Proof.Machine
end

