-- ==== Sys2Proof/Machine/System.lean ====
section
/-!
DEFINITION. The system instructions (R358 to R368, R373, R416, R418) and the special registers (R209 to R211).
-/
namespace Sys2Proof.Machine

-- Special registers.

/-- The batch up to which every operation of an agent has completed: the batch before its oldest incomplete one, else the batch
closed last (R209). -/
def doneUpTo (last : U32) (open_ : List U32) : U32 :=
  match open_ with
  | [] => last
  | b :: r => r.foldl (fun m x => if (last - m).toNat < (last - x).toNat then x else m) b - 1
def State.cdone (s : State) (a : Agent) : U32 :=
  doneUpTo a.cbatch (s.eng.xfers.filterMap fun x => if x.agent == a.id && !x.drover then x.batch else none)
def State.mdone (s : State) (a : Agent) : U32 :=
  doneUpTo a.mbatch (s.eng.mats.filterMap fun x => if x.agent == a.id then x.batch else none)

/-- PLANES (R169). -/
def State.planesReg (s : State) (a : Agent) : U64 :=
  let occ := (planeMask (a.occupied a.live)).toNat
  match a.region.filter fun r => r.has s.path.pc with
  | some r => BitVec.ofNat 64 ((s.path.pc - r.base).toNat % 2 ^ 24 * 2 ^ 32 + r.len * 2 ^ 8 + 2 ^ 7 + (r.n - 1) * 2 ^ 4 + occ)
  | none => BitVec.ofNat 64 occ

/-- What a special register reads (R209, R210). -/
def specialReg (i : Nat) (s : State) : U64 :=
  let a := s.g
  let n := fun (x : Nat) => BitVec.ofNat 64 x
  match i with
  | 0x000 => s.gangid a
  | 0x001 => (s.tm.teamid).setWidth 64
  | 0x002 => (s.gr.gridid).setWidth 64
  | 0x003 => n a.width
  | 0x004 => n a.idx
  | 0x005 => n s.rc.gangs
  | 0x006 => a.coreReg
  | 0x007 => n (s.myphys.toNat * 2 ^ 16 + s.mylmn.toNat)
  | 0x008 => a.exec &&& a.live
  | 0x009 => a.live
  | 0x00A => s.planesReg a
  | 0x00B => n a.wb
  | 0x00C => n s.gr.depth
  | 0x00D => s.rc.tblbase
  | 0x00E => n s.rc.tbllen
  | 0x00F => a.fp.setWidth 64
  | 0x010 => s.gt
  | 0x011 => s.cyc
  | 0x012 => if s.tm.preq then 1 else 0
  | 0x013 => n s.tm.pdl
  | 0x014 => s.grpStep s.tm.coll
  | 0x015 => s.snapst
  | 0x020 => a.trap.cause
  | 0x021 => a.trap.pc
  | 0x022 => a.trap.mask
  | 0x023 => a.trap.addr
  | 0x024 => a.trap.reg
  | 0x025 => n a.pend.length
  | 0x026 => a.trapvec
  | 0x030 => a.mbatch.setWidth 64
  | 0x031 => (s.mdone a).setWidth 64
  | 0x032 => a.cbatch.setWidth 64
  | 0x033 => (s.cdone a).setWidth 64
  | 0x034 => n (s.inFlight a.id true)
  | 0x035 => n (s.inFlight a.id false)
  | _ => if 0x040 ≤ i && i < 0x050 then SMap.get 0 a.prog (i - 0x040) else 0

/-- A write of a special register other than EXEC (R209 to R211). -/
def writeSpecial (i : Nat) (v : U64) (s : State) : State :=
  if i = 0x00F then { s with g := { s.g with fp := v.setWidth 5 } }
  else if i = 0x026 then { s with g := { s.g with trapvec := v &&& ~~~(7 : U64) } }
  else if 0x040 ≤ i && i < 0x050 then { s with g := { s.g with prog := SMap.set 0 s.g.prog (i - 0x040) v } }
  else s

/-- S.RDSR (R359). -/
def execSRdsr (h : Hint) (idx : BitVec 12) (d : Reg) (s : State) : Answer := .next (scalarTo h d (specialReg idx.toNat s) s)
/-- S.WRSR (R359): that of EXEC has exactly the effect of M.SETX (R211). -/
def execSWrsr (h : Hint) (idx : BitVec 12) (a : Reg) (s : State) : Answer :=
  .next (retire h (if idx = 0x008 then setX (s.lanes &&& s.g.live &&& s.g.passing h.guard) (s.sr a) s
    else uniform h (writeSpecial idx.toNat (s.sr a)) s))

-- Traps by instruction (R360).

/-- A word that reports itself and is continued after (R360, R361). -/
def selfTrap (h : Hint) (cause detail : Nat) (s : State) : State :=
  if s.act h = 0 then retire h s else raiseAfter (rep cause detail (s.g.exec &&& s.g.live) 0 0) [] s
/-- TRAP n. -/
def execTrap (h : Hint) (n : BitVec 8) (s : State) : Answer := .next (selfTrap h cSwtrap n.toNat s)
/-- BRK n. -/
def execBrk (h : Hint) (n : BitVec 8) (s : State) : Answer := .next (selfTrap h cBrk n.toNat s)
/-- HALT: the gang is parked whatever TRAPVEC holds. -/
def execHalt (h : Hint) (s : State) : Answer := .next (selfTrap h cSwtrap 0xFF s)

/-- The report of an agent that is stopped as by HALT, at the word where it stands (R360, R361, R446). -/
def Agent.haltReport (a : Agent) : TrapRegs :=
  { rep cSwtrap 0xFF (a.exec &&& a.live) 0 0 with pc := a.standsAt }
/-- A gang parks: in non-stop mode, but for HALT; its shadows close (R192, R446, R453). -/
def pause (a : Agent) (x : Pausing) (s : State) : State :=
  let r := match x with | .hit r => r | .park => a.trap | .halt => a.haltReport
  park (x != .halt) (match x with | .hit r => r | _ => a.haltReport) { a with trap := r, pausing := none, paths := a.paths.map fun (p : Path) => { p with shadows := [] } } s
/-- A hit that is owed is reported at the point where the gang stands, once what it sent has finished: that of a word which faulted when the
gang has left trap mode, that of a handler's word in trap mode, where it parks the gang (R192, R418, R452, R453). -/
def takeHit (s : State) : State :=
  match s.g.hits.find? fun (x : Hit) => x.inTrap == s.g.trapMode with
  | none => s
  | some x =>
    let p := (s.g.runnable[0]?).getD Path.empty
    let s := { s with sel := false, g := { s.g with hits := s.g.hits.erase x } }
    if !x.nonstop then stop ⟨x.regs, p.pc, p.plane, p.id, []⟩ s
    else if s.stopsNow s.g x.regs.pc then pause s.g (.hit x.regs) s
    else { s with g := { s.g with pausing := some (.hit x.regs) } }
/-- The stop of an agent is complete: nothing that it sent is outstanding. It enters its handler, or parks, once the RESUME at which it stands
is over (R388, R415, R446, R453). -/
def finishStop (drover : Bool) (id : Nat) (s : State) : State :=
  match s.agent? id with
  | none => s
  | some a =>
    if a.drover != drover || !s.quiet id then s
    else
      match a.stopping, a.pausing with
      | some t, _ => enterTrap a t s
      | none, some x =>
        if a.resuming.isSome then s else if a.parked then s.setAgent { a with pausing := none } else pause a x s
      | none, none => s

/-- A hit is owed now: its word has completed, and the gang stands where it stops for it (R452, R453). -/
def Agent.owesHit (a : Agent) : Bool :=
  !a.atBarT && !a.atBarC && a.stopping.isNone && a.pausing.isNone && !a.parked && a.resuming.isNone && a.hits.any (·.inTrap == a.trapMode)
/-- A gang that is to go on has replay entries to settle, or holds a fault that a forced save met (R423, R430). -/
def State.owesReplay (s : State) (a : Agent) : Bool :=
  !a.drover && a.stopping.isNone && a.pausing.isNone && !a.parked && a.resuming.isNone && !((s.team a.team).preq && (s.team a.team).pdlDone) &&
    (a.heldFault.isSome || a.pend.any (·.replay))
/-- The handler is left: a hit of the TRET itself is reported where the gang stands then, as one of a word outside it. DEDUCED [106]. -/
def hitsOut (s : State) : State := { s with g := { s.g with hits := s.g.hits.map fun (x : Hit) => { x with inTrap := false } } }
/-- TRET (R362, R416): what moves the window waits for the vector loads of the handler. -/
def execTret (h : Hint) (s : State) : Answer :=
  .next (match s.g.handler with
    | none => illegal 0xAF s
    | some c =>
      if s.vectorsDue then stall s
      else if !s.g.pend.isEmpty then { s with sel := false, g := (s.g.toHandler).hinted h }
      else takeHit (hitsOut (trapReturn h c s)))

-- Settlement (R363).

/-- The form of a memory instruction of R293 (R293 to R301), for an agent whose window stands where it stood at issue. -/
def formOfInstr (a : Agent) (i : Instr) : Option Form :=
  match i with
  | .ld _ x d _ _ => some (formOf .load x 0 (a.vdest d) false)
  | .st _ x _ _ _ => some (formOf .store x 0 .none false)
  | .ldg _ x d _ => some (formOf .load x 0 (a.vdest d) false)
  | .stg _ x _ _ => some (formOf .store x 0 .none false)
  | .atom _ x aop d _ _ => some (formOf .atomic x aop (a.vdest d) false)
  | .rstore _ x aop _ _ _ => some (formOf .reduce x aop .none false)
  | _ => none

/-- The form and the lanes of a pending entry, with the operands that it captured. -/
def State.entryForm (s : State) (e : PendEntry) : Form × List Req :=
  let a := { s.g with wb := e.wb }
  let f := match decodeFull (s.decCtx s.g) e.word with
    | .ok i => (formOfInstr a i).getD ⟨.fill, 0, 1, false, false, 0, false, false, 0, false, .none, false⟩
    | .error _ => ⟨.fill, 0, 1, false, false, 0, false, false, 0, false, .none, false⟩
  let cas := f.kind == .atomic && f.aop = 9
  (f, (lanesOf e.lanes).map fun l =>
    let d := SMap.get (0, 0) e.data l
    ⟨l, SMap.get 0 e.addr l, if cas then d.2 else d.1, if cas then d.1 else 0⟩)

/-- Operations that an entry sends stand for its own word (R413); the settlement awaits them (R363). -/
def stampOps (n : Nat) (e : PendEntry) (s : State) : State :=
  { s with ops := s.ops.map fun (o : MemOp) =>
    if n ≤ o.id then { o with word := e.word, off := e.off, plane := topPlane e.planes, settles := true } else o }
/-- What an entry has sent has not returned. -/
def State.settlesDue (s : State) : Bool :=
  s.ops.any fun o => o.agent == s.g.id && o.settles && (o.kind == .load || o.kind == .atomic)
/-- The entry at which a settlement stands has been dealt with. -/
def dropEntry (x : Settling) (s : State) : State :=
  { s with g := { s.g with pend := s.g.pend.eraseP (settles x), resuming := some ⟨x.by_, x.n + 1, false⟩ } }
/-- Entries are settled in order (R363): the answer is false while the one at hand waits for a translation, a counter, an earlier access
or what it has sent; true when none is left, or when lanes fail again: they stay pending, with their report. -/
def settleEntries (fuel : Nat) (act : Nat → Bool) (s : State) : State × Bool :=
  match fuel with
  | 0 => (s, true)
  | k + 1 =>
    let done := ({ s with g := { s.g with resuming := none } }, true)
    match s.g.resuming with
    | none => (s, true)
    | some x =>
      match s.g.pend.find? (settles x) with
      | none => done
      | some e =>
        if x.sent then
          if s.settlesDue then (s, false)
          else if e.lanes = 0 then settleEntries k act (dropEntry x s)
          else done
        else if !act x.n then settleEntries k act (dropEntry x s)
        else
          let (f, rs) := s.entryForm e
          if s.countersFull f || (f.rel && 2 ≤ f.scope && !s.mayRelease s.g.id f.scope) then (s, false)
          else
            let n := s.serial
            match accessLanes f rs s with
            | (none, s) => (s, false)
            | (some bs, s) =>
              let s := stampOps n e s
              let left := bs.foldl (fun m b => m ||| lane b.1.lane) 0
              settleEntries k act { s with g := { s.g with
                trap := if bs.isEmpty then s.g.trap else { badReport f 0 bs with pc := match x.by_ with | .replay _ => (e.planes ++ e.off).setWidth 64 | _ => s.g.trap.pc }
                pend := updFirst (settles x) (fun (e : PendEntry) => { e with lanes := left }) s.g.pend
                resuming := some ⟨x.by_, x.n, true⟩ } }
/-- The settlement of the agent at issue goes as far as it can. -/
def settleOn (act : Nat → Bool) (s : State) : State × Bool := settleEntries (2 * s.g.pend.length + 2) act s

/-- RESUME: entries are completed or discarded, and PENDN is written (R363). -/
def resume (h : Hint) (act : Nat → Bool) (d : Reg) (s : State) : State :=
  if s.g.handler.isNone then illegal 0xAF s
  else
    let s := if s.g.resuming.isSome then s else { s with g := { s.g with resuming := some ⟨.word, 0, false⟩ } }
    match settleOn act s with
    | (s, false) => stall s
    | (s, true) => retire h (setS d.toNat (BitVec.ofNat 64 s.g.pend.length) s)
/-- RESUME by mask. -/
def execResumeByMask (h : Hint) (d a : Reg) (s : State) : Answer := .next (resume h (fun e => bit (s.sr a) e) d s)
/-- RESUME.complete. -/
def execResumeComplete (h : Hint) (d : Reg) (s : State) : Answer := .next (resume h (fun _ => true) d s)
/-- RESUME.discard. -/
def execResumeDiscard (h : Hint) (d : Reg) (s : State) : Answer := .next (resume h (fun _ => false) d s)

-- Snapshots (R364, R365).

/-- SNAP waits while the colour is busy (R364). -/
def execSnap (h : Hint) (col : Bool) (d : Reg) (s : State) : Answer :=
  .next (if s.act h = 0 then retire h s
    else
      let (r, s') := snapRequest col s
      if r = 2 then stall s else retire h (setS d.toNat (BitVec.ofNat 64 r) s'))
/-- SNAP.TRY (R364). -/
def execSnapTry (h : Hint) (col : Bool) (d : Reg) (s : State) : Answer :=
  .next (if s.act h = 0 then retire h s
    else let (r, s') := snapRequest col s; retire h (setS d.toNat (BitVec.ofNat 64 r) s'))
/-- SNAPW (R365). -/
def execSnapw (h : Hint) (col : Bool) (d : Reg) (s : State) : Answer :=
  let c := s.colour col
  .next (if s.act h = 0 then retire h s
    else match c.st with
      | .recording | .streaming => stall s
      | x => retire h (setS d.toNat (BitVec.ofNat 64 (x.code + if c.fail then 4 else 0)) s))

-- Trace, progress, random numbers (R366 to R368).

/-- TRACE: the two records are written together or not at all (R450). -/
def execTrace (h : Hint) (tag : BitVec 16) (a : Reg) (s : State) : Answer :=
  let st := if s.g.drover then 64 else s.g.core
  let lost := fun (s : State) => s.reg (rTrace s.g.die 0x220)
  let two := fun (s : State) =>
    let m := (s.act h).toNat
    traceAgent s.g 5 s.pmask.toNat s.path.pc.toNat m (s.sr a).toNat (traceAgent s.g 4 s.pmask.toNat s.path.pc.toNat m tag.toNat s)
  .next (retire h (uniform h (fun s =>
    let s' := two s
    if lost s' = lost s then s'
    else
      let k := s.g.die * 65 + st
      { (s.count (rTrace s.g.die 0x220) 2) with sys := { s.sys with trLost := SMap.set 0 s.sys.trLost k (SMap.get 0 s.sys.trLost k + 2) } }) s))
/-- PROG (R366). -/
def execProg (h : Hint) (n : BitVec 4) (s : State) : Answer :=
  .next (retire h (uniform h (fun s => { s with g := { s.g with prog := SMap.set 0 s.g.prog n.toNat (SMap.get 0 s.g.prog n.toNat + 1) } }) s))
/-- RAND (R368). -/
def execRand (h : Hint) (nw : BitVec 2) (d a b : Reg) (s : State) : Answer :=
  let w := fun (i l : Nat) => BitVec.ofNat 32 (((philox (s.sr a) ((s.globalLane s.g l).toNat + (s.sr b).toNat * 2 ^ 64))[i]?).getD 0)
  .next (retire h ((List.range (2 ^ nw.toNat)).foldl (fun s' i => setV (d.toNat + i) (s.act h) (w i) s') s))

/-- KNELL (R373, R440): the fatal fault of one group, or of every open group of the module. -/
def execKnell (h : Hint) (a : Reg) (s : State) : Answer :=
  let x := s.sr a
  let g := x.toNat % 64
  .next (if s.act h = 0 then retire h s
    else if x &&& 0x7FFFFFFFFFFFFFC0 != 0 then illegal 0xA2 s
    else if bit x 63 then retire h (((List.range 64).filter fun k => s.grpState k = 1).foldl (fun s k => sendKnell k s) s)
    else if s.grpState g ≠ 1 then raise (rep cColl 0xF3 (s.lanes &&& s.g.live) 0 0) s
    else retire h (fatalFault g s))

end Sys2Proof.Machine
end

