-- ==== Sys2Proof/Machine/Walker.lean ====
section
/-!
DEFINITION. Box descriptors (R306, R307), the geometry of a box, its elements and their conversion (R71, R313 to R317), the
accesses of the engines (R24, R25, R49, R52, R53, R114, R319), checksums (R321, R396), and the movement and the end of a
transfer (R318 to R322, R376, R411).
-/
namespace Sys2Proof.Machine

-- Box descriptors (R306, R307).

/-- A descriptor register as 512 bits. -/
abbrev Desc := BitVec 512
/-- n bits of a descriptor from bit p. -/
def fld (k : Desc) (p n : Nat) : Nat := (k.extractLsb' p n).toNat
def kFmt (k : Desc) (p : Nat) : BitVec 6 := k.extractLsb' p 6
def kBase (k : Desc) : U64 := k.extractLsb' 0 64
/-- The byte stride of dimension 1 to 4. -/
def kStride (k : Desc) (i : Nat) : Nat := fld k (64 * i) 40
def kExt (k : Desc) (i : Nat) : Nat := (if i < 4 then fld k (104 + 64 * i) 24 else fld k 320 24) + 1
def kRank (k : Desc) : Nat := fld k 384 3
/-- Box sizes: those of dimensions at or above RANK are ignored. -/
def kBox (k : Desc) (i : Nat) : Nat := if i < kRank k then fld k (344 + 8 * i) 8 + 1 else 1
def kTsp (k : Desc) : Bool := k.getLsbD 387
def kTfmt (k : Desc) : BitVec 6 := kFmt k 388
def kBfmt (k : Desc) : BitVec 6 := kFmt k 394
def kIfmt (k : Desc) : BitVec 6 := kFmt k 400
def kIfen (k : Desc) : Bool := k.getLsbD 406
def kSat (k : Desc) : Bool := k.getLsbD 407
def kFill (k : Desc) : Nat := fld k 408 2
def kSwz (k : Desc) : Nat := fld k 410 3
def kXpose (k : Desc) : Bool := k.getLsbD 413
def kSparse (k : Desc) : Bool := k.getLsbD 414
def kCb (k : Desc) : Bool := k.getLsbD 415
def kTslot (k : Desc) : Nat := fld k 416 2
def kDcrc (k : Desc) : Bool := k.getLsbD 418
def kNtemp (k : Desc) : Bool := k.getLsbD 419
def kRecen (k : Desc) : Bool := k.getLsbD 420
def kMeta (k : Desc) : U64 := (k.extractLsb' 448 32).signExtend 64
def kRecoff (k : Desc) : Nat := fld k 480 32
/-- The elements of a box. -/
def boxCount (k : Desc) : Nat := kBox k 0 * kBox k 1 * kBox k 2 * kBox k 3 * kBox k 4

/-- Accepted on the copy path, as a destination of a conversion there too (R216). -/
def isCopyDst (c : BitVec 6) : Bool := isLaneDst c
def isCopySrc (c : BitVec 6) : Bool := isLaneSrc c
/-- A format that has a NaN code (R307). -/
def hasNan (c : BitVec 6) : Bool := c.toNat ≤ 2 || isBin8 c

/-- The fields of a descriptor that fail R307, by bit position. -/
def descFails (k : Desc) : List Nat :=
  let no := fun (b : Bool) (p : Nat) => if b then [] else [p]
  let t := kTfmt k
  let b := kBfmt k
  let n0 := fld k 344 8 + 1
  no (kBase k % 32 == 0) 0 ++
  (List.range 4).flatMap (fun i => no (kStride k (i + 1) % 8 == 0) (64 * (i + 1))) ++
  no ((!(fmtWidth t == 4 || fmtWidth b == 4) || n0 % 2 == 0) && (!kSparse k || n0 % 4 == 0) && (!kCb k || n0 % 128 == 0)) 344 ++
  no (1 ≤ kRank k && kRank k ≤ 5) 384 ++
  no (isCopySrc t || (t == 0x3A && kCb k)) 388 ++
  no (if t == 0x3A then isLaneDst b else isCopyDst b) 394 ++
  no (!kIfen k || isCopyDst (kIfmt k)) 400 ++
  no (kFill k ≤ 2 && (kFill k != 1 || hasNan b)) 408 ++
  no (kSwz k ≤ 4) 410 ++
  no (!kXpose k || 2 ≤ kRank k) 413 ++
  no (!(kSparse k && kCb k) && !((kSparse k || kCb k) && fmtWidth t == 32)) 414 ++
  no (fld k 421 27 == 0) 421 ++
  no (kSparse k || fld k 448 32 == 0) 448 ++
  no (kRecen k || kRecoff k == 0) 480

-- Geometry (R71, R313).

/-- The box index (i0, ..., i4) of element n in source traversal order. -/
def boxIx (k : Desc) (n : Nat) : List Nat :=
  let b0 := kBox k 0
  let b1 := kBox k 1
  let b2 := kBox k 2
  let b3 := kBox k 3
  [n % b0, n / b0 % b1, n / (b0 * b1) % b2, n / (b0 * b1 * b2) % b3, n / (b0 * b1 * b2 * b3)]
def ixAt (l : List Nat) (i : Nat) : Nat := (l[i]?).getD 0
/-- The coordinates of a triple (R311). -/
def coordOf (c : List U64) (i : Nat) : Int :=
  let w := (List.getD c (i / 2) 0)
  (if i % 2 = 0 then lo32 w else hi32 w).toInt
/-- The tensor coordinate in dimension i. -/
def tcoord (c : List U64) (ix : List Nat) (i : Nat) : Int := coordOf c i + ixAt ix i
/-- Dimensions 1 and above of the coordinate are in bounds. -/
def rowIn (k : Desc) (c : List U64) (ix : List Nat) : Bool :=
  ((List.range (kRank k)).drop 1).all fun i => 0 ≤ tcoord c ix i && tcoord c ix i < kExt k i
/-- In bounds (R315, R317): a sparse group and a codebook block as a whole. -/
def elemIn (k : Desc) (c : List U64) (ix : List Nat) : Bool :=
  let g : Nat := if kSparse k then 4 else if kCb k then 128 else 1
  let x := tcoord c ix 0
  let lo := x - x % (g : Int)
  rowIn k c ix && 0 ≤ lo && lo + g ≤ kExt k 0
/-- Where a row begins: element 0 of dimension 0. -/
def rowAddr (k : Desc) (c : List U64) (ix : List Nat) : U64 :=
  ((List.range (kRank k)).drop 1).foldl (fun a i => a + BitVec.ofInt 64 (tcoord c ix i * kStride k i)) (kBase k)
/-- The address of the byte in which stored element x of a row begins, and its bit there. -/
def cellAddr (row : U64) (w : Nat) (x : Int) : U64 × Nat :=
  (row + BitVec.ofInt 64 (x * w / 8), (x * w % 8).toNat)
/-- The element's place in the box on the scratchpad side, in elements. -/
def sideIx (k : Desc) (ix : List Nat) : Nat :=
  let x := kXpose k
  let b0 := if x then kBox k 1 else kBox k 0
  let b1 := if x then kBox k 0 else kBox k 1
  let i0 := if x then ixAt ix 1 else ixAt ix 0
  let i1 := if x then ixAt ix 0 else ixAt ix 1
  (((ixAt ix 4 * kBox k 3 + ixAt ix 3) * kBox k 2 + ixAt ix 2) * b1 + i1) * b0 + i0
/-- The span of a swizzle code, in bytes (R306, R347). -/
def swzSpan (c : Nat) : Nat := if c = 0 then 0 else 16 * 2 ^ c
/-- BitReverse(b, n) (R71). -/
def bitRev (n b : Nat) : Nat := sumNat ((List.range n).map fun i => if b.testBit (n - 1 - i) then 2 ^ i else 0)
/-- The swizzled offset of byte a under span s (R71). -/
def swizzle (s a : Nat) : Nat :=
  if s = 0 then a
  else
    let n := Nat.log2 s - 3
    let u := a / 8 % 2 ^ n
    a - u * 8 + (Nat.xor u (bitRev n (a / s % 2 ^ n))) * 8
/-- The bytes that a box takes on the scratchpad side. -/
def boxBytes (k : Desc) : Nat := (boxCount k * fmtWidth (kBfmt k) + 7) / 8
/-- The range from a, n bytes long, widened to boundaries of a span (R312). -/
def widenTo (s a n : Nat) : Nat × Nat := if s = 0 then (a, a + n) else (a / s * s, upTo (a + n) s)
/-- The lock range of n bytes from a under a swizzle: from the lowest to the highest byte touched, to 128-byte boundaries (R78). -/
def lockRange (s a n : Nat) : Nat × Nat :=
  let blk := max s 8
  let units := fun (lo hi : Nat) => (List.range ((hi - lo + 7) / 8)).map fun i => swizzle s ((lo / 8 + i) * 8)
  let first := units a (min (a + n) (upTo (a + 1) blk))
  let last := units (max a ((a + n - 1) / blk * blk)) (a + n)
  (((first.head?).map fun x => first.foldl min x).getD a / 128 * 128, upTo (last.foldl (fun m x => max m (x + 8)) 0) 128)

-- Conversion (R226, R232, R314).

/-- One step of a chain: a step between equal formats copies bits. -/
def convStep (src dst : BitVec 6) (rm : Rm) (sat : Bool) (x : Nat) : Nat :=
  if src == dst then x else (roundTo dst (decodeVal src x) rm sat 0).1
/-- The chain of a transfer: through IFMT under RO, then RNE with SAT. -/
def convChain (k : Desc) (src dst : BitVec 6) (x : Nat) : Nat :=
  if kIfen k then convStep (kIfmt k) dst .rne (kSat k) (convStep src (kIfmt k) .ro false x) else convStep src dst .rne (kSat k) x
/-- What an out-of-bounds source element gives (R317). -/
def fillValue (k : Desc) (dst : BitVec 6) : Nat := if kFill k = 1 then (roundTo dst (.nan false) .rne false 0).1 else 0

-- The accesses of an engine.

/-- Whose access it is: the die, the core of the engine (none for a drover's own reads), its context and grid, its number in the error
log; the die whose scratchpad is its space 3; the name of the operation; and whether its lines are non-temporal (R306). -/
structure Engine where
  die : Nat
  core : Option Nat
  ctx : Nat
  grid : Nat
  no : BitVec 7
  sdie : Nat
  op : Nat
  nt : Bool
deriving DecidableEq, Repr

/-- Where an engine's access goes: own memory, or a place outside the module. -/
inductive EngSpot where
  | own (a : Nat)
  | away (p : Phys)
deriving DecidableEq, Repr

/-- Steps 2 and 4 to 9 of R25 for n bytes of a tensor: in die scratchpad, or in global memory (R24, R49, R306, R322). -/
def engPlace (e : Engine) (tsp write : Bool) (ea : U64) (n : Nat) (s : State) : State × Except Bad EngSpot :=
  if tsp then
    let g := s.grid e.grid
    match g.dscratch.find? (·.1 == e.sdie) with
    | some d => if ea.toNat + n ≤ g.rc.dskib * 1024 then (s, .ok (.own (2 ^ 40 + e.sdie * 2 ^ 26 + d.2 + ea.toNat)))
      else (s, .error (cSpace, 0x60))
    | none => (s, .error (cSpace, 0x60))
  else
    match xlateAll e.core e.op e.die e.ctx ⟨write, false, true⟩ ea s with
    | (s, .error b) => (s, .error b)
    | (s, .ok p) => if regionOf p.pa < 2 && p.phys == s.myphys then (s, .ok (.own (p.pa % 2 ^ 44))) else (s, .ok (.away p))

/-- An access of an engine that its step cannot finish: to another module, to host or CXL memory, or to a home that must wait. It is an
operation of its own, that the engine awaits (R46, R53, R113, R130). -/
def launchEng (e : Engine) (k : MemKind) (aop : Nat) (bf : Bool) (pa : Nat) (phys : BitVec 12) (ea : U64) (bs : List Byte) (s : State) : State :=
  let n := if bs.length ≤ 8 then bs.length else 8
  let parts := (List.range (bs.length / max 1 n)).map fun i =>
    (⟨i, ea + BitVec.ofNat 64 (n * i), pa + n * i, phys, BitVec.ofNat 64 (ofBytes ((bs.drop (n * i)).take n)), 0, .waiting, true⟩ : Part)
  let o : MemOp := {
    id := s.serial
    agent := 0
    path := 0
    kind := k
    aop := BitVec.ofNat 4 aop
    bf
    size := n
    sx := false
    dest := .none
    acq := false
    scope := 0
    fills := []
    nt := e.nt
    parts
    word := 0
    off := 0
    plane := 0
    ins := s.serial
    readers := []
    core := if k == .reduce then e.core else none
    die := e.die
    no := e.no
    grid := e.grid
    mask := 0
    settles := false
    held := false
    eng := some e.op }
  sendParts o.id { s with ops := s.ops ++ [o], serial := s.serial + 1 }
/-- What an engine's operation awaits: the writes that are not acknowledged, of all its accesses. -/
def State.engDue (s : State) (op : Nat) : List MemOp := s.ops.filter fun o => o.eng == some op && o.kind != .load
/-- The reads that an operation awaited for its last element are over (R142). -/
def dropReads (op : Nat) (s : State) : State := { s with ops := s.ops.filter fun o => !(o.eng == some op && o.kind == .load) }
/-- The first failure among some accesses: its detail and its address. -/
def failedPart (os : List MemOp) : Option (BitVec 8 × U64) :=
  os.findSome? fun o => o.parts.findSome? fun p => match p.st with | .failed d => some (d, p.ea) | _ => none

/-- A read of n bytes by an engine: at once where the home serves it; else it is awaited, and found when the element is tried again. What
another module, the host or CXL memory holds comes with the answer (R46, R52, R55, R56). -/
def engRead (e : Engine) (tsp : Bool) (ea : U64) (n : Nat) (s : State) : State × Except Bad (List Byte) :=
  match s.ops.find? fun o => o.eng == some e.op && o.kind == .load && o.size * o.parts.length == n && (o.parts.head?.map (·.ea)) == some ea with
  | some o =>
    if !o.isOver then (s, .error notYet)
    else match failedPart [o] with
      | some (d, _) => (s, .error (cMemerr, d.toNat))
      | none => (s, .ok (o.parts.flatMap fun p => bytesOf o.size p.data.toNat))
  | none =>
    match engPlace e tsp false ea n s with
    | (s, .error b) => (s, .error b)
    | (s, .ok (.own a)) =>
      if s.homeWaits (some e.die) a n then
        (launchEng e .load 0 false (a + s.mylmn.toNat * 2 ^ 44) s.myphys ea (List.replicate n 0) s, .error notYet)
      else
        match readHome (some e.die) true e.nt e.no a n s with
        | (s, .error d) => (s, .error (cMemerr, d.toNat))
        | (s, .ok bs) => (s, .ok bs)
    | (s, .ok (.away p)) => (launchEng e .load 0 false p.pa p.phys ea (List.replicate n 0) s, .error notYet)

/-- A write by an engine: a dropped one ends the operation (R53). -/
def engWrite (e : Engine) (tsp : Bool) (ea : U64) (bs : List Byte) (s : State) : State × Except Bad Unit :=
  match engPlace e tsp true ea bs.length s with
  | (s, .error b) => (s, .error b)
  | (s, .ok (.own a)) =>
    if s.homeWaits none a bs.length then (launchEng e .store 0 false (a + s.mylmn.toNat * 2 ^ 44) s.myphys ea bs s, .ok ())
    else
      let (s, lost) := writeHome e.nt e.no a bs s
      (s, if lost then .error (cMemerr, 0x83) else .ok ())
  | (s, .ok (.away p)) => (launchEng e .store 0 false p.pa p.phys ea bs s, .ok ())

/-- The operation that ROP names on a format (R310, R319), by its AOP code. -/
def ropAop (rop : Nat) (f : BitVec 6) : Nat :=
  if rop = 1 then (if isIntFmt f then 0 else 10)
  else if rop = 2 then (if f == 0x35 then 1 else if f == 0x36 then 3 else 11)
  else (if f == 0x35 then 2 else if f == 0x36 then 4 else 12)
/-- A reduce-store of an engine to a place that has been translated: through the core's reduction buffer for DRAM of this module, at the die
scratchpad, at another module's home, or over a link where it can carry it (R21, R121, R122, R319). -/
def engReduceAt (e : Engine) (spot : EngSpot) (ea : U64) (aop size : Nat) (bf : Bool) (x : Nat) (s : State) : State × Except Bad Unit :=
  match spot with
  | .own a =>
    let scratch := 2 ^ 40 ≤ a
    if s.homeWaits none a size || (!scratch && s.bufferWaits e.core e.die aop size bf (a / 128)) then
      (launchEng e .reduce aop bf (a + s.mylmn.toNat * 2 ^ 44) s.myphys ea (bytesOf size x) s, .ok ())
    else
      let (s, lost) := if scratch then reduceHome e.nt aop size bf a x e.no s
        else reduceStore e.nt e.core e.die aop size bf a x e.no s
      (s, if lost then .error (cMemerr, 0x83) else .ok ())
  | .away p =>
    if 2 ≤ regionOf p.pa && !linkCarries .reduce aop size then (s, .error (cAccess, 0x45))
    else (launchEng e .reduce aop bf p.pa p.phys ea (bytesOf size x) s, .ok ())
def engReduce (e : Engine) (tsp : Bool) (ea : U64) (aop size : Nat) (bf : Bool) (x : Nat) (s : State) : State × Except Bad Unit :=
  match engPlace e tsp true ea size s with
  | (s, .error b) => (s, .error b)
  | (s, .ok spot) => engReduceAt e spot ea aop size bf x s

/-- The offset in a team's allocation of what a failing range of it met first (R322, R354). -/
def badAddr (t : Team) (a n : Nat) (s : State) : Nat :=
  match s.badFirst a n with | some (u, _) => max a u.1 - t.origin | none => a - t.origin
/-- n bytes of a team's scratchpad part, by offset, through a swizzle that keeps 8-byte units whole. -/
def sideRead (t : Team) (span off n : Nat) (s : State) : Except Bad (List Byte) :=
  let a := t.origin + swizzle span off
  match s.readBad a n with
  | some d => .error (cMemerr, d.toNat)
  | none => .ok (s.getBytes a n)
/-- Data of a core's memories that an engine could not correct is counted and logged (R50, R52, R57). -/
def meetBad (die : Nat) (no : BitVec 7) (s : State) : State := logOwn die (2 ^ 44) 1 0 no s
def sideWrite (t : Team) (span off : Nat) (bs : List Byte) (no : BitVec 7) (s : State) : State × Except Bad Unit :=
  let (s, lost) := commit (t.origin + swizzle span off) bs no s
  (s, if lost then .error (cMemerr, 0x83) else .ok ())

-- Moving a box.

/-- Why a transfer stopped: the element, STATUS and DETAIL of its record, and the address. -/
structure Halted where
  cursor : Nat
  cause : Nat
  detail : Nat
  addr : U64
deriving DecidableEq, Repr

/-- A transfer under way: how far it has come, the bytes that it has written now, why it stopped, or that it waits; and how far it had come
before an element whose write is not acknowledged. -/
structure Moving where
  s : State
  p : Progress
  wrote : Nat
  halt : Option Halted
  wait : Bool
  before : Option Progress

/-- Source bytes covered by the CRC, each once (R396). -/
def Moving.cover (m : Moving) (a : U64) (bs : List Byte) : Moving :=
  let new := bs.zipIdx.filter fun b => !m.p.seen.contains (a + BitVec.ofNat 64 b.2)
  { m with p := { m.p with crc := crcRun m.p.crc (new.map (·.1)), seen := m.p.seen ++ new.map fun b => a + BitVec.ofNat 64 b.2 } }
/-- The metadata of a row follows its stored values (R315). -/
def Moving.endRow (m : Moving) : Moving :=
  let m' := m.p.rowMeta.foldl (fun (m : Moving) e => m.cover e.1 [e.2]) m
  { m' with p := { m'.p with rowMeta := [] } }
/-- Bytes written at a key, for the destination CRC; a byte that several elements share counts once (R395). -/
def Moving.put (m : Moving) (a : Nat) (bs : List Byte) (s : State) : Moving :=
  let new := (List.range bs.length).filter fun i => !m.p.out.any (·.1 == a + i)
  { m with
    s
    wrote := m.wrote + new.length
    p := { m.p with out := bs.zipIdx.foldl (fun (o : SMap Byte) b => SMap.insert o (a + b.2) b.1) m.p.out } }
def Moving.fail (m : Moving) (n : Nat) (b : Bad) (a : U64) (s : State) : Moving := { m with s, halt := some ⟨n, b.1, b.2, a⟩ }

/-- n bits from bit b of some bytes (R223). -/
def bitsAt (bs : List Byte) (b n : Nat) : Nat := ofBytes bs / 2 ^ b % 2 ^ n
/-- The bytes with n bits from bit b replaced. -/
def withBits (bs : List Byte) (b n v : Nat) : List Byte :=
  let x := ofBytes bs
  bytesOf bs.length (x - x / 2 ^ b % 2 ^ n * 2 ^ b + v % 2 ^ n * 2 ^ b)
/-- The bytes that w bits from bit b lie in. -/
def spanBytes (b w : Nat) : Nat := (b + w + 7) / 8

/-- A bit field of a tensor row: its bytes, read. -/
def readCell (e : Engine) (tsp : Bool) (row : U64) (w : Nat) (x : Int) (s : State) : State × Except (Bad × U64) (Nat × U64 × List Byte) :=
  let (a, b) := cellAddr row w x
  let n := spanBytes b w
  if n = 2 && w < 8 then
    match engRead e tsp a 1 s with
    | (s, .error f) => (s, .error (f, a))
    | (s, .ok lo) =>
      match engRead e tsp (a + 1) 1 s with
      | (s, .error f) => (s, .error (f, a + 1))
      | (s, .ok hi) => (s, .ok (bitsAt (lo ++ hi) b w, a, lo ++ hi))
  else
    match engRead e tsp a n s with
    | (s, .error f) => (s, .error (f, a))
    | (s, .ok bs) => (s, .ok (bitsAt bs b w, a, bs))

/-- The table slot that element n of a codebook transfer uses (R394). -/
def State.slotOf (s : State) (core : Nat) (k : Desc) (n : Nat) : Slot :=
  ((s.core core).slots[(kTslot k + n / 128) % 4]?).getD ⟨false, []⟩
/-- The value of an in-bounds source element in a tensor, after expansion, with its format (R314 to R316). An index beyond the eight
entries of a table, which only a format other than CB3 has, gives a free value. DESIGN CHOICE [12]. -/
def readElem (e : Engine) (k : Desc) (c : List U64) (core n : Nat) (m : Moving) : Moving × Nat :=
  let e := { e with nt := kNtemp k }
  let ix := boxIx k n
  let row := rowAddr k c ix
  let w := fmtWidth (kTfmt k)
  let x := tcoord c ix 0
  if kSparse k then
    let g := x / 4
    let (ma, _) := cellAddr row 8 (g / 2)
    let ma := ma + kMeta k
    match engRead e (kTsp k) ma 1 m.s with
    | (s, .error b) => (m.fail n b ma s, 0)
    | (s, .ok mb) =>
      let nib := bitsAt mb (4 * (g % 2).toNat) 4
      let p := nib % 4
      let q := nib / 4
      if q ≤ p then (m.fail n (cCopy, 0xE9) ma s, 0)
      else
        match readCell e (kTsp k) row w (2 * g) s with
        | (s, .error b) => (m.fail n b.1 b.2 s, 0)
        | (s, .ok (v1, a1, b1)) =>
          match readCell e (kTsp k) row w (2 * g + 1) s with
          | (s, .error b) => (m.fail n b.1 b.2 s, 0)
          | (s, .ok (v2, a2, b2)) =>
            let m := ({ m with s := s }.cover a1 b1).cover a2 b2
            let m := if m.p.rowMeta.any (·.1 == ma) then m
              else { m with p := { m.p with rowMeta := m.p.rowMeta ++ [(ma, (mb[0]?).getD 0)] } }
            (m, if (x % 4).toNat = p then v1 else if (x % 4).toNat = q then v2 else 0)
  else
    match readCell e (kTsp k) row w x m.s with
    | (s, .error b) => (m.fail n b.1 b.2 s, 0)
    | (s, .ok (v, a, bs)) =>
      let m := { m with s := s }.cover a bs
      if !kCb k then (m, v)
      else if 8 ≤ v then ({ m with s := m.s.useFree 1 }, m.s.free.toNat % 65536)
      else (m, ofBytes ((((m.s.slotOf core k n).data).drop (2 * v)).take 2))

/-- A value written to an element of a tensor, or reduced into it (R319). -/
def writeElem (e : Engine) (k : Desc) (c : List U64) (ix : List Nat) (rop : Nat) (n v : Nat) (m : Moving) : Moving :=
  let e := { e with nt := kNtemp k }
  let w := fmtWidth (kTfmt k)
  let (a, b) := cellAddr (rowAddr k c ix) w (tcoord c ix 0)
  if rop ≠ 0 then
    match engReduce e (kTsp k) a (ropAop rop (kTfmt k)) (w / 8) (kTfmt k == 1) v m.s with
    | (s, .error f) => m.fail n f a s
    | (s, .ok _) => m.put a.toNat (bytesOf (w / 8) v) s
  else if w < 8 then
    match engRead e (kTsp k) a 1 m.s with
    | (s, .error f) => m.fail n f a s
    | (s, .ok old) =>
      let bs := withBits old b w v
      match engWrite e (kTsp k) a bs s with
      | (s, .error f) => m.fail n f a s
      | (s, .ok _) => m.put a.toNat bs s
  else
    let bs := bytesOf (w / 8) v
    match engWrite e (kTsp k) a bs m.s with
    | (s, .error f) => m.fail n f a s
    | (s, .ok _) => m.put a.toNat bs s

/-- An element of the box on the scratchpad side, read through swizzle and XPOSE: its value, its offset and its bytes. -/
def sideElem (k : Desc) (t : Team) (off : Nat) (ix : List Nat) (s : State) : Except (Bad × Nat) (Nat × Nat × List Byte) :=
  let w := fmtWidth (kBfmt k)
  let b := sideIx k ix * w
  let o := off + b / 8
  match sideRead t (swzSpan (kSwz k)) o ((w + 7) / 8) s with
  | .error f => .error (f, badAddr t (t.origin + swizzle (swzSpan (kSwz k)) o) ((w + 7) / 8) s)
  | .ok bs => .ok (bitsAt bs (b % 8) w, o, bs)
/-- A value written to an element of the box on the scratchpad side of several teams; the bytes count once (R318). -/
def sidePut (e : Engine) (k : Desc) (ts : List Team) (off : Nat) (ix : List Nat) (n v : Nat) (m : Moving) : Moving :=
  let w := fmtWidth (kBfmt k)
  let b := sideIx k ix * w
  let o := off + b / 8
  let span := swzSpan (kSwz k)
  let one := fun (m : Moving) (t : Team × Nat) =>
    if m.halt.isSome then m
    else
      let old := m.s.getBytes (t.1.origin + swizzle span o) ((w + 7) / 8)
      let bs := if w < 8 then withBits old (b % 8) w v else bytesOf (w / 8) v
      match sideWrite t.1 span o bs e.no m.s with
      | (s, .error f) => m.fail n f (BitVec.ofNat 64 (badAddr t.1 (t.1.origin + swizzle span o) bs.length s)) s
      | (s, .ok _) => if t.2 = 0 then m.put (swizzle span o) bs s else { m with s }
  let w0 := m.wrote
  let m := ts.zipIdx.foldl one m
  { m with wrote := w0 + (m.wrote - w0) * ts.length }

/-- One element of a transfer (R314, R317, R319, R320). -/
def moveElem (e : Engine) (x : Xfer) (ts : List Team) (m : Moving) : Moving :=
  let k := x.desc
  let n := m.p.n
  let ix := boxIx k n
  let src := if kCb k then (1 : BitVec 6) else kTfmt k
  let ea := (cellAddr (rowAddr k x.coord ix) (fmtWidth (kTfmt k)) (tcoord x.coord ix 0)).1
  match x.kind with
  | .st =>
    if !elemIn k x.coord ix then (if kFill k = 2 then m.fail n (cCopy, 0xE8) ea m.s else m)
    else
      match sideElem k ((ts[0]?).getD Team.absent) x.off ix m.s with
      | .error f => m.fail n f.1 (BitVec.ofNat 64 f.2) (meetBad e.die e.no m.s)
      | .ok (v, o, bs) => (writeElem e k x.coord ix x.rop.toNat n (convChain k (kBfmt k) (kTfmt k) v) m).cover (BitVec.ofNat 64 o) bs
  | .cp =>
    let dst := kTfmt x.desc2
    let ix2 := if kXpose k then [ixAt ix 1, ixAt ix 0] ++ ix.drop 2 else ix
    let out := fun (v : Nat) (m : Moving) =>
      if elemIn x.desc2 x.coord2 ix2 then writeElem e x.desc2 x.coord2 ix2 x.rop.toNat n v m
      else if kFill x.desc2 = 2 then
        m.fail n (cCopy, 0xE8) (cellAddr (rowAddr x.desc2 x.coord2 ix2) (fmtWidth dst) (tcoord x.coord2 ix2 0)).1 m.s
      else m
    if !elemIn k x.coord ix then
      (if kFill k = 2 then m.fail n (cCopy, 0xE8) ea m.s else out (fillValue k dst) m)
    else
      let (m', v) := readElem e k x.coord x.core n m
      if m'.halt.isSome then m' else out (convChain k src dst v) m'
  | _ =>
    if !elemIn k x.coord ix then
      (if kFill k = 2 then m.fail n (cCopy, 0xE8) ea m.s else sidePut e k ts x.off ix n (fillValue k (kBfmt k)) m)
    else
      let (m', v) := readElem e k x.coord x.core n m
      if m'.halt.isSome then m' else sidePut e k ts x.off ix n (convChain k src (kBfmt k) v) m'

/-- The teams whose scratchpad a transfer reads or writes: the target, or the members of a multicast (R318). -/
def State.xferTeams (s : State) (x : Xfer) : List Team :=
  if x.mc then ((s.team x.target).unit.zipIdx.filter fun m => bit x.mask m.2).map fun m => s.team m.1 else [s.team x.target]
/-- The engine of a transfer. -/
def State.xferEngine (s : State) (x : Xfer) : Engine :=
  ⟨x.die, some x.core, (s.grid x.grid).ctx, x.grid, BitVec.ofNat 7 (if x.drover then 64 + (x.agentNo - 64) / 4 else x.core % 64), x.sdie,
    x.id, false⟩
/-- The checks of a box before its first element (R315, R394). -/
def boxStart (k : Desc) (c : List U64) : Option Bad :=
  if kSparse k && coordOf c 0 % 4 != 0 then some (cCopy, 0xE9)
  else if kCb k && coordOf c 0 % 128 != 0 then some (cCopy, 0xEA)
  else none
/-- The bytes, by destination address, that element n of a transfer writes (R396). -/
def Xfer.writesAt (x : Xfer) (n : Nat) : List Nat :=
  let k := x.desc
  let ix := boxIx k n
  let tensor := fun (k : Desc) (c : List U64) (ix : List Nat) =>
    if !elemIn k c ix then []
    else
      let w := fmtWidth (kTfmt k)
      let a := (cellAddr (rowAddr k c ix) w (tcoord c ix 0)).1
      (List.range ((w + 7) / 8)).map fun i => (a + BitVec.ofNat 64 i).toNat
  match x.kind with
  | .st => tensor k x.coord ix
  | .cp => tensor x.desc2 x.coord2 (if kXpose k then [ixAt ix 1, ixAt ix 0] ++ ix.drop 2 else ix)
  | _ =>
    let w := fmtWidth (kBfmt k)
    let o := swizzle (swzSpan (kSwz k)) (x.off + sideIx k ix * w / 8)
    (List.range ((w + 7) / 8)).map fun i => o + i
/-- The bytes that element n of a transfer reads at its source, as its CRC covers them (R315, R396). -/
def Xfer.readsAt (x : Xfer) (n : Nat) : List U64 :=
  let k := x.desc
  let ix := boxIx k n
  if !elemIn k x.coord ix then []
  else if x.kind == .st then
    let w := fmtWidth (kBfmt k)
    (List.range ((w + 7) / 8)).map fun i => BitVec.ofNat 64 (x.off + sideIx k ix * w / 8 + i)
  else
    let w := fmtWidth (kTfmt k)
    let row := rowAddr k x.coord ix
    let c := tcoord x.coord ix 0
    let cell := fun (c : Int) => let (a, b) := cellAddr row w c; (List.range (spanBytes b w)).map fun i => a + BitVec.ofNat 64 i
    if kSparse k then cell (2 * (c / 4)) ++ cell (2 * (c / 4) + 1) ++ [(cellAddr row 8 (c / 4 / 2)).1 + kMeta k] else cell c
/-- The addresses that the elements below a cursor write, ascending. -/
def Xfer.span (x : Xfer) (n : Nat) : List Nat :=
  (((List.range n).flatMap x.writesAt).foldl (fun (m : SMap Nat) a => SMap.insert m a 0) []).map (·.1)
/-- A walker stops for a cut before element n: no byte of the destination, and no row of a sparse tensor, is left half done (R140).
DESIGN CHOICE [100]. -/
def Xfer.stopsAt (x : Xfer) (n : Nat) : Bool :=
  let w := if x.kind == .st then fmtWidth (kTfmt x.desc) else if x.kind == .cp then fmtWidth (kTfmt x.desc2) else fmtWidth (kBfmt x.desc)
  boxCount x.desc ≤ n || ((!kSparse x.desc || n % kBox x.desc 0 = 0) &&
    (8 ≤ w || (List.range (boxCount x.desc - n)).all fun i => (x.writesAt (n + i)).all fun a => !(x.span n).contains a))
/-- A transfer decodes codebook blocks. -/
def Xfer.usesTables (x : Xfer) : Bool := kCb x.desc && x.kind != .st && x.kind != .table
/-- The slot of the block at hand is EMPTY: the walker waits for it (R394). -/
def State.slotDue (s : State) (x : Xfer) (n : Nat) : Bool :=
  x.usesTables && n < boxCount x.desc && coordOf x.coord 0 % 128 == 0 && !(s.slotOf x.core x.desc n).full
/-- The walker has read the last entry of a block: its slot is EMPTY (R394). -/
def emptySlot (x : Xfer) (n : Nat) (s : State) : State :=
  if !x.usesTables || (n + 1) % 128 ≠ 0 then s
  else
    let c := s.core x.core
    let q := (kTslot x.desc + n / 128) % 4
    s.setCore x.core { c with slots := c.slots.set q { ((c.slots[q]?).getD ⟨false, []⟩) with full := false } }
/-- Elements of a transfer in source traversal order: `fuel` of them, up to the one that stops it, that must wait, or whose write is not
acknowledged (R142, R322). An element's read comes before its write and after the writes of the elements before it; where elements meet, the
manual leaves both open. DESIGN CHOICE [99]. -/
def moveSome (fuel : Nat) (e : Engine) (x : Xfer) (ts : List Team) (m : Moving) : Moving :=
  match fuel with
  | 0 => m
  | k + 1 =>
    let n := m.p.n
    if m.halt.isSome || m.wait || boxCount x.desc ≤ n then m
    else if m.s.slotDue x n then { m with wait := true }
    else
      let m' := moveElem e x ts m
      match m'.halt with
      | some h => if (h.cause, h.detail) = notYet then { m with s := m'.s, wait := true } else { m with s := m'.s, halt := some h }
      | none =>
        let m' := { m' with p := { m'.p with n := n + 1 } }
        let m' := if (n + 1) % kBox x.desc 0 = 0 then m'.endRow else m'
        let m' := { m' with s := emptySlot x n (dropReads x.id m'.s) }
        if (m'.s.engDue x.id).isEmpty then moveSome k e x ts m' else { m' with before := some m.p, wait := true }
/-- A transfer goes on by at most `fuel` elements: first the write that it awaits, which, where it was dropped, ends it at its element
(R53, R322). -/
def moveOn (fuel : Nat) (x : Xfer) (s : State) : Moving :=
  let due := s.engDue x.id
  let m : Moving := ⟨s, x.prog, 0, none, false, none⟩
  if due.any (!·.isOver) then { m with wait := true, before := x.before }
  else
    let clean := { s with ops := s.ops.filter fun o => !(o.eng == some x.id && o.kind != .load) }
    match failedPart due, x.before with
    | some (d, ea), p0 =>
      let p := p0.getD x.prog
      { m with s := clean, p := p, halt := some ⟨p.n, cMemerr, d.toNat, ea⟩ }
    | none, _ =>
      match if x.prog.n = 0 then boxStart x.desc x.coord else none with
      | some b =>
        { m with s := clean }.fail 0 b
          (cellAddr (rowAddr x.desc x.coord [0, 0, 0, 0, 0]) (fmtWidth (kTfmt x.desc)) (coordOf x.coord 0)).1 clean
      | none => moveSome fuel (s.xferEngine x) x (s.xferTeams x) { m with s := clean }
/-- What a transfer has done is kept. -/
def keepMoving (x : Xfer) (m : Moving) : State :=
  let x' := { x with prog := m.p, before := m.before }
  let s := if m.wrote = 0 then m.s else m.s.count (rCore x.core 0x48) m.wrote
  { s with eng := { s.eng with xfers := updFirst (·.id == x.id) (fun _ => x') s.eng.xfers } }

-- The end of an operation.

/-- A missed deadline is counted and traced (R411, R450). -/
def deadlineMiss (die : Nat) (deadline : U64) (issuer : Nat) (s : State) : State :=
  if s.gt ≤ deadline then s
  else trace die 64 6 0 issuer s.gt.toNat 0 deadline.toNat (s.count (rSched die 0x10) 1)
/-- An agent, also one that is saved with its team. -/
def State.anyAgent (s : State) (id : Nat) : Option Agent :=
  match s.agent? id with
  | some a => some a
  | none => s.teams.findSome? fun t => t.saved.find? (·.id == id)
/-- The ID of the agent at issue in a trace record (R449). -/
def State.issuerId (s : State) : Nat := (if s.g.drover then s.g.coreReg else s.gangid s.g).toNat
/-- A fault that a wait will report; nobody waits any more when the agent is gone (R322, R354). -/
def reportTo (id grid : Nat) (f : EngFault) (s : State) : State :=
  match s.agent? id with
  | some a => s.setAgent { a with engFaults := a.engFaults ++ [f] }
  | none =>
    if (s.anyAgent id).isSome then
      { s with teams := s.teams.map fun t => { t with saved := updAll (·.id == id) (fun a => { a with engFaults := a.engFaults ++ [f] }) t.saved } }
    else gridFault grid (if f.mat then 0x41 else 0x40) s

/-- The report of a copy's fault (R322). -/
def copyFault (x : Xfer) (h : Halted) : EngFault where
  mat := false
  batch := if x.drover then some x.seq else x.batch
  detail := BitVec.ofNat 8 (if h.cause = cCopy then h.detail else 0xEB)
  under := if h.cause = cCopy then 0 else BitVec.ofNat 8 h.cause
  info := if h.cause = cCopy then 0 else BitVec.ofNat 16 h.detail
  addr := h.addr
  order := x.order

/-- The CRC, not yet inverted, of the bytes at some addresses, those not written being zero: by its linearity the sum of two of them
is that of the bytes of both. -/
def spanCrc (init : Nat) (ads : List Nat) (out : SMap Byte) : Nat := crcRun init (ads.map fun a => ((out.find? (·.1 == a)).map (·.2)).getD 0)
/-- The running destination CRC that a snapshot records (R396): over every address that the transfer will write. -/
def Xfer.dstRun (x : Xfer) : Nat :=
  let ads := x.span (boxCount x.desc)
  match x.base with
  | none => spanCrc 0xFFFFFFFF ads x.prog.out
  | some b => Nat.xor b.1 (spanCrc 0 ads x.prog.out)
/-- The running CRC before the last bit, and before n zero bytes: the polynomial has its top bit set, so each step goes back one way. -/
def crcBack (c : Nat) : Nat := if c.testBit 31 then 2 * Nat.xor c 0x82F63B78 + 1 else 2 * c
def crcUnrun (n c : Nat) : Nat := (List.range (8 * n)).foldl (fun c _ => crcBack c) c
/-- The destination CRC of a transfer that has ended (R321, R396). That of a restored transfer continues from the recorded value, which
covers the bytes written before the cut and zeros for the others of the box. Where it then faults, and those bytes are the first of the box
in ascending order, the zeros are taken off again and the bytes written since follow; where later bytes come between earlier ones, the recorded
value no longer determines the CRC: it is free. DESIGN CHOICE [100]. -/
def Xfer.dstCrc (x : Xfer) (m : Moving) : Nat :=
  let x := { x with prog := m.p }
  match x.base, m.halt with
  | none, _ => crcEnd (crcRun 0xFFFFFFFF (m.p.out.map (·.2)))
  | some _, none => crcEnd x.dstRun
  | some b, some _ =>
    let old := x.span b.2
    let all := x.span (boxCount x.desc)
    if (all.take old.length == old) && m.p.out.all fun w => !old.contains w.1 then
      crcEnd (crcRun (crcUnrun (all.length - old.length) b.1) (m.p.out.map (·.2)))
    else (lo32 m.s.free).toNat
/-- The completion record of a copy (R321). -/
def recordBytes (x : Xfer) (m : Moving) : List Byte :=
  let k := if x.kind == .cp then x.desc2 else x.desc
  let dst := if kDcrc k then x.dstCrc m else 0
  let h := m.halt.getD ⟨boxCount x.desc, 0, 0, 0⟩
  bytesOf 4 (crcEnd m.endRow.p.crc) ++ bytesOf 4 dst ++ bytesOf 4 (h.cause % 256 + h.detail % 256 * 256) ++ bytesOf 4 h.cursor

/-- BAREN and the barrier's offset (R311). -/
def Xfer.barrier (x : Xfer) : Option Nat :=
  let w := (x.coord[2]?).getD 0
  if bit w 63 then some (w.extractLsb' 32 24).toNat else none

/-- A transfer has ended: its locks are released, its record is written, its barriers receive their arrivals, its fault waits
to be reported (R80, R318, R321, R322, R411). -/
def endXfer (x : Xfer) (m : Moving) (s : State) : State :=
  let s := unlock x.id { s with eng := { s.eng with xfers := s.eng.xfers.filter (·.id != x.id) } }
  let c := s.core x.core
  let s := s.setCore x.core { c with running := none }
  let s := dropReads x.id (if x.base.isSome && m.halt.isSome then s.useFree 1 else s)
  let s := if m.wrote = 0 then s else s.count (rCore x.core 0x48) m.wrote
  let s := if kRecen x.desc then owe x.target (.record (kRecoff x.desc) (recordBytes x m)) (s.count (rCore x.core 0x48) 16) else s
  let s := match x.barrier with
    | some o => ((s.xferTeams x).map (·.id)).foldl (fun s t => owe t (.arrive o 1) s) s
    | none => s
  let s := match m.halt with | some h => reportTo x.agent x.grid (copyFault x h) s | none => s
  reapTeams (deadlineMiss x.die x.deadline x.issuer s)

end Sys2Proof.Machine
end

