-- ==== Sys2Proof/Machine/Box.lean ====
section
/-!
DEFINITION. Descriptor registers, box copies and counted barriers (R306 to R331, R373).
-/
namespace Sys2Proof.Machine

-- Descriptors (R308, R309).

/-- A descriptor register given a value. -/
def setK (d : BitVec 4) (v : Desc) (s : State) : State := { s with g := s.g.kset d.toNat v }
/-- A new value of a descriptor register: an invalid one leaves it unchanged and traps (R308). -/
def validK (h : Hint) (d : BitVec 4) (v : Desc) (s : State) : State :=
  match descFails v with
  | p :: _ => raise (rep cIllegal 0xA2 (s.lanes &&& s.g.live) 0 (BitVec.ofNat 64 p)) s
  | [] => retire h (setK d v s)
/-- The form of a gang-uniform access, for the counters (R305). -/
def plainForm (k : MemKind) : Form := ⟨k, 1, 8, false, false, 0, false, false, 0, false, .none, true⟩
/-- KSET (R305, R308). -/
def execKset (h : Hint) (space : BitVec 3) (d : BitVec 4) (a : Reg) (s : State) : Answer :=
  let ea := s.sr a
  .next (if s.act h = 0 then retire h s
    else if ea.toNat % 64 ≠ 0 then raise (rep cAlign 0x50 s.before ea 0) s
    else if s.countersFull (plainForm .load) then stall s
    else
      match inlineRead space.toNat 8 ((List.range 8).map fun i => (i, ea + BitVec.ofNat 64 (8 * i))) s with
      | (.wait, s) => stall s
      | (.bad t, s) => raise { t with mask := s.before, addr := ea } s
      | (.ok vs, s) => validK h d (BitVec.ofNat 512 (sumNat (vs.map fun v => v.2.toNat * 2 ^ (64 * v.1)))) s)
/-- KMOD (R309). -/
def execKmod (h : Hint) (j : BitVec 3) (d : BitVec 4) (a : Reg) (s : State) : Answer :=
  let p := 64 * j.toNat
  let old := (s.g.kget d.toNat).toNat
  .next (if s.act h = 0 then retire h s
    else validK h d (BitVec.ofNat 512 (old - old / 2 ^ p % 2 ^ 64 * 2 ^ p + (s.sr a).toNat * 2 ^ p)) s)

-- Box copies (R310 to R320).

/-- The deadline of an engine operation (R410). -/
def State.deadlineOf (s : State) (grid : Nat) (named : U64) : U64 :=
  let g := (s.grid grid).rc.deadline
  if named != 0 then named else if g != 0 then g else s.gt + 1000000
/-- What an issued transfer is before its checks. -/
def State.newXfer (s : State) (kind : XferKind) (target : Nat) (core : Nat) (k k2 : Desc) (off : Nat) (co co2 : List U64) : Xfer where
  id := s.serial
  kind := kind
  agent := s.g.id
  drover := s.g.drover
  team := target
  grid := s.g.grid
  die := s.g.die
  core := core
  sdie := s.g.die
  desc := k
  desc2 := k2
  coord := co
  coord2 := co2
  off := off
  target := target
  mc := false
  mask := 0
  rop := 0
  batch := none
  seq := 0
  deadline := s.deadlineOf s.g.grid s.g.deadline
  gtIssue := s.gt
  order := s.serial
  agentNo := if s.g.drover then 64 + s.g.idx else s.g.core
  accepted := false
  locked := false
  prog := Progress.start
  before := none
  base := none
  issuer := s.issuerId
  space := 0
  slot := 0

/-- The formats that reduce-on-store accepts (R312). -/
def isRopFmt (c : BitVec 6) : Bool := c == 0x35 || c == 0x36 || c.toNat ≤ 2
/-- Steps 1 to 3 of R312: the detail of the ILLEGAL trap. -/
def copyIllegal (x : Xfer) : Option Nat :=
  let k := x.desc
  let dst := if x.kind == .cp then x.desc2 else k
  let swap := fun (i : Nat) => if kXpose k && i < 2 then 1 - i else i
  if k == 0 || (x.kind == .cp && x.desc2 == 0) then some 0xAC
  else if x.kind == .st && (kSparse k || kCb k || kTfmt k == 0x38) then some 0xA2
  else if x.kind == .cp && (kSwz k != 0 || kSwz dst != 0 || kSparse dst || kCb dst || kTfmt dst == 0x38 || kRank k != kRank dst ||
      (List.range 5).any fun i => kBox k (swap i) != kBox dst i) then some 0xA2
  else if x.rop != 0 && !isRopFmt (kTfmt dst) then some 0xA2
  else none
/-- The scratchpad offsets of a transfer that must be multiples of 16 (R312): the box, the record, the barrier. -/
def Xfer.offsets (x : Xfer) : List Nat :=
  (if x.kind == .cp then [] else [x.off]) ++ (if kRecen x.desc then [kRecoff x.desc] else []) ++ x.barrier.toList
/-- A scratchpad range of a transfer that does not lie inside the scratchpad part (R312, step 6): its first offset. -/
def Xfer.outside (x : Xfer) (scratch : Nat) : Option Nat :=
  let r := widenTo (swzSpan (kSwz x.desc)) x.off (boxBytes x.desc)
  if x.kind != .cp && scratch < r.2 then some x.off
  else (x.offsets.drop (if x.kind == .cp then 0 else 1)).find? fun o => scratch < o + 16
/-- The range lock of a transfer in a team's allocation, by pool offset (R78). -/
def Xfer.lockOf (x : Xfer) (t : Team) : List (Nat × Lock) :=
  if x.kind == .cp then []
  else
    let r := lockRange (swzSpan (kSwz x.desc)) x.off (boxBytes x.desc)
    [(t.die * 64 + t.core, ⟨x.id, x.kind == .ld, t.base + r.1, t.base + r.2⟩)]
/-- Every core has room for its entries (R80). -/
def State.lockRoom (s : State) (ls : List (Nat × Lock)) : Bool :=
  ls.all fun e => (s.core e.1).locks.length + (ls.filter (·.1 == e.1)).length ≤ 32
def register (ls : List (Nat × Lock)) (s : State) : State :=
  ls.foldl (fun s e => let c := s.core e.1; s.setCore e.1 { c with locks := c.locks ++ [e.2] }) s

/-- The lock table of a core is full: the cycle is counted, once for a gang, at the core of its word, also where a multicast finds the table of
another core full (R64, R80). DESIGN CHOICE [107]. -/
def locksFull (core : Nat) (s : State) : State :=
  if s.did (onceLocks s.g.id) then s else (s.once (onceLocks s.g.id)).count (rCore core 0x30) 1
/-- A box copy of a gang at issue (R310 to R312): its checks, its release, its place in the queue. -/
def boxIssue (h : Hint) (scope : BitVec 3) (x : State → Xfer) (s : State) : State :=
  whole (fun s =>
    if s.act h = 0 then retire h s
    else
      let x := x s
      let bad := fun (c d : Nat) (a : Nat) => raise (rep c d s.before (BitVec.ofNat 64 a) 0) s
      match copyIllegal x with
      | some d => illegal d s
      | none =>
        match x.offsets.find? (· % 16 != 0) with
        | some o => bad cAlign 0x50 o
        | none =>
          if x.mc && (x.mask = 0 || x.mask.toNat ≥ 2 ^ s.rc.members) then bad cCluster 0x71 0
          else
            match x.outside s.rc.scratch with
            | some o => bad cSpace 0x60 o
            | none =>
              released scope.toNat (fun s =>
                let ls := (s.xferTeams x).flatMap x.lockOf
                let c := s.core x.core
                if 32 ≤ (s.eng.xfers.filter fun y => y.agent == s.g.id && !y.drover).length || 64 ≤ c.queue.length then stall s
                else if !s.lockRoom ls then stall (locksFull x.core s)
                else
                  let s := register ls (s.setCore x.core { c with queue := c.queue ++ [x.id] })
                  retire h { s with
                    serial := s.serial + 1
                    eng := { s.eng with xfers := s.eng.xfers ++ [{ x with accepted := true, locked := true }] } }) s) s

/-- The three words of a coordinate triple (R311). -/
def State.triple (s : State) (b : Reg) : List U64 := [s.sr b, s.sr (b + 1), s.sr (b + 2)]
/-- BOX.LD (R310 to R318). -/
def execBoxLd (h : Hint) (mc : Bool) (m : BitVec 7) (scope : BitVec 3) (d : Reg) (a : BitVec 4) (b : Reg) (s : State) : Answer :=
  .next (boxIssue h scope (fun s =>
    { s.newXfer .ld s.g.team s.g.coreNo (s.g.kget a.toNat) 0 (s.sr d).toNat (s.triple b) [] with
      mc := mc, mask := if mc then s.sr (m.setWidth 8) else 0 }) s)
/-- BOX.ST (R310 to R319). -/
def execBoxSt (h : Hint) (rop : BitVec 2) (scope : BitVec 3) (d : Reg) (a : BitVec 4) (b : Reg) (s : State) : Answer :=
  .next (boxIssue h scope (fun s =>
    { s.newXfer .st s.g.team s.g.coreNo (s.g.kget a.toNat) 0 (s.sr d).toNat (s.triple b) [] with rop := rop }) s)
/-- BOX.CP (R310 to R320). -/
def execBoxCp (h : Hint) (kdst : BitVec 4) (rop : BitVec 2) (scope : BitVec 3) (d : Reg) (a : BitVec 4) (b : Reg) (s : State) : Answer :=
  .next (boxIssue h scope (fun s =>
    { s.newXfer .cp s.g.team s.g.coreNo (s.g.kget a.toNat) (s.g.kget kdst.toNat) 0 (s.triple b) (s.triple d) with rop := rop }) s)

-- Batches (R323, R324, R351, R352).

/-- Batch b is covered by a wait for n (R324). -/
def covered (n : U32) (b : Option U32) : Bool := match b with | some b => (n - b).toNat < 2 ^ 31 | none => false
/-- The report of the oldest of some faults (R322, R354). -/
def faultReport (cause : Nat) (live : U64) (fs : List EngFault) : TrapRegs :=
  match fs with
  | [] => rep 0 0 0 0 0
  | f :: r =>
    let old := r.foldl (fun (m : EngFault) x => if x.order < m.order then x else m) f
    rep cause old.detail.toNat live old.addr
      ((old.batch.getD 0) ++ BitVec.ofNat 8 (min 255 fs.length) ++ old.under ++ old.info)
/-- A wait whose operations have completed: the acquire, then the report of their faults, each once (R113, R322, R354, R377). -/
def waitDone (h : Hint) (scope cause : Nat) (p : EngFault → Bool) (s : State) : State :=
  let s := acquired s.g scope s
  let fs := s.g.engFaults.filter p
  let s := { s with g := { s.g with engFaults := s.g.engFaults.filter fun f => !p f } }
  if fs.isEmpty then retire h s else raiseAfter (faultReport cause s.g.live fs) [] s

/-- CPFENCE (R323). -/
def execCpfence (h : Hint) (s : State) : Answer :=
  .next (retire h (uniform h (fun s =>
    let n := s.g.cbatch + 1
    let close := fun (x : Xfer) => if x.agent == s.g.id && !x.drover then { x with batch := some (x.batch.getD n) } else x
    let closeF := fun (f : EngFault) => if f.mat then f else { f with batch := some (f.batch.getD n) }
    { s with
      g := { s.g with cbatch := n, engFaults := s.g.engFaults.map closeF }
      eng := { s.eng with xfers := s.eng.xfers.map close } }) s))
/-- CPWAIT (R324). -/
def execCpwait (h : Hint) (scope : BitVec 3) (last : Bool) (a : Reg) (s : State) : Answer :=
  let n := if last then s.g.cbatch else lo32 (s.sr a)
  .next (if s.act h = 0 then retire h s
    else if s.eng.xfers.any fun x => x.agent == s.g.id && !x.drover && covered n x.batch then stall s
    else waitDone h scope.toNat cCopy (fun f => !f.mat && covered n f.batch) s)

-- Counted barriers (R326 to R331, R378).

/-- An access to a barrier: its checks (R25, R52, R79, R327), then f at its 16 bytes. Accesses of the agent to them that are still
on their way come first (R104). -/
def atBarrier (space : Nat) (write fresh : Bool) (ea : U64) (f : Nat → State → State) (s : State) : State :=
  let bad := fun (c d : Nat) => raise (rep c d s.before ea 0) s
  match s.localLoc s.g space (lowest s.before) ea 16 with
  | .bad b => bad b.1 b.2
  | .wait => stall s
  | .at_ k =>
    match if s.g.drover then none else s.locked write k 16 with
    | some b => bad b.1 b.2
    | none =>
      if s.ops.any fun o => o.agent == s.g.id && o.parts.any fun p => !p.st.isOver && meets (p.bytes o.size) (2 ^ 60 + k, 2 ^ 60 + k + 16) then
        stall s
      else
        match if fresh then none else s.readBad k 16 with
        | some d => bad cMemerr d.toNat
        | none => f k s
/-- The detail of BARBROKEN (R330). -/
def whyDetail (why : Nat) : Nat := if why = 0 then 0xE3 else 0xDF + why
/-- A wait at a barrier: it departs when the phase differs from the token, and reports a broken barrier; the first waiter among
the gangs of an aborted collective reports that instead (R330, R373, R378). -/
def barrierWait (h : Hint) (acq : Bool) (scope : Nat) (ea : U64) (token : Bool) (k : Nat) (s : State) : State :=
  let b := s.barrier k
  let acquire := fun (s : State) => if acq then acquired s.g scope s else s
  if b.broken then
    let s := acquire s
    let t := s.tm
    match t.aborts.find? fun x => t.origin + x.1 == k && x.2.contains s.g.id with
    | some x => raiseAfter (rep cColl 0xF0 s.before ea 0) [] (s.setTeam { t with aborts := t.aborts.erase x })
    | none => raiseAfter (rep cBar (whyDetail b.why) s.before ea 0) [] s
  else if b.phase != token then retire h (acquire s)
  else stall s

/-- CBAR.INIT: one store, that STCNT counts until it is performed, which is at once (R305, R328). -/
def execCbarInit (h : Hint) (space : BitVec 3) (_scope : BitVec 3) (a b : Reg) (s : State) : Answer :=
  let ea := s.sr a
  .next (if s.act h = 0 then retire h s
    else
      atBarrier space.toNat true true ea (fun k s =>
        let n := (lo32 (s.sr b)).toNat
        if n = 0 then illegal 0xAD s else if s.countersFull (plainForm .store) then stall s else retire h (commit k (bytesOf 16 n) s.g.logNo s).1) s)
/-- CBAR.ARR (R329). -/
def execCbarArr (h : Hint) (space : BitVec 3) (rel : Bool) (scope : BitVec 3) (d a b : Reg) (s : State) : Answer :=
  let ea := s.sr a
  .next (if s.act h = 0 then retire h s
    else
      (if rel then released scope.toNat else id) (atBarrier space.toNat true false ea (fun k s =>
        let n := (lo32 (s.sr b)).toNat
        let old : U64 := if (s.barrier k).phase then 1 else 0
        retire h (setS d.toNat old (barArrive k n s)))) s)
/-- CBAR.WAIT (R330). -/
def execCbarWait (h : Hint) (space : BitVec 3) (acq : Bool) (scope : BitVec 3) (a b : Reg) (s : State) : Answer :=
  let ea := s.sr a
  .next (if s.act h = 0 then retire h s
    else atBarrier space.toNat false false ea (fun k s => barrierWait h acq scope.toNat ea (bit (s.sr b) 0) k s) s)
/-- CBAR.TEST (R330). -/
def execCbarTest (h : Hint) (space : BitVec 3) (acq : Bool) (scope : BitVec 3) (d a b : Reg) (s : State) : Answer :=
  let ea := s.sr a
  .next (if s.act h = 0 then retire h s
    else
      atBarrier space.toNat false false ea (fun k s =>
        let x := s.barrier k
        let new := x.phase != bit (s.sr b) 0
        let s := if acq && new && !x.broken then acquired s.g scope.toNat s else s
        retire h (setS d.toNat (if x.broken then 2 else if new then 1 else 0) s)) s)

end Sys2Proof.Machine
end

