-- ==== Sys2Proof/Machine/Collective.lean ====
section
/-!
DEFINITION. COLL and COLL.STEP at issue, and what the collective engine does with chunks and votes (R369 to R372, R435 to R439).
-/
namespace Sys2Proof.Machine

-- Members and rings (R434, R435).

/-- The coordinate of member m in dimension d, and the extent of that dimension. -/
def ringPos (x : Nat × Nat × Nat) (m d : Nat) : Nat :=
  match d with | 0 => m % x.1 | 1 => m / x.1 % x.2.1 | _ => m / (x.1 * x.2.1)
def ringLen (x : Nat × Nat × Nat) (d : Nat) : Nat := match d with | 0 => x.1 | 1 => x.2.1 | _ => x.2.2
/-- The next member of m's ring along dimension d, in the + direction. -/
def ringNext (x : Nat × Nat × Nat) (m d : Nat) : Nat :=
  let w := match d with | 0 => 1 | 1 => x.1 | _ => x.1 * x.2.1
  let p := ringPos x m d
  m - p * w + (p + 1) % ringLen x d * w
/-- The last dimension whose extent exceeds 1. -/
def lastDim (x : Nat × Nat × Nat) : Option Nat := [2, 1, 0].find? fun d => 1 < ringLen x d

-- Shapes (R370, R371).

/-- The bytes of a buffer. -/
def bufferLen (k : Desc) : Nat := kExt k 0 * fmtWidth (kTfmt k) / 8
/-- A collective's descriptors pass R370, step 2, but for the module that they name. A .rs whose buffer does not divide among the
members fails here too. DEDUCED [14]. -/
def collShape (op : Nat) (inpl : Bool) (src dst : Desc) (m : Nat) : Bool :=
  let one := fun (k : Desc) => kRank k == 1 && kExt k 0 * fmtWidth (kTfmt k) % 2048 == 0
  let f := kTfmt src
  one src && (inpl || one dst) &&
  (2 ≤ op || ((f == 0 || f == 1 || f == 0x35) && (inpl || kTfmt dst == f))) &&
  (op != 1 || bufferLen src % (256 * m) == 0)

/-- The collective engine's accesses for an operation of a die and a grid, to a buffer. -/
def State.collEngine (s : State) (die grid op : Nat) (k : Desc) : Engine := ⟨die, none, (s.grid grid).ctx, grid, 73, die, op, kNtemp k⟩
/-- The base of a buffer lies in this module; none while its translation is being found. -/
def namesHere (k : Desc) (s : State) : State × Option Bool :=
  match engPlace (s.collEngine s.g.die s.g.grid 0 k) (kTsp k) false (kBase k) 1 s with
  | (s, .ok (.own _)) => (s, some true)
  | (s, .error b) => (s, if b = notYet then none else some false)
  | (s, _) => (s, some false)

-- The values of a collective.

/-- Chunks of the source, and of what this member receives (R435, R436). -/
def Coll.chunks (c : Coll) : Nat := if c.op = 4 then 1 else bufferLen c.src / 256
def Coll.total (c : Coll) (m : Nat) : Nat := if c.op = 2 then c.chunks * m else c.chunks
/-- A BF16 sum travels as FP32: two messages for each chunk (R435). -/
def Coll.wide (c : Coll) : Bool := c.op < 2 && c.tfmt = 1
def Coll.halves (c : Coll) : Nat := if c.wide then 2 else 1
/-- The bytes of one message. -/
def Coll.piece (c : Coll) : Nat := if c.op = 4 then 1 else 256
/-- Where the result goes. -/
def Coll.out (c : Coll) : Desc := if c.inpl then c.src else c.dst
/-- Keys of what is held: the value that enters phase p of chunk i, and one byte for each message of that phase received. -/
def inKey (p i : Nat) : Nat := p * 2 ^ 32 + i
def seenKey (p i : Nat) : Nat := (4 + p) * 2 ^ 32 + i
def Coll.at_ (c : Coll) (k : Nat) : List Byte := SMap.get [] c.held k
def Coll.put (c : Coll) (k : Nat) (bs : List Byte) : Coll := { c with held := SMap.set [] c.held k bs }

/-- A collective by its number, also one that has ended early and owes a write. -/
def State.coll? (s : State) (id : Nat) : Option Coll := (s.sys.colls ++ s.sys.ending).find? (·.id == id)
def putColl (c : Coll) (s : State) : State :=
  let put := fun (l : List Coll) => updFirst (·.id == c.id) (fun _ => c) l
  { s with sys := { s.sys with colls := put s.sys.colls, ending := put s.sys.ending } }

/-- Words of 32 bits of some bytes. -/
def wordsOf (n : Nat) (bs : List Byte) : List U32 := (List.range n).map fun i => BitVec.ofNat 32 (ofBytes ((bs.drop (4 * i)).take 4))
/-- Combine of R435 and R439: FP32, INT32, or the AND of votes. -/
def joinPartial (c : Coll) (acc own : List Byte) : List Byte :=
  if c.op = 4 then List.zipWith (· &&& ·) acc own
  else
    let f := fun (a b : U32) => if c.tfmt = 0x35 then a + b else BitVec.ofNat 32 (addF fp32 .rne (f32 a) (f32 b)).1
    (List.zipWith f (wordsOf 64 acc) (wordsOf 64 own)).flatMap le32
/-- BF16 elements as FP32, and back, rounded once (R435). -/
def widenChunk (c : Coll) (bs : List Byte) : List Byte :=
  if c.wide then (List.range 128).flatMap fun i => [0, 0, (bs[2 * i]?).getD 0, (bs[2 * i + 1]?).getD 0] else bs
def narrowChunk (c : Coll) (bs : List Byte) : List Byte :=
  if c.wide then (wordsOf 128 bs).flatMap fun x => bytesOf 2 (roundTo 1 (f32 x) .rne false 0).1 else bs

-- Memory of a collective (R436, R437).

/-- Bytes read in 8-byte words; or the fault that a word meets, or that it must wait. -/
def collRead (e : Engine) (k : Desc) (off n : Nat) (s : State) : State × Except Bad (List Byte) :=
  (List.range (n / 8)).foldl (fun (r : State × Except Bad (List Byte)) i =>
    match r.2 with
    | .error _ => r
    | .ok bs =>
      match engRead e (kTsp k) (kBase k + BitVec.ofNat 64 (off + 8 * i)) 8 r.1 with
      | (s, .ok b) => (s, .ok (bs ++ b))
      | (s, .error b) => (s, .error b)) (s, .ok [])
/-- Bytes written as accesses of `step` bytes; none of them before the first and the last are translated. -/
def collWrite (e : Engine) (k : Desc) (w : CollWrite) (s : State) : State × Except Bad Unit :=
  let at_ := fun (i : Nat) => kBase k + BitVec.ofNat 64 (w.off + w.step * i)
  let n := (w.bytes.length + w.step - 1) / w.step
  match engPlace e (kTsp k) true (at_ 0) w.step s with
  | (s, .error b) => (s, .error b)
  | (s, .ok _) =>
    match engPlace e (kTsp k) true (at_ (n - 1)) w.step s with
    | (s, .error b) => (s, .error b)
    | (s, .ok _) =>
      (List.range n).foldl (fun (r : State × Except Bad Unit) i =>
        match r.2 with
        | .error _ => r
        | .ok _ => engWrite e (kTsp k) (at_ i) ((w.bytes.drop (w.step * i)).take w.step) r.1) (s, .ok ())
/-- A write that a collective owes; they are made in order (R437). -/
def Coll.owes (c : Coll) (src : Bool) (off step : Nat) (bs : List Byte) : Coll := { c with writes := c.writes ++ [⟨src, off, step, bs⟩] }
/-- The oldest write of a collective is made once the one before it has been performed. A buffer that cannot be read or written is a fatal
fault of this member. DESIGN CHOICE [15]. -/
def collFlush (id : Nat) (s : State) : State :=
  match s.coll? id with
  | none => s
  | some c =>
    let due := s.engDue id
    if due.any (!·.isOver) then s
    else
      let s := if due.isEmpty then s else { s with ops := s.ops.filter fun o => o.eng != some id }
      if (failedPart due).isSome then fatalFault c.grp s
      else
        match c.writes with
        | [] => s
        | w :: ws =>
          let k := if w.src then c.src else c.dst
          match collWrite (s.collEngine c.die c.grid id k) k w s with
          | (s, .error b) => if b = notYet then s else fatalFault c.grp s
          | (s, .ok _) => putColl { c with writes := ws } s
/-- The writes of a collective go on as far as they can. -/
def flushColl (fuel id : Nat) (s : State) : State :=
  match fuel with
  | 0 => s
  | n + 1 =>
    let s' := collFlush id s
    let left := fun (s : State) => ((s.coll? id).map (·.writes.length)).getD 0
    if left s' < left s && 0 < left s' then flushColl n id s' else s'
def flushFuel (s : State) (id : Nat) : Nat := ((s.coll? id).map (·.writes.length)).getD 0 + 1
/-- Chunk i of the result written at its place, as one unit, and its phase byte after it (R436, R437). -/
def writeChunk (c : Coll) (i : Nat) (bs : List Byte) (mark : Nat) (s : State) : State :=
  let c := c.owes c.inpl (256 * i) 8 bs
  putColl (if c.inpl && c.op = 0 then c.owes true (256 * c.chunks + i) 1 [BitVec.ofNat 8 mark] else c) s
/-- The final value of chunk i at this member: a .rs writes its own slice only (R371, R436). -/
def writeFinal (c : Coll) (i : Nat) (v : List Byte) (s : State) : State :=
  let n := c.chunks / s.grpSize c.grp
  let first := if c.op = 1 then n * s.grpSelf c.grp else 0
  if c.op = 1 && !(first ≤ i && i < first + n) then s else writeChunk c (i - first) (narrowChunk c v) 3 s

-- Messages (R432, R435, R439).

/-- ADDR of a chunk; a vote stands in bit 0, and bit 1 marks the result of the last phase. DESIGN CHOICE [16]. -/
def Coll.msgAddr (c : Coll) (p i : Nat) (bs : List Byte) : U64 :=
  if c.op = 4 then BitVec.ofNat 64 (p * 2 ^ 32 + ((bs[0]?).getD 0).toNat % 4)
  else BitVec.ofNat 64 (i + p * 2 ^ 32 + c.op * 2 ^ 34 + c.tfmt * 2 ^ 36 + c.n / 256 % 2 ^ 22 * 2 ^ 42)
/-- A chunk waits at its output port for its turn; the remap entry of its destination is read now, once (R21, R410, R438). -/
def offerChunk (deadline gt0 : U64) (die : Nat) (p : Packet) (s : State) : State :=
  let m := s.remap p.dlmn
  let x : ChunkOut := ⟨s.portTo m, deadline, gt0, die, { p with phys := m.getD 0 }⟩
  let s := notePort (p.tag.toNat % 64) x.port (s.useFree 1)
  { s with sys := { s.sys with inject := s.sys.inject ++ [x] } }
/-- The next chunk of a port leaves: by deadline, GT at issue, die, and the order in which they came (R410). All have agent number 88. -/
def injectChunk (port : Nat) (s : State) : State :=
  let earlier := fun (x y : ChunkOut) => [x.deadline.toNat, x.gtIssue.toNat, x.die] < [y.deadline.toNat, y.gtIssue.toNat, y.die]
  let first := (s.sys.inject.filter (·.port == port)).foldl (fun (m : Option ChunkOut) x => match m with
    | none => some x
    | some y => if earlier x y then some x else some y) none
  match first with
  | none => s
  | some x => sendOn port x.packet { s with sys := { s.sys with inject := s.sys.inject.erase x } }
/-- A value sent to a member, one message for each piece: a vote at once, a chunk at its turn. -/
def sendValue (c : Coll) (p i m : Nat) (bs : List Byte) (s : State) : State :=
  (List.range (bs.length / c.piece)).foldl (fun s j =>
    let b := (bs.drop (c.piece * j)).take c.piece
    if c.op = 4 then sendPacket (grpPacket s c.grp m 5 2 c.seq (c.msgAddr p i b) []) s
    else offerChunk c.deadline c.gtIssue c.die (grpPacket s c.grp m 4 2 c.seq (c.msgAddr p i b) b) s) s

/-- A value is final at this member: its chunk is done; a vote advances STEP where every member voted commit (R439). -/
def finishValue (c : Coll) (i : Nat) (v : List Byte) (s : State) : State :=
  let s := putColl { c with doneChunks := i :: c.doneChunks, result := if c.op = 4 then some (v == [1]) else none } s
  if c.op = 4 && v == [1] then s.setReg (rFab (0x600 + 8 * c.grp)) (s.grpStep c.grp + 1) else s
/-- The value that enters phase p of chunk i is complete: ring member 0 starts the partial; a dimension of extent 1 is passed
over (R435). -/
def enterPhase (fuel id p i : Nat) (s : State) : State :=
  match fuel, s.coll? id with
  | n + 1, some c =>
    let x := s.grpExt c.grp
    let v := c.at_ (inKey p i)
    if 3 ≤ p then
      let s := if (lastDim x).isNone && !c.inpl && c.op != 4 then writeFinal c i v s else s
      match s.coll? id with | some c => finishValue c i v s | none => s
    else if ringLen x p = 1 then enterPhase n id (p + 1) i (putColl (c.put (inKey (p + 1) i) v) s)
    else if ringPos x (s.grpSelf c.grp) p = 0 then sendValue c p i (ringNext x (s.grpSelf c.grp) p) v s
    else s
  | _, _ => s
/-- A phase of chunk i has its result at this member (R436, R437). -/
def leavePhase (id p i : Nat) (s : State) : State :=
  match s.coll? id with
  | none => s
  | some c =>
    let v := c.at_ (inKey (p + 1) i)
    let s := if c.op = 4 then s
      else if lastDim (s.grpExt c.grp) = some p then writeFinal c i v s
      else if c.inpl && c.op = 0 && !c.wide then writeChunk c i v (p + 1) s
      else s
    enterPhase 4 id (p + 1) i s
/-- A message of phase p: the partial is combined and forwarded; a result is held and forwarded until every ring member has it
(R435). -/
def receiveSum (c : Coll) (p i : Nat) (b : List Byte) (s : State) : State :=
  let x := s.grpExt c.grp
  let me := s.grpSelf c.grp
  let pos := ringPos x me p
  let n := (c.at_ (seenKey p i)).length
  let c := c.put (seenKey p i) (1 :: c.at_ (seenKey p i))
  let next := ringNext x me p
  let partial_ := pos ≠ 0 && n < c.halves
  let v := if partial_ then joinPartial c b (((c.at_ (inKey p i)).drop (c.piece * n)).take c.piece) else b
  let last := pos + 1 = ringLen x p
  if partial_ && !last then sendValue c p i next v (putColl c s)
  else
    let c := c.put (inKey (p + 1) i) (c.at_ (inKey (p + 1) i) ++ v)
    let s := putColl c s
    let sent := if c.op = 4 && lastDim x = some p then v.map (· ||| 2) else v
    let s := if (partial_ && last) || ringPos x next p + 1 ≠ ringLen x p then sendValue c p i next sent s else s
    if (c.at_ (inKey (p + 1) i)).length = c.piece * c.halves then leavePhase c.id p i s else s

/-- The member that chunk i of .ag or .bc comes from. -/
def Coll.origin (c : Coll) (i : Nat) : Nat := if c.op = 3 then c.root else i / c.chunks
/-- A chunk of .ag or .bc is here: written, and sent on along the dimension in which it came and every later one (R436). -/
def holdCopy (id i : Nat) (came : Option Nat) (b : List Byte) (s : State) : State :=
  match s.coll? id with
  | none => s
  | some c =>
    let x := s.grpExt c.grp
    let me := s.grpSelf c.grp
    let s := (List.range 3).foldl (fun s d =>
      if ringLen x d = 1 || (match came with | some p => d < p | none => false) then s
      else
        let next := ringNext x me d
        if came == some d && ringPos x next d = ringPos x (c.origin i) d then s else sendValue c d i next b s) s
    let s := if came.isNone && c.inpl && c.op = 3 then s else writeChunk c i b 0 s
    match s.coll? id with | some c => finishValue c i b s | none => s

/-- A collective starts when it can: the source is read, the phase array is cleared, what needs no other member is done (R371, R435, R437). -/
def startColl (id : Nat) (s : State) : State :=
  match s.coll? id with
  | none => s
  | some c =>
    let go := { c with started := true }
    let me := s.grpSelf c.grp
    if c.op = 4 then enterPhase 5 id 0 0 (putColl (go.put (inKey 0 0) [if c.vote then 1 else 0]) s)
    else if c.op = 3 && me ≠ c.root then putColl go s
    else
      match collRead (s.collEngine c.die c.grid id c.src) c.src 0 (256 * c.chunks) s with
      | (s, .error b) => if b = notYet then s else fatalFault c.grp s
      | (s, .ok bs) =>
          let s := putColl (if c.inpl && c.op = 0 then go.owes true (256 * c.chunks) 1 (List.replicate c.chunks 0) else go) s
          (List.range c.chunks).foldl (fun s i =>
            let b := (bs.drop (256 * i)).take 256
            if 2 ≤ c.op then holdCopy id (if c.op = 2 then me * c.chunks + i else i) none b s
            else match s.coll? id with
              | some c => enterPhase 5 id 0 i (putColl (c.put (inKey 0 i) (widenChunk c b)) s)
              | none => s) s

-- Arrival of messages (R434, R435, R439, R442).

/-- What becomes of a message of a collective. -/
inductive Fit where
  | take (id : Nat)
  | late
  | hold
  | wait
  | drop
  | wrong
deriving DecidableEq, Repr

/-- A message finds its operation: its header agrees, and the value that it combines with is here; else it is held, waits at the
head of its channel, or shows that members differ (R434, R435, R440). After a restore the result of a vote finds no operation: it still
advances STEP (R447). -/
def State.fit (s : State) (vote : Bool) (tag : Nat) (addr : U64) : Fit :=
  let g := tag % 64
  let k := tag / 64 % 2 ^ 18
  let i := if vote then 0 else addr.toNat % 2 ^ 32
  let p := addr.toNat / 2 ^ 32 % 4
  if s.grpState g ≠ 1 then (if vote && 2 ≤ s.grpState g then .drop else .wait)
  else
    match s.sys.colls.find? fun c => c.grp == g && c.seq % 2 ^ 18 == k with
    | some c =>
      let same := if vote then c.op = 4 else c.op ≠ 4 && (c.msgAddr p i []) == addr
      if !same then .wrong
      else if !c.started then .hold
      else if c.op = 2 || c.op = 3 then .take c.id
      else if (c.at_ (inKey p i)).length = c.piece * c.halves then .take c.id
      else .hold
    | none => if vote && addr.getLsbD 1 && s.sys.restoredGrps.contains g then .late
      else if (k + 2 ^ 18 - SMap.get 0 s.sys.seqs g % 2 ^ 18) % 2 ^ 18 < 2 ^ 17 then .hold else .wrong
/-- The result of a vote that was on its way at the cut reaches a restored member: STEP advances as it did at the members that had it, and the
result goes on to the members of the ring that lack it. The barrier of the operation is recorded nowhere: no arrival is made. DEDUCED [107]. -/
def lateVote (tag : Nat) (addr : U64) (s : State) : State :=
  let g := tag % 64
  let x := s.grpExt g
  let p := addr.toNat / 2 ^ 32 % 4
  let next := ringNext x (s.grpSelf g) p
  let s := if addr.getLsbD 0 then s.setReg (rFab (0x600 + 8 * g)) (s.grpStep g + 1) else s
  if ringPos x next p + 1 = ringLen x p then s else sendPacket (grpPacket s g next 5 2 (tag / 64) addr []) s
/-- A message taken by its operation, or a difference between members (R371). -/
def takeMessage (vote : Bool) (tag : Nat) (addr : U64) (b : List Byte) (s : State) : State :=
  let p := addr.toNat / 2 ^ 32 % 4
  match s.fit vote tag addr with
  | .take id =>
    match s.coll? id with
    | none => s
    | some c =>
      if vote then receiveSum c p 0 [BitVec.ofNat 8 (addr.toNat % 2)] s
      else if c.op < 2 then receiveSum c p (addr.toNat % 2 ^ 32) b s
      else holdCopy id (addr.toNat % 2 ^ 32) (some p) b s
  | .late => lateVote tag addr s
  | .wrong => fatalFault (tag % 64) s
  | _ => s
def RouterBuf.vote (r : RouterBuf) : Bool := r.header.extractLsb' 100 4 == 5
def RouterBuf.tag (r : RouterBuf) : Nat := (r.header.extractLsb' 64 24).toNat
def RouterBuf.addr (r : RouterBuf) : U64 := r.header.extractLsb' 0 64
/-- Messages that the routers hold go on when what they wait for is here. -/
def drainRouters (fuel : Nat) (s : State) : State :=
  match fuel with
  | 0 => s
  | n + 1 =>
    match s.sys.routers.find? fun r => match s.fit r.vote r.tag r.addr with | .hold => false | .wait => false | _ => true with
    | none => s
    | some r =>
      let s := { s with sys := { s.sys with routers := s.sys.routers.erase r } }
      drainRouters n (takeMessage r.vote r.tag r.addr r.data s)
def settleRouters (s : State) : State := drainRouters s.sys.routers.length s

-- Issue (R369 to R372).

/-- Equal operands of the gangs of a team; of COLL.STEP the group and the barrier (R371). -/
def Coll.same (c d : Coll) : Bool :=
  c.op == d.op && (c.ctl0 ^^^ d.ctl0) &&& (if c.op = 4 then 0xFFFFFFFF0000003F else BitVec.allOnes 64) == 0 &&
  (c.op == 4 || (c.inpl == d.inpl && c.src == d.src && c.dst == d.dst && c.ctl1 == d.ctl1))
/-- A gang joins the operation of its team that it has not issued yet, or is the first to issue one (R371). -/
def joinColl (h : Hint) (c : Coll) (s : State) : State :=
  let t := s.tm
  let go := fun (c : Coll) (s : State) =>
    retire h (if c.issued.length = s.rc.gangs then
      let s := settleRouters (startColl c.id s)
      flushColl (flushFuel s c.id) c.id s
    else s)
  match s.sys.colls.find? fun x => x.team == t.id && !x.started && !x.issued.contains s.g.id with
  | some x =>
    if x.same c then
      let x := { x with issued := x.issued ++ [s.g.id], vote := x.vote && c.vote }
      go x (putColl x (s.setTeam { t with coll := c.grp }))
    else raise (rep cColl 0xF2 (s.lanes &&& s.g.live) 0 0) (fatalFault x.grp s)
  | none =>
    let k := SMap.get 0 s.sys.seqs c.grp
    let s := s.setTeam { t with coll := c.grp }
    let c := { c with id := s.serial, seq := k, issued := [s.g.id] }
    go c { s with
      serial := s.serial + 1
      sys := { s.sys with
        colls := s.sys.colls ++ [c]
        seqs := SMap.set 0 s.sys.seqs c.grp (k + 1)
        restoredGrps := s.sys.restoredGrps.filter (· != c.grp) } }
/-- COLL and COLL.STEP at issue: the checks of R370 in order, then the release (R112). -/
def collIssue (h : Hint) (scope : BitVec 3) (op : Nat) (inpl : Bool) (src dst : Desc) (b : Reg) (vote : Bool) (s : State) : State :=
  whole (fun s =>
    let ctl0 := s.sr b
    let ctl1 := s.sr (b + 1)
    let g := ctl0.toNat % 64
    let off := (ctl0 >>> 32).toNat
    let bad := fun (c d : Nat) (a : Nat) => raise (rep c d s.before (BitVec.ofNat 64 a) 0)
    let c : Coll := {
      id := 0
      grp := g
      op := op
      seq := 0
      agent := s.g.id
      team := s.g.team
      grid := s.g.grid
      die := s.g.die
      core := s.g.coreNo
      src := src
      dst := dst
      ctl0 := ctl0
      ctl1 := ctl1
      inpl := inpl
      tfmt := (kTfmt src).toNat
      n := kExt src 0
      root := ctl0.toNat / 2 ^ 16 % 2 ^ 12
      vote := vote
      deadline := s.deadlineOf s.g.grid ctl1
      gtIssue := s.gt
      issued := []
      started := false
      held := []
      doneChunks := []
      result := none
      writes := []
      issuer := s.issuerId }
    if s.act h = 0 then retire h s
    else if op < 4 && (src == 0 || (!inpl && dst == 0)) then illegal 0xAC s
    else if ctl0 &&& 0xF000FFC0 != 0 then illegal 0xA2 s
    else if op < 4 && !collShape op inpl src dst (s.grpSize g) then illegal 0xA2 s
    else
      let (s, here) := if op < 4 then namesHere src s else (s, some true)
      let (s, there) := if op < 4 && !inpl then namesHere dst s else (s, some true)
      if here.isNone || there.isNone then stall s
      else if here == some false || there == some false then illegal 0xA2 s
      else if off % 16 ≠ 0 then bad cAlign 0x50 off s
      else if s.rc.scratch < off + 16 then bad cSpace 0x60 off s
      else if s.grpState g = 0 || !s.isMember g s.tm then raise (rep cColl 0xF3 (s.lanes &&& s.g.live) 0 0) s
      else if s.grpState g ≠ 1 then raise (rep cColl 0xF1 (s.lanes &&& s.g.live) 0 0) s
      else released scope.toNat (joinColl h c) s) s
/-- COLL.ar (R369 to R371). -/
def execCollAr (h : Hint) (scope : BitVec 3) (inpl : Bool) (d a : BitVec 4) (b : Reg) (s : State) : Answer :=
  .next (collIssue h scope 0 inpl (s.g.kget a.toNat) (if inpl then 0 else s.g.kget d.toNat) b false s)
/-- COLL.rs (R369 to R371). -/
def execCollRs (h : Hint) (scope : BitVec 3) (inpl : Bool) (d a : BitVec 4) (b : Reg) (s : State) : Answer :=
  .next (collIssue h scope 1 inpl (s.g.kget a.toNat) (if inpl then 0 else s.g.kget d.toNat) b false s)
/-- COLL.ag (R369 to R371). -/
def execCollAg (h : Hint) (scope : BitVec 3) (inpl : Bool) (d a : BitVec 4) (b : Reg) (s : State) : Answer :=
  .next (collIssue h scope 2 inpl (s.g.kget a.toNat) (if inpl then 0 else s.g.kget d.toNat) b false s)
/-- COLL.bc (R369 to R371). -/
def execCollBc (h : Hint) (scope : BitVec 3) (inpl : Bool) (d a : BitVec 4) (b : Reg) (s : State) : Answer :=
  .next (collIssue h scope 3 inpl (s.g.kget a.toNat) (if inpl then 0 else s.g.kget d.toNat) b false s)
/-- COLL.STEP (R369, R370, R372). -/
def execCollStep (h : Hint) (scope : BitVec 3) (a b : Reg) (s : State) : Answer :=
  .next (whole (fun s =>
    if s.act h ≠ 0 && s.sr a &&& ~~~(1 : U64) != 0 then illegal 0xA2 s
    else collIssue h scope 4 true 0 0 b (bit (s.sr a) 0) s) s)

/-- A collective of this module goes on: it starts, or makes the writes that it owes (R371, R436, R437, R447). -/
def execCollectiveWork (id : Nat) (s : State) : Answer :=
  .next (match s.coll? id with
    | none => s
    | some c =>
      if s.sys.ending.any (·.id == id) then
        let s := flushColl (flushFuel s id) id s
        { s with sys := { s.sys with ending := s.sys.ending.filter fun x => x.id != id || !x.writes.isEmpty || !(s.engDue id).isEmpty } }
      else if c.started then flushColl (flushFuel s id) id s
      else if c.issued.length = (s.grid c.grid).rc.gangs then
        let s := settleRouters (startColl id s)
        flushColl (flushFuel s id) id s
      else s)
/-- COLLECTIVE_COMPLETE: the oldest collective of a group that is complete here, its writes performed, gives its barrier its arrival (R119,
R371, R372, R411). -/
def execCollectiveComplete (grp : Nat) (s : State) : Answer :=
  .next (match s.sys.colls.find? fun c => c.grp == grp && c.started && c.doneChunks.length == c.total (s.grpSize grp) &&
      c.writes.isEmpty && (s.engDue c.id).isEmpty with
    | none => s
    | some c =>
      let s := dropReads c.id { s with sys := { s.sys with colls := s.sys.colls.filter (·.id != c.id) } }
      let s := owe c.team (.arrive (c.ctl0 >>> 32).toNat 1) s
      reapTeams (deadlineMiss c.die c.deadline c.issuer s))

end Sys2Proof.Machine
end

