-- ==== Sys2Proof/Machine/CrossLane.lean ====
section
/-!
DEFINITION. The cross-lane and mask instructions (R284 to R291).
-/
namespace Sys2Proof.Machine

/-- The lanes of a segment (R284). -/
def segOf (w : Nat) (g : BitVec 3) : Nat := if g == 0 then w else 2 ^ g.toNat

/-- LANEID (R287). -/
def execLaneid (h : Hint) (d : Reg) (s : State) : Answer := .next (vectorTo h d (fun l => BitVec.ofNat 32 l) s)
/-- SHFL.IDX (R286). -/
def execShflIdx (h : Hint) (seg : BitVec 3) (d a b : Reg) (s : State) : Answer :=
  let n := segOf s.g.width seg
  .next (vectorTo h d (fun l => s.vr a (l - l % n + (s.vr b l).toNat % n)) s)
/-- SHFL.UP (R286). -/
def execShflUp (h : Hint) (seg : BitVec 3) (delta : BitVec 6) (d a : Reg) (s : State) : Answer :=
  let n := segOf s.g.width seg
  .next (vectorTo h d (fun l => s.vr a (if delta.toNat ≤ l % n then l - delta.toNat else l)) s)
/-- SHFL.DN (R286). -/
def execShflDn (h : Hint) (seg : BitVec 3) (delta : BitVec 6) (d a : Reg) (s : State) : Answer :=
  let n := segOf s.g.width seg
  .next (vectorTo h d (fun l => s.vr a (if l % n + delta.toNat < n then l + delta.toNat else l)) s)
/-- SHFL.XOR (R286). -/
def execShflXor (h : Hint) (_seg : BitVec 3) (delta : BitVec 6) (d a : Reg) (s : State) : Answer :=
  .next (vectorTo h d (fun l => s.vr a (Nat.xor l delta.toNat % 64)) s)

/-- The bits of a mask operand, negated or not. -/
def State.maskBits (s : State) (neg : Bool) (m : BitVec 4) : U64 := if neg then ~~~(s.g.mget m.toNat) else s.g.mget m.toNat

/-- VOTE.ANY (R287). -/
def execVoteAny (h : Hint) (neg : Bool) (d m : BitVec 4) (s : State) : Answer :=
  .next (maskTo h d (fun _ => s.act h &&& s.maskBits neg m != 0) s)
/-- VOTE.ALL (R287). -/
def execVoteAll (h : Hint) (neg : Bool) (d m : BitVec 4) (s : State) : Answer :=
  .next (maskTo h d (fun _ => s.act h &&& ~~~(s.maskBits neg m) == 0) s)
/-- BALLOT (R287). -/
def execBallot (h : Hint) (d a : Reg) (s : State) : Answer :=
  .next (reduceTo h d (laneSet s.g.width fun l => bit (s.act h) l && s.vr a l != 0) s)

/-- Combine of R288: the result with the flags it raises. -/
def combine (op : Nat) (ty : BitVec 2) (x y : U32) : U32 × BitVec 5 :=
  if ty == 2 then
    let r := if op = 0 then addF fp32 .rne (f32 x) (f32 y) else minMax (op = 2) x y
    (BitVec.ofNat 32 r.1, r.2)
  else if op = 0 then (x + y, 0)
  else if ty == 0 then (if op = 1 then iMin 32 x y else iMax 32 x y, 0)
  else (if op = 1 then iMinu 32 x y else iMaxu 32 x y, 0)
/-- Combine where one side may be absent (R288). -/
def combineOpt (op : Nat) (ty : BitVec 2) (x y : Option (U32 × BitVec 5)) : Option (U32 × BitVec 5) :=
  match x, y with
  | none, y => y
  | x, none => x
  | some a, some b => let r := combine op ty a.1 b.1; some (r.1, r.2 ||| a.2 ||| b.2)
/-- The reduction tree over lanes base to base + 2^k - 1: the lower lane is the left operand (R288). -/
def reduceTree (op : Nat) (ty : BitVec 2) (u : Nat → Option (U32 × BitVec 5)) (k base : Nat) : Option (U32 × BitVec 5) :=
  match k with
  | 0 => u base
  | k + 1 => combineOpt op ty (reduceTree op ty u k base) (reduceTree op ty u k (base + 2 ^ k))
/-- The lanes that take part: the active ones (R288). -/
def State.present (s : State) (h : Hint) (a : Reg) (l : Nat) : Option (U32 × BitVec 5) :=
  if bit (s.act h) l then some (s.vr a l, 0) else none
/-- An FP32 reduction or scan checks its words for markers (R267). -/
def State.floatLane (s : State) (ty : BitVec 2) (a : Reg) (l : Nat) : List U32 := if ty == 2 then [s.vr a l] else []

/-- RDX: the reduction of the active lanes to a scalar (R288). -/
def rdx (op : Nat) (h : Hint) (ty : BitVec 2) (d a : Reg) (s : State) : State :=
  unlessMarked (s.act h) (s.floatLane ty a) (fun s' =>
    match reduceTree op ty (s.present h a) (Nat.log2 s.g.width) 0 with
    | none => retire h s'
    | some (x, fl) => retire h (raiseFlags fl (setS d.toNat (if ty == 0 then x.signExtend 64 else x.setWidth 64) s'))) s
/-- RDX.ADD (R288). -/
def execRdxAdd (h : Hint) (ty : BitVec 2) (d a : Reg) (s : State) : Answer := .next (rdx 0 h ty d a s)
/-- RDX.MIN (R288). -/
def execRdxMin (h : Hint) (ty : BitVec 2) (d a : Reg) (s : State) : Answer := .next (rdx 1 h ty d a s)
/-- RDX.MAX (R288). -/
def execRdxMax (h : Hint) (ty : BitVec 2) (d a : Reg) (s : State) : Answer := .next (rdx 2 h ty d a s)

/-- One level of the prefix tree over the lanes in order (R289): lanes below n keep their value. -/
def scanLevel (ty : BitVec 2) (n : Nat) (u : List (Option U32)) : List (Option (U32) × BitVec 5) :=
  (List.range u.length).map fun l =>
    let y := (u[l]?).getD none
    if l < n then (y, 0)
    else
      match (u[l - n]?).getD none, y with
      | none, y => (y, 0)
      | x, none => (x, 0)
      | some p, some q => let r := combine 0 ty p q; (some r.1, r.2)
/-- The levels of the prefix tree from 2^k up, with every flag that they raise. -/
def scanTree (ty : BitVec 2) (n : Nat) (k : Nat) (u : List (Option U32)) (fl : BitVec 5) : List (Option U32) × BitVec 5 :=
  match n with
  | 0 => (u, fl)
  | n + 1 =>
    let v := scanLevel ty (2 ^ k) u
    scanTree ty n (k + 1) (v.map (·.1)) (v.foldl (fun a x => a ||| x.2) fl)
/-- SCAN.ADD (R289). -/
def execScanAdd (h : Hint) (excl f32 : Bool) (d a : Reg) (s : State) : Answer :=
  let ty : BitVec 2 := if f32 then 2 else 0
  let u := (List.range s.g.width).map fun l => if bit (s.act h) l then some (s.vr a l) else none
  let (v, fl) := scanTree ty (Nat.log2 s.g.width) 0 u 0
  let r := fun (l : Nat) => if excl then (if l = 0 then 0 else ((v[l - 1]?).getD none).getD 0) else ((v[l]?).getD none).getD 0
  .next (unlessMarked (s.act h) (s.floatLane ty a) (fun s' => retire h (raiseFlags fl (setV d.toNat (s.act h) r s'))) s)

/-- V2S (R287). -/
def execV2s (h : Hint) (sx : Bool) (lane : BitVec 6) (d a : Reg) (s : State) : Answer :=
  let x := s.vr a lane.toNat
  .next (reduceTo h d (if sx then x.signExtend 64 else x.setWidth 64) s)
/-- S2L (R287). -/
def execS2l (h : Hint) (ln : BitVec 6) (d a : Reg) (s : State) : Answer :=
  .next (retire h (setV d.toNat (s.act h &&& lane ln.toNat) (fun _ => lo32 (s.sr a)) s))

/-- A mask operation on the bits of active lanes (R290). -/
def maskOp (h : Hint) (d : BitVec 4) (v : U64) (s : State) : State := retire h (setM d.toNat (s.act h) v s)
/-- M.AND (R290). -/
def execMAnd (h : Hint) (d a b : BitVec 4) (s : State) : Answer :=
  .next (maskOp h d (s.g.mget a.toNat &&& s.g.mget b.toNat) s)
/-- M.OR (R290). -/
def execMOr (h : Hint) (d a b : BitVec 4) (s : State) : Answer :=
  .next (maskOp h d (s.g.mget a.toNat ||| s.g.mget b.toNat) s)
/-- M.XOR (R290). -/
def execMXor (h : Hint) (d a b : BitVec 4) (s : State) : Answer :=
  .next (maskOp h d (s.g.mget a.toNat ^^^ s.g.mget b.toNat) s)
/-- M.NOT (R290). -/
def execMNot (h : Hint) (d a : BitVec 4) (s : State) : Answer := .next (maskOp h d (~~~(s.g.mget a.toNat)) s)
/-- M.MOV (R290). -/
def execMMov (h : Hint) (d a : BitVec 4) (s : State) : Answer := .next (maskOp h d (s.g.mget a.toNat) s)
/-- M.POPC (R290). -/
def execMPopc (h : Hint) (d : Reg) (a : BitVec 4) (s : State) : Answer :=
  .next (reduceTo h d (BitVec.ofNat 64 (popc 64 (s.g.mget a.toNat).toNat)) s)
/-- M.FFS (R290). -/
def execMFfs (h : Hint) (d : Reg) (a : BitVec 4) (s : State) : Answer :=
  .next (reduceTo h d (BitVec.ofNat 64 (lowest (s.g.mget a.toNat))) s)
/-- M.FROMS (R290). -/
def execMFroms (h : Hint) (d : BitVec 4) (a : Reg) (s : State) : Answer := .next (maskOp h d (s.sr a) s)
/-- M.TOS (R290). -/
def execMTos (h : Hint) (d : Reg) (a : BitVec 4) (s : State) : Answer := .next (reduceTo h d (s.g.mget a.toNat) s)
/-- M.GETX (R290). -/
def execMGetx (h : Hint) (d : Reg) (s : State) : Answer := .next (reduceTo h d (s.g.exec &&& s.g.live) s)
/-- M.SETX: every live lane of the path and the plane that passes the guard; EXEC is not required (R291). -/
def execMSetx (h : Hint) (a : Reg) (s : State) : Answer :=
  .next (retire h (setX (s.lanes &&& s.g.live &&& s.g.passing h.guard) (s.sr a) s))

end Sys2Proof.Machine
end

