-- ==== Sys2Proof/Machine/MemEvents.lean ====
section
/-!
DEFINITION. The events of the memory system: data and acknowledgements that return, page walks and invalidations, requests at the
homes, write-back, rows, scrubbing, the links, the size of an L1 (R31 to R57, R62, R63, R66, R69, R75, R123, R295).
An event that finds nothing to do leaves the state as it is (DESIGN CHOICE [31]).
-/
namespace Sys2Proof.Machine

-- Faults that come back with data (R52, R361, R413).

/-- An agent stops for a fault that came after its word: at once, or when the rest of what it sent has finished. A second fault
before the stop joins the first (R418). A gang that is being saved holds its fault for the resumption (R423). -/
def asyncStop (id : Nat) (t : Stopping) (s : State) : State :=
  match s.agent? id with
  | none => s
  | some a =>
    match a.stopping with
    | some t0 => s.setAgent { a with stopping := some { t0 with entries := t.entries.foldl (fun l e => putEntry e l) t0.entries } }
    | none =>
      let a := match a.pausing with
        | some (.hit r) => { a with pausing := none, hits := ⟨r, true, a.trapMode⟩ :: a.hits }
        | _ => a
      if !a.drover && (s.team a.team).preq && (s.team a.team).pdlDone then
        s.setAgent { a with
          heldFault := some (a.heldFault.getD t.regs)
          pend := t.entries.foldl (fun l e => putEntry e l) a.pend }
      else if s.stopsNow a t.regs.pc then enterTrap a t s
      else s.setAgent { a with stopping := some t }
/-- A path goes back to a word that issues again, and comes back to where it stood (R361, R412, R418); so does the return point of a trap that is
being taken, where it is the path's. DEDUCED [40]. -/
def Agent.again (o : MemOp) (pid : Nat) (a : Agent) : Agent :=
  let here := fun (p : Path) => match a.stopping with | some t => if t.path = pid then (t.pc, t.plane) else (p.pc, p.plane) | none => (p.pc, p.plane)
  { a with
    paths := updFirst (·.id == pid) (fun (p : Path) => { p with pc := o.off, plane := o.plane, back := here p :: p.back }) a.paths
    stopping := a.stopping.map fun (t : Stopping) => if t.path = pid then { t with pc := o.off, plane := o.plane } else t
    noHit := (pid, o.off) :: a.noHit }

/-- The entry of some lanes of an operation, with the operands that they captured at issue (R413, R428). -/
def MemOp.entry (o : MemOp) (replay : Bool) (wb : Nat) (ps : List Part) : PendEntry where
  order := o.id
  wb := wb
  replay := replay
  planes := BitVec.ofNat 4 (2 ^ o.plane)
  off := o.off
  lanes := ps.foldl (fun m p => m ||| lane p.lane) 0
  word := o.word
  addr := ps.foldl (fun m p => SMap.insert m p.lane p.ea) []
  data := ps.foldl (fun m p => SMap.insert m p.lane (if o.aop = 9 && o.kind == .atomic then (p.cmp, p.data) else (p.data, 0))) []
/-- A gang is stopping: for a trap, for a park, or for the save of its team (R412, R421, R423). -/
def State.isStopping (s : State) (a : Agent) : Bool :=
  !a.drover && (a.stopping.isSome || a.pausing.isSome ||
    ((s.team a.team).preq && (s.team a.team).pdlDone && !a.yielded && !a.parked))
/-- GANG_STOP: of a gang that is stopping, some of the last lanes, as many as may be, had not been sent: they form entries, which a forced save
marks for replay (R413, R423). How many had been sent is free. DESIGN CHOICE [34]. -/
def execUnsend (id : Nat) (s : State) : Answer :=
  .next (match s.agent? id with
    | none => s
    | some a =>
      let pc := match a.stopping, a.pausing with | some t, _ => t.regs.pc | none, some (.hit r) => r.pc | _, _ => 0
      let l := s.unsent a pc
      let all := l.flatMap fun e => e.2.map fun p => (e.1.id, p.lane)
      if !s.isStopping a || all.isEmpty then s
      else
        let out := all.take (1 + s.choose all.length)
        let s := s.useFree 1
        let gone := fun (o : MemOp) (p : Part) => out.contains (o.id, p.lane)
        let es := l.filterMap fun e => match e.2.filter (gone e.1) with
          | [] => none
          | p :: ps => some (e.1.entry (a.stopping.isNone && a.pausing.isNone) a.wb (p :: ps))
        let put := fun (m : List PendEntry) => es.foldl (fun m e => putEntry e m) m
        let s := s.setAgent (match a.stopping with
          | some t => { a with stopping := some { t with entries := put t.entries } }
          | none => { a with pend := put a.pend })
        let s := l.foldl (fun s e => if e.1.isStore then (e.2.filter (gone e.1)).foldl (fun s p => l1Forget e.1.core (p.pa / 128) s) s else s) s
        { s with ops := (s.ops.map fun (o : MemOp) => { o with parts := o.parts.filter fun p => !gone o p }).filter fun o =>
          !(o.parts.isEmpty && out.any (·.1 == o.id)) })

/-- A part before another by its lane. -/
def insertPart (x : Part × BitVec 8) (l : List (Part × BitVec 8)) : List (Part × BitVec 8) :=
  (l.takeWhile fun y => y.1.lane < x.1.lane) ++ x :: l.dropWhile fun y => y.1.lane < x.1.lane
/-- The report of an operation some of whose lanes met uncorrectable data: a gang-uniform word issues again, a lane-level one is
continued after, with an entry of its failing lanes (R28, R52, R297, R361). Lanes that a RESUME or the host has completed stay in their
entry, with the new report (R363, R462). -/
def asyncFault (o : MemOp) (fs : List (Part × BitVec 8)) (s : State) : State :=
  let fs := fs.foldl (fun l x => insertPart x l) []
  match fs, s.agent? o.agent with
  | (p, d) :: _, some a =>
    let mask := fs.foldl (fun m e => m ||| lane e.1.lane) 0
    let pm : BitVec 4 := BitVec.ofNat 4 (2 ^ o.plane)
    let uni := match o.dest with | .scalar _ => true | _ => false
    let regs : TrapRegs := { rep cMemerr d.toNat (if uni then o.mask else mask) p.ea 0 with pc := (pm ++ o.off).setWidth 64 }
    let entry := o.entry false a.wb (fs.map (·.1))
    match o.settles && (a.resuming.isSome || a.parked), a.resuming with
    | true, some x =>
      let held := ((a.pend.find? (settles x)).map (·.lanes)).getD 0
      let regs := if held != 0 && lowest held < p.lane then a.trap else { regs with pc := a.trap.pc }
      s.setAgent { a with
        pend := updFirst (settles x) (fun (e : PendEntry) => { e with lanes := e.lanes ||| mask }) a.pend
        trap := { regs with mask := mask ||| held } }
    | true, none => s.setAgent { a with pend := entry :: a.pend, trap := { regs with pc := a.trap.pc } }
    | false, _ =>
      match uni, (a.path? o.path).or a.paths.head? with
      | true, some q => asyncStop o.agent ⟨regs, o.off, o.plane, q.id, []⟩ (s.setAgent (a.again o q.id))
      | true, none => s
      | false, _ => let q := (a.path? o.path).getD Path.empty; asyncStop o.agent ⟨regs, q.pc, q.plane, q.id, [entry]⟩ s
  | _, _ => s

/-- An engine operation that awaits what it has sent is there still. -/
def State.awaits (s : State) (op : Nat) : Bool :=
  op = 0 || (s.eng.xfers.any (·.id == op)) || (s.eng.mats.any (·.id == op)) || (s.sys.colls.any (·.id == op)) ||
    (s.sys.linkDue.any (·.op == op)) || s.all.any (·.id == op)
/-- What an operation sent that is no more is over. -/
def forget (o : MemOp) (s : State) : State :=
  if o.eng.any (fun e => !s.awaits e) && o.isOver then { s with ops := s.ops.filter (·.id != o.id) } else s
/-- LOAD_DATA_RETURN: the lanes of a load or an atomic are written, its line may come into the L1, an acquire finishes (R66, R68,
R102, R295). -/
def execLoadDataReturn (id : Nat) (s : State) : Answer :=
  .next (match s.ops.find? (·.id == id) with
    | none => s
    | some o =>
      let mine := o.eng.isNone && (o.kind == .fill || o.kind == .atomic || (o.kind == .load && o.dest != .none))
      if !mine || !o.isOver then forget o s
      else
        let live := fun (l : Nat) => match o.dest, s.agent? o.agent with
          | .vector _ _, some a => bit a.live l
          | _, _ => true
        let s := { s with ops := s.ops.filter (·.id != id) }
        let s := o.parts.foldl (fun s p =>
          if p.st == .done && live p.lane then deliver o.agent o.dest (o.sx && o.kind == .load) o.size p.lane p.data s else s) s
        let s := match o.core with
          | none => s
          | some c =>
            (o.fills.filter fun l => l / 2 ^ 33 % 16 = 0 && o.parts.any fun p => p.pa / 128 == l && p.st == .done && p.phys == s.myphys).foldl
              (fun s l =>
                let a := l % 2 ^ 37 * 128
                if ((s.core c).line? l).isSome || (s.readBad a 128).isSome then s else l1Install c l o.nt (s.getBytes a 128) s) s
        let s := if o.acq then (match s.agent? o.agent with | some a => acquired a o.scope s | none => s) else s
        let fs := o.parts.filterMap fun p => match p.st with | .failed d => some (p, d) | _ => none
        if o.kind == .fill then s else asyncFault o fs s)

/-- A store or a reduce-store whose every lane is performed or registered leaves STCNT; dropped ones are remembered (R42, R53). -/
def acknowledge (id : Nat) (k : MemKind) (s : State) : State :=
  match s.ops.find? (·.id == id) with
  | none => s
  | some o =>
    if o.kind != k || !o.isOver then s
    else if o.eng.isSome then forget o s
    else
      let s := { s with ops := s.ops.filter (·.id != id) }
      o.parts.foldl (fun s p => match p.st with | .failed _ => noteDrop o.agent p.ea p.lane s | _ => s) s
/-- STORE_ACK (R42, R66). -/
def execStoreAck (id : Nat) (s : State) : Answer := .next (acknowledge id .store s)
/-- REDUCE_REGISTERED (R123). -/
def execReduceRegistered (id : Nat) (s : State) : Answer := .next (acknowledge id .reduce s)

-- Translation.

def State.agentNo (s : State) (id : Nat) : BitVec 7 := ((s.agent? id).map (·.logNo)).getD 127
/-- The error log's number of who waits for a walk (R57): that of an agent, or of the core whose engine it is. -/
def State.askNo (s : State) (x : Option Nat × Nat) : BitVec 7 :=
  match s.agent? x.2, x.1 with
  | some a, _ => a.logNo
  | none, some c => BitVec.ofNat 7 (c % 64)
  | none, none => 127
/-- PAGE_WALK_START: a queued miss takes a free walk slot (R32). -/
def execPageWalkStart (die : Nat) (s : State) : Answer :=
  let x := s.die die
  .next (match x.walkQ with
    | [] => s
    | w :: r => if 64 ≤ x.walking.length then s else s.setDie die { x with walkQ := r, walking := x.walking ++ [w] })
/-- PAGE_WALK_COMPLETE: the oldest walk has read its entries: the translation is installed, or every agent that waits finds the
failing check; a walk that an invalidation met starts again (R32, R33, R35). -/
def execPageWalkComplete (die : Nat) (s : State) : Answer :=
  let x := s.die die
  .next (match x.walking with
    | [] => s
    | w :: r =>
      if w.restart then s.setDie die { x with walking := r ++ [{ w with restart := false }] }
      else
        let s := s.setDie die { x with walking := r }
        let no := ((w.asks[0]?).map fun x => s.askNo x).getD 127
        match walkPage die w.ctx (w.vpn * 65536) no s with
        | (s, .ok (leaf, l)) => w.asks.foldl (fun s x => install x.1 die ⟨w.ctx, w.vpn * 65536 / 2 ^ levelShift l, l, leaf⟩ s) s
        | (s, .error e) =>
          if e = notYet then let x := s.die die; s.setDie die { x with walking := w :: x.walking }
          else
            w.asks.foldl (fun s x => match s.agent? x.2 with
              | some a => s.setAgent { a with walked := a.walked ++ [(e.1, w.vpn, BitVec.ofNat 8 e.2)] }
              | none => let x' := s.die die; s.setDie die { x' with walked := x'.walked ++ [(x.2, w.ctx, w.vpn, e)] }) s)

/-- The overflow bit of TLBINVST (R34). -/
def tlbOverflow (s : State) : State := s.setReg (rXlat 0x808) (s.reg (rXlat 0x808) ||| 2)
/-- A request enters the queue of 16, or sets OVF (R34). -/
def queueInv (v : U64) (s : State) : State :=
  if 16 ≤ s.sys.tlbq.length then tlbOverflow s else { s with sys := { s.sys with tlbq := s.sys.tlbq ++ [v] } }
/-- TLBINV of one page. -/
def execTlbinvPage (ctx : BitVec 8) (vpn : BitVec 41) (s : State) : Answer :=
  .next (queueInv (vpn.setWidth 64 <<< 16 ||| ctx.setWidth 64) s)
/-- TLBINV of a context. -/
def execTlbinvContext (ctx : BitVec 8) (s : State) : Answer := .next (queueInv (0x100 ||| ctx.setWidth 64) s)
/-- TLBINV of all contexts. -/
def execTlbinvAllContexts (s : State) : Answer := .next (queueInv 0x200 s)
/-- TLBINV with KIND 3. -/
def execTlbinvReservedKind (s : State) : Answer := .next (tlbOverflow s)
/-- TLBINV_DONE: the oldest request leaves no matching entry in any TLB and walk cache (R34, R35). -/
def execTlbinvDone (s : State) : Answer :=
  .next (match s.sys.tlbq with
    | [] => s
    | v :: r =>
      let ctx := v.toNat % 256
      let kind := v.toNat / 256 % 4
      let va := v.toNat / 65536 * 65536
      let hit := fun (e : TlbEntry) => kind = 2 || (e.ctx = ctx && (kind = 1 || e.covers ctx va))
      let hitW := fun (e : WalkEntry) => kind = 2 || (e.ctx = ctx && (kind = 1 || va / 2 ^ levelShift e.level = e.pre))
      let mark := fun (w : Walk) => if kind = 2 || (w.ctx = ctx && (kind = 1 || w.vpn = va / 65536)) then { w with restart := true } else w
      let s := { s with sys := { s.sys with tlbq := r } }
      let s := { s with cores := s.cores.map fun (e : Nat × CoreState) => (e.1, { e.2 with tlb := e.2.tlb.filter fun t => !hit t }) }
      { s with dies := s.dies.map fun (e : Nat × DieState) => (e.1, { e.2 with
          tlb := e.2.tlb.filter fun t => !hit t
          wcache := e.2.wcache.filter fun w => !hitW w
          walking := e.2.walking.map mark }) })

-- Requests at the homes.

/-- What is held performs from now on: the loads before it have returned, and what was held before it has left (R101). What goes to a bank of
its own core or to die scratchpad is performed there in order (R49, R114). -/
def freeHeld (id : Nat) (s : State) : Answer :=
  .next (match s.ops.find? (·.id == id) with
    | none => s
    | some o =>
      if !o.held || (s.ops.takeWhile (·.id != id)).any fun q => q.agent == o.agent && !o.together q && (q.counts false || q.held) then s
      else
        let s := openOp id (putOp { o with held := false } s)
        let s := (o.parts.filter o.ownBank).foldl (fun s p => withPart id p.lane bankAccess s) s
        acknowledge id .store (acknowledge id .reduce s))

/-- A part that goes to this module's own DRAM. -/
def State.isHome (s : State) (p : Part) : Bool := p.pa < 2 ^ 60 && regionOf p.pa < 2 && p.phys == s.myphys
/-- One of several things that may come next; which is free (DESIGN CHOICE [1]). -/
def oneOf {α : Type} (l : List α) (s : State) : Option (α × State) :=
  match l with
  | [] => none
  | [x] => some (x, s)
  | x :: r => some ((l[s.choose (r.length + 1)]?).getD x, s.useFree 1)
/-- The parts of an operation that their home may serve next, in any order (R38, R42, R83, R104). -/
def State.nextPart (s : State) (o : MemOp) : Option (Part × State) :=
  let d := if o.kind == .load || o.kind == .fill then some o.die else none
  oneOf (o.parts.filter fun p => p.st == .waiting && s.isHome p && !s.blocked o p && !s.homeWaits d (p.pa % 2 ^ 44) o.size &&
    !(o.kind == .reduce && s.bufferWaits o.core o.die o.aop.toNat o.size o.bf (p.pa % 2 ^ 44 / 128))) s
/-- The core whose L1 line an answer overtakes: that of a gang, of no engine (R67). -/
def MemOp.l1 (o : MemOp) : Option Nat := if o.eng.isSome then none else o.core

/-- HOME_READ_REQUEST (R43, R44): the next lane of a load or a fill is served. -/
def execHomeReadRequest (id : Nat) (s : State) : Answer :=
  let s := sendParts id s
  .next (match s.ops.find? (·.id == id) with
    | none => s
    | some o =>
      if o.kind != .load && o.kind != .fill then s
      else
        match s.nextPart o with
        | none => s
        | some (p, s) =>
          let (s, r) := readHome (some o.die) (o.kind != .fill) o.nt (if o.kind == .fill then 127 else o.no) (p.pa % 2 ^ 44) o.size s
          evictSome (updPart o p.lane (fun p => match r with
            | .ok bs => { p with data := BitVec.ofNat 64 (ofBytes bs), st := .done }
            | .error e => { p with st := .failed e }) (l1Forget o.l1 (p.pa / 128) s)))

/-- A store or an atomic performed at its home (R42, R299). A line that a load has brought into the L1 since an atomic issued is older
than what the atomic leaves, and goes (R94). -/
def performHome (o : MemOp) (p : Part) (s : State) : State :=
  let a := p.pa % 2 ^ 44
  if o.kind == .store then
    let (s, lost) := writeHome o.nt o.no a (bytesOf o.size p.data.toNat) s
    updPart o p.lane (fun p => { p with st := if lost then .failed 0x83 else .done }) s
  else
    let n := 8 * o.size
    match atomicHome o.nt o.no a o.size (fun old => rmw o.aop.toNat n o.bf old (p.data.toNat % 2 ^ n) (p.cmp.toNat % 2 ^ n)) s with
    | (s, .error e) => updPart o p.lane (fun p => { p with st := .failed e }) s
    | (s, .ok bs) => updPart o p.lane (fun p => { p with data := BitVec.ofNat 64 (ofBytes bs), st := .done }) (l1Forget o.l1 (p.pa / 128) s)

/-- HOME_WRITE_REQUEST (R42, R43): the next lane of a store or an atomic is performed, or the copies of its line are asked for. -/
def execHomeWriteRequest (id : Nat) (s : State) : Answer :=
  let s := sendParts id s
  .next (match s.ops.find? (·.id == id) with
    | none => s
    | some o =>
      if o.kind != .store && o.kind != .atomic then s
      else
        match s.nextPart o with
        | none => s
        | some (p, s) =>
          if (sharersOf (s.dirOf (p.pa % 2 ^ 44 / 128))).isEmpty then performTogether performHome o p s
          else updPart o p.lane (fun p => { p with st := .invalidating }) s)
/-- DIRECTORY_INVALIDATE_ACK: after the last copy the pending write is performed (R42). -/
def execDirectoryInvalidateAck (line die : Nat) (s : State) : Answer :=
  let v := sharersOf (s.dirOf line)
  .next (if !v.contains die || !s.lineBusy line then s
    else
      let rest := v.filter (· != die)
      let s := l2Drop die line (s.count (rDieMem (dieOf (line * 128)) 0x48) 1)
      if !rest.isEmpty then s.setDir line (.s (BitVec.ofNat 8 (sumNat (rest.map (2 ^ ·)))))
      else
        let s := s.setDir line .i
        match s.ops.find? fun o => o.parts.any fun p => p.st == .invalidating && p.pa % 2 ^ 44 / 128 == line with
        | none => s
        | some o =>
          match o.parts.find? fun p => p.st == .invalidating && p.pa % 2 ^ 44 / 128 == line with
          | some p => performTogether performHome o p s
          | none => s)
/-- HOME_REDUCE_REQUEST (R43, R121 to R123): the next lane of a reduce-store joins a partial or is applied. -/
def execHomeReduceRequest (id : Nat) (s : State) : Answer :=
  let s := sendParts id s
  .next (match s.ops.find? (·.id == id) with
    | none => s
    | some o =>
      if o.kind != .reduce then s
      else
        match s.nextPart o with
        | none => s
        | some (p, s) =>
          let x := p.data.toNat % 2 ^ (8 * o.size)
          let (s, lost) := reduceStore o.nt o.core o.die o.aop.toNat o.size o.bf (p.pa % 2 ^ 44) x o.no s
          evictSome (updPart o p.lane (fun p => { p with st := if lost then .failed 0x83 else .done }) (l1Forget o.l1 (p.pa / 128) s)))

/-- CLUSTER_REMOTE_ACCESS (R69, R75, R76): the next lane's access arrives at the member's bank and is performed there. -/
def execClusterRemoteAccess (id : Nat) (s : State) : Answer :=
  .next (match s.ops.find? (·.id == id) with
    | none => s
    | some o =>
      match oneOf (o.parts.filter fun p => p.st == .waiting && 2 ^ 60 ≤ p.pa && !s.blocked o p) s with
      | none => s
      | some (p, s) => performTogether bankAccess o p s)

/-- LINK_COMPLETION (R46, R55): the link has completed the next access to host or CXL memory; `outside` is what that memory
holds, by bus address (R460). A completion with an error is uncorrectable data. -/
def execLinkCompletion (id : Nat) (outside : List (Nat × Byte)) (err : Bool) (s : State) : Answer :=
  .next (match s.ops.find? (·.id == id) with
    | none => s
    | some o =>
      match oneOf (o.parts.filter fun p => p.st == .waiting && p.pa < 2 ^ 60 && 2 ≤ regionOf p.pa && !s.blocked o p) s with
      | none => s
      | some (p, s) =>
        let reads := o.kind == .load || o.kind == .fill || o.kind == .atomic
        if err && (reads || o.kind == .reduce) then
          let s := logError o.die p.pa 4 (if regionOf p.pa = 2 then 4 else 5) o.no s
          updPart o p.lane (fun p => { p with st := .failed (if reads then 0x85 else 0x83) }) s
        else
          let byte := fun (x : Nat) => ((outside.find? (·.1 == s.busAddr x)).map (·.2)).getD 0
          let v := BitVec.ofNat 64 (ofBytes ((List.range o.size).map fun i => byte (p.pa + i)))
          let s := updPart o p.lane (fun p => { p with data := if reads then v else p.data, st := .done }) s
          let line := (List.range 128).map fun i => p.pa / 128 * 128 + i
          let s := if reads then l1Forget o.l1 (p.pa / 128) s else s
          match o.core with
          | some c =>
            if !o.fills.contains (p.pa / 128) || !(line.all fun x => outside.any (·.1 == s.busAddr x)) then s
            else l1Install c (p.pa / 128) o.nt (line.map byte) s
          | none => s)

-- The L2, the rows and the scrub (R38, R51, R54, R57).

/-- L2_WRITEBACK (R41, R54). -/
def execL2Writeback (sb : Nat) (s : State) : Answer :=
  .next (if (((s.die (sbDie sb)).tag? sb).isSome || s.dirty.contains sb) && !(s.dirty.contains sb && s.rowHeld (sb * 512)) then writeBack sb s else s)
/-- RHCTL.THR (R39). -/
def State.rowLimit (s : State) (d : Nat) : Nat := max 0x100 ((s.reg (rDieMem d 0)).toNat % 2 ^ 16)
/-- ROW_ACTIVATION_LIMIT: the bank of a row is held before its refresh management (R38). -/
def execRowActivationLimit (die row : Nat) (s : State) : Answer :=
  let x := s.die die
  .next (if SMap.get 0 x.rows row < s.rowLimit die || x.heldRows.contains row then s
    else s.setDie die { x with heldRows := row :: x.heldRows })
/-- REFRESH_MANAGEMENT_COMPLETE (R38). -/
def execRefreshManagementComplete (die row : Nat) (s : State) : Answer :=
  let x := s.die die
  .next (if !x.heldRows.contains row then s
    else (s.setDie die { x with heldRows := x.heldRows.filter (· != row), rows := SMap.set 0 x.rows row 0 }).count (rDieMem die 0x50) 1)
/-- ROW_REFRESH (R38). -/
def execRowRefresh (die row : Nat) (s : State) : Answer :=
  let x := s.die die
  .next (s.setDie die { x with rows := SMap.set 0 x.rows row 0 })
/-- PATROL_SCRUB of a unit of 64 bytes of DRAM: corrected data is written back, an uncorrectable unit is logged (R51, R52). -/
def execPatrolScrub (unit : Nat) (s : State) : Answer :=
  let a := unit % 2 ^ 33 * 64
  .next (if s.bad.contains a || s.flaws.contains (a, .hidden) then logOwn (dieOf a) a 2 0 71 s
    else
      let s := correct [.weakDram] a 64 71 s
      { s with flaws := s.flaws.filter fun f => f != (a, .weakDram) })
/-- ERRLOGB_READ removes the oldest entry (R57). -/
def execErrlogbRead (die : Nat) (s : State) : Answer :=
  let x := s.die die
  .next (s.setDie die { x with errlog := x.errlog.drop 1, errOvf := false })

-- The size of an L1 (R61 to R64).

/-- The normalised L1 minimum and maximum of a record (R61). -/
def LaunchRec.l1Range (r : LaunchRec) : Nat × Nat :=
  let c := fun (x : Nat) => min 1536 (max 512 x)
  (upTo (c r.l1min) 64, c r.l1max / 64 * 64)
/-- The teams that hold an allocation on a core. -/
def State.residents (s : State) (core : Nat) : List Team :=
  s.teams.filter fun t => t.die * 64 + t.core == core && t.state != .offered && t.state != .saved
/-- The L1 range of a core with some teams (R61). -/
def State.coreRange (s : State) (ts : List Team) : Nat × Nat :=
  ts.foldl (fun m t => let r := (s.grid t.grid).rc.l1Range; (max m.1 r.1, min m.2 r.2)) (512, 1536)
/-- The bytes of a core's pool that are allocated (R60, R64). -/
def poolUsed (ts : List Team) : Nat := sumNat (ts.map (·.size))
/-- The blocks of a pool that hold part of an allocation (R59). -/
def blocksOf (ts : List Team) : Nat :=
  ((ts.flatMap fun t => if t.size = 0 then [] else (List.range ((t.base + t.size - 1) / 65536 - t.base / 65536 + 1)).map (· + t.base / 65536)).eraseDups).length
/-- An L1 takes another size: lines that find no way are dropped, and where ways go, any fill in flight may be one of theirs and is not
installed: which are is free (R63). DESIGN CHOICE [107]: a block that is given up held the least recently used lines of each set. A change is
counted once, however many blocks it moves (R64, DESIGN CHOICE [98]). -/
def resizeL1 (core kib : Nat) (s : State) : State :=
  let c := s.core core
  if c.l1kib = kib then s
  else
    let l := (List.range 256).foldl (fun l k => keepWays (kib / 32) k l) c.l1
    let s := (s.setCore core { c with l1kib := kib, l1 := l }).count (rCore core 0x20) 1
    if c.l1kib < kib || !s.ops.any (fun o => o.core == some core && !o.fills.isEmpty) then s
    else
      ({ s with ops := s.ops.map fun (o : MemOp) =>
        if o.core == some core then { o with fills := o.fills.filter fun l => Config.pick (s.fresh + l) % 2 = 0 } else o }).useFree 1
/-- The decision at the end of an interval (R62, R63): the counts restart, also where it is skipped for a reclaim. -/
def decideL1 (core : Nat) (s : State) : State :=
  let c := s.core core
  let ctl := s.reg (rCore core 0)
  let ts := s.residents core
  let (lo, hi) := s.coreRange ts
  -- The threshold is rounded down: the manual does not say how (DESIGN CHOICE [98]).
  let thr := c.ia * (ctl.extractLsb' 8 8).toNat / 256
  let new :=
    if c.reclaimed || lo = hi || !ctl.getLsbD 0 then c.l1kib
    else if c.l1kib < lo then c.l1kib + 64
    else if hi < c.l1kib then c.l1kib - 64
    else if c.ihc + thr ≤ c.ihl && c.l1kib < hi && c.l1kib / 64 + blocksOf ts < 32 then c.l1kib + 64
    else if c.ihc < c.ihs + thr && lo < c.l1kib then c.l1kib - 64
    else c.l1kib
  let s := resizeL1 core new s
  s.setCore core { s.core core with ia := 0, ihs := 0, ihc := 0, ihl := 0, reclaimed := false }
/-- The last cycle of an interval: every core's intervals begin with CYC 0, and the decision ends that cycle (R62). -/
def State.intervalEnds (s : State) : Bool := s.cyc.toNat % 65536 = 65535
/-- L1_INTERVAL_DECISION (R62, R63): once in the last cycle of an interval. -/
def execL1IntervalDecision (core : Nat) (s : State) : Answer :=
  .next (if !s.intervalEnds || s.did (onceInterval core) then s else decideL1 core (s.once (onceInterval core)))

end Sys2Proof.Machine
end

