-- ==== Sys2Proof/Machine/Teams.lean ====
section
/-!
DEFINITION. Instruction fetch (R30, R166, R176), the start of gangs and of drover programs and the end of programs (R161, R164,
R374, R384, R385, R389, R398).
-/
namespace Sys2Proof.Machine

-- Fetch.

/-- A page outside the module holds words that this machine does not hold. -/
def Phys.own (p : Phys) : Option Nat := if regionOf p.pa < 2 then some (p.pa % 2 ^ 44) else none
/-- A word of a line, by its address. -/
def wordIn (ea : Nat) (line : List Byte) : U64 := BitVec.ofNat 64 (ofBytes ((line.drop (ea % 128 / 8 * 8)).take 8))
/-- The line of a host or CXL page, whose bytes this machine does not hold: they are free (R46). DESIGN CHOICE [20]. -/
def freeLine (s : State) : List Byte := (List.range 16).flatMap fun i => bytesOf 8 (Config.freeWord (s.fresh + i)).toNat
/-- What the instruction cache of drover n of a die holds of a line (R386): 4 KiB, in lines of 128 bytes by physical address, of which the least
recently used gives way. DESIGN CHOICE [60]. -/
def DieState.icLine? (x : DieState) (n l : Nat) : Option (List Byte) := (x.icache.find? fun e => e.1 == n && e.2.1 == l).map (·.2.2)
def icPut (d n l : Nat) (bs : List Byte) (s : State) : State :=
  let x := s.die d
  let mine := x.icache.filter fun e => e.1 == n && e.2.1 != l
  s.setDie d { x with icache := (n, l, bs) :: mine.take 31 ++ x.icache.filter fun e => e.1 != n }
def icClear (d n : Nat) (s : State) : State := let x := s.die d; s.setDie d { x with icache := x.icache.filter fun e => e.1 != n }
/-- The drover whose instruction cache a fetch goes through. -/
def icOf (core : Option Nat) (no : BitVec 7) : Option Nat := if core.isNone && 64 ≤ no.toNat && no.toNat < 70 then some (no.toNat - 64) else none

/-- The eight bytes of a word or of a program header, with permission to execute (R25, R30). The words of a gang are fetched through the L1
of its core and allocate like loads (R65); those of a drover through its instruction cache (R386). A word that its home cannot serve yet is
not there yet; one of host or CXL memory may come with an error (R55). DESIGN CHOICE [20]: a miss is served within the step. A word that waits
is fetched again when it is tried again, and each fetch is an access of the L1. DESIGN CHOICE [107]. -/
def fetch8 (core : Option Nat) (who d ctx : Nat) (no : BitVec 7) (ea : U64) (s : State) : State × Except Bad U64 :=
  match xlateAll core who d ctx ⟨false, true, false⟩ ea s with
  | (s, .error b) => (s, .error b)
  | (s, .ok p) =>
    let l := p.pa / 128
    let l1 := if p.l1nc then none else core
    let ic := icOf core no
    match ic.bind fun n => (s.die d).icLine? n l with
    | some bs => (match ic with | some n => icPut d n l bs s | none => s, .ok (wordIn p.pa bs))
    | none =>
    match l1.bind fun c => ((s.core c).line? l).map fun x => (c, x) with
    | some (c, x) =>
      let s := l1Count c l true s
      (s.setCore c (l1Put false x (s.core c)), .ok (wordIn p.pa x.data))
    | none =>
      let s := match l1 with | some c => l1Count c l false s | none => s
      let keep := fun (bs : List Byte) (s : State) =>
        match l1, ic with
        | some c, _ => l1Install c l false bs s
        | none, some n => icPut d n l bs s
        | none, none => s
      match p.own with
      | none =>
        if s.choose 2 = 1 then
          (logError d p.pa 4 (if regionOf p.pa = 2 then 4 else 5) no (s.useFree 1), .error (cMemerr, 0x85))
        else
          let bs := freeLine (s.useFree 1)
          (keep bs (s.useFree 17), .ok (wordIn p.pa bs))
      | some a =>
        if s.homeWaits (some d) a 8 then (s, .error notYet)
        else
          match readHome (some d) true false no a 8 s with
          | (s, .error e) => (s, .error (cMemerr, e.toNat))
          | (s, .ok bs) =>
            (if (s.readBad (a / 128 * 128) 128).isSome then s else keep (s.getBytes (a / 128 * 128) 128) s, .ok (BitVec.ofNat 64 (ofBytes bs)))
/-- The address of the word of plane p at offset o (R166, R176). -/
def Agent.wordAddr (a : Agent) (o : Offs) (p : Nat) : U64 :=
  let l := match a.region with | some r => p * r.len | none => 0
  (o + BitVec.ofNat 54 l).setWidth 64 <<< 3
/-- The word that an agent fetches. -/
def fetchWord (a : Agent) (o : Offs) (p : Nat) (s : State) : State × Except Bad U64 :=
  fetch8 a.l1Core a.id a.die (s.grid a.grid).ctx a.logNo (a.wordAddr o p) s

-- Gangs start (R161, R164).

/-- The packed coordinates of the team with a linear index (R158, R164). -/
def LaunchRec.coords (r : LaunchRec) (lin : Nat) : U64 :=
  BitVec.ofNat 64 (lin % r.gx + lin / r.gx % r.gy * 2 ^ 24 + lin / (r.gx * r.gy) * 2 ^ 44)
/-- Bytes filled with zeros: an allocation (R48, R60). -/
def zeroFill (a n : Nat) (s : State) : State :=
  let s := touch (grRange a n) s
  { s with mem := s.mem.filter fun e => !(a ≤ e.1 && e.1 < a + n), bad := s.bad.filter fun u => !(a ≤ u && u < a + n) }

/-- W of a record (R154). -/
def LaunchRec.width (r : LaunchRec) : Nat := 16 * 2 ^ r.wcode
/-- A gang of a placed team, that has claimed its slot and its registers and has not started (R159, R164). -/
def newGang (id : Nat) (r : LaunchRec) (t : Team) (i sched slot : Nat) : Agent :=
  let a := {
    Agent.absent with
    id := id
    team := t.id
    grid := t.grid
    idx := i
    die := t.die
    core := t.core
    sched := sched
    slot := slot
    width := r.width
    q := r.vregs * 8
    exec := lowMask r.width
    live := lowMask r.width
    trapvec := r.trapvec &&& ~~~(7 : U64) }
  ((a.sset 0 r.param).sset 1 (r.coords t.lin)).sset 2 (BitVec.ofNat 64 i)

/-- The offset that an address names (R176). -/
def offsOf (x : U64) : Offs := (x >>> 3).setWidth 54
/-- The gangs of one team start: an acquire (R100, R164); a request that stands loads the budget now (R419). -/
def startTeam (id : Nat) (s : State) : State :=
  let t := s.team id
  let e := offsOf (s.grid t.grid).rc.entry
  let budget := max 1 ((s.reg (rSave 0x28)).toNat % 2 ^ 32)
  let s := s.setTeam { t with state := .running, started := true, pdl := if t.preq then budget else t.pdl }
  (s.gangsOf id).foldl (fun s a =>
    acquired a 3 (s.setAgent { a with paths := [Path.start 0 e a.live false []], nextPath := 1 })) s
/-- The gangs of a cluster start together, once every allocation is filled and every bound program has ended (R161). -/
def startUnit (id : Nat) (s : State) : State :=
  let u := (s.team id).unit
  if u.all fun m => let t := s.team m; t.state == .starting && t.filled && t.bindsLeft == 0 then
    u.foldl (fun s m => startTeam m s) s
  else s

-- Drover programs start and end (R161, R374, R384, R385, R398).

/-- The lowest-numbered free context of a die (R385). -/
def State.freeContext (s : State) (d : Nat) : Option Nat :=
  (List.range 24).find? fun n => s.all.all fun a => !(a.drover && a.die == d && a.idx == n)
/-- The status register of a context: the model keeps LASTCAUSE there, and composes the rest when it is read (R395). -/
def setLastCause (d n : Nat) (c : BitVec 8) (s : State) : State := s.setReg (rDrv d (8 * n)) (c.setWidth 64 <<< 24)

/-- The home of a program's header cannot serve it yet: the program starts later. -/
def State.headerDue (s : State) (d n : Nat) (q : BindReq) : Bool :=
  q.prog.toNat % 8 = 0 && match (fetch8 none 0 d (s.grid q.grid).ctx (BitVec.ofNat 7 (64 + n / 4)) q.prog s).2 with
    | .error b => b == notYet
    | .ok _ => false
/-- The header is asked for: its page is walked (R32). -/
def askHeader (d n : Nat) (q : BindReq) (s : State) : State :=
  if q.prog.toNat % 8 ≠ 0 then s else (fetch8 none 0 d (s.grid q.grid).ctx (BitVec.ofNat 7 (64 + n / 4)) q.prog s).1
/-- A program starts on context n: the header is its first fetch (R384); the recorded cores are those of its home team and of the
cluster (R398). -/
def startProgram (d n : Nat) (q : BindReq) (s : State) : State :=
  let t := s.team q.team
  let r := (s.grid q.grid).rc
  let s := icClear d (n / 4) s
  let (s, hd) := if q.prog.toNat % 8 ≠ 0 then (s, .error (cAlign, 0x50))
    else fetch8 none 0 d (s.grid q.grid).ctx (BitVec.ofNat 7 (64 + n / 4)) q.prog s
  let hv := match hd with | .ok v => v | .error _ => 0
  let ends : Option (BitVec 8) := match hd with
    | .error b => some (BitVec.ofNat 8 b.1)
    | .ok v => if v.toNat % 8 ≠ 0 then some (BitVec.ofNat 8 cIllegal) else none
  let a := {
    Agent.absent with
    id := s.serial
    drover := true
    team := q.team
    grid := q.grid
    idx := n
    die := d
    core := n / 4
    width := 1
    exec := 1
    live := 1
    paths := [Path.start 0 (offsOf (q.prog + 8)) 1 false []]
    trapvec := hv &&& ~~~(7 : U64)
    binding := q.binding
    recorded := t.unit.map fun m => let x := s.team m; (x.core, x.id, x.base)
    deadline := q.deadline
    ended := ends.isSome
    endFault := ends }
  let s3 := BitVec.ofNat 64 (t.core * 2 ^ 32 + t.base)
  let s2 := match q.binding with | some b => BitVec.ofNat 64 b | none => 4
  let a := (((a.sset 0 q.arg).sset 1 (r.coords t.lin)).sset 2 s2).sset 3 s3
  { s with agents := s.agents ++ [a], serial := s.serial + 1 }

/-- The next binding of a die that waits for a context: in the order of placement, then of its number (R385). -/
def State.nextBinding (s : State) (d : Nat) : Option BindReq :=
  let bs := (s.die d).binds.filter fun (q : BindReq) => q.binding.isSome
  let key := fun (q : BindReq) => (s.team q.team).placed * 4 + q.binding.getD 0
  bs.foldl (fun (m : Option BindReq) q => match m with | none => some q | some x => if key q < key x then some q else some x) none
def dropBind (d : Nat) (q : BindReq) (s : State) : State :=
  let x := s.die d
  s.setDie d { x with binds := x.binds.filter (· != q) }

/-- One bound program of a team has ended (R161). -/
def bindingDone (t : Nat) (s : State) : State :=
  let x := s.team t
  startUnit t (s.setTeam { x with bindsLeft := x.bindsLeft - 1 })
/-- A program has executed DEND and everything that it started has completed: its context is free (R381, R385, R389). -/
def droverEnd (a : Agent) (s : State) : State :=
  let s := setLastCause a.die a.idx 0 (removeAgent a.id (captureRegs a s))
  match a.binding with
  | some _ => bindingDone a.team s
  | none => s

/-- A context stops for good; its transfers that no walker has accepted are dropped (R389, R399). -/
def stopProgram (id : Nat) (s : State) : State :=
  let s := { s with
    ops := s.ops.filter fun o => !(o.agent == id && o.inlineRead)
    eng := { s.eng with xfers := s.eng.xfers.filter fun x => !(x.drover && x.agent == id && !x.accepted) } }
  match s.agent? id with
  | some a => { s.setAgent { a with ended := true, paths := [], stopping := none } with sel := s.sel && s.g.id != id }
  | none => s

/-- A team that will not start: its gangs give up their slots (R161). -/
def dismiss (id : Nat) (s : State) : State :=
  let s := (s.gangsOf id).foldl (fun s a => removeAgent a.id (captureRegs a s)) s
  let t := s.team id
  s.setTeam { t with state := .exited }
/-- Requests for pre-emption that distributors have raised, and that are withdrawn with the units that p names: a team that no
other request names, and that has not been saved, goes on (R405, R419, R420, R424). -/
def withdraw (p : Nat → Bool) (s : State) : State :=
  let gone := s.dies.flatMap fun e => (e.2.asks.filter fun k => p k.1).flatMap (·.2)
  let s := { s with dies := s.dies.map fun (e : Nat × DieState) => (e.1, { e.2 with asks := e.2.asks.filter fun k => !p k.1 }) }
  let left := s.dies.flatMap fun e => e.2.asks.flatMap (·.2)
  gone.foldl (fun s id =>
    let t := s.team id
    if left.contains id || t.reqHost || t.state == .saved || !t.preq then s
    else
      (s.gangsOf id).foldl (fun s a => s.setAgent { a with yielded := false })
        (s.setTeam { t with preq := false, slot := none })) s
/-- Offered teams of a grid that takes no further ones. -/
def dropOffered (g : Nat) (s : State) : State :=
  let out := (s.teams.filter fun t => t.grid == g && t.state == .offered).map (·.id)
  withdraw (out.contains ·) { s with
    teams := s.teams.filter fun t => !out.contains t.id
    dies := s.dies.map fun (e : Nat × DieState) => (e.1, { e.2 with offered := e.2.offered.filter fun t => !out.contains t }) }
/-- A bound program has ended by fault (R161). -/
def bindingFault (team grid : Nat) (c : BitVec 8) (s : State) : State :=
  let u := (s.team team).unit
  let s := gridFault grid c s
  let x := s.grid grid
  let s := dropOffered grid (s.setGrid { x with noMore := true })
  let s := ((s.all.filter fun a => a.drover && !a.ended && a.binding.isSome && u.contains a.team).map (·.id)).foldl
    (fun s id => stopProgram id s) s
  let s := { s with dies := s.dies.map fun (e : Nat × DieState) => (e.1, { e.2 with
    binds := e.2.binds.filter fun q => !(q.binding.isSome && u.contains q.team) }) }
  reapTeams (u.foldl (fun s m => dismiss m s) s)

end Sys2Proof.Machine
end

