-- ==== Sys2Proof/Machine/WalkerEvents.lean ====
section
/-!
DEFINITION. The box walkers at work: the next transfer, its codebook tables, its end (R380, R392 to R394, R410).
-/
namespace Sys2Proof.Machine

/-- A transfer of a walker, by its number. -/
def State.xfer? (s : State) (id : Nat) : Option Xfer := s.eng.xfers.find? (·.id == id)
def putXfer (x : Xfer) (s : State) : State :=
  { s with eng := { s.eng with xfers := updFirst (·.id == x.id) (fun _ => x) s.eng.xfers } }
/-- The order of the arbiter: deadline, GT at issue, die, agent number, issue (R410). -/
def Xfer.earlier (x y : Xfer) : Bool :=
  let k := fun (z : Xfer) => [z.deadline.toNat, z.gtIssue.toNat, z.die, z.agentNo, z.order]
  k x < k y
/-- The first of some transfers. -/
def firstXfer (l : List Xfer) : Option Xfer :=
  l.foldl (fun (m : Option Xfer) x => match m with | none => some x | some y => if x.earlier y then some x else some y) none

/-- A team whose scratchpad the transfer reads or writes is saved, and holds no range: the transfer goes on in the allocation that it is
given (R325). -/
def State.awaitsTeam (s : State) (x : Xfer) : Bool := x.kind != .cp && (s.xferTeams x).any (·.state == .saved)
/-- Transfers in the queue that found the lock table full, or whose team was saved, register their locks when there is room (R80, R325,
R392). -/
def lockQueued (core : Nat) (s : State) : State :=
  (s.core core).queue.foldl (fun s id =>
    match s.xfer? id with
    | none => s
    | some x =>
      let ls := (s.xferTeams x).flatMap x.lockOf
      if x.locked || !s.lockRoom ls || s.awaitsTeam x then s else putXfer { x with locked := true } (register ls s)) s

/-- A snapshot cut has stopped the transfers of a grid (R140, step 2). -/
def State.cutting (s : State) (g : Nat) : Bool := (s.sys.c0.stops || s.sys.c1.stops) && s.inScope (s.grid g).ctx
/-- The transfer that a walker runs. -/
def State.running? (s : State) (core : Nat) : Option Xfer := (s.core core).running.bind s.xfer?
/-- The walker waits for a table slot (R394). -/
def State.waitsTable (s : State) (core : Nat) : Bool :=
  match s.running? core with | some x => (s.engDue x.id).isEmpty && s.slotDue x x.prog.n | none => false
/-- How many elements a transfer may go on by: in a cut it finishes the one whose reads have gone out, and stops at the next boundary; one
whose write is awaited has been moved (R140). -/
def State.mayMove (s : State) (x : Xfer) : Nat :=
  let left := boxCount x.desc - x.prog.n
  if !s.cutting x.grid then left
  else if (s.ops.any fun o => o.eng == some x.id && o.kind == .load) || !x.stopsAt x.prog.n then
    ((List.range left).find? fun i => x.stopsAt (x.prog.n + i + 1)).getD left + 1
  else 0

/-- BOX_TRANSFER_START (R392, R410). -/
def execBoxTransferStart (core : Nat) (s : State) : Answer :=
  let s := lockQueued core s
  let c := s.core core
  .next (if c.running.isSome then s
    else
      match firstXfer ((c.queue.filterMap s.xfer?).filter fun x => x.locked && !s.cutting x.grid && !s.awaitsTeam x) with
      | none => s
      | some x => s.setCore core { c with running := some x.id, queue := c.queue.filter (· != x.id) })

/-- The walker moves some elements of its transfer: how many is free (R140, R393, DESIGN CHOICE [1]). -/
def execBoxTransferStep (core : Nat) (s : State) : Answer :=
  .next (match s.running? core with
    | none => s
    | some x =>
      let n := s.mayMove x
      let m := moveOn (if s.cutting x.grid then n else s.choose (n + 1)) x (s.useFree 1)
      if m.halt.isSome || (m.p.n = x.prog.n && m.before == x.before && m.s.ops.length == s.ops.length) then s else keepMoving x m)
/-- BOX_TRANSFER_COMPLETE: the transfer goes on to its end, or as far as it can (R314 to R321, R394). -/
def execBoxTransferComplete (core : Nat) (s : State) : Answer :=
  .next (match s.running? core with
    | none => s
    | some x =>
      let m := moveOn (s.mayMove x) x s
      if m.halt.isSome then s
      else if m.p.n = boxCount x.desc && m.before.isNone then endXfer x m m.s
      else keepMoving x m)
/-- BOX_TRANSFER_FAULT (R52, R53, R315, R317, R319, R322). -/
def execBoxTransferFault (core : Nat) (s : State) : Answer :=
  .next (match s.running? core with
    | none => s
    | some x =>
      let m := moveOn (s.mayMove x) x s
      if m.halt.isSome then endXfer x m m.s else s)

/-- The core whose walker a BXI transfer is for: that of its target team, where no walker has accepted it yet (R398). -/
def State.xferCore (s : State) (x : Xfer) : Nat :=
  if x.target = 0 then x.core else let t := s.team x.target; t.die * 64 + t.core
/-- BXI transfers that wait for an entry of a walker's queue (R410): those for a saved team wait on (R398). -/
def State.waitingBxi (s : State) (core : Nat) : List Xfer :=
  s.eng.xfers.filter fun x => x.drover && !x.accepted && s.xferCore x == core && (s.team x.target).state != .saved
/-- BXI_ACCEPT (R78, R376, R392). -/
def execBxiAccept (core : Nat) (s : State) : Answer :=
  let c := s.core core
  .next (if 64 ≤ c.queue.length then s
    else
      match firstXfer (s.waitingBxi core) with
      | none => s
      | some x =>
        let x := { x with accepted := true, core := core, die := core / 64 }
        lockQueued core (putXfer x (s.setCore core { c with queue := c.queue ++ [x.id] })))

/-- The sixteen bytes that a TBLLD loads, or none yet; nothing while a team that the address names is saved. -/
def tableBytes (x : Xfer) (s : State) : Option (State × Except Bad (List Byte)) :=
  let ea := (x.coord[0]?).getD 0
  let e : Engine := { s.xferEngine x with core := none, die := x.sdie }
  if x.space = 1 then
    match s.droverLoc ((s.agent? x.agent).getD Agent.absent) ea with
    | .wait => none
    | .bad b => some (s, .error b)
    | .at_ k => match s.readBad k 16 with
      | some d => some (meetBad (dieOf k) e.no s, .error (cMemerr, d.toNat))
      | none => some (s, .ok (s.getBytes k 16))
  else
    match engRead e (x.space = 3) ea 16 s with
    | (s, .error b) => if b = notYet then some (s, .ok []) else some (s, .error b)
    | (s, .ok bs) => some (s, .ok bs)
/-- TABLE_SLOT_FILL: the oldest TBLLD to an EMPTY slot writes it; one that cannot read its table is reported by BXW (R380, R394). -/
def execTableSlotFill (core slot : Nat) (s : State) : Answer :=
  let c := s.core core
  .next (match s.eng.xfers.find? (fun x => x.kind == .table && x.core == core && x.slot == slot), c.slots[slot]? with
    | some x, some sl =>
      if sl.full then s
      else
        match tableBytes x s with
        | none => s
        | some (s, .ok []) => s
        | some (s, r) =>
          let s := dropReads x.id { s with eng := { s.eng with xfers := s.eng.xfers.filter (·.id != x.id) } }
          let s := deadlineMiss x.die x.deadline x.issuer s
          match r with
          | .error b => reportTo x.agent x.grid ⟨false, some x.seq, 0xEB, BitVec.ofNat 8 b.1, BitVec.ofNat 16 b.2, (x.coord[0]?).getD 0, x.order⟩ s
          | .ok bs =>
            let c := s.core core
            s.setCore core { c with slots := c.slots.set slot ⟨true, bs⟩ }
    | _, _ => s)

end Sys2Proof.Machine
end

