-- ==== Sys2Proof/Machine/Launch.lean ====
section
/-!
DEFINITION. Grids from the launch queues to retirement (R154 to R157, R162, R400, R401, R461), and the grant of drover contexts
(R161, R385).
-/
namespace Sys2Proof.Machine

-- The host's queue registers (R400, R461).

/-- A record enters a launch queue by the host, or is refused (R400, R461). -/
def hostEnqueue (q : Nat) (v : U64) (s : State) : State :=
  if v.extractLsb' 57 7 != 0 then s.setReg rLqres 7
  else if 1024 ≤ (s.queue q).length then s.setReg rLqres 1
  else enqueue q ⟨v &&& ~~~(0xFF : U64), v.toNat % 256, none, 0xFFFFFFFF, 0, 0, s.cyc, 0⟩ (s.setReg rLqres 0)
/-- A request over Link A is a write of memory, or of LQENQ. -/
def HostReq.writes (q : HostReq) : Bool := match q.kind with | .write _ => true | .enqueue _ => true | _ => false
/-- HOST_ENQUEUE: a write of LQENQ, which is a release: it waits for the host's earlier writes (R100, R461). -/
def execHostEnqueue (q : BitVec 3) (v : U64) (s : State) : Answer :=
  .next (if s.sys.hostq.any HostReq.writes then
      { s with sys := { s.sys with hostq := s.sys.hostq ++ [⟨0, .enqueue q.toNat, 0, 0, [], v, 0⟩] } }
    else hostEnqueue q.toNat v s)

-- Launch records (R154, R155).

/-- A field of n bytes at an offset of a record. -/
def recField (bs : List Byte) (off n : Nat) : Nat := ofBytes ((bs.drop off).take n)
/-- The fields of a launch record (R154). -/
def parseRecord (bs : List Byte) : LaunchRec where
  entry := BitVec.ofNat 64 (recField bs 0 8)
  gx := recField bs 0x08 4
  gy := recField bs 0x0C 4
  gz := recField bs 0x10 4
  gangs := recField bs 0x14 2
  wcode := recField bs 0x16 1
  vregs := recField bs 0x17 1
  scratch := recField bs 0x18 4
  lpriv := recField bs 0x1C 2
  csize := recField bs 0x1E 2
  l1min := recField bs 0x20 2
  l1max := recField bs 0x22 2
  arrays := recField bs 0x24 1
  prio := recField bs 0x25 1
  diemask := recField bs 0x26 1
  deadline := BitVec.ofNat 64 (recField bs 0x28 8)
  tblbase := BitVec.ofNat 64 (recField bs 0x30 8)
  tbllen := recField bs 0x38 4
  dskib := recField bs 0x3C 4
  trapvec := BitVec.ofNat 64 (recField bs 0x40 8)
  param := BitVec.ofNat 64 (recField bs 0x48 8)
  binds := (List.range 4).map fun i => (BitVec.ofNat 64 (recField bs (0x50 + 16 * i) 8), BitVec.ofNat 64 (recField bs (0x58 + 16 * i) 8))
/-- The teams of a grid. -/
def LaunchRec.count (r : LaunchRec) : Nat := r.gx * r.gy * r.gz
/-- The bytes of a team's allocation (R60). -/
def LaunchRec.alloc (r : LaunchRec) : Nat := upTo r.scratch 2048 + upTo (r.slice * r.width * r.gangs) 2048
/-- The conditions of R155 on the fields of a record, in their order: the code of the first that holds. -/
def refusal (bs : List Byte) (r : LaunchRec) (prio : Option Nat) : Option Nat :=
  let (lo, hi) := r.l1Range
  if recField bs 0x27 1 ≠ 0 || recField bs 0x98 0x68 ≠ 0 then some 0x02
  else if r.entry.toNat % 8 ≠ 0 || r.tblbase.toNat % 8 ≠ 0 then some 0x03
  else if r.gx = 0 || r.gy = 0 || r.gz = 0 || 2 ^ 24 < r.gx || 2 ^ 20 < r.gy || 2 ^ 20 < r.gz then some 0x04
  else if r.gangs = 0 || 16 < r.gangs || 2 < r.wcode then some 0x05
  else if r.vregs < 32 || 524288 < r.gangs * r.width * r.vregs * 32 then some 0x06
  else if 2048 * 1024 < r.alloc + lo * 1024 then some 0x07
  else if hi < lo then some 0x08
  else if 64 < r.csize || r.count % r.members ≠ 0 then some 0x09
  else if 65536 < r.dskib then some 0x0A
  else if 2 < r.arrays || 7 < r.prio || (match prio with | some p => r.prio ≠ p | none => false) then some 0x0B
  else none

/-- A GRIDID or TEAMID that is free: which one is left open. DESIGN CHOICE [8]. -/
def freshId (used : List U32) (v : U32) : U32 :=
  (((List.range (used.length + 2)).map fun i => v + BitVec.ofNat 32 i).find? fun x => !used.contains x && x != 0xFFFFFFFF).getD v

-- LINK (R156, R157).

/-- The value of LINK. -/
def linkValue (code status depth : Nat) (parent : U32) : U64 :=
  BitVec.ofNat 64 (code % 256 * 2 ^ 56 + status % 256 * 2 ^ 48 + depth % 16 * 2 ^ 32 + parent.toNat)
/-- The dispatcher's accesses to memory: in the grid's context, whether or not it is enabled (R156). -/
def dispatchEngine (ctx grid op : Nat) : Engine := ⟨0, none, ctx, grid, 127, 0, op, false⟩
/-- A LINK write that could not be performed enters the log of 16 (R157). -/
def logLink (e : LinkEntry) (s : State) : State :=
  let s := s.interrupt 8
  if s.sys.lnklog.length < 16 then { s with sys := { s.sys with lnklog := s.sys.lnklog ++ [e] } }
  else { s with sys := { s.sys with lnkOvf := true } }
/-- A LINK write is over: one that could not be performed is logged, and a grid whose dispatch it was is refused (R157). -/
def endLink (x : LinkDue) (done : Bool) (s : State) : State :=
  let s := { s with
    sys := { s.sys with linkDue := s.sys.linkDue.filter (·.op != x.op) }
    ops := s.ops.filter fun o => o.eng != some x.op }
  if done then s
  else
    let s := logLink x.entry s
    if x.dispatch then { s with grids := s.grids.filter (·.id != x.grid) } else s
/-- A LINK write goes on: it is translated and sent, and over when it is acknowledged (R156, R157). -/
def linkStep (op : Nat) (s : State) : State :=
  match s.sys.linkDue.find? (·.op == op) with
  | none => s
  | some x =>
    let due := fun (s : State) =>
      if (s.engDue op).any (!·.isOver) then s else endLink x (failedPart (s.engDue op)).isNone s
    if x.sent then due s
    else
      match engWrite (dispatchEngine x.entry.ctx x.grid op) false (x.entry.recva + 0x90) (le64 x.value) s with
      | (s, .error b) => if b = notYet then s else endLink x false s
      | (s, .ok _) =>
        due { s with sys := { s.sys with linkDue := updFirst (·.op == op) (fun (y : LinkDue) => { y with sent := true }) s.sys.linkDue } }
/-- LINK of a launch record is to be written. -/
def writeLink (v : U64) (grid : Nat) (dispatch : Bool) (e : LinkEntry) (s : State) : State :=
  linkStep s.serial { s with
    serial := s.serial + 1
    sys := { s.sys with linkDue := s.sys.linkDue ++ [⟨s.serial, v, e, grid, dispatch, false⟩] } }
/-- The LINK writes that are under way go on. -/
def execLinkWrites (s : State) : Answer := .next ((s.sys.linkDue.map (·.op)).foldl (fun s op => linkStep op s) s)
/-- LNKLOGC_READ removes the oldest entry; OVF tells of drops since the previous read (R157). -/
def execLnklogcRead (s : State) : Answer := .next { s with sys := { s.sys with lnklog := s.sys.lnklog.drop 1, lnkOvf := false } }

-- Dispatch and retirement (R162, R401).

/-- The launch queue whose head is next: the highest-numbered that is not empty (R401). -/
def State.headQueue (s : State) : Option (Nat × Queued) :=
  [7, 6, 5, 4, 3, 2, 1, 0].findSome? fun q => (s.queue q).head?.map fun x => (q, x)
/-- The launching team learns which grid its child is (R261). -/
def bindChild (x : Queued) (grid : Nat) (s : State) : State :=
  match x.parent with
  | none => s
  | some p =>
    let t := s.team p
    s.setTeam { t with children := t.children.map fun (c : U64 × Option Nat × Nat) => if c.2.2 = x.ordinal then (c.1, some grid, c.2.2) else c }
/-- The head of a queue is dispatched, or refused with a code (R155, R156). -/
def dispatchTo (q : Nat) (x : Queued) (code : Option Nat) (r : LaunchRec) (s : State) : State :=
  let id := s.serial
  let gid := freshId (s.grids.map (·.gridid)) (s.free.setWidth 32)
  let s := bindChild x id { (s.once onceDispatch).useFree 1 with serial := id + 1, queues := SMap.set [] s.queues q (s.queue q).tail }
  match code with
  | some c => let v := linkValue c 4 x.depth x.parentId; writeLink v id false ⟨false, x.recva, v, x.ctx, gid⟩ s
  | none =>
    writeLink (linkValue 0 1 x.depth x.parentId) id true ⟨false, x.recva, linkValue 0x0C 4 x.depth x.parentId, x.ctx, gid⟩
      { s with grids := s.grids ++ [{
          Grid.absent with
          id := id
          gridid := gid
          ctx := x.ctx
          recva := x.recva
          rc := r
          parent := x.parent
          parentId := x.parentId
          depth := x.depth
          state := .running }] }
/-- GRID_DISPATCH (R154 to R157, R401): at most one in a cycle; a LAUNCH of this cycle may not stand at its place yet (R400). -/
def execGridDispatch (s : State) : Answer :=
  .next (if s.did onceDispatch || 256 ≤ (s.grids.filter (·.state == .running)).length then s
    else
      match s.headQueue with
      | none => dropReads 0 s
      | some (q, x) =>
        if x.rank ≠ 0 && x.born == s.cyc then s
        else
        let off := !(s.reg (rXlat (8 * x.ctx))).getLsbD 0
        match if off then (s, .ok []) else engRead (dispatchEngine x.ctx 0 0) false x.recva 256 s with
        | (s', .error b) => if b = notYet then s' else dispatchTo q x (some 0x0D) (parseRecord []) (dropReads 0 s')
        | (s', .ok bs) =>
          let r := parseRecord bs
          dispatchTo q x (if off then some 0x01 else refusal bs r (if x.parent.isNone then some q else none)) r (dropReads 0 s'))

/-- A grid has a child that is queued or running (R162, R163). -/
def State.hasChild (s : State) (g : Grid) : Bool :=
  (s.grids.any fun c => c.parentId == g.gridid && c.state == .running) ||
    s.queues.any fun e => e.2.any fun (x : Queued) => x.parentId == g.gridid
/-- Everything of a grid is done (R120, R162). -/
def State.gridDone (s : State) (g : Grid) : Bool :=
  g.state == .running && (g.noMore || g.ended || g.rc.count ≤ g.next) && s.teams.all (·.grid != g.id) && !s.hasChild g &&
    !s.engineBusy (fun _ y => y == g.id) && (s.ops.all fun o => o.grid != g.id || o.isOver) && (s.sys.linkDue.all (·.grid != g.id)) && s.all.all (·.grid != g.id) &&
    s.dies.all fun e => (e.2.binds.all fun q => q.grid != g.id) && e.2.restored.all fun a => a.grid != g.id
/-- A grid retires: its die scratchpad is freed, pending granules captured first; its last LINK write is a release (R48, R144,
R156, R157). -/
def retireGrid (g : Grid) (s : State) : State :=
  let s := if s.calm then s else
    g.dscratch.foldl (fun s e => (grRange (2 ^ 40 + e.1 * 2 ^ 26 + e.2) (upTo g.rc.dskib 64 * 1024)).foldl (fun s k => capture true k s) s) s
  let status := if g.ended then 5 else if g.fault.isSome then 3 else 2
  let code := if g.ended then 0 else ((g.fault.map (·.toNat)).getD 0)
  let v := linkValue code status g.depth g.parentId
  writeLink v g.id false ⟨true, g.recva, v, g.ctx, g.gridid⟩ { s with grids := s.grids.filter (·.id != g.id) }
/-- GRID_RETIRE (R156, R162). -/
def execGridRetire (grid : Nat) (s : State) : Answer :=
  .next (match s.grids.find? (·.id == grid) with
    | none => s
    | some g => if s.gridDone g then retireGrid g s else s)

-- A placed team starts (R161).

/-- ALLOCATION_ZERO_FILL_DONE: the allocation is zero; its bindings ask for contexts, or its gangs start (R60, R161). -/
def execAllocationZeroFillDone (team : Nat) (s : State) : Answer :=
  let t := s.team team
  let g := s.grid t.grid
  .next (if t.state != .starting || t.filled then s
    else
      let s := zeroFill t.origin t.size s
      let s := s.setTeam { t with filled := true }
      let bs := (g.rc.binds.zipIdx.filter fun b => b.1.1 != 0)
      let x := s.die t.die
      let q := bs.map fun b =>
        (⟨t.id, t.grid, some b.2, 0, 0, s.gt, b.1.1, b.1.2, 0, s.serial + b.2⟩ : BindReq)
      let s := { s.setDie t.die { x with binds := x.binds ++ q } with serial := s.serial + 4 }
      startUnit team s)
/-- BINDING_CONTEXT_GRANT: a waiting binding takes the lowest-numbered free context, and after the bindings a context of a restored
snapshot (R161, R385, R444). A waiting DRV.START takes one when it issues. -/
def execBindingContextGrant (die : Nat) (s : State) : Answer :=
  .next (match s.freeContext die with
    | none => s
    | some n =>
      match s.nextBinding die with
      | some q => if s.headerDue die n q then askHeader die n q s else startProgram die n q (dropBind die q s)
      | none =>
        let x := s.die die
        match x.restored with
        | [] => s
        | a :: r => { s.setDie die { x with restored := r } with agents := s.agents ++ [{ a with idx := n, core := n / 4 }] })

end Sys2Proof.Machine
end

