-- ==== Sys2Proof/Machine/Records.lean ====
section
/-!
DEFINITION. The layouts of save records and of the small state of a snapshot (R153, R154, R426 to R429, R493, R494).
-/
namespace Sys2Proof.Machine

-- Control sets (R427).

/-- One of the two paths of a control set. -/
def pathWords (p : Option (Offs × U64 × Bool)) : List Byte :=
  match p with
  | some (o, m, waits) => w64 (2 ^ 63 + b01 waits * 2 ^ 62 + o.toNat) ++ le64 m
  | none => w64 0 ++ w64 0
/-- The runnable paths of a control set, the taken arm first. -/
def ControlSet.arms (c : ControlSet) (live : U64) : List Path :=
  let ps := c.paths.filter fun (p : Path) => p.lanes &&& live != 0
  (ps.filter (·.taken)) ++ ps.filter (!·.taken)
/-- The paths that a control set lists: the runnable ones; beside a lone one the arm that waits at its join. -/
def ControlSet.two (c : ControlSet) (live : U64) : List (Offs × U64 × Bool) :=
  let ps := c.arms live
  let run := ps.map fun (p : Path) => (p.pc, p.lanes, false)
  match ps, c.divs with
  | [p], e :: _ =>
    let rest := e.lanes &&& live &&& ~~~p.lanes
    if e.running.contains p.id && e.todo.isEmpty && rest != 0 then run ++ [(e.join, rest, true)] else run
  | _, _ => run
/-- The planes below one that some of these lanes are in: those that have issued (R167). -/
def issuedPlanes (planes : SMap Nat) (lanes : U64) (below : Nat) : Nat :=
  sumNat (((List.range 4).filter fun p => p < below && (lanesOf lanes).any fun l => SMap.get 0 planes l == p).map (2 ^ ·))
/-- The 96 bytes of a control set (R427). -/
def controlBytes (c : ControlSet) (live : U64) : List Byte :=
  let two := c.two live
  let pl := sumNat ((List.range 64).map fun l => SMap.get 0 c.planes l % 4 * 4 ^ l)
  let ps := c.arms live
  let iss := fun (i : Nat) => match ps[i]? with | some p => issuedPlanes c.planes p.lanes p.plane | none => 0
  let (n1, len, base) := match c.region with | some r => (r.n - 1, r.len, 2 ^ 63 + r.base.toNat) | none => (0, 0, 0)
  pathWords two[0]? ++ pathWords two[1]? ++ le64 c.exec ++ le64 (c.save.getD 0) ++ bytesOf 16 pl ++ w64 base ++
    w64 (iss 1 * 2 ^ 30 + iss 0 * 2 ^ 26 + n1 % 4 * 2 ^ 24 + len) ++ w64 (c.rb * 2 ^ 32 + c.wb) ++
    w64 (c.spill * 2 ^ 32 + b01 c.parked * 2 ^ 13 + b01 c.save.isSome * 2 ^ 12 +
      (c.calls.filter (·.spill.isNone)).length % 64 * 64 + (c.divs.filter (·.spill.isNone)).length % 64)

-- Pending entries and stacks (R426, R428).

/-- A pending entry (R428). -/
def entryBytes (width : Nat) (e : PendEntry) : List Byte :=
  w64 (b01 e.replay * 2 ^ 63 + e.planes.toNat * 2 ^ 54 + e.off.toNat) ++ le64 e.lanes ++ le64 e.word ++ w64 0 ++
    (List.range width).flatMap fun l =>
      if bit e.lanes l then
        let d := SMap.get (0, 0) e.data l
        le64 (SMap.get 0 e.addr l) ++ le64 d.1 ++ le64 d.2
      else zeros 24
/-- The 16 bytes of a stack entry: the manual gives them no layout. DESIGN CHOICE [21]. -/
def divEntryBytes (e : DivEntry) : List Byte := le64 e.word ++ le64 e.lanes
def callEntryBytes (e : CallEntry) : List Byte := le64 e.word ++ le64 e.lanes
/-- Entries of a hardware stack, the oldest first, in n slots. -/
def stackBytes {α : Type} (n : Nat) (f : α → List Byte) (l : List α) : List Byte :=
  let bs := (l.take n).reverse.flatMap f
  bs ++ zeros (16 * n - bs.length)
/-- The latch: rows, and tag (R345, R426). -/
def latchBytes (x : Latch) : List Byte :=
  ((List.range 2048).flatMap fun i => if x.valid then le32 (SMap.get 0 x.rows i) else zeros 4) ++
    w64 (if x.valid then 2 ^ 63 + x.nrows % 256 * 2 ^ 32 + x.reg % 2 ^ 32 else 0) ++ zeros 120

-- Gangs (R426).

/-- Bytes of a gang's record with E entries. -/
def gangSize (width q e : Nat) : Nat := 0x2E00 + 4 * q * width + e * (32 + 24 * width)
/-- Bytes 0x0000 to 0x097F of a gang's record. -/
def State.gangHead (s : State) (a : Agent) : List Byte :=
  let e := a.pend.length
  let h := a.heldFault.getD ⟨0, 0, 0, 0, 0⟩
  padTo 64 (w64 (a.idx * 2 ^ 48 + a.width * 2 ^ 40 + gangSize a.width a.q e) ++ le64 (s.gangid a) ++
      w64 (b01 a.trapMode + b01 a.forced * 2 + b01 a.heldFault.isSome * 4) ++ w64 e) ++
    controlBytes a.control a.live ++
    (match a.handler with | some c => controlBytes c a.live | none => zeros 96) ++
    le64 a.trap.cause ++ le64 a.trap.pc ++ le64 a.trap.mask ++ le64 a.trap.addr ++ le64 a.trap.reg ++ w64 e ++ le64 a.trapvec ++
    w64 a.fp.toNat ++
    w64 0 ++ ((List.range 15).flatMap fun i => le64 (a.mget (i + 1))) ++
    ((List.range 16).flatMap fun i => le64 (SMap.get 0 a.prog i)) ++
    w64 (a.mbatch.toNat + a.cbatch.toNat * 2 ^ 32) ++ w64 ((s.mdone a).toNat + (s.cdone a).toNat * 2 ^ 32) ++
    w64 ((s.team a.team).coll % 64) ++ le64 a.live ++ le64 h.cause ++ le64 h.addr ++ le64 h.mask ++ w64 0 ++
    ((List.range 16).flatMap fun i => bytesOf 64 (a.kget i).toNat) ++
    stackBytes 32 divEntryBytes (a.divs.filter (·.spill.isNone)) ++
    stackBytes 16 callEntryBytes (a.calls.filter (·.spill.isNone))
/-- A gang's save record (R426). -/
def State.gangRecord (s : State) (a : Agent) : List Byte :=
  s.gangHead a ++ ((List.range 128).flatMap fun n => le64 (a.sget n)) ++ latchBytes a.latch ++
    ((List.range a.q).flatMap fun n => (List.range a.width).flatMap fun l => le32 (a.pget n l)) ++
    a.pend.flatMap (entryBytes a.width)
/-- The data of a kind 0x09 record (R426). -/
def State.gangSmall (s : State) (a : Agent) : List Byte :=
  s.gangHead a ++ latchBytes a.latch ++ a.pend.flatMap (entryBytes a.width)

-- Teams (R422, R429, R494).

/-- The gangs of a team that have not exited, in index order: those on its core, or those saved with it. -/
def State.teamGangs (s : State) (t : Team) : List Agent :=
  let gs := if t.state == .saved then t.saved else s.gangsOf t.id
  (List.range 16).filterMap fun i => gs.find? (·.idx == i)
/-- The header of a team record (R429, item 1). -/
def State.teamHeader (s : State) (t : Team) (size : Nat) : List Byte :=
  let r := (s.grid t.grid).rc
  let live := (s.teamGangs t).map (·.idx)
  let gone := (List.range r.gangs).filter fun i => !live.contains i
  padTo 256 (w64 (t.teamid.toNat + (s.grid t.grid).gridid.toNat * 2 ^ 32) ++ w64 t.lin ++ w64 (t.member % 64 + r.csize % 128 * 2 ^ 16) ++
    w64 (t.size + r.lpriv * 2 ^ 32) ++ w64 (sumNat (t.arrays.map (2 ^ ·))) ++ w64 (t.pdl % 2 ^ 32) ++
    w64 (r.gangs % 32 + sumNat (gone.map (2 ^ ·)) * 2 ^ 16) ++ w64 size)
/-- The fields of a launch record as bytes, LINK zero (R154, R494). -/
def launchBytes (r : LaunchRec) : List Byte :=
  padTo 256 (le64 r.entry ++ bytesOf 4 r.gx ++ bytesOf 4 r.gy ++ bytesOf 4 r.gz ++ bytesOf 2 r.gangs ++ bytesOf 1 r.wcode ++
    bytesOf 1 r.vregs ++ bytesOf 4 r.scratch ++ bytesOf 2 r.lpriv ++ bytesOf 2 r.csize ++ bytesOf 2 r.l1min ++ bytesOf 2 r.l1max ++
    bytesOf 1 r.arrays ++ bytesOf 1 r.prio ++ bytesOf 1 r.diemask ++ zeros 1 ++ le64 r.deadline ++ le64 r.tblbase ++
    bytesOf 4 r.tbllen ++ bytesOf 4 r.dskib ++ le64 r.trapvec ++ le64 r.param ++ r.binds.flatMap fun b => le64 b.1 ++ le64 b.2)
/-- The data of a kind 0x0A record (R494). -/
def State.teamSmall (s : State) (t : Team) : List Byte :=
  let g := s.grid t.grid
  s.teamHeader t (576 + 32 * t.held.length) ++ launchBytes g.rc ++
    padTo 64 (w64 (g.depth % 16 + b01 t.preq * 256) ++ w64 (g.gridid.toNat + g.parentId.toNat * 2 ^ 32) ++ w64 t.held.length) ++
    t.held.flatMap heldBytes
/-- Entries that a team's copies, collectives and drover bindings may come to owe it (R424, R429): two for each copy that its gangs may
hold, one for each group, and the binding sets of the die. DESIGN CHOICE [22]. -/
def heldRoom (r : LaunchRec) : Nat := r.gangs * 64 + 64 + 24 * 32
/-- The bytes reserved for a team's record: every gang with 32 entries (R419, R424). -/
def LaunchRec.slotSize (r : LaunchRec) (t : Team) : Nat :=
  upTo (256 + t.size + t.arrays.length * (8 * 65536 + 2 * 34880) + r.gangs * upTo (gangSize r.width (8 * r.vregs) 32) 256 +
    32 + 32 * heldRoom r) 4096
/-- A team record whose allocation holds these bytes (R429). -/
def State.teamRecordOf (s : State) (t : Team) (alloc : List Byte) : List Byte :=
  let n := t.arrays.length
  let gs := (s.teamGangs t).flatMap fun a => padTo 256 (s.gangRecord a)
  let body := alloc ++
    ((List.range (8 * n)).flatMap fun h => (List.range 16384).flatMap fun i => le32 (SMap.get (tMarker h) t.tiles (h * 16384 + i))) ++
    ((List.range (2 * n)).flatMap fun b => let x := SMap.get Buffer.empty t.bufs b; bufBytes x ++ padTo 64 (le64 (bufFmt x))) ++ gs ++
    padTo 32 (w64 t.held.length) ++ t.held.flatMap heldBytes
  s.teamHeader t (256 + body.length) ++ body
/-- The record of a team on its core (R429). -/
def State.teamRecord (s : State) (t : Team) : List Byte := s.teamRecordOf t (s.getBytes t.origin t.size)
/-- Where the held entries of a team record begin (R429, item 6). -/
def heldStart (t : Team) (record : List Byte) : Nat := record.length - 32 - 32 * t.held.length

/-- A team record stands in its slot, filled up to whole units, so that it merges with no byte there that cannot be corrected (R53); where a
word of the allocation cannot be corrected, the unit of the record that would hold it cannot be either (R52). DESIGN CHOICE [107]. -/
def writeTeamRecord (at_ : Nat) (bs : List Byte) (lost : List Nat) (s : State) : State :=
  let s := (writeHome false 127 at_ (padTo 64 bs) s).1
  { s with bad := ((lost.map fun o => (at_ + 256 + o) / 64 * 64).eraseDups.filter fun u => !s.bad.contains u) ++ s.bad }
/-- Where in the save region a slot of n bytes is free (R424). -/
def State.saveSlot (s : State) (n : Nat) : Option (Nat × Nat) :=
  let base := (s.reg (rSave 0)).toNat % 2 ^ 44
  let len := (s.reg (rSave 8)).toNat % 2 ^ 28 * 4096
  let used := s.teams.filterMap (·.slot)
  let cands := base :: used.map fun u => u.1 + u.2
  (cands.find? fun c => base ≤ c && c + n ≤ base + len && used.all fun u => u.1 + u.2 ≤ c || c + n ≤ u.1).map fun c => (c, n)
/-- Slots reserved for every team of a request, or none (R419). -/
def reserveSlots (ts : List Nat) (s : State) : Option State :=
  match ts with
  | [] => some s
  | id :: r =>
    let t := s.team id
    if t.slot.isSome then reserveSlots r s
    else
      match s.saveSlot ((s.grid t.grid).rc.slotSize t) with
      | some x => reserveSlots r (s.setTeam { t with slot := some x })
      | none => none
/-- SAVEUSED (R424). -/
def State.saveUsed (s : State) : Nat := sumNat ((s.teams.filterMap (·.slot)).map (·.2))

end Sys2Proof.Machine
end

