-- ==== Sys2Proof/Machine/Placement.lean ====
section
/-!
DEFINITION. From offered teams to placed ones: rotation, the fit test, reserving units and their requests (R48, R59 to R63,
R158 to R160, R402 to R405).
-/
namespace Sys2Proof.Machine

-- Offers (R158, R402).

/-- A distributor has room for a unit of n teams (R158). -/
def DieState.hasRoom (x : DieState) (n : Nat) : Bool := if 4 < n then x.offered.isEmpty else x.offered.length + n ≤ 4
/-- The first die in rotation that a grid may use and that has room (R158). -/
def State.dieFor (s : State) (mask n : Nat) : Option Nat :=
  ((List.range 8).map fun i => (s.lastDie + 1 + i) % 8).find? fun d => (mask = 0 || mask.testBit d) && (s.die d).hasRoom n
/-- A saved unit that no distributor holds: its first member by the order of saving (R402). -/
def State.savedUnit (s : State) (g : Nat) : Option Team :=
  let l := s.teams.filter fun t => t.grid == g && t.state == .saved && t.member == 0 && !(s.dies.any fun e => e.2.offered.contains t.id)
  l.foldl (fun (m : Option Team) t => match m with | none => some t | some x => if t.saveOrder < x.saveOrder then some t else some x) none
/-- The grid whose unit is offered next (R402): its dispatch has been written (R157). A grid under a host request offers nothing (R425). -/
def State.offering (s : State) : Option Grid :=
  let l := s.grids.filter fun g => g.state == .running && !g.hostReq && !g.ended && (s.sys.linkDue.all (·.grid != g.id)) &&
    ((s.savedUnit g.id).isSome || (!g.noMore && g.next < g.rc.count))
  l.foldl (fun (m : Option Grid) g => match m with | none => some g | some x => if x.rc.prio < g.rc.prio then some g else some x) none
/-- TEAM_OFFER (R158, R402). -/
def execTeamOffer (s : State) : Answer :=
  .next (match if s.did onceOffer then none else s.offering with
    | none => s
    | some g =>
      let n := g.rc.members
      match s.dieFor g.rc.diemask n with
      | none => s
      | some d =>
        let s := s.once onceOffer
        let x := s.die d
        match s.savedUnit g.id with
        | some t =>
          let s := t.unit.foldl (fun s m => s.setTeam { s.team m with waited := 0 }) s
          { s.setDie d { x with offered := x.offered ++ t.unit } with lastDie := d }
        | none =>
          let ids := (List.range n).map (s.serial + ·)
          let used := s.teams.map (·.teamid)
          let tids := ((List.range n).foldl (fun (l : List U32 × List U32) i =>
            let v := freshId (l.1 ++ used) ((Config.freeWord (s.fresh + i)).setWidth 32)
            (l.1 ++ [v], l.2 ++ [v])) ([], [])).2
          let ts := (List.range n).map fun i => {
            Team.absent with
            id := s.serial + i
            teamid := (tids[i]?).getD 0
            grid := g.id
            state := .offered
            lin := g.next + i
            member := i
            unit := ids
            die := d }
          let s := s.setGrid { g with next := g.next + n }
          { (s.useFree n).setDie d { x with offered := x.offered ++ ids } with
            serial := s.serial + n, teams := s.teams ++ ts, lastDie := d })

-- The fit test (R48, R59 to R61, R159).

/-- What a team asks of a core. -/
structure Need where
  gangs : Nat
  regs : Nat
  bytes : Nat
  arrays : Nat
  l1 : Nat × Nat
deriving DecidableEq, Repr
def LaunchRec.need (r : LaunchRec) (gangs : Nat) : Need :=
  ⟨gangs, gangs * r.width * r.vregs * 32, r.alloc, r.arrays, r.l1Range⟩
/-- The gangs on a core, but for those of some teams. -/
def State.gangsOn (s : State) (core : Nat) (gone : List Nat) : List Agent :=
  s.all.filter fun a => !a.drover && a.coreNo == core && !gone.contains a.team
/-- A free range of the pool for n bytes, and the blocks that allocations then take (R59, R61, R159). -/
def freeRange (ts : List Team) (n blocks : Nat) : Option Nat :=
  let cands := 0 :: (ts.map fun t => t.base + t.size) ++ ts.map fun t => t.base - n
  let ok := fun (b : Nat) => b + n ≤ 2 ^ 21 && (ts.all fun t => t.base + t.size ≤ b || b + n ≤ t.base) &&
    blocksOf ({ Team.absent with base := b, size := n } :: ts) ≤ blocks
  (cands.filter ok).foldl (fun (m : Option Nat) b => match m with | none => some b | some x => some (min x b)) none
/-- A team fits a core when the teams in `gone` leave it (R159, R404): the offset of its allocation. -/
def State.fits (s : State) (core : Nat) (gone : List Nat) (q : Need) : Option Nat :=
  let ts := (s.residents core).filter fun t => !gone.contains t.id
  let gs := s.gangsOn core gone
  let (lo, hi) := s.coreRange ts
  let lo := max lo q.l1.1
  let hi := min hi q.l1.2
  if 4 ≤ ts.length || 16 < gs.length + q.gangs || 524288 < sumNat (gs.map fun a => a.width * a.q * 4) + q.regs || hi < lo ||
      2 < sumNat (ts.map (·.arrays.length)) + q.arrays then none
  else freeRange ts q.bytes (32 - lo / 64)
/-- Free die scratchpad for a grid: none needed, what it holds already, or a range of the die's 64 MiB (R48). -/
def State.dieRange (s : State) (d : Nat) (g : Grid) : Option (Option Nat) :=
  let n := upTo g.rc.dskib 64 * 1024
  if n = 0 || g.dscratch.any (·.1 == d) then some none
  else
    let used := s.grids.flatMap fun h => (h.dscratch.filter (·.1 == d)).map fun e => (e.2, upTo h.rc.dskib 64 * 1024)
    let cands := 0 :: used.map fun u => u.1 + u.2
    match cands.find? fun c => c + n ≤ 2 ^ 26 && used.all fun u => u.1 + u.2 ≤ c || c + n ≤ u.1 with
    | some c => some (some c)
    | none => none

/-- Gangs that a unit's member brings: those saved with it, or all of its record. -/
def State.memberNeed (s : State) (m : Nat) : Need :=
  let t := s.team m
  let r := (s.grid t.grid).rc
  r.need (if t.state == .saved then t.saved.length else r.gangs)
/-- The cores for the members of a unit, in member order, with the offsets of their allocations (R159). -/
def placeMembers (s : State) (ms : List Nat) (cores : List Nat) : Option (List (Nat × Nat × Nat)) :=
  match ms, cores with
  | [], _ => some []
  | _, [] => none
  | m :: r, c :: cs =>
    match s.fits c [] (s.memberNeed m) with
    | some b => (placeMembers s r cs).map fun l => (m, c, b) :: l
    | none => placeMembers s (m :: r) cs
def State.unitFits (s : State) (d : Nat) (u : List Nat) : Option (List (Nat × Nat × Nat)) :=
  match u with
  | [] => none
  | m :: _ =>
    let g := s.grid (s.team m).grid
    if g.hostReq || (s.dieRange d g).isNone then none else placeMembers s u ((List.range 64).map (d * 64 + ·))

-- The units of a distributor (R403).

/-- The units that a distributor holds, in the order of their offers. -/
def State.heldUnits (s : State) (d : Nat) : List (List Nat) :=
  (s.die d).offered.filterMap fun i => let t := s.team i; if t.unit.head? = some i then some t.unit else none
def State.unitPrio (s : State) (u : List Nat) : Nat := (s.grid (s.team (u.headD 0)).grid).rc.prio
/-- In descending PRIO, and in offer order within one. -/
def State.tryOrder (s : State) (d : Nat) : List (List Nat) :=
  [7, 6, 5, 4, 3, 2, 1, 0].flatMap fun p => (s.heldUnits d).filter fun u => s.unitPrio u == p
/-- A unit has waited long enough to reserve (R403). -/
def State.reserves (s : State) (d : Nat) (u : List Nat) : Bool :=
  let w := ((s.reg (rSched d 0)).extractLsb' 16 16).toNat
  max 1 w * 1024 ≤ (s.team (u.headD 0)).waited
/-- A reserving unit keeps another from being placed: one of lower PRIO, or of equal PRIO and offered after it (R403). -/
def State.held (s : State) (d : Nat) (u : List Nat) : Bool :=
  let us := s.heldUnits d
  us.any fun r => r != u && s.reserves d r &&
    (s.unitPrio u < s.unitPrio r || (s.unitPrio u == s.unitPrio r && us.idxOf r < us.idxOf u))
/-- The unit that the distributor places next, and where: at most one in a cycle (R403). A core that has made its interval decision in this cycle
takes no team in it: a reclaim would have come first (R63). -/
def State.placeable (s : State) (d : Nat) : Option (List Nat × List (Nat × Nat × Nat)) :=
  if s.did (oncePlace d) then none
  else
    match (s.tryOrder d).findSome? fun u => if s.held d u then none else (s.unitFits d u).map fun l => (u, l) with
    | some (u, l) => if l.any fun e => s.did (onceInterval e.2.1) then none else some (u, l)
    | none => none

-- Placement (R63, R159, R160).

/-- The L1 gives up the blocks that an allocation takes (R63). -/
def reclaimL1 (core : Nat) (s : State) : State :=
  let most := (32 - blocksOf (s.residents core)) * 64
  let c := s.core core
  if c.l1kib ≤ most then s
  else
    let s := resizeL1 core most s
    s.setCore core { s.core core with reclaimed := true }
/-- Arrays that no other resident team owns, the lowest first (R160). -/
def State.freeArrays (s : State) (core n : Nat) : List Nat :=
  let used := (s.residents core).flatMap (·.arrays)
  ([0, 1].filter fun a => !used.contains a).take n
/-- The slot of a gang: of scheduler g mod 2 if one is free, else of the other (R159). -/
def State.slotFor (s : State) (core g : Nat) : Nat × Nat :=
  let gs := s.gangsOn core []
  let free := fun (sc : Nat) => (List.range 8).find? fun k => gs.all fun a => !(a.sched == sc && a.slot == k)
  match free (g % 2) with
  | some k => (g % 2, k)
  | none => match free (1 - g % 2) with | some k => (1 - g % 2, k) | none => (g % 2, 0)
/-- Die scratchpad for the first team of a grid on a die, filled with zeros (R48). -/
def takeDie (d : Nat) (g : Nat) (s : State) : State :=
  let x := s.grid g
  match s.dieRange d x with
  | some (some c) => zeroFill (2 ^ 40 + d * 2 ^ 26 + c) (upTo x.rc.dskib 64 * 1024) (s.setGrid { x with dscratch := SMap.insert x.dscratch d c })
  | _ => s
/-- A unit leaves its distributor, and the requests raised for it are withdrawn (R405). -/
def leaveQueue (d : Nat) (u : List Nat) (s : State) : State :=
  let x := s.die d
  withdraw (u.contains ·) ((s.once (oncePlace d)).setDie d { x with
    offered := x.offered.filter fun i => !u.contains i
    tried := x.tried.filter fun i => !u.contains i })
/-- A team takes its core: pool, arrays (R159, R160). -/
def claim (m core base : Nat) (st : TeamState) (s : State) : State :=
  let t := s.team m
  let r := (s.grid t.grid).rc
  let ar := s.freeArrays core r.arrays
  let s := s.setTeam { t with
    state := st
    die := core / 64
    core := core % 64
    base := base
    size := r.alloc
    spad := r.scratch
    arrays := ar
    waited := 0
    placed := s.serial }
  reclaimL1 core { s with serial := s.serial + 1 }
/-- The gangs of a placed team take their slots and registers (R159). -/
def claimGangs (m : Nat) (s : State) : State :=
  let t := s.team m
  let r := (s.grid t.grid).rc
  (List.range r.gangs).foldl (fun s i =>
    let (sc, k) := s.slotFor (t.die * 64 + t.core) i
    { s with agents := s.agents ++ [newGang s.serial r t i sc k], serial := s.serial + 1 }) s
/-- A new unit is placed: all of its resources in one step (R159). -/
def placeUnit (d : Nat) (u : List Nat) (l : List (Nat × Nat × Nat)) (s : State) : State :=
  let g := (s.team (u.headD 0)).grid
  let used := ((s.grid g).rc.binds.filter (·.1 != 0)).length
  let s := takeDie d g (leaveQueue d u s)
  l.foldl (fun s (e : Nat × Nat × Nat) =>
    let s := claim e.1 e.2.1 e.2.2 .starting s
    claimGangs e.1 (s.setTeam { s.team e.1 with bindsLeft := used })) s
/-- TEAM_PLACE: the distributor of a die places its next unit; a saved one returns by TEAM_RESUME (R159, R403). -/
def execTeamPlace (die : Nat) (s : State) : Answer :=
  .next (match s.placeable die with
    | some (u, l) => if (s.team (u.headD 0)).state == .offered then placeUnit die u l s else s
    | none => s)

-- Requests of reserving units (R404, R419).

/-- Teams on a core that a unit of priority p may ask to give way: lowest PRIO first, then the most recently placed. -/
def State.victims (s : State) (core p : Nat) : List Team :=
  let ts := (s.residents core).filter fun t => t.state == .running && (s.grid t.grid).rc.prio < p
  let before := fun (x y : Team) =>
    let px := (s.grid x.grid).rc.prio
    let py := (s.grid y.grid).rc.prio
    px < py || (px == py && y.placed < x.placed)
  ts.foldl (fun l t => (l.takeWhile fun x => before x t) ++ t :: l.dropWhile fun x => before x t) []
/-- The fewest of them, in that order, whose saving lets a member fit, beside those chosen already; with every member of their clusters
(R77, R404). -/
def State.victimsFor (s : State) (core p : Nat) (q : Need) (gone : List Nat) : Option (List Nat) :=
  let vs := (s.victims core p).filter fun t => !gone.contains t.id
  (List.range (vs.length + 1)).findSome? fun n =>
    let l := (vs.take n).flatMap (·.unit)
    if (s.fits core (gone ++ l) q).isSome then some l else none
/-- Victims for the members of a unit on the lowest-numbered cores that can be made to fit; those chosen for one core, and the members of
their clusters, are gone from the others. -/
def victimsOn (s : State) (p : Nat) (ms cores gone : List Nat) : Option (List Nat) :=
  match ms, cores with
  | [], _ => some gone
  | _, [] => none
  | m :: r, c :: cs =>
    match s.victimsFor c p (s.memberNeed m) gone with
    | some l => victimsOn s p r cs (gone ++ l)
    | none => victimsOn s p (m :: r) cs gone
/-- A unit that reserves on a die, has no request standing and has not tried in vain, with the teams that it asks, if a choice suffices. -/
def State.wouldAsk (s : State) (d : Nat) : Option (Nat × List Nat) :=
  if !(s.reg (rSched d 0)).getLsbD 0 then none
  else
    ((s.tryOrder d).find? fun u => s.reserves d u && !(s.die d).asks.any (·.1 == u.headD 0) && !(s.die d).tried.contains (u.headD 0)).map
      fun u => (u.headD 0, ((victimsOn s (s.unitPrio u) u ((List.range 64).map (d * 64 + ·)) []).getD []).eraseDups)
/-- A request stands on a team: its budget is loaded when none stood (R404, R419). -/
def askTeam (budget id : Nat) (s : State) : State :=
  let t := s.team id
  s.setTeam { t with preq := true, pdl := if t.preq then t.pdl else budget, pdlDone := t.preq && t.pdlDone }
/-- UNIT_RESERVING: the request is raised where teams suffice and their save space can be reserved; else the unit tries again when a
resident team is freed or saved (R403, R404, R419). -/
def execUnitReserving (die : Nat) (s : State) : Answer :=
  .next (match s.wouldAsk die with
    | none => s
    | some (u, l) =>
      match if l.isEmpty then none else reserveSlots l s with
      | none => let x := s.die die; s.setDie die { x with tried := x.tried ++ [u] }
      | some s =>
        let budget := (s.reg (rSched die 0)).toNat / 2 ^ 32
        let s := l.foldl (fun s i => askTeam budget i s) (s.count (rSched die 8) 1)
        let x := s.die die
        s.setDie die { x with asks := x.asks ++ [(u, l)] })

end Sys2Proof.Machine
end

