-- ==== Sys2Proof/Machine/Preempt.lean ====
section
/-!
DEFINITION. Stops that come after their word, the end of drover programs by fault, pre-emption from request to resumption, and the
host's commands to gangs and grids (R161, R388 to R391, R412 to R430, R462).
-/
namespace Sys2Proof.Machine

-- Another agent at issue.

/-- f with agent `id` as the one at issue; the one that was at issue comes back, with its word. -/
def asIssuer (id : Nat) (f : State → State) (s : State) : State :=
  if s.g.id = id then f s
  else
    match s.agents.find? (·.id == id) with
    | none => s
    | some a =>
      let old := s.g
      let put := fun (b : Agent) (l : List Agent) => if b.id = 0 then l else l ++ [b]
      let t := f { s with g := a, agents := put old (s.agents.filter (·.id != id)), cur := ((a.paths[0]?).getD Path.empty).id }
      let back := (t.agents.find? (·.id == old.id)).getD Agent.absent
      { t with
        g := back
        agents := put t.g (t.agents.filter (·.id != old.id))
        cur := s.cur
        word := s.word
        lanes := s.lanes
        pmask := s.pmask
        sel := s.sel && back.id = old.id }

-- Traps that waited for what was sent (R388, R412, R413, R415).

/-- TRAP_ENTRY (R415, R417). -/
def execTrapEntry (agent : Nat) (s : State) : Answer := .next (finishStop false agent s)
/-- DROVER_TRAP (R388). -/
def execDroverTrap (agent : Nat) (s : State) : Answer := .next (finishStop true agent s)

-- A drover program that ends by fault (R161, R389 to R391).

/-- Transfers of a context that have not completed. -/
def State.xfersOf (s : State) (id : Nat) : List Xfer := s.eng.xfers.filter fun x => x.drover && x.agent == id
/-- DROVER_PROGRAM_FAULT: the context stops, what no walker has accepted is dropped, and the grid learns of it (R161, R389). -/
def execDroverProgramFault (agent : Nat) (s : State) : Answer :=
  .next (match s.agent? agent with
    | none => s
    | some a =>
      match a.endFault with
      | some c =>
        if !a.drover || !a.ended || a.paths.isEmpty then s
        else
          let s := stopProgram agent s
          if a.binding.isSome then bindingFault a.team a.grid c s else gridFault a.grid c s
      | none => s)
/-- DROVER_BARRIER_MARK: once every accepted operation has completed, the barriers of the binding set are broken (R389, R390). -/
def execDroverBarrierMark (agent : Nat) (s : State) : Answer :=
  .next (match s.agent? agent with
    | none => s
    | some a =>
      if !a.drover || !a.ended || a.endFault.isNone || !a.paths.isEmpty || !(s.xfersOf agent).isEmpty then s
      else
        let s := s.setAgent { a with bset := [] }
        a.bset.foldl (fun s b => owe b.1 (.broken b.2 1) s) s)
/-- DROVER_CONTEXT_FREE: the context of a program that was stopped or that faulted is free (R385, R389, R399). -/
def execDroverContextFree (agent : Nat) (s : State) : Answer :=
  .next (match s.agent? agent with
    | none => s
    | some a =>
      if !a.drover || !a.ended || !a.paths.isEmpty || !(s.xfersOf agent).isEmpty || (a.endFault.isSome && !a.bset.isEmpty) then s
      else reapTeams (setLastCause a.die a.idx (a.endFault.getD 0) (removeAgent agent (captureRegs a s))))

-- The host's requests (R419, R425).

def rPreres : Nat := rSave 0x38
/-- A grid by its GRIDID, while it runs. -/
def State.gridNamed (s : State) (x : U32) : Option Grid := s.grids.find? fun g => g.gridid == x && g.state == .running
/-- The placed teams of a grid that a request covers, and the exited members of their clusters, which are saved with them. -/
def State.requestTeams (s : State) (g : Nat) : List Nat :=
  (s.teams.filter fun t => t.grid == g && (t.state == .running || t.state == .starting ||
    (t.state == .exited && t.unit.any fun m => (s.team m).state == .running))).map (·.id)
/-- PREGRID_REQUEST (R419, R425). -/
def execPregridRequest (grid : U32) (s : State) : Answer :=
  .next (match s.gridNamed grid with
    | none => s.setReg rPreres 1
    | some g =>
      let ts := s.requestTeams g.id
      match reserveSlots ts s with
      | none => s.setReg rPreres 2
      | some s =>
        let budget := max 1 ((s.reg (rSave 0x28)).toNat % 2 ^ 32)
        let s := ts.foldl (fun s i =>
          let s := askTeam (if (s.team i).state == .starting then 0 else budget) i s
          s.setTeam { s.team i with reqHost := true }) s
        (s.setGrid { s.grid g.id with hostReq := true }).setReg rPreres 0)
/-- The host's request on a team ends; a distributor's may stand on (R405, R425). -/
def endHostReq (id : Nat) (s : State) : State :=
  let t := s.team id
  let asked := s.dies.any fun e => e.2.asks.any fun k => k.2.contains id
  if t.state == .saved then s
  else if asked then s.setTeam { t with reqHost := false }
  else (s.gangsOf id).foldl (fun s a => s.setAgent { a with yielded := false })
    (s.setTeam { t with reqHost := false, preq := false, slot := none })
/-- PREGRID_WITHDRAW (R425). -/
def execPregridWithdraw (grid : U32) (s : State) : Answer :=
  .next (match s.gridNamed grid with
    | none => s.setReg rPreres 1
    | some g =>
      if !g.hostReq then s.setReg rPreres 3
      else
        let s := s.setGrid { g with hostReq := false }
        (((s.teams.filter fun t => t.grid == g.id && t.reqHost).map (·.id)).foldl (fun s i => endHostReq i s) s).setReg rPreres 0)

-- Saving (R421 to R423).

/-- PDL_EXPIRE: every gang of the team that has not stopped is stopped for a forced save (R421, R423). -/
def execPdlExpire (team : Nat) (s : State) : Answer :=
  let t := s.team team
  .next (if t.state == .running && t.preq && t.pdl = 0 && !t.pdlDone then s.setTeam { t with pdlDone := true } else s)

/-- A range lock of some operation lies in a team's allocation, or a transfer that a walker has accepted is still to register one there (R421,
R422). -/
def State.lockedIn (s : State) (t : Team) : Bool :=
  ((s.core (t.die * 64 + t.core)).locks.any fun l => l.lo < t.base + t.size && t.base < l.hi) ||
    s.eng.xfers.any fun x => x.accepted && !x.locked && (x.kind == .ld || x.kind == .st) && (s.xferTeams x).any (·.id == t.id)
/-- The home of a save slot can take its record, and every write that the module owes there has been made (R42). -/
def State.slotReady (s : State) (x : Nat × Nat) : Bool :=
  !s.homeWaits none x.1 x.2 && s.sys.posted.all fun w => w.1 + w.2.length ≤ x.1 || x.1 + x.2 ≤ w.1
/-- Nothing keeps a member of a unit from being saved: its gangs have stopped and what they sent has finished, and so have the
operations that hold locks and those of its arrays; its slot can be written (R42, R421, R423). -/
def State.mayBeSaved (s : State) (m : Nat) : Bool :=
  let t := s.team m
  let gs := s.gangsOf m
  t.preq && t.slot.isSome && ((t.state == .running && !gs.isEmpty && (t.pdlDone || gs.all (·.yielded))) || t.state == .exited) &&
    (gs.all fun a => a.stopping.isNone && a.pausing.isNone && a.resuming.isNone && s.ops.all fun o => !o.readers.contains a.id && (o.agent != a.id || o.kind == .fill || o.inlineRead)) &&
    !s.lockedIn t && s.eng.mats.all (·.team != m) && t.slot.all s.slotReady
/-- What a saved gang is: a word that it waits at issues again (R423); a store that was dropped is held as a fault at the point where the gang
stands, or stays to be reported where it holds one already. -/
def Agent.toSave (a : Agent) : Agent :=
  { a with
    yielded := false
    forced := !a.yielded
    atBarT := false
    atBarC := false
    walked := []
    dropped := if a.heldFault.isSome then a.dropped else []
    heldFault := a.heldFault.or ((dropReport a).map fun r => { r with pc := a.standsAt })
    gap := 0
    gw := 0
    lent := RegVals.none
    paths := a.paths.map fun (p : Path) => { p with stalled := false, shadows := [] } }
/-- Words of a team's allocation that cannot be corrected, by their offset in it (R51). -/
def State.lostWords (s : State) (t : Team) : List Nat :=
  (s.bad.filter fun u => t.origin ≤ u && u < t.origin + t.size).map (· - t.origin)
/-- One team is saved: its record is written, then its resources are freed, pending granules captured first (R144, R421). -/
def saveTeam (m : Nat) (s : State) : State :=
  let t := s.team m
  let gs := s.gangsOf m
  let s := gs.foldl (fun s a => s.setAgent a.toSave) s
  let bs := s.teamRecord (s.team m)
  let s := writeTeamRecord ((t.slot.getD (0, 0)).1) bs (s.lostWords t) s
  let s := gs.foldl (fun s a => if a.yielded then s else traceStop a a.standsAt a.haltReport.mask a.parked true s) s
  let saved := s.gangsOf m
  let s := saved.foldl (fun s a => removeAgent a.id (captureRegs a s)) s
  let s := if s.calm then s
    else
      let s := (grRange t.origin t.size).foldl (fun s g => capture true g s) s
      let s := (List.range 16).foldl (fun s h => capture true (grTile t.id h) s) s
      (List.range 4).foldl (fun s b => capture true (grBuf t.id b) s) s
  let s := { s with
    ops := s.ops.filter fun o => !(o.inlineRead && saved.any fun a => a.id == o.agent)
    dies := s.dies.map fun (e : Nat × DieState) => (e.1, { e.2 with
      binds := e.2.binds.filter fun q => !(q.binding.isNone && saved.any fun a => a.id == q.agent)
      tried := []
      asks := (e.2.asks.map fun (k : Nat × List Nat) => (k.1, k.2.filter (· != m))).filter fun k => !k.2.isEmpty }) }
  let s := s.setTeam { s.team m with state := .saved, saved := saved, heldAt := heldStart t bs, saveOrder := s.serial, arrays := [] }
  let s := (s.count (rSave 0x18) 1).count (rSave 0x20) (gs.filter fun (a : Agent) => !a.yielded).length
  { s with serial := s.serial + 1 }
/-- TEAM_SAVE: the unit of a team, once every member may be saved (R77, R421). -/
def execTeamSave (team : Nat) (s : State) : Answer :=
  let t := s.team team
  .next (if t.state == .running && t.unit.all s.mayBeSaved then t.unit.foldl (fun s m => saveTeam m s) s else s)

-- Settling entries for an agent that is not at issue (R363, R430, R462).

/-- A parked gang continues at its return point, as after TRET; a hit that is owed is reported first (R416, R453, R462). -/
def unpark (id : Nat) (s : State) : State :=
  asIssuer id (fun s =>
    takeHit { s with g := { s.g with
      parked := false
      nonstop := false
      paths := s.g.paths.map fun (p : Path) => { p with age := 0, stalled := false } } }) s
/-- What walks have found missing for the entries of a settlement has served. -/
def settled (s : State) : State := if s.g.resuming.isSome then s else { s with g := { s.g with walked := [] } }
/-- The settlement of a gang that the host resumes or that its team's resumption restores goes on (R363, R430, R462): entries are settled; a
lane that faults again leaves a parked gang parked with the new report; a gang that is through continues, or raises the fault that it holds or
that a replay met; a parked one holds its fault until it leaves the parked state. DEDUCED [40]. -/
def settleStep (id : Nat) (s : State) : State :=
  match s.agent? id with
  | none => s
  | some a =>
    match a.resuming with
    | none => s
    | some ⟨.word, _, _⟩ => s
    | some ⟨.host c, _, _⟩ =>
      let s := asIssuer id (fun s => settled (settleOn (fun _ => c) s).1) s
      match s.agent? id with
      | some b => if b.resuming.isNone && b.pend.isEmpty then unpark id s else s
      | none => s
    | some ⟨.replay cmd, _, _⟩ =>
      let s := asIssuer id (fun s => settled (settleOn (fun _ => true) s).1) s
      match s.agent? id with
      | none => s
      | some b =>
        if b.resuming.isSome then s
        else
          let again := b.pend.any (·.replay)
          let b := { b with pend := b.pend.map fun (e : PendEntry) => { e with replay := false } }
          let s := s.setAgent b
          let p := (b.runnable[0]?).getD Path.empty
          match b.parked, cmd, again, b.heldFault with
          | true, some c, false, _ => s.setAgent { b with resuming := some ⟨.host c, 0, false⟩ }
          | true, _, _, _ => s
          | false, _, _, some r => enterTrap { b with heldFault := none } ⟨{ r with pc := if r.pc = 0 then b.standsAt else r.pc }, p.pc, p.plane, p.id, []⟩ s
          | false, _, true, none => enterTrap b ⟨b.trap, p.pc, p.plane, p.id, []⟩ s
          | false, _, false, none => s
/-- A settlement is taken as far as it goes at once. -/
def settleAgain (fuel id : Nat) (s : State) : State :=
  match fuel with
  | 0 => s
  | n + 1 =>
    let t := settleStep id s
    match (s.agent? id).bind (·.resuming), (t.agent? id).bind (·.resuming) with
    | some x, some y => if x = y then t else settleAgain n id t
    | _, _ => t
/-- GANG_SETTLE: a gang that the host or a resumption restarts settles its entries; one that goes on after a request was withdrawn, or that has
left the parked state, settles what a forced save has left it (R405, R425, R430). -/
def execSettle (id : Nat) (s : State) : Answer :=
  .next (settleAgain 64 id (match s.agent? id with
    | some a => if s.owesReplay a then s.setAgent { a with resuming := some ⟨.replay none, 0, false⟩ } else s
    | none => s))
/-- A gang stops for a hit that it has come to owe: at a barrier it waited first (R257, R452). -/
def hitDue (id : Nat) (s : State) : State :=
  match s.agent? id with
  | some a => if a.owesHit && !(s.sel && s.g.id = id) then asIssuer id takeHit s else s
  | none => s
/-- A host's resume of a parked gang (R462). -/
def hostResume (complete : Bool) (id : Nat) (s : State) : State :=
  match s.agent? id with
  | none => s
  | some a => if a.resuming.isSome then s
    else settleAgain 64 id (s.setAgent { a with resuming := some ⟨.host complete, 0, false⟩ })

-- Resumption (R430).

/-- A restored gang settles its replay entries and a resume command that it received, then raises a held fault (R430, steps 3, 4). -/
def restart (cmds : List (Nat × Bool)) (id : Nat) (s : State) : State :=
  match s.agent? id with
  | none => s
  | some a =>
    settleAgain 64 id (s.setAgent { a with resuming := some ⟨.replay ((cmds.find? (·.1 == id)).map (·.2)), 0, false⟩ })
/-- The lines of a saved team's allocation, in its record (R429). -/
def savedLines (t : Team) : List Nat := (List.range ((t.size + 127) / 128)).map fun i => (t.slot.getD (0, 0)).1 + 256 + 128 * i
/-- The bytes of a saved team's allocation, read from its record at their home, and the 8-byte words, by their offset, of which some could not
be corrected (R43, R52, R429, R430). -/
def readSaved (t : Team) (s : State) : State × List Byte × List Nat :=
  let a := (t.slot.getD (0, 0)).1 + 256
  let s := (savedLines t).foldl (fun s l => (readHome none true false 127 l 128 s).1) s
  let lost := (savedLines t).flatMap fun l => if (s.badUnits l 128).isEmpty then [] else
    (List.range 16).filterMap fun k => if (s.badUnits (l + 8 * k) 8).isEmpty then none else some (l - a + 8 * k)
  (s, s.getBytes a t.size, lost)
/-- The transfers of a restored team that its walker has accepted and not started follow it to its core (R325, R444). -/
def moveXfers (m core : Nat) (s : State) : State :=
  let mine := s.eng.xfers.filter fun x => x.accepted && !x.locked && (x.kind == .ld || x.kind == .st) && x.target == m && x.core != core
  let go := fun (x : Xfer) => if mine.contains x then { x with die := core / 64, core := core } else x
  let s := { s with eng := { s.eng with xfers := s.eng.xfers.map go } }
  mine.foldl (fun s x =>
    let c := s.core x.core
    let s := s.setCore x.core { c with queue := c.queue.filter (· != x.id) }
    let c := s.core core
    s.setCore core { c with queue := c.queue ++ [x.id] }) s
/-- One saved team comes back to a core: its allocation and arrays, its gangs, the writes held for it (R422, R430, steps 1, 2). -/
def restoreTeam (m core base : Nat) (s : State) : State :=
  let t := s.team m
  let (s, bs, lost) := readSaved t s
  let exited := t.saved.isEmpty
  let s := claim m core base .running s
  let n := s.team m
  let s := zeroFill n.origin n.size s
  let s := s.writeMem n.origin bs
  let s := moveXfers m core { s with bad := lost.map (n.origin + ·) ++ s.bad }
  let s := t.saved.foldl (fun s a =>
    let (sc, k) := s.slotFor core a.idx
    { s with agents := s.agents ++ [{ a with
      die := core / 64
      core := core % 64
      sched := sc
      slot := k
      forced := false
      paths := a.paths.map fun (p : Path) => { p with age := 0 } }] }) s
  let s := s.setTeam { s.team m with
    state := if exited then .exited else .running
    preq := false
    reqHost := false
    pdl := 0
    pdlDone := false
    slot := none
    saved := []
    held := []
    resume := [] }
  t.held.foldl (fun s w => owe m w s) (l1Clear core s)
/-- TEAM_RESUME: the distributor that holds a saved unit places it, and its gangs go on together (R77, R402, R430). -/
def execTeamResume (team : Nat) (s : State) : Answer :=
  let t := s.team team
  .next (if t.state != .saved then s
    else
      match (List.range 8).find? fun d => (s.die d).offered.contains team with
      | none => s
      | some d =>
        match s.placeable d with
        | none => s
        | some (u, l) =>
          if !u.contains team || u.any (fun m => (savedLines (s.team m)).any fun l => s.homeWaits none l 128) then s
          else
            let back := u.map fun m => ((s.team m).saved.map (·.id), (s.team m).resume)
            let s := takeDie d t.grid (leaveQueue d u s)
            let s := l.foldl (fun s (e : Nat × Nat × Nat) => restoreTeam e.1 e.2.1 e.2.2 s) s
            reapTeams (back.foldl (fun s x => x.1.foldl (fun s id => restart x.2 id s) s) s))

-- Commands of the host (R462).

/-- HGCMD with OP 2 or 3. -/
def hgResume (complete : Bool) (gang : BitVec 36) (s : State) : State :=
  let named := fun (a : Agent) => !a.drover && (s.gangid a).setWidth 36 == gang
  match s.all.find? named with
  | some a => if !a.parked then s.setReg rHgres 2 else (hostResume complete a.id s).setReg rHgres 0
  | none =>
    match s.teams.findSome? fun t => (t.saved.find? named).map fun a => (t, a) with
    | some (t, a) =>
      if !a.parked then s.setReg rHgres 2
      else (s.setTeam { t with resume := (t.resume.filter (·.1 != a.id)) ++ [(a.id, complete)] }).setReg rHgres 3
    | none => s.setReg rHgres 1
/-- HGCMD_RESUME_COMPLETE. -/
def execHgcmdResumeComplete (gang : BitVec 36) (s : State) : Answer := .next (hgResume true gang s)
/-- HGCMD_RESUME_DISCARD. -/
def execHgcmdResumeDiscard (gang : BitVec 36) (s : State) : Answer := .next (hgResume false gang s)

/-- A grid and its descendants that run, by GRIDID (R462). -/
def descendants (fuel : Nat) (gs : List Grid) (ids : List U32) : List U32 :=
  match fuel with
  | 0 => ids
  | n + 1 =>
    let more := (gs.filter fun g => ids.contains g.parentId && !ids.contains g.gridid).map (·.gridid)
    if more.isEmpty then ids else descendants n gs (ids ++ more)
/-- A team of a grid that is ended: its gangs are discarded with their entries, and a saved one with what is held for it. -/
def discardTeam (id : Nat) (s : State) : State :=
  let t := s.team id
  let gs := s.gangsOf id
  let s := dropInline (fun a => gs.any (·.id == a)) s
  if t.state == .saved then
    withdraw (· == id) { s with
      teams := s.teams.filter (·.id != id)
      dies := s.dies.map fun (e : Nat × DieState) => (e.1, { e.2 with offered := e.2.offered.filter (· != id) }) }
  else dismiss id s
/-- One grid of those that are ended (R399, R462): its groups are knelled, its drover contexts stop. -/
def endGrid (id : Nat) (s : State) : State :=
  let g := s.grid id
  let s := s.setGrid { g with ended := true, noMore := true }
  let s := dropOffered id s
  let s := ((s.teams.filter fun t => t.grid == id).map (·.id)).foldl (fun s t => discardTeam t s) s
  let s := ((s.all.filter fun a => a.drover && a.grid == id && !a.ended).map (·.id)).foldl (fun s a => stopProgram a s) s
  let s := { s with dies := s.dies.map fun (e : Nat × DieState) => (e.1, { e.2 with
    binds := e.2.binds.filter fun q => q.grid != id
    restored := e.2.restored.filter fun a => a.grid != id }) }
  let s := ((List.range 64).filter fun k => s.grpState k = 1 && (s.reg (rFab (0x400 + 8 * k))).setWidth 32 == g.gridid).foldl
    (fun s k => sendKnell k s) s
  reapTeams s
/-- Descendants that are still queued retire at once with STATUS 5 (R162); a fault of the write of LINK is logged with GRID 0, since they have no
GRIDID (R157). DESIGN CHOICE [107]. -/
def endQueued (ids : List U32) (s : State) : State :=
  let out := s.queues.flatMap fun e => e.2.filter fun (x : Queued) => x.parent.isSome && ids.contains x.parentId
  let s := { s with queues := (s.queues.map fun (e : Nat × List Queued) =>
    (e.1, e.2.filter fun x => !(x.parent.isSome && ids.contains x.parentId))).filter fun e => !e.2.isEmpty }
  out.foldl (fun s x =>
    let v := linkValue 0 5 x.depth x.parentId
    let s := bindChild x s.serial { s with serial := s.serial + 1 }
    writeLink v (s.serial - 1) false ⟨true, x.recva, v, x.ctx, 0⟩ s) s
/-- HGCMD_END_GRID (R462). -/
def execHgcmdEndGrid (grid : U32) (s : State) : Answer :=
  .next (match s.gridNamed grid with
    | none => s.setReg rHgres 1
    | some _ =>
      let run := s.grids.filter (·.state == .running)
      let ids := descendants run.length run [grid]
      let s := endQueued ids s
      (((run.filter fun g => ids.contains g.gridid).map (·.id)).foldl (fun s g => endGrid g s) s).setReg rHgres 0)

end Sys2Proof.Machine
end

