-- ==== Sys2Proof/Machine/Debug.lean ====
section
/-!
DEFINITION. Causal trials, freeze and readback (R453 to R457), and what a read of a control register returns (R34, R57, R64, R148, R157,
R395, R424, R461, R463, R467, R468).
-/
namespace Sys2Proof.Machine

-- Causal trials (R454, R455).

def rCxctl : Nat := rExp 0x18
/-- CXVD takes the delay owed since it last did, at the MCLK period of those cycles: whole nanoseconds. DESIGN CHOICE [26]. -/
def payVirtual (s : State) : State :=
  match s.sys.trial with
  | none => s
  | some t =>
    let sp := ((s.reg rCxctl).extractLsb' 16 8).toNat
    { s.count (rExp 0x28) (t.unpaid * sp * 1000000 / (256 * max 1 s.mclk)) with
      sys := { s.sys with trial := some { t with unpaid := 0 } } }
/-- An agent's word at an offset counts in the trial (R455). -/
def State.inTrial (s : State) (a : Agent) (o : Offs) (p : Nat) : Bool :=
  let c := s.reg rCxctl
  s.sys.trial.isSome && !a.drover && (s.grid a.grid).gridid == c.extractLsb' 32 32 && (s.grid a.grid).rc.entry == s.reg (rExp 0) &&
    (s.reg (rExp 0x8)).toNat ≤ o.toNat && o.toNat ≤ (s.reg (rExp 0x10)).toNat && c.getLsbD (12 + p)
/-- An in-range issue: every other unparked gang of the grid is owed delay (R455). -/
def countTrial (a : Agent) (s : State) : State :=
  match s.sys.trial with
  | none => s
  | some t =>
    let add := fun (m : SMap Nat) (k : Nat) => SMap.set 0 m k (SMap.get 0 m k + 1)
    let others := s.all.filter fun b => !b.drover && b.grid == a.grid && b.id != a.id && !b.parked
    let t := { t with inRange := add t.inRange a.id, owed := others.foldl (fun m b => add m b.id) t.owed, unpaid := t.unpaid + 1 }
    { s.count (rExp 0x30) 1 with sys := { s.sys with trial := some t } }
/-- CAUSAL_TRIAL_START: GO has been written (R454). -/
def execCausalTrialStart (s : State) : Answer :=
  .next (if s.sys.trial.isSome || !(s.reg rCxctl).getLsbD 0 then s
    else { (s.setReg (rExp 0x28) 0).setReg (rExp 0x30) 0 with sys := { s.sys with trial := some ⟨s.gt, [], [], [], 0, 0⟩ } })
/-- CAUSAL_DELAY_PAYMENT: also a parked gang is paid what it is owed from before (R455). -/
def execCausalDelayPayment (s : State) : Answer :=
  .next (match s.sys.trial with
    | none => s
    | some t =>
      if t.cycles < 1024 then s
      else
        let sp := ((s.reg rCxctl).extractLsb' 16 8).toNat
        let hold := s.all.foldl (fun m a =>
          if a.drover then m
          else SMap.set 0 m a.id (SMap.get 0 m a.id + (SMap.get 0 t.owed a.id * sp / 256 - SMap.get 0 t.inRange a.id))) t.hold
        let s := payVirtual s
        { s with sys := { s.sys with trial := some { t with inRange := [], owed := [], hold := hold, unpaid := 0, cycles := 0 } } })
/-- CAUSAL_TRIAL_END (R454). -/
def execCausalTrialEnd (s : State) : Answer :=
  .next (match s.sys.trial with
    | none => s
    | some t =>
      if (s.gt - t.start).toNat < (s.reg (rExp 0x20)).toNat then s
      else
        let s := payVirtual s
        { s.setReg rCxctl (s.reg rCxctl &&& ~~~(1 : U64)) with sys := { s.sys with trial := none } })

-- Freeze and readback (R456, R457).

/-- FRZST: FROZEN. -/
def setFrozen (x : Option Blocks) (s : State) : State :=
  { s.setReg (rRb 0x10) (if x.isSome then 1 else 0) with frozen := x }
/-- FREEZE_COMMAND of the management controller re-arms a freeze that is held (R456, R464). -/
def execFreezeCommand (s : State) : Answer := .next (trigger (setFrozen none s))
/-- FREEZE_PIN. -/
def execFreezePin (s : State) : Answer := .next (trigger s)
/-- FREEZE_LATCH: sixteen cycles after the trigger. -/
def execFreezeLatch (s : State) : Answer :=
  .next (match s.sys.freezeIn with
    | some 0 =>
      let s := { s with sys := { s.sys with freezeIn := none } }
      setFrozen (some s.toBlocks) s
    | _ => s)
/-- FRZST_REARM. -/
def execFrzstRearm (s : State) : Answer := .next (setFrozen none s)
/-- The last answer to a requester. -/
def respond (bs : List Byte) (s : State) : State := { s with sys := { s.sys with reply := bs, status := .success } }
/-- An answer without data. -/
def respondBad (x : ReplyStatus) (s : State) : State := { s with sys := { s.sys with reply := [], status := x } }
/-- What a block of the module holds: its registers, its memory, and its part of the state (R457). -/
structure BlockView where
  regs : SMap U64
  mem : SMap Byte
  core : Option CoreState
  die : Option DieState
  agents : List Agent
  teams : List Team
  sys : Option SystemState
  eng : Option EngineState
  grids : List Grid
  queues : SMap (List Queued)
deriving DecidableEq, Repr
/-- Block n: 0 to 511 core 64d + c, 512 to 519 the L2 and memory of die d, 520 to 567 drover 6d + k, 568 the fabric and snapshot block, with
what belongs to no other (R457). -/
def Blocks.view (b : Blocks) (n : Nat) : BlockView :=
  let s : State := { State.reset with toBlocks := b }
  let regs := fun (lo k : Nat) => b.bar.filter fun e => lo ≤ e.1 && e.1 < lo + k
  if n < 512 then
    { regs := regs (rCore n 0) 0x10000
      mem := b.mem.filter fun e => poolBase n ≤ e.1 && e.1 < poolBase (n + 1)
      core := some (s.core n)
      die := none
      agents := s.all.filter fun a => !a.drover && a.die * 64 + a.core == n
      teams := b.teams.filter fun t => t.die * 64 + t.core == n
      sys := none
      eng := none
      grids := []
      queues := [] }
  else if n < 520 then
    { regs := regs (rDieMem (n - 512) 0) 0x100000
      mem := b.mem.filter fun e => e.1 < 2 ^ 44 && dieOf e.1 == n - 512
      core := none
      die := some (s.die (n - 512))
      agents := []
      teams := []
      sys := none
      eng := none
      grids := []
      queues := [] }
  else if n < 568 then
    { regs := regs (rDrv ((n - 520) / 6) 0) 0x10000
      mem := []
      core := none
      die := none
      agents := s.all.filter fun a => a.drover && a.die * 6 + a.core == n - 520
      teams := []
      sys := none
      eng := none
      grids := []
      queues := [] }
  else
    { regs := b.bar.filter fun e => e.1 < 0x100000 || 0x3000000 ≤ e.1
      mem := []
      core := none
      die := none
      agents := []
      teams := []
      sys := some b.sys
      eng := some b.eng
      grids := b.grids
      queues := b.queues }
/-- DESIGN CHOICE [9]. The word at a byte offset of a block (R457): the manual gives no layout within one. -/
opaque readback (x : BlockView) (block off : Nat) : U64
/-- What RBDATA returns: of the frozen copy where there is one (R457). -/
def State.rbdata (s : State) : U64 :=
  let sel := (s.reg (rRb 0)).toNat
  readback ((s.frozen.getD s.toBlocks).view (sel / 2 ^ 48)) (sel / 2 ^ 48) (sel % 2 ^ 48)
/-- READBACK_READ (R457). -/
def execReadbackRead (s : State) : Answer := .next (respond (le64 s.rbdata) s)

-- Reads of control registers.

def hi (n : Nat) (b : Bool) : Nat := if b then 2 ^ n else 0
/-- PARKLOGA and PARKLOGB (R467). -/
def State.parkloga (s : State) : U64 :=
  match s.sys.parklog with
  | [] => BitVec.ofNat 64 (hi 62 s.sys.parkOvf)
  | e :: _ => BitVec.ofNat 64 (2 ^ 63 + hi 62 s.sys.parkOvf + hi 61 e.nonstop + hi 60 e.trapMode + e.gang.toNat % 2 ^ 36)
def State.parklogb (s : State) : U64 :=
  match s.sys.parklog with
  | [] => 0
  | e :: _ => BitVec.ofNat 64 (e.grid.toNat * 2 ^ 32 + e.cause.toNat)
/-- PARKLOGB_READ removes the oldest entry (R467). -/
def execParklogbRead (s : State) : Answer :=
  .next (let s := respond (le64 s.parklogb) s
    { s with sys := { s.sys with parklog := s.sys.parklog.drop 1, parkOvf := false } })
/-- LNKLOGA to LNKLOGC (R157). -/
def State.lnklog (s : State) (i : Nat) : U64 :=
  match s.sys.lnklog with
  | [] => if i = 0 then BitVec.ofNat 64 (hi 62 s.sys.lnkOvf) else 0
  | e :: _ =>
    if i = 0 then BitVec.ofNat 64 (2 ^ 63 + hi 62 s.sys.lnkOvf + hi 61 e.retire + e.recva.toNat % 2 ^ 57)
    else if i = 1 then e.link
    else BitVec.ofNat 64 (e.ctx % 256 * 2 ^ 32 + e.grid.toNat)
/-- ERRLOGA and ERRLOGB of a die (R57): an own address is reported with this module's number. -/
def State.errloga (s : State) (d : Nat) : U64 :=
  match (s.die d).errlog with
  | [] => 0
  | e :: _ => BitVec.ofNat 64 (2 ^ 63 + (if e.pa < 2 ^ 44 then e.pa + s.mylmn.toNat * 2 ^ 44 else e.pa % 2 ^ 56))
def State.errlogb (s : State) (d : Nat) : U64 :=
  match (s.die d).errlog with
  | [] => BitVec.ofNat 64 (hi 55 (s.die d).errOvf)
  | e :: _ => BitVec.ofNat 64 (e.kind.toNat * 2 ^ 60 + e.source.toNat * 2 ^ 56 + hi 55 (s.die d).errOvf + e.agent.toNat * 2 ^ 48 +
      e.gt.toNat % 2 ^ 48)
/-- DCTX of a context (R395). -/
def State.dctx (s : State) (d n : Nat) : U64 :=
  let kept := s.reg (rDrv d (8 * n)) &&& 0xFF000000
  match s.all.find? fun a => a.drover && a.die == d && a.idx == n with
  | none => kept
  | some a =>
    let st := if a.ended then 4 else if a.trapMode then 3 else if a.waits then 2 else 1
    kept ||| BitVec.ofNat 64 ((s.grid a.grid).gridid.toNat * 2 ^ 32 + a.bset.length % 64 * 2 ^ 8 + st)
/-- The step of MCLK, in 12.5 MHz, and the ceiling that MCLKSET sets (R466, R468). -/
def State.mclkStep (s : State) : Nat := s.mclk / 12500
def State.mclkTop (s : State) : Nat := min 60 (max 24 ((s.reg 0xD8).toNat % 64))
/-- PWRST: a limit holds MCLK below what MCLKSET allows (R468). -/
def State.pwrst (s : State) : U64 :=
  BitVec.ofNat 64 (hi 31 (s.sys.allowed < s.mclkTop) + if s.power = .on then s.mclk % 2 ^ 20 else 0)
/-- What a read of a register of BAR0 returns (R469): a register that holds no value of its own is put together from the state. -/
def State.readReg (s : State) (off : Nat) : U64 :=
  if off % 8 ≠ 0 then 0
  else if 0x40 ≤ off && off < 0x80 then BitVec.ofNat 64 (s.queue ((off - 0x40) / 8)).length
  else if off = 0xE0 then s.pwrst
  else if off = 0xF0 || off = 0xF8 || off = 0x100 then s.lnklog ((off - 0xF0) / 8)
  else if off = 0x108 then s.parkloga
  else if off = 0x110 then s.parklogb
  else if 0x100000 ≤ off && off < 0x900000 then
    let d := (off - 0x100000) / 0x100000
    let r := off % 0x100000
    if r = 0x70 then s.errloga d
    else if r = 0x78 then s.errlogb d
    else if 0x20000 ≤ r && r < 0x200C0 then s.dctx d ((r - 0x20000) / 8)
    else s.reg off
  else if 0x1000000 ≤ off && off < 0x3000000 then
    let c := (off - 0x1000000) / 0x10000
    let r := off % 0x10000
    let x := s.core c
    if r = 8 then BitVec.ofNat 64 (poolUsed (s.residents c) / 1024 * 2 ^ 16 + x.l1kib)
    else if r = 0x38 then BitVec.ofNat 64 x.queue.length
    else if r = 0x40 then BitVec.ofNat 64 (sumNat (x.slots.zipIdx.map fun (e : Slot × Nat) => if e.1.full then 2 ^ e.2 else 0))
    else s.reg off
  else if off = rXlat 0x808 then s.reg off ||| (if s.sys.tlbq.isEmpty then 0 else 1)
  else if off = rSnap 0xA8 then s.snapst
  else if off = rSave 0x10 then BitVec.ofNat 64 s.saveUsed
  else if off = rRb 8 then s.rbdata
  else s.reg off

end Sys2Proof.Machine
end

