-- ==== Sys2Proof/Machine/Drover.lean ====
section
/-!
DEFINITION. DRV.START and the drover-only instructions (R374 to R381, R386 to R391, R398).
-/
namespace Sys2Proof.Machine

-- DRV.START (R374, R385, R410).

/-- The deadline by which a waiting DRV.START is ordered (R410). -/
def State.bindDeadline (s : State) (q : BindReq) : Nat :=
  let g := (s.grid q.grid).rc.deadline
  if q.deadline != 0 then q.deadline.toNat else if g != 0 then g.toNat else q.gtIssue.toNat + 1000000
/-- The gang that waits still stands at its DRV.START. -/
def State.stillWaits (s : State) (q : BindReq) : Bool :=
  match s.agent? q.agent with
  | some a => !a.parked && a.stopping.isNone && a.paths.any fun (p : Path) => p.pc == q.off && p.lanes &&& a.live != 0
  | none => false
/-- The order of waiting DRV.STARTs at the drovers of a die: deadline, GT, agent number, issue (R410). -/
def State.bindBefore (s : State) (x y : BindReq) : Bool :=
  let k := fun (q : BindReq) => [s.bindDeadline q, q.gtIssue.toNat, ((s.agent? q.agent).getD Agent.absent).core, q.order]
  k x < k y
/-- DRV.START (R374): it takes the lowest-numbered free context when its turn has come. -/
def execDrvStart (h : Hint) (scope : BitVec 3) (d a b : Reg) (s : State) : Answer :=
  let prog := s.sr a
  .next (if s.act h = 0 then retire h s
    else if prog.toNat % 8 ≠ 0 then raise (rep cAlign 0x50 s.before prog 0) s
    else
      released scope.toNat (fun s =>
        let die := s.g.die
        let mine := fun (q : BindReq) => q.binding.isNone && q.agent == s.g.id && q.off == s.path.pc
        let q := ((s.die die).binds.find? mine).getD ⟨s.g.team, s.g.grid, none, s.g.id, s.path.pc, s.gt, prog, s.sr b, s.sr (b + 1), s.serial⟩
        let others := (s.die die).binds.filter fun y => y.binding.isNone && !mine y && s.stillWaits y
        let first := (s.nextBinding die).isNone && (s.die die).restored.isEmpty && others.all fun y => !s.bindBefore y q
        let free := if first then s.freeContext die else none
        match free.filter (fun n => !s.headerDue die n q) with
        | some n =>
          let s := startProgram die n q (dropBind die q s)
          retire h (setS d.toNat (BitVec.ofNat 64 (0x8000 + die * 256 + n)) s)
        | none =>
          let s := match free with | some n => askHeader die n q s | none => s
          let x := s.die die
          if x.binds.any mine then stall s
          else stall { s.setDie die { x with binds := x.binds ++ [q] } with serial := s.serial + 1 }) s)

-- Where a space-1 address of a drover leads (R13, R398).

/-- A team and an offset in its allocation, a failed check, or a team that is saved. -/
inductive Aim where
  | at_ (team off : Nat)
  | bad (b : Bad)
  | wait
deriving DecidableEq, Repr
/-- A recorded core follows its team; another core is reached where it is, for a team of the grid. -/
def State.aim (s : State) (a : Agent) (x : U64) : Aim :=
  let core := x.toNat / 2 ^ 32 % 64
  let off := x.toNat % 2 ^ 21
  if x.extractLsb' 38 26 != 0 || x.extractLsb' 21 11 != 0 then .bad (cSpace, 0x61)
  else
    match a.recorded.find? (·.1 == core) with
    | some (_, t, base) =>
      let y := s.team t
      if y.state == .saved then .wait
      else if off < base || y.size ≤ off - base || s.teams.all (·.id != t) then .bad (cSpace, 0x60)
      else .at_ t (off - base)
    | none =>
      match s.teamAt (a.die * 64 + core) off with
      | some y => if y.grid == a.grid then .at_ y.id (off - y.base) else .bad (cSpace, 0x60)
      | none => .bad (cSpace, 0x60)
/-- The core that a number names for a drover: the one on which a recorded team now is; none while that team is saved. -/
def State.coreFor (s : State) (a : Agent) (core : Nat) : Option Nat :=
  match a.recorded.find? (·.1 == core) with
  | some (_, t, _) =>
    let y := s.team t
    if y.state == .saved then none else if s.teams.all (·.id != t) then some (a.die * 64 + core) else some (y.die * 64 + y.core)
  | none => some (a.die * 64 + core)
/-- The team of the grid whose barrier and record a copy between tensors names (R376). -/
def State.teamFor (s : State) (a : Agent) (core : Nat) : Option Team :=
  match a.recorded.find? (·.1 == core) with
  | some (_, t, _) => s.teams.find? fun y => y.id == t && y.state != .saved
  | none => s.teams.find? fun y => y.die * 64 + y.core == a.die * 64 + core && y.grid == a.grid &&
      y.state != .offered && y.state != .saved

/-- A barrier is named: it is the newest of the binding set, and the oldest leaves a full one (R391). -/
def nameBarrier (team off : Nat) (s : State) : State :=
  let l := s.g.bset.filter (· != (team, off)) ++ [(team, off)]
  if l.length ≤ 32 then { s with g := { s.g with bset := l } }
  else { (s.count (rDrv s.g.die 0xC8) 1) with g := { s.g with bset := l.drop 1 } }

-- BXI (R376).

/-- The order in which BXI transfers enter the queue of a walker (R410). -/
def Xfer.bxiKey (x : Xfer) (a : Agent) : List Nat :=
  match a.want with
  | some (c, _, k) => if c = x.core then k else [x.deadline.toNat, x.gtIssue.toNat, x.die, x.agentNo, x.order]
  | none => [x.deadline.toNat, x.gtIssue.toNat, x.die, x.agentNo, x.order]
/-- The queue of a walker has no entry for a BXI: it is full, or a BXI that waits comes before it (R392, R410). -/
def State.bxiWaits (s : State) (x : Xfer) : Bool :=
  let c := s.core x.core
  let k := x.bxiKey s.g
  64 ≤ c.queue.length + (s.waitingBxi x.core).length || s.agents.any fun a =>
    !a.parked && !a.ended && a.stopping.isNone && match a.want with
      | some (core, pc, l) => core = x.core && l < k && a.paths.any (·.pc == pc)
      | none => false
/-- A box transfer at issue: its checks against its target's allocation, its release, its sequence number. -/
def bxi (h : Hint) (d : Reg) (ea : U64) (x : Xfer) (s : State) : State :=
  if s.act h = 0 then retire h s
  else
    let bad := fun (c n : Nat) (a : U64) => raise (rep c n s.before a 0) s
    let cp := x.kind == .cp
    let core := (((x.coord[2]?).getD 0).extractLsb' 56 6).toNat
    match copyIllegal x with
    | some n => illegal n s
    | none =>
      match x.offsets.find? (· % 16 != 0) with
      | some o => bad cAlign 0x50 (BitVec.ofNat 64 o)
      | none =>
        let aim := if !cp then s.aim s.g ea
          else if (s.coreFor s.g core).isNone then .wait
          else match s.teamFor s.g core with
            | some t => .at_ t.id 0
            | none => if x.barrier.isSome || kRecen x.desc then .bad (cSpace, 0x60) else .at_ 0 0
        match aim with
        | .bad b => bad b.1 b.2 ea
        | .wait => stall s
        | .at_ t off =>
          let tm := s.team t
          let at0 := if cp then (s.coreFor s.g core).getD 0 else tm.die * 64 + tm.core
          let x := { x with off := off, team := t, target := t, core := at0, die := at0 / 64 }
          match if t = 0 then none else x.outside tm.size with
          | some o => bad cSpace 0x60 (BitVec.ofNat 64 o)
          | none =>
            if 32 ≤ (s.eng.xfers.filter fun y => y.drover && y.agent == s.g.id && y.kind != .table).length then stall s
            else if s.bxiWaits x then stall { s with g := { s.g with want := some (x.core, s.path.pc, x.bxiKey s.g) } }
            else
              released 2 (fun s =>
                let n := s.g.seq + 1
                let s := { s with
                  serial := s.serial + 1
                  g := { s.g with seq := n }
                  eng := { s.eng with xfers := s.eng.xfers ++ [{ x with seq := n }] } }
                let s := match x.barrier with | some o => nameBarrier t o s | none => s
                retire h (setS d.toNat (n.setWidth 64) s)) s
/-- A transfer of KIND 0 or 1: its scratchpad offset is that of s[C]. -/
def State.newBxi (s : State) (kind : XferKind) (c : BitVec 5) (rop : BitVec 2) (a : BitVec 4) (b : Reg) : Xfer :=
  { s.newXfer kind 0 0 (s.g.kget a.toNat) 0 ((s.sr (c.setWidth 8)).toNat % 2 ^ 21) (s.triple b) [] with rop := rop }
/-- BXI.ld. -/
def execBxiLd (h : Hint) (c : BitVec 5) (d : Reg) (a : BitVec 4) (b : Reg) (s : State) : Answer :=
  .next (bxi h d (s.sr (c.setWidth 8)) (s.newBxi .ld c 0 a b) s)
/-- BXI.st. -/
def execBxiSt (h : Hint) (c : BitVec 5) (rop : BitVec 2) (d : Reg) (a : BitVec 4) (b : Reg) (s : State) : Answer :=
  .next (bxi h d (s.sr (c.setWidth 8)) (s.newBxi .st c rop a b) s)
/-- BXI.cp: sC is the destination triple. -/
def execBxiCp (h : Hint) (c : BitVec 5) (kx : BitVec 3) (rop : BitVec 2) (d : Reg) (a : BitVec 4) (b : Reg) (s : State) : Answer :=
  .next (bxi h d 0 { s.newXfer .cp 0 0 (s.g.kget a.toNat) (s.g.kget kx.toNat) 0 (s.triple b) (s.triple (c.setWidth 8)) with rop := rop } s)

/-- A transfer of the context is incomplete whose number is covered by a wait for n. -/
def State.seqBusy (s : State) (n : U32) : Bool :=
  s.eng.xfers.any fun x => x.drover && x.agent == s.g.id && covered n (some x.seq)
/-- BXW (R377). -/
def execBxw (h : Hint) (a : Reg) (s : State) : Answer :=
  let n := lo32 (s.sr a)
  .next (if s.act h = 0 then retire h s
    else if s.seqBusy n then stall s
    else waitDone h 2 cCopy (fun f => !f.mat && covered n f.batch) s)

-- Barriers (R378).

/-- The barrier at pool address k enters the binding set. -/
def nameAt (k : Nat) (s : State) : State :=
  match s.teams.find? fun t => t.state != .offered && t.state != .saved && t.origin ≤ k && k < t.origin + t.size with
  | some t => nameBarrier t.id (k - t.origin) s
  | none => s
/-- DARR. -/
def execDarr (h : Hint) (a b : Reg) (s : State) : Answer :=
  .next (if s.act h = 0 then retire h s
    else released 2 (atBarrier 1 true false (s.sr a) (fun k s => retire h (nameAt k (barArrive k (lo32 (s.sr b)).toNat s)))) s)
/-- DWAIT. -/
def execDwait (h : Hint) (a b : Reg) (s : State) : Answer :=
  let ea := s.sr a
  .next (if s.act h = 0 then retire h s
    else atBarrier 1 false false ea (fun k s => barrierWait h true 2 ea (bit (s.sr b) 0) k (nameAt k s)) s)

-- The index buffer (R379).

/-- The stored elements of a box, packed: the bits so far and the first failure (R379). The manual names IDXLD neither among the accesses
that reach this module only nor among those that reach every module: it has the reach of an engine (R24). DESIGN CHOICE [101]. -/
def packBox (e : Engine) (k : Desc) (c : List U64) (ns : List Nat) (acc sh : Nat) (s : State) : State × Except (Bad × U64) Nat :=
  match ns with
  | [] => (s, .ok acc)
  | n :: r =>
    let ix := boxIx k n
    let w := fmtWidth (kTfmt k)
    let row := rowAddr k c ix
    if !elemIn k c ix then
      if kFill k = 2 then (s, .error ((cCopy, 0xE8), (cellAddr row w (tcoord c ix 0)).1))
      else packBox e k c r acc (sh + w) s
    else
      match readCell e (kTsp k) row w (tcoord c ix 0) s with
      | (s, .error b) => (s, .error b)
      | (s, .ok (v, _, _)) => packBox e k c r (acc + v * 2 ^ sh) (sh + w) s
/-- IDXLD with RD 0. -/
def execIdxldFill (h : Hint) (c : BitVec 5) (a : BitVec 4) (b : Reg) (s : State) : Answer :=
  let k0 := s.g.kget a.toNat
  let k : Desc := k0 &&& ~~~((3 : BitVec 512) <<< 414)
  let dst := (s.sr (c.setWidth 8)).toNat
  let n := (boxCount k * fmtWidth (kTfmt k) + 7) / 8
  let e : Engine := ⟨s.g.die, none, (s.grid s.g.grid).ctx, s.g.grid, s.g.logNo, s.g.die, s.g.id, kNtemp k⟩
  .next (if s.act h = 0 then retire h s
    else if k0 = 0 then illegal 0xAC s
    else if 16384 < dst + n then raise (rep cSpace 0x60 s.before (BitVec.ofNat 64 dst) 0) s
    else if s.inFlight s.g.id true ≠ 0 then stall s
    else
      match packBox e k (s.triple b) (List.range (boxCount k)) 0 0 s with
      | (s, .error (f, ea)) => if f = notYet then stall s else raise (rep f.1 f.2 s.before ea 0) (dropReads s.g.id s)
      | (s, .ok v) => retire h (dropReads s.g.id { s with g := { s.g with ixbuf := putBytes dst (bytesOf n v) s.g.ixbuf } }))
/-- IDXLD with RD 1. -/
def execIdxldRead (h : Hint) (size : BitVec 2) (d a : Reg) (s : State) : Answer :=
  let n := 2 ^ size.toNat
  let o := s.sr a
  .next (if s.act h = 0 then retire h s
    else if o.toNat % n ≠ 0 then raise (rep cAlign 0x50 s.before o 0) s
    else if 16384 < o.toNat + n then raise (rep cSpace 0x60 s.before o 0) s
    else retire h (setS d.toNat (BitVec.ofNat 64 (ofBytes ((List.range n).map fun i => SMap.get 0 s.g.ixbuf (o.toNat + i)))) s))

-- Tables (R380, R394).

/-- TBLLD: it never enters the walker's queue, and completes when its slot is EMPTY. -/
def execTblld (h : Hint) (space : BitVec 3) (slot : BitVec 2) (d a b : Reg) (s : State) : Answer :=
  let ea := s.sr a
  .next (if s.act h = 0 then retire h s
    else if ea.toNat % 16 ≠ 0 then raise (rep cAlign 0x50 s.before ea 0) s
    else if s.sr b >>> 6 ≠ 0 then raise (rep cSpace 0x61 s.before ea 0) s
    else
      match s.coreFor s.g (s.sr b).toNat with
      | none => stall s
      | some core =>
        if space == 1 && s.aim s.g ea == .wait then stall s
        else
        let n := s.g.seq + 1
        let x := { s.newXfer .table 0 core 0 0 0 [ea] [] with
          die := core / 64, seq := n, accepted := true, space := space.toNat, slot := slot.toNat }
        retire h (setS d.toNat (n.setWidth 64) { s with
          serial := s.serial + 1
          g := { s.g with seq := n }
          eng := { s.eng with xfers := s.eng.xfers ++ [x] } }))

-- The end (R381).

/-- DEND. -/
def execDend (h : Hint) (s : State) : Answer :=
  .next (if s.act h = 0 then retire h s
    else if s.eng.xfers.any fun x => x.drover && x.agent == s.g.id then stall s
    else if s.g.engFaults.any fun f => !f.mat then waitDone h 2 cCopy (fun f => !f.mat) s
    else released 2 (fun s => droverEnd s.g s) s)

end Sys2Proof.Machine
end

