-- ==== Sys2Proof/Machine/Matrix.lean ====
section
/-!
DEFINITION. The matrix and epilogue instructions and what their operations do (R235, R332 to R357).
-/
namespace Sys2Proof.Machine

-- The format block (R335, R336).

def fbAfmt (f : U64) : BitVec 6 := f.extractLsb' 58 6
def fbAblk (f : U64) : Nat := 16 * 2 ^ (f.extractLsb' 56 2).toNat
def fbAsfmt (f : U64) : BitVec 6 := f.extractLsb' 50 6
def fbBfmt (f : U64) : BitVec 6 := f.extractLsb' 44 6
def fbBblk (f : U64) : Nat := 16 * 2 ^ (f.extractLsb' 42 2).toNat
def fbBsfmt (f : U64) : BitVec 6 := f.extractLsb' 36 6
def fbBsp (f : U64) : Bool := f.getLsbD 35
def fbAsoff (f : U64) : Nat := f.toNat % 2 ^ 32
/-- The format record: bits [49:35]. A block length without scales is ignored in comparisons. -/
def fbRecord (f : U64) : BitVec 15 := f.extractLsb' 35 15
def recordKey (r : BitVec 15) : BitVec 15 := if r.extractLsb' 1 6 = 0 then r &&& 0x7E7F else r
/-- The pass length of a format (R235). -/
def passLen (c : BitVec 6) : Nat := if c == 0x30 then 512 else if fmtWidth c = 16 then 128 else 256
/-- Valid (R336). -/
def fbValid (f : U64) : Bool :=
  let sc := fun (c : BitVec 6) => c == 0 || isScaleFmt c
  isMatFmt (fbAfmt f) && isMatFmt (fbBfmt f) && sc (fbAsfmt f) && sc (fbBsfmt f) &&
  (!fbBsp f || fmtWidth (fbBfmt f) == 16 || isBin8 (fbBfmt f)) &&
  (fbBsfmt f == 0 || passLen (fbBfmt f) / fbBblk f ≤ 16) &&
  f.extractLsb' 32 3 == 0 && (fbAsfmt f != 0 || fbAsoff f == 0)
/-- The passes of two formats, and integer passes (R343). -/
def fbPass (f : U64) : Nat := min (passLen (fbAfmt f)) (passLen (fbBfmt f))
def isByteInt (c : BitVec 6) : Bool := c == 0x31 || c == 0x32
def fbInteger (f : U64) : Bool := isByteInt (fbAfmt f) && isByteInt (fbBfmt f) && fbAsfmt f == 0 && fbBsfmt f == 0

-- Issue (R333, R353).

/-- The operation that an instruction starts, before its checks. -/
def State.newMat (s : State) (kind : MatKind) (tile buf row0 nrows : Nat) (s1 s2 s3 : U64) : MatOp where
  id := s.serial
  kind := kind
  agent := s.g.id
  team := s.g.team
  grid := s.g.grid
  die := s.g.die
  core := s.g.coreNo
  tile := tile
  buf := buf
  row0 := row0
  nrows := nrows
  s1 := s1
  s2 := s2
  s3 := s3
  rows := []
  batch := none
  deadline := s.deadlineOf s.g.grid 0
  order := s.serial
  desc := 0
  sent := 0
  stop := none
  lost := []
  issuer := s.issuerId

/-- A range of the scratchpad part of the issuing team, from an offset. -/
abbrev Span := Nat × Nat
/-- The range lock over some spans, from the lowest to the highest byte (R78). -/
def spanLock (id : Nat) (dst : Bool) (t : Team) (rs : List Span) : List (Nat × Lock) :=
  match rs with
  | [] => []
  | r :: l =>
    let lo := l.foldl (fun m x => min m x.1) r.1
    let hi := l.foldl (fun m x => max m (x.1 + x.2)) (r.1 + r.2)
    [(t.die * 64 + t.core, ⟨id, dst, t.base + lo / 128 * 128, t.base + upTo hi 128⟩)]
/-- A trap of an operand that is a scratchpad offset or an address. -/
def badOperand (c d : Nat) (a : Nat) (s : State) : State := raise (rep c d s.before (BitVec.ofNat 64 a) 0) s
/-- The last two steps of R353: every span lies in the scratchpad part, there is room, and the operation starts. One range that is read
and written is registered once (R78). -/
def startMat (h : Hint) (x : MatOp) (src dst : List Span) (wide : List Span) (f : State → State) (s : State) : State :=
  match (src ++ wide).find? fun r => s.rc.scratch < r.1 + r.2 with
  | some r => badOperand cSpace 0x60 r.1 s
  | none =>
    let reads := spanLock x.id false s.tm src
    let writes := spanLock x.id true s.tm dst
    let ls := (if reads.map (fun l => (l.2.lo, l.2.hi)) = writes.map (fun l => (l.2.lo, l.2.hi)) then [] else reads) ++ writes
    if 32 ≤ (s.eng.mats.filter fun y => y.agent == s.g.id).length then stall s
    else if !s.lockRoom ls then stall (locksFull x.core s)
    else
      let s := f (register ls s)
      retire h { s with serial := s.serial + 1, eng := { s.eng with mats := s.eng.mats ++ [x] } }
/-- A matrix instruction: a whole gang, its release, its checks (R112, R173, R185). -/
def matIssue (h : Hint) (scope : BitVec 3) (f : State → State) (s : State) : State :=
  whole (fun s => if s.act h = 0 then retire h s else released scope.toNat f s) s

/-- The spans that a stationary load reads (R338 to R341). -/
def mldSpans (a c : Nat) (f : U64) : List Span :=
  let kb := passLen (fbBfmt f)
  [(a, if fbBsp f then 16384 + 16 * kb else 32768)] ++ if fbBsfmt f = 0 then [] else [(c, 128 * (kb / fbBblk f))]
/-- A stationary load at issue (R337 to R341). -/
def mldIssue (h : Hint) (kind : MatKind) (w : Nat) (a f c : U64) (s : State) : State :=
  let narrow := kind == .mldW && (fmtWidth (fbBfmt f) != 16 || fbBsp f || fbBsfmt f != 0)
  if !fbValid f || narrow then illegal 0xA2 s
  else if a.toNat % 16 ≠ 0 then badOperand cAlign 0x50 a.toNat s
  else if fbBsfmt f ≠ 0 && c.toNat % 16 ≠ 0 then badOperand cAlign 0x50 c.toNat s
  else if fbAsoff f % 16 ≠ 0 then badOperand cAlign 0x50 (fbAsoff f) s
  else
    startMat h (s.newMat kind 0 w 0 0 a f c) (mldSpans a.toNat c.toNat f) [] [] (fun s =>
      let s := touch [grBuf s.g.team w] s
      let t := s.tm
      let b := SMap.get Buffer.empty t.bufs w
      s.setTeam { t with bufs := SMap.set Buffer.empty t.bufs w { b with fmt := some (fbRecord f) } }) s
/-- MLD.N (R337 to R341). -/
def execMldN (h : Hint) (scope : BitVec 3) (d : BitVec 2) (a b c : Reg) (s : State) : Answer :=
  .next (matIssue h scope (fun s => mldIssue h .mldN d.toNat (s.sr a) (s.sr b) (s.sr c) s) s)
/-- MLD.W (R337, R338). -/
def execMldW (h : Hint) (scope : BitVec 3) (d : BitVec 2) (a b : Reg) (s : State) : Answer :=
  .next (matIssue h scope (fun s => mldIssue h .mldW d.toNat (s.sr a) (s.sr b) 0 s) s)

/-- Rows of A as the registers give them: word w of row r at key 64 r + w (R343). -/
def Agent.aRows (a : Agent) (v n : Nat) : SMap U32 :=
  let per := 64 / a.width
  (List.range (n * 64)).filterMap fun i =>
    let x := a.vget (v + i / 64 * per + i % 64 / a.width) (i % 64 % a.width)
    if x = 0 then none else some (i, x)
/-- The rows of A that have a used word in a register that could not be corrected (R343, R354). -/
def Agent.lostRows (a : Agent) (v n words : Nat) : List Nat :=
  let per := 64 / a.width
  (List.range n).filter fun r => (List.range words).any fun w =>
    a.flawed.contains (a.phys (v + r * per + w / a.width) * 64 + w % a.width)
/-- The words of a row that hold used elements (R343). -/
def usedWords (f : U64) : Nat := (fbPass f * fmtWidth (fbAfmt f) + 31) / 32
/-- The spans of the activation scales (R344). -/
def scaleSpans (f : U64) (n : Nat) : List Span := if fbAsfmt f = 0 then [] else [(fbAsoff f, n * (fbPass f / fbAblk f))]
/-- MMA and MMAZ at issue (R342 to R345). -/
def mmaIssue (h : Hint) (kind : MatKind) (n row0 w t v : Nat) (reuse : Bool) (f : U64) (s : State) : State :=
  let held := (SMap.get Buffer.empty s.tm.bufs w).fmt
  if t / 8 ≠ w / 2 then illegal 0xA2 s
  else if !fbValid f then illegal 0xA2 s
  else if fbAsoff f % 16 ≠ 0 then badOperand cAlign 0x50 (fbAsoff f) s
  else if (match held with | some r => recordKey r != recordKey (fbRecord f) | none => false) then illegal 0xAE s
  else
    let l := s.g.latch
    let again := reuse && l.valid && l.nrows = n && l.reg = s.g.phys v
    let rows := if again then l.rows else s.g.aRows v n
    let lost := if again then [] else s.g.lostRows v n (usedWords f)
    let l : Latch := if reuse && lost.isEmpty then ⟨true, n, s.g.phys v, rows⟩ else ⟨false, 0, 0, []⟩
    startMat h { s.newMat kind t w row0 n 0 f 0 with rows, lost } (scaleSpans f n) [] []
      (fun s => { s with g := { s.g with latch := l } }) s
/-- MMA (R342 to R345). -/
def execMma (h : Hint) (scope : BitVec 3) (nrows1 : BitVec 5) (row0 : BitVec 7) (w : BitVec 2) (reuse : Bool) (d : BitVec 4)
    (a b : Reg) (s : State) : Answer :=
  .next (matIssue h scope (fun s => mmaIssue h .mma (nrows1.toNat + 1) row0.toNat w.toNat d.toNat a.toNat reuse (s.sr b) s) s)
/-- MMAZ (R342 to R345). -/
def execMmaz (h : Hint) (scope : BitVec 3) (nrows1 : BitVec 5) (row0 : BitVec 7) (w : BitVec 2) (reuse : Bool) (d : BitVec 4)
    (a b : Reg) (s : State) : Answer :=
  .next (matIssue h scope (fun s => mmaIssue h .mmaz (nrows1.toNat + 1) row0.toNat w.toNat d.toNat a.toNat reuse (s.sr b) s) s)

/-- MFENCE (R351). -/
def execMfence (h : Hint) (s : State) : Answer :=
  .next (retire h (uniform h (fun s =>
    let n := s.g.mbatch + 1
    let close := fun (x : MatOp) => if x.agent == s.g.id then { x with batch := some (x.batch.getD n) } else x
    let closeF := fun (f : EngFault) => if f.mat then { f with batch := some (f.batch.getD n) } else f
    { s with
      g := { s.g with mbatch := n, engFaults := s.g.engFaults.map closeF }
      eng := { s.eng with mats := s.eng.mats.map close } }) s))
/-- MWAIT (R352, R354). -/
def execMwait (h : Hint) (scope : BitVec 3) (last : Bool) (a : Reg) (s : State) : Answer :=
  let n := if last then s.g.mbatch else lo32 (s.sr a)
  .next (if s.act h = 0 then retire h s
    else if s.eng.mats.any fun x => x.agent == s.g.id && covered n x.batch then stall s
    else waitDone h scope.toNat cMat (fun f => f.mat && covered n f.batch) s)

-- The epilogue (R346 to R350).

def edOfmt (k : Desc) : BitVec 6 := kFmt k 64
def edRmx (k : Desc) : Nat := fld k 70 3
def edSat (k : Desc) : Bool := k.getLsbD 73
def edAct (k : Desc) : Nat := fld k 74 2
def edScen (k : Desc) : Bool := k.getLsbD 76
def edBien (k : Desc) : Bool := k.getLsbD 77
def edOswz (k : Desc) : Nat := fld k 78 3
def edItile (k : Desc) : Bool := k.getLsbD 81
def edStride (k : Desc) : Nat := fld k 96 32
def edScoff (k : Desc) : Nat := fld k 0 32
def edBioff (k : Desc) : Nat := fld k 32 32
def edClo (k : Desc) : U32 := k.extractLsb' 128 32
def edChi (k : Desc) : U32 := k.extractLsb' 160 32
/-- a ≤ b with -0 below +0. -/
def leF (a b : Val) : Bool := ltVal a b || (eqVal a b && (a.isNeg || !b.isNeg || !a.isZero))
/-- The fields of an epilogue descriptor that fail R348, by bit position. -/
def epiFails (rs : Bool) (k : Desc) : List Nat :=
  let no := fun (b : Bool) (p : Nat) => if b then [] else [p]
  let o := edOfmt k
  let lo := f32 (edClo k)
  let hi := f32 (edChi k)
  no (!edScen k || edScoff k % 16 == 0) 0 ++
  no (!edBien k || edBioff k % 16 == 0) 32 ++
  no (isLaneDst o && (!rs || o.toNat ≤ 2 || o == 0x35)) 64 ++
  no (edRmx k ≤ 5) 70 ++
  no (edOswz k ≤ 4 && (!rs || edOswz k == 0)) 78 ++
  no (fld k 82 14 == 0) 82 ++
  no (edStride k % 16 == 0 && 16 * fmtWidth o ≤ edStride k) 96 ++
  no (edAct k != 2 || (!lo.isNan && (hi.isNan || leF lo hi))) 128 ++
  no (edAct k != 2 || !hi.isNan) 160 ++
  no (fld k 320 192 == 0) 320
/-- The scale and bias arrays that are enabled (R350). -/
def epiSources (k : Desc) : List Span :=
  (if edScen k then [(edScoff k, 512)] else []) ++ if edBien k then [(edBioff k, 512)] else []
/-- The bytes of one output row. -/
def rowBytes (k : Desc) : Nat := 16 * fmtWidth (edOfmt k)
/-- EPI and EPI.RS at issue (R346 to R350, R353). -/
def epiIssue (h : Hint) (kind : MatKind) (row0 n t : Nat) (a b : U64) (s : State) : State :=
  let rs := kind == .epiRs
  if a.toNat % 64 ≠ 0 then badOperand cAlign 0x50 a.toNat s
  else if b.toNat % 16 ≠ 0 then badOperand cAlign 0x50 b.toNat s
  else if s.rc.scratch < a.toNat + 64 then badOperand cSpace 0x60 a.toNat s
  else if s.ops.any fun o => o.agent == s.g.id && o.parts.any fun p => 2 ^ 60 ≤ p.pa && !p.st.isOver then stall s
  else
    match sideRead s.tm 0 a.toNat 64 s with
    | .error e => badOperand e.1 e.2 a.toNat (meetBad s.g.die s.g.logNo s)
    | .ok bs =>
      let k : Desc := BitVec.ofNat 512 (ofBytes bs)
      match epiFails rs k with
      | p :: _ => raise (rep cIllegal 0xA2 (s.lanes &&& s.g.live) 0 (BitVec.ofNat 64 p)) s
      | [] =>
        let span := swzSpan (edOswz k)
        let last := b.toNat + (n - 1) * edStride k
        let out := if rs then [] else (List.range n).map fun i =>
          let l := lockRange span (b.toNat + i * edStride k) (rowBytes k)
          (l.1, l.2 - l.1)
        let wide := if rs then [] else
          let r := widenTo span b.toNat (last + rowBytes k - b.toNat)
          [(r.1, r.2 - r.1)]
        startMat h { s.newMat kind t 0 row0 n a b 0 with desc := k } (epiSources k) out wide id s
/-- EPI (R346 to R350). -/
def execEpi (h : Hint) (scope : BitVec 3) (row0 nrows1 : BitVec 7) (d : BitVec 4) (a b : Reg) (s : State) : Answer :=
  .next (matIssue h scope (fun s => epiIssue h .epi row0.toNat (nrows1.toNat + 1) d.toNat (s.sr a) (s.sr b) s) s)
/-- EPI.RS (R346 to R350). -/
def execEpiRs (h : Hint) (scope : BitVec 3) (row0 nrows1 : BitVec 7) (d : BitVec 4) (a b : Reg) (s : State) : Answer :=
  .next (matIssue h scope (fun s => epiIssue h .epiRs row0.toNat (nrows1.toNat + 1) d.toNat (s.sr a) (s.sr b) s) s)

-- What the operations do.

/-- A state, and why the operation has stopped, if it has. -/
abbrev MatRun := State × Option MatHalt
def memHalt (b : Bad) (a : Nat) : MatHalt := ⟨0x06, b.1, b.2, BitVec.ofNat 64 a⟩
/-- A register, a tile or a buffer could not be corrected: it has no address, and the manual names no detail (R56, R354). DESIGN CHOICE
[96]. -/
def coreHalt : MatHalt := ⟨0x06, cMemerr, Config.sramDetail.toNat, 0⟩

/-- A buffer given contents, or made empty; its granule is captured first (R138, R341). -/
def setBuffer (t b : Nat) (f : Buffer → Buffer) (s : State) : State :=
  let s := touch [grBuf t b] s
  let x := s.team t
  s.setTeam { x with bufs := SMap.set Buffer.empty x.bufs b (f (SMap.get Buffer.empty x.bufs b)) }
/-- Bytes as sparse data. -/
def sparseBytes (bs : List Byte) : SMap Byte := bs.zipIdx.filterMap fun e => if e.1 = 0 then none else some (e.2, e.1)
/-- n-bit elements as bytes (R223). -/
def packElems (n : Nat) (xs : List Nat) : List Byte :=
  bytesOf ((xs.length * n + 7) / 8) (sumNat (xs.zipIdx.map fun e => e.1 % 2 ^ n * 2 ^ (n * e.2)))
/-- The elements of a sparse tile, expanded (R339); none where a metadata nibble does not increase. -/
def expandTile (n kb : Nat) (bs : List Byte) : Option (List Nat) :=
  let v := ofBytes bs
  let cell := fun (r j : Nat) => v / 2 ^ (n * (128 * r + j)) % 2 ^ n
  let nib := fun (g j : Nat) => ((bs[16384 + 64 * g + j / 2]?).getD 0).toNat / 2 ^ (4 * (j % 2)) % 16
  if (List.range (kb / 4)).any fun g => (List.range 128).any fun j => nib g j / 4 ≤ nib g j % 4 then none
  else some ((List.range (kb * 128)).map fun i =>
    let k := i / 128
    let j := i % 128
    let m := nib (k / 4) j
    if k % 4 = m % 4 then cell (2 * (k / 4)) j else if k % 4 = m / 4 then cell (2 * (k / 4) + 1) j else 0)
/-- MLD.N and MLD.W (R338 to R341). R165 ends an MLD or an EPI that names an empty stationary buffer like an MMA; but an MLD fills the buffer
that it names, empty or not, and an EPI names none (R334, R341, R345, R346): the model follows those. DESIGN CHOICE [107]. -/
def runMld (x : MatOp) (s : State) : MatRun :=
  let t := s.team x.team
  let f := x.s2
  let n := fmtWidth (fbBfmt f)
  let kb := passLen (fbBfmt f)
  let spans := mldSpans x.s1.toNat x.s3.toNat f
  let empty := fun (h : MatHalt) => (setBuffer x.team x.buf (fun b => { Buffer.empty with fmt := b.fmt }) s, some h)
  match spans.findSome? fun r => match sideRead t 0 r.1 r.2 s with
      | .error b => some (b, badAddr t (t.origin + r.1) r.2 s) | .ok _ => none with
  | some (b, a) => empty (memHalt b a)
  | none =>
    let read := fun (r : Span) => s.getBytes (t.origin + r.1) r.2
    let tile := ((spans[0]?).map read).getD []
    let side := ((spans[1]?).map read).getD []
    let put := fun (w : List Byte) =>
      (setBuffer x.team x.buf (fun b => ⟨true, sparseBytes w, sparseBytes side, b.fmt, false⟩) s, none)
    if fbBsp f then
      match expandTile n kb tile with
      | some es => put (packElems n es)
      | none => empty ⟨0x05, 0, 0, 0⟩
    else if x.kind == .mldW then
      put ((List.range 32768).map fun i => (tile[(i / 2 % 128 * 128 + i / 256) * 2 + i % 2]?).getD 0)
    else put tile

/-- The activation row i of an operation as one number (R343). -/
def MatOp.row (x : MatOp) (i : Nat) : Nat := sumNat ((List.range 64).map fun w => (SMap.get 0 x.rows (64 * i + w)).toNat * 2 ^ (32 * w))
/-- The first marker of class 1 or 2 in the words of a row that hold used elements (R343). -/
def MatOp.rowMarker (x : MatOp) (i : Nat) : Option (Nat × Nat) :=
  if isByteInt (fbAfmt x.s2) then none
  else (List.range (usedWords x.s2)).findSome? fun w =>
    match marker (SMap.get 0 x.rows (64 * i + w)) with | some (c, n) => if c = 3 then none else some (c, n) | none => none
/-- A tile marker (R334). -/
def tileMarker (v : U32) : Option Nat := match marker v with | some (3, n) => some n | _ => none
/-- Element (r, c) of a tile (R203). -/
def Team.tileAt (t : Team) (h r c : Nat) : U32 := SMap.get (tMarker h) t.tiles (h * 16384 + r * 128 + c)
/-- A row of a tile written whole. -/
def setTileRow (team h r : Nat) (vs : List U32) (s : State) : State :=
  let s := touch [grTile team h] s
  let t := s.team team
  s.setTeam { t with
    tiles := vs.zipIdx.foldl (fun m e => SMap.set (tMarker h) m (h * 16384 + r * 128 + e.2) e.1) t.tiles
    flawed := t.flawed.filter fun i => i / 128 != h * 128 + r }
/-- A row of a tile has an element that could not be corrected (R354). -/
def Team.tileLost (t : Team) (h r : Nat) : Bool := t.flawed.any fun i => i / 128 == h * 128 + r
/-- A scaled operand: an element and the code of its scale, where it has one (R233, R234). -/
def scaledVal (f sf : BitVec 6) (x sc : Nat) : Val := if sf = 0 then decodeVal f x else scaled (decodeVal f x) (decodeVal sf sc)
/-- One element of a product row (R235, R344). -/
def mmaCell (f : U64) (a : Nat → Nat) (as : Nat → Nat) (b bs : Nat → Nat) (c : U32) : U32 :=
  let k := fbPass f
  if fbInteger f then
    c + BitVec.ofInt 32 ((List.range k).foldl (fun z i =>
      z + (decodeVal (fbAfmt f) (a i)).units 0 * (decodeVal (fbBfmt f) (b i)).units 0) 0)
  else
    let p := fun (i : Nat) => mulVal (scaledVal (fbAfmt f) (fbAsfmt f) (a i) (as i)) (scaledVal (fbBfmt f) (fbBsfmt f) (b i) (bs i))
    BitVec.ofNat 32 (toF32 .rne ((List.range k).foldl (fun z i => addVal false z (p i)) (f32 c))).1
/-- MMA and MMAZ: rows in ascending order, each written whole or not at all (R334, R343, R344, R354). -/
def runMma (x : MatOp) (s : State) : MatRun :=
  let f := x.s2
  let t := s.team x.team
  let buf := SMap.get Buffer.empty t.bufs x.buf
  let na := fmtWidth (fbAfmt f)
  let nb := fmtWidth (fbBfmt f)
  let per := fbPass f / fbAblk f
  if !buf.full then (s, some ⟨0x04, 0, 0, 0⟩)
  else if buf.flawed then (s, some coreHalt)
  else
    let w := ofBytes ((List.range 32768).map fun i => SMap.get 0 buf.weights i)
    let row := fun (r : MatRun) (i : Nat) =>
      if r.2.isSome then r
      else
        let s := r.1
        let t := s.team x.team
        let a := x.row i
        if x.lost.contains i || (x.kind == .mma && t.tileLost x.tile (x.row0 + i)) then (s, some coreHalt)
        else match x.rowMarker i with
        | some (c, n) => (s, some ⟨0x03, c, n, 0⟩)
        | none =>
          match if fbAsfmt f = 0 then .ok [] else sideRead t 0 (fbAsoff f + i * per) per s with
          | .error b => (s, some (memHalt b (badAddr t (t.origin + (fbAsoff f + i * per)) per s)))
          | .ok sc =>
            let old := fun (j : Nat) => if x.kind == .mmaz then (0 : U32) else t.tileAt x.tile (x.row0 + i) j
            match (List.range 128).findSome? fun j => tileMarker (old j) with
            | some n => (s, some ⟨0x03, 3, n, 0⟩)
            | none =>
              let cell := fun (j : Nat) =>
                mmaCell f (fun k => a / 2 ^ (na * k) % 2 ^ na) (fun k => ((sc[k / fbAblk f]?).getD 0).toNat)
                  (fun k => w / 2 ^ (nb * (128 * k + j)) % 2 ^ nb) (fun k => (SMap.get 0 buf.side (128 * (k / fbBblk f) + j)).toNat) (old j)
              (setTileRow x.team x.tile (x.row0 + i) ((List.range 128).map cell) s, none)
    (List.range x.nrows).foldl row (s, none)

/-- sqrt(2 / pi) in units of 2^-320. -/
def sqrt2piFix : Nat := isqrt 330 (2 ^ 961 / piFix) 0
/-- 0.5 y (1 + tanh(sqrt(2/pi) (y + 0.044715 y^3))), which is y / (1 + exp(-2u)) (R349). -/
def geluVal (y : Val) : Val :=
  match y with
  | .nan s => .nan s
  | .inf n => if n then .num true 0 0 false else .inf false
  | .num neg m e _ =>
    if m = 0 then .num neg 0 0 false
    else if 4 ≤ e + Nat.log2 m then (if neg then .num true 0 (-400) true else .num false (m * 2 ^ 60 - 1) (e - 60) true)
    else
      let v := m * 2 ^ (e + 320).toNat
      let u := (v + v * v / 2 ^ 320 * v / 2 ^ 320 * 44715 / 1000000) * sqrt2piFix / 2 ^ 320
      let w := 2 * u * 2 ^ 320 / ln2Fix
      let ex := pow2Fix (w % 2 ^ 320) * 2 ^ (w / 2 ^ 320)
      let r := (if neg then 2 ^ 640 else ex * 2 ^ 320) / (2 ^ 320 + ex)
      .num neg (m * r / 2 ^ 96) (e - 224) true
/-- Act of R349. -/
def epiAct (k : Desc) (y : U32) : U32 :=
  let v := f32 y
  match edAct k with
  | 1 => if v.isNan then 0x7FC00000 else if v.isZero || v.isNeg then 0 else y
  | 2 =>
    if v.isNan then 0x7FC00000
    else
      let a := if leF (f32 (edClo k)) v then y else edClo k
      if leF (f32 a) (f32 (edChi k)) then a else edChi k
  | 3 => if v.isNan then 0x7FC00000 else BitVec.ofNat 32 (toF32 .rne (geluVal v)).1
  | _ => y
/-- One output element (R349). -/
def epiElem (k : Desc) (r j : Nat) (x sc bi : U32) : Nat :=
  let v := if edItile k then ofInt x.toInt else f32 x
  let y : U32 := BitVec.ofNat 32 (fmaF fp32 .rne v (f32 sc) (f32 bi)).1
  let rb := if edRmx k = 5 then srWord (k.extractLsb' 192 64) (BitVec.ofNat 64 (128 * r + j)) (k.extractLsb' 256 64) 0 else 0
  (roundTo (edOfmt k) (f32 (epiAct k y)) (rmxOf (BitVec.ofNat 3 (edRmx k))) (edSat k) rb).1
/-- The values of an output row; or why the row stops the operation (R349). -/
def epiRow (x : MatOp) (i : Nat) (s : State) : Except MatHalt (List Nat) :=
  let k := x.desc
  let t := s.team x.team
  let r := x.row0 + i
  let arr := fun (en : Bool) (off : Nat) (d : U32) =>
    if !en then .ok (fun (_ : Nat) => d)
    else match sideRead t 0 off 512 s with
      | .error b => Except.error (memHalt b (badAddr t (t.origin + off) 512 s))
      | .ok bs => .ok fun (j : Nat) => BitVec.ofNat 32 (ofBytes ((bs.drop (4 * j)).take 4))
  match arr (edScen k) (edScoff k) 0x3F800000, arr (edBien k) (edBioff k) 0x80000000 with
  | .error h, _ => .error h
  | _, .error h => .error h
  | .ok sc, .ok bi =>
    let e := fun (j : Nat) => t.tileAt x.tile r j
    if t.tileLost x.tile r then .error coreHalt
    else match (List.range 128).findSome? fun j => tileMarker (e j) with
    | some n => .error ⟨0x03, 3, n, 0⟩
    | none => .ok ((List.range 128).map fun j => epiElem k r j (e j) (sc j) (bi j))
/-- A row that could not be read is counted and logged (R50, R354). -/
def MatOp.meets (x : MatOp) (h : MatHalt) (s : State) : State :=
  if h.detail = 0x06 then meetBad x.die (BitVec.ofNat 7 (x.core % 64)) s else s
/-- EPI: each row into scratchpad, through the swizzle (R350). -/
def runEpi (x : MatOp) (s : State) : MatRun :=
  let k := x.desc
  let no := BitVec.ofNat 7 (x.core % 64)
  let row := fun (r : MatRun) (i : Nat) =>
    if r.2.isSome then r
    else
      match epiRow x i r.1 with
      | .error h => (x.meets h r.1, some h)
      | .ok vs =>
        let bs := packElems (fmtWidth (edOfmt k)) vs
        let off := x.s2.toNat + i * edStride k
        (List.range ((bs.length + 7) / 8)).foldl (fun (r : MatRun) u =>
          if r.2.isSome then r
          else
            let t := r.1.team x.team
            match sideWrite t (swzSpan (edOswz k)) (off + 8 * u) ((bs.drop (8 * u)).take 8) no r.1 with
            | (s, .error b) => (s, some (memHalt b (badAddr t (t.origin + swizzle (swzSpan (edOswz k)) (off + 8 * u)) 8 s)))
            | (s, .ok _) => (s, none)) r
  (List.range x.nrows).foldl row (s, none)
/-- An EPI.RS under way: the rows that it has sent, why it stopped, or that it waits, for its last elements where it has stopped. -/
structure EpiRun where
  s : State
  sent : Nat
  halt : Option MatHalt
  wait : Bool
  stop : Option MatHalt
/-- Where the elements of a row of an EPI.RS go: every address is translated before any element is sent (R350). -/
def epiSpots (e : Engine) (aop n : Nat) (va : Nat → U64) (m : EpiRun) : EpiRun × List EngSpot :=
  (List.range 128).foldl (fun (r : EpiRun × List EngSpot) j =>
    if r.1.halt.isSome || r.1.wait then r
    else
      match engPlace e false true (va j) n r.1.s with
      | (s, .error b) =>
        ({ r.1 with s, wait := b == notYet, halt := if b == notYet then none else some ⟨0x07, b.1, b.2, va j⟩ }, r.2)
      | (s, .ok (.away p)) =>
        if 2 ≤ regionOf p.pa && !linkCarries .reduce aop n then ({ r.1 with s, halt := some ⟨0x07, cAccess, 0x45, va j⟩ }, r.2)
        else ({ r.1 with s }, r.2 ++ [.away p])
      | (s, .ok spot) => ({ r.1 with s }, r.2 ++ [spot])) (m, [])
/-- EPI.RS: rows in order; those elements that are not registered at once are awaited after their row, also those before one at which the
operation stops (R118), and one that was dropped ends the operation (R53, R123, R350). -/
def runEpiRs (x : MatOp) (s : State) : EpiRun :=
  let k := x.desc
  let f := edOfmt k
  let n := fmtWidth f / 8
  let e : Engine := ⟨x.die, some x.core, (s.grid x.grid).ctx, x.grid, BitVec.ofNat 7 (x.core % 64), x.die, x.id, false⟩
  let aop := ropAop 1 f
  let row := fun (m : EpiRun) =>
    if m.halt.isSome || m.wait then m
    else
      match epiRow x m.sent m.s with
      | .error h => { m with s := x.meets h m.s, halt := some h }
      | .ok vs =>
        let va := fun (j : Nat) => x.s2 + BitVec.ofNat 64 (m.sent * edStride k + j * n)
        let (m, spots) := epiSpots e aop n va m
        if m.halt.isSome || m.wait then m
        else
          let send := fun (m : EpiRun) (v : (Nat × EngSpot) × Nat) =>
            if m.halt.isSome then m
            else
              match engReduceAt e v.1.2 (va v.2) aop n (f == 1) v.1.1 m.s with
              | (s, .error b) => { m with s, halt := some ⟨0x06, b.1, b.2, va v.2⟩ }
              | (s, .ok _) => { m with s }
          let m := (vs.zip spots).zipIdx.foldl send m
          { m with sent := m.sent + 1, wait := !(m.s.engDue x.id).isEmpty }
  let due := s.engDue x.id
  if due.any (!·.isOver) then ⟨s, x.sent, none, true, x.stop⟩
  else
    let s := { s with ops := s.ops.filter fun o => o.eng != some x.id }
    match failedPart due with
    | some (d, ea) => ⟨s, x.sent, some ⟨0x06, cMemerr, d.toNat, ea⟩, false, none⟩
    | none =>
      if x.stop.isSome then ⟨s, x.sent, x.stop, false, none⟩
      else
        let m := (List.range (x.nrows - x.sent)).foldl (fun m _ => row m) ⟨s, x.sent, none, false, none⟩
        if m.halt.isSome && (m.s.engDue x.id).any (!·.isOver) then { m with halt := none, wait := true, stop := m.halt } else m
/-- An operation run as far as it can go: to its end, to its fault, or to where it waits. -/
def runMat (x : MatOp) (s : State) : EpiRun :=
  let whole := fun (r : MatRun) => (⟨r.1, 0, r.2, false, none⟩ : EpiRun)
  match x.kind with
  | .mldN | .mldW => whole (runMld x s)
  | .mma | .mmaz => whole (runMma x s)
  | .epi => whole (runEpi x s)
  | .epiRs => runEpiRs x s

/-- Two operations share a tile or a buffer (R333). -/
def MatOp.clashes (x y : MatOp) : Bool :=
  let tiles := fun (k : MatKind) => match k with | .mldN | .mldW => false | _ => true
  let bufs := fun (k : MatKind) => match k with | .epi | .epiRs => false | _ => true
  x.team == y.team && ((tiles x.kind && tiles y.kind && x.tile == y.tile) || (bufs x.kind && bufs y.kind && x.buf == y.buf))
/-- The oldest operation of a kind on a core that no older one holds back (R333). -/
def State.nextMat (s : State) (core : Nat) (p : MatKind → Bool) : Option MatOp :=
  s.eng.mats.find? fun x => x.core == core && p x.kind &&
    (s.eng.mats.takeWhile (·.id != x.id)).all fun y => !y.clashes x
/-- An operation has ended: its locks are released, its fault waits to be reported, a deadline that has passed is counted
(R80, R354, R411). An uncorrectable error of a core's memories is counted and logged (R50). -/
def endMat (x : MatOp) (r : EpiRun) : State :=
  let s := unlock x.id { r.s with
    eng := { r.s.eng with mats := r.s.eng.mats.filter (·.id != x.id) }
    ops := r.s.ops.filter fun o => o.eng != some x.id }
  let s := match r.halt with
    | some h =>
      let s := if x.kind == .epi || x.kind == .epiRs then s else x.meets h s
      reportTo x.agent x.grid ⟨true, x.batch, BitVec.ofNat 8 h.detail, BitVec.ofNat 8 h.under, BitVec.ofNat 16 h.info, h.addr, x.order⟩ s
    | none => s
  reapTeams (deadlineMiss x.die x.deadline x.issuer s)
/-- The next operation of a kind runs to its end without a fault, or as far as it can. -/
def finishMat (core : Nat) (p : MatKind → Bool) (s : State) : State :=
  match s.nextMat core p with
  | none => s
  | some x =>
    let r := runMat x s
    if r.halt.isSome then s
    else if !r.wait then endMat x r
    else { r.s with eng := { r.s.eng with mats := updFirst (·.id == x.id) (fun y => { y with sent := r.sent, stop := r.stop }) r.s.eng.mats } }

/-- MLD_COMPLETE (R338 to R341). -/
def execMldComplete (core : Nat) (s : State) : Answer :=
  .next (finishMat core (fun k => k == .mldN || k == .mldW) s)
/-- MMA_COMPLETE (R344). -/
def execMmaComplete (core : Nat) (s : State) : Answer :=
  .next (finishMat core (fun k => k == .mma || k == .mmaz) s)
/-- EPI_COMPLETE (R349, R350). -/
def execEpiComplete (core : Nat) (s : State) : Answer := .next (finishMat core (· == .epi) s)
/-- EPI_RS_COMPLETE (R350). -/
def execEpiRsComplete (core : Nat) (s : State) : Answer := .next (finishMat core (· == .epiRs) s)
/-- MATRIX_OP_FAULT: the first operation of a core that ends by fault does so (R354). -/
def execMatrixOpFault (core : Nat) (s : State) : Answer :=
  .next (match s.eng.mats.find? fun x => x.core == core &&
      ((s.eng.mats.takeWhile (·.id != x.id)).all fun y => !y.clashes x) && (runMat x s).halt.isSome with
    | some x => endMat x (runMat x s)
    | none => s)

end Sys2Proof.Machine
end

