-- ==== Sys2Proof/Machine/Channels.lean ====
section
/-!
DEFINITION. The channels of the fabric: the header of a packet, the log of a channel, its waybill, and the delivery of the packet at
its head (R431, R432, R441, R445).
-/
namespace Sys2Proof.Machine

/-- The message header of a packet (R432). -/
def packetHeader (p : Packet) : BitVec 128 :=
  p.dlmn ++ p.slmn ++ p.kind ++ p.vc ++ BitVec.ofNat 3 (min 4 ((p.payload.length + 63) / 64)) ++ (0 : BitVec 7) ++ p.tag ++ p.addr
/-- The bytes of the payload flits. -/
def payloadFlits (p : Packet) : List Byte := p.payload ++ List.replicate (upTo p.payload.length 64 - p.payload.length) 0
/-- The CRC-32C of the payload: zero where there is none (R432). -/
def payloadCrc (p : Packet) : Nat := if p.payload.isEmpty then 0 else crc32c (payloadFlits p)
/-- A packet as a channel's log holds it (R441). -/
def packetBytes (p : Packet) : List Byte :=
  bytesOf 16 (packetHeader p).toNat ++ bytesOf 4 (payloadCrc p) ++ List.replicate 44 0 ++ payloadFlits p

/-- One byte of the CRC-64 of a waybill (R445). -/
def crc64Bits (n : Nat) (c : U64) : U64 :=
  match n with
  | 0 => c
  | n + 1 => crc64Bits n (if c.getLsbD 63 then (c <<< 1) ^^^ 0x42F0E1EBA9EA3693 else c <<< 1)
def crc64 (c : U64) (bs : List Byte) : U64 := bs.foldl (fun (c : U64) (b : Byte) => crc64Bits 8 (c ^^^ ((b.setWidth 64 : U64) <<< 56))) c

def rWbdig (ch : Nat) : Nat := rFab (0xA20 + 8 * ch)
def rWbcnt (ch : Nat) : Nat := rFab (0xAE0 + 8 * ch)
/-- A delivered packet advances its channel's waybill and count; at a multiple of K a checkpoint is due (R445). -/
def waybill (ch : Nat) (p : Packet) (s : State) : State :=
  let d := crc64 (s.reg (rWbdig ch)) (bytesOf 16 (packetHeader p).toNat ++ bytesOf 4 (payloadCrc p))
  let n := s.reg (rWbcnt ch) + 1
  let s := (s.setReg (rWbdig ch) d).setReg (rWbcnt ch) n
  let k := max 1 ((s.reg (rFab 0xA18)).toNat / 2 ^ 32)
  if n.toNat % k ≠ 0 || n = 0 then s
  else { s with sys := { s.sys with wbDue := s.sys.wbDue ++ [(ch, n.toNat / k - 1, d)] } }

/-- The module logs a channel for a colour: its own cut is done and the channel's cairn has not come (R441). -/
def State.logs (s : State) (c : Bool) (ch : Nat) : Bool :=
  let x := s.colour c
  x.st == .recording && !x.asked && !x.cutting && !x.fail && x.chans.contains ch
/-- A delivered packet is staged as a record of every colour that logs its channel (R441): at die 0. DESIGN CHOICE [17]. -/
def logPacket (ch : Nat) (p : Packet) (s : State) : State :=
  let l0 := s.logs false ch
  let l1 := s.logs true ch
  if !l0 && !l1 then s
  else
    let pos := fun (s : State) (c : Nat) => SMap.get 0 s.sys.logPos (2 * ch + c)
    let aux := if l0 then pos s 0 else pos s 1
    let up := fun (on : Bool) (c : Nat) (s : State) =>
      if on then { s with sys := { s.sys with logPos := SMap.set 0 s.sys.logPos (2 * ch + c) (pos s c + 1) } } else s
    stage false ⟨0x0E, BitVec.ofBool l1 ++ BitVec.ofBool l0, 0, 255, false, BitVec.ofNat 64 (ch / 4 * 256 + ch % 4), BitVec.ofNat 64 aux,
      packetBytes p⟩ (up l1 1 (up l0 0 s))

/-- A packet that has arrived stands behind those of its channel (R431). -/
def pushPacket (ch : Nat) (p : Option Packet) (s : State) : State :=
  match p with
  | none => s
  | some p => { s with sys := { s.sys with inq := SMap.set [] s.sys.inq ch (SMap.get [] s.sys.inq ch ++ [p]) } }
def State.headPacket (s : State) (ch : Nat) : Option Packet := (SMap.get [] s.sys.inq ch).head?
def popPacket (ch : Nat) (s : State) : State :=
  { s with sys := { s.sys with inq := SMap.set [] s.sys.inq ch (SMap.get [] s.sys.inq ch).tail } }
/-- The head of a channel leaves it: it is logged and the waybill advances. -/
def delivered (ch : Nat) (p : Packet) (s : State) : State := waybill ch p (logPacket ch p (popPacket ch s))
/-- A packet for another module leaves on its way there, behind what its output channel holds: it has been delivered by the channel, not to
this module (R431, R441, R445). A cairn goes no further than its channel. DEDUCED [59]. -/
def State.passesOn (s : State) (p : Packet) : Bool := p.kind != 6 && p.phys != s.myphys
/-- An arrival event on a channel: a packet that comes now enters the channel; then its head goes on to the module that it is for, or is
delivered to f, where it is of the event's kind and may be delivered. A module that restores delivers nothing (R444). -/
def onHead (ch : Nat) (p : Option Packet) (may : Packet → State → Bool) (f : Packet → State → State) (s : State) : State :=
  let s := pushPacket ch p s
  if s.sys.restoring.isSome then s
  else
    match s.headPacket ch with
    | none => s
    | some q =>
      if s.passesOn q then sendOn (s.portTo (some q.phys)) q (delivered ch q s)
      else if may q s then f q (delivered ch q s) else s

/-- The other modules of the snapshot domain, by logical number and the entry that a packet to each reads at its injection: nothing is
sent to a number without a valid entry (R21). DEDUCED [59]. -/
def State.peers (s : State) : List (Nat × BitVec 12) :=
  (s.bar.filterMap fun e =>
    if 0x3010000 ≤ e.1 && e.1 < 0x3018000 && e.2.getLsbD 31 then some ((e.1 - 0x3010000) / 8, e.2.extractLsb' 0 12) else none).filter
      (·.1 != s.mylmn.toNat)
/-- A packet for each of the other modules. -/
def tellPeers (f : State → Nat → Packet) (s : State) : State := s.peers.foldl (fun s m => sendTo (some m.2) (f s m.1) s) s
/-- A message of the module to another one, that belongs to no group. -/
def modulePacket (s : State) (m kind vc tag : Nat) (addr : U64) : Packet where
  dlmn := BitVec.ofNat 12 m
  slmn := s.mylmn
  kind := BitVec.ofNat 4 kind
  vc := BitVec.ofNat 2 vc
  tag := BitVec.ofNat 24 tag
  addr := addr
  payload := []
  phys := 0

end Sys2Proof.Machine
end

