-- ==== Sys2Proof/Machine/FabricEvents.lean ====
section
/-!
DEFINITION. What arrives from other modules: messages of collectives, knells and STEP reports, requests for this module's memory and
their answers, time, halts, waybill checkpoints (R431 to R446).
-/
namespace Sys2Proof.Machine

-- Collectives (R434, R435, R439, R440).

/-- A router has a free slot for a message that must wait (R442). -/
def State.routerRoom (s : State) (port : Nat) : Bool := (s.sys.routers.filter (·.port == port)).length < 16
/-- A message of a collective at the head of a channel: taken, held by the router, or left where it is. -/
def arriveMessage (vote : Bool) (ch : Nat) (p : Option Packet) (s : State) : State :=
  let fit := fun (q : Packet) (s : State) => s.fit vote q.tag.toNat q.addr
  onHead ch p
    (fun q s => q.kind == (if vote then 5 else 4) && (match fit q s with | .wait => false | .hold => s.routerRoom (ch / 4) | _ => true))
    (fun q s =>
      match fit q s with
      | .hold => let s := notePort (q.tag.toNat % 64) (ch / 4) s; { s with sys := { s.sys with routers := s.sys.routers ++ [⟨ch / 4, ch % 4, packetHeader q, q.payload⟩] } }
      | _ => settleRouters (takeMessage vote q.tag.toNat q.addr q.payload (notePort (q.tag.toNat % 64) (ch / 4) s))) s
/-- COLLECTIVE_CHUNK_ARRIVAL (R435). -/
def execCollectiveChunkArrival (ch : Nat) (p : Option Packet) (s : State) : Answer := .next (arriveMessage false ch p s)
/-- STEP_VOTE_ARRIVAL (R439). -/
def execStepVoteArrival (ch : Nat) (p : Option Packet) (s : State) : Answer := .next (arriveMessage true ch p s)

-- Knells and agreement (R440).

/-- KNELL_ARRIVAL (R440). -/
def execKnellArrival (ch : Nat) (p : Option Packet) (s : State) : Answer :=
  .next (onHead ch p (fun q _ => q.kind == 7) (fun q s => knellGroup (q.tag.toNat % 64) s) s)
/-- FATAL_GROUP_FAULT (R440). -/
def execFatalGroupFault (grp : Nat) (s : State) : Answer := .next (if grp < 64 then fatalFault grp s else s)
/-- STEP_REPORT_ARRIVAL (R440). -/
def execStepReportArrival (ch : Nat) (p : Option Packet) (s : State) : Answer :=
  .next (onHead ch p (fun q _ => q.kind == 8) (fun q s =>
    let g := q.tag.toNat % 64
    holdReport g (q.slmn.toNat - s.grpBase g) q.addr s) s)
/-- AGREEMENT_TIMEOUT (R440). -/
def execAgreementTimeout (grp : Nat) (s : State) : Answer :=
  .next (if s.grpState grp = 2 && SMap.get 0 s.sys.agreeBy grp ≤ s.gt then (setGrpState grp 4 s).interrupt 3 else s)

/-- What a group has kept of its last opening. -/
def clearReports (g : Nat) (s : State) : State :=
  { s with sys := { s.sys with reports := SMap.set [] s.sys.reports g [], agreeBy := SMap.set 0 s.sys.agreeBy g 0 } }
/-- OPENERR of a group (R433). -/
def setOpenErr (g : Nat) (b : Bool) (s : State) : State :=
  let x := s.reg (rFab (8 * g))
  s.setReg (rFab (8 * g)) (if b then x ||| lane 60 else x &&& ~~~(lane 60))
/-- GRPCMD_OPEN: in any state of the group (R434); the collectives of one that is open end as by a close. DESIGN CHOICE [107]. -/
def execGrpcmdOpen (grp : Nat) (s : State) : Answer :=
  .next (if 64 ≤ grp then s
    else
      let m := s.grpSize grp
      let base := s.grpBase grp
      let s := endColls grp s
      if s.mylmn.toNat < base || base + m ≤ s.mylmn.toNat || 4096 < base + m then setOpenErr grp true (setGrpState grp 0 s)
      else
        let s := clearReports grp (setGrpState grp 1 (setOpenErr grp false s))
        { s with sys := { s.sys with seqs := SMap.set 0 s.sys.seqs grp 0, ringPorts := SMap.set [] s.sys.ringPorts grp [] } })
/-- GRPCMD_CLOSE (R434). -/
def execGrpcmdClose (grp : Nat) (s : State) : Answer :=
  .next (if 64 ≤ grp then s else clearReports grp (setGrpState grp 0 (endColls grp s)))

-- Requests for this module's memory (R45, R47, R131).

/-- The answer to a request; ADDR [60] says that data could not be corrected or a write was dropped. DESIGN CHOICE [18]. -/
def answer (q : Packet) (bs : List Byte) (bad : Bool) (s : State) : State :=
  sendPacket {
    q with
    dlmn := q.slmn
    slmn := s.mylmn
    kind := 3
    vc := 1
    payload := bs
    addr := (q.addr.setWidth 60 : BitVec 60).setWidth 64 ||| (if bad then lane 60 else 0) } s
def failedAnswer (q : Packet) : Bool := q.addr.getLsbD 60
/-- A request to this module's memory arrives: its home does not wait. -/
def State.serves (s : State) (kind : BitVec 4) (q : Packet) : Bool := q.kind == kind && !s.homeWaits none (placeOf q) (accessSize q)
/-- FABRIC_READ_REQUEST (R45). -/
def execFabricReadRequest (ch : Nat) (p : Option Packet) (s : State) : Answer :=
  .next (onHead ch p (fun q s => s.serves 0 q) (fun q s =>
    match readHome none true false 73 (placeOf q) (accessSize q) s with
    | (s, .ok bs) => answer q bs false s
    | (s, .error _) => answer q [] true s) s)
/-- FABRIC_WRITE_REQUEST (R45, R47). -/
def execFabricWriteRequest (ch : Nat) (p : Option Packet) (s : State) : Answer :=
  .next (onHead ch p (fun q s => s.serves 1 q) (fun q s =>
    let (s, lost) := writeHome false 73 (placeOf q) (q.payload.take (accessSize q)) s
    answer q [] lost s) s)
/-- FABRIC_ATOMIC_REQUEST: an atomic or a reduce-store of another module is performed at the home (R45, R53). -/
def execFabricAtomicRequest (ch : Nat) (p : Option Packet) (s : State) : Answer :=
  .next (onHead ch p (fun q s => s.serves 2 q) (fun q s =>
    let n := accessSize q
    let x := ofBytes (q.payload.take n)
    if reducing q then
      let (s, lost) := reduceHome false (accessOp q) n (accessBf q) (placeOf q) x 73 s
      answer q [] lost s
    else
      match atomicHome false 73 (placeOf q) n (fun old => rmw (accessOp q) (8 * n) (accessBf q) old x (ofBytes ((q.payload.drop n).take n))) s with
      | (s, .error _) => answer q [] true s
      | (s, .ok bs) => answer q bs false s) s)
/-- FABRIC_RESPONSE: the part of an operation that went to another module has its data or its acknowledgement (R45, R52, R53). -/
def execFabricResponse (ch : Nat) (p : Option Packet) (s : State) : Answer :=
  .next (onHead ch p (fun q _ => q.kind == 3) (fun q s =>
    let mine := fun (o : MemOp) => o.parts.find? fun x => x.st == .away && transaction o x = q.tag.toNat
    match s.ops.find? fun o => (mine o).isSome with
    | none => s
    | some o =>
      match mine o with
      | none => s
      | some x =>
        let reads := o.kind == .load || o.kind == .fill || o.kind == .atomic
        if failedAnswer q then
          let s := if reads then logError o.die x.pa (if o.kind == .fill then 2 else 1) 6 o.no s else s
          updPart o x.lane (fun x => { x with st := .failed (if reads then 0x84 else 0x83) }) s
        else
          let whole := o.wholeLine x
          let bs := (if whole then q.payload.drop (x.pa % 128) else q.payload).take o.size
          let s := updPart o x.lane (fun x => { x with data := if reads then BitVec.ofNat 64 (ofBytes bs) else x.data, st := .done }) s
          let s := if o.isStore then s else l1Forget o.l1 (x.pa / 128) s
          match o.core with
          | some c => if whole && o.fills.contains (x.pa / 128) then l1Install c (x.pa / 128) o.nt (q.payload.take 128) s else s
          | none => s) s)
/-- FABRIC_RESERVED_KIND: discarded at the port and counted (R432). -/
def execFabricReservedKind (ch : Nat) (p : Option Packet) (s : State) : Answer :=
  let s := pushPacket ch p s
  .next (match s.headPacket ch with
    | some q => if 12 ≤ q.kind.toNat then (popPacket ch s).count (rFab 0xA10) 1 else s
    | none => s)

-- Ports and time (R2, R431).

/-- The port by which a packet from a to b arrives at b: in the last dimension in which they differ (R431). -/
def portIn (a b : BitVec 12) : Option Nat := (wayDims a b).getLast?.map fun d => if goesUp a b d then 2 * d + 1 else 2 * d
/-- The ports of a group's rings at this module: towards the next member of each dimension that has others, and from the one before (R431,
R434). -/
def State.groupPorts (s : State) (g : Nat) : List Nat :=
  let x := s.grpExt g
  let me := s.grpSelf g
  let phys := fun (m : Nat) => s.remap (BitVec.ofNat 12 (s.grpBase g + m))
  ([0, 1, 2].filter fun d => 1 < ringLen x d).flatMap fun d =>
    ((phys (ringNext x me d)).bind (portOut s.myphys)).toList ++
      (((List.range (s.grpSize g)).find? fun m => ringNext x m d = me).bind fun m => (phys m).bind fun a => portIn a s.myphys).toList
/-- A ring of the group uses a port of this module: its messages take the port, or have passed it under an earlier remap table (R431, R434).
DEDUCED [59]: that the module finds the ports of a ring that is idle by the remap table, although R21 names only requests as its readers. -/
def State.ringUses (s : State) (g port : Nat) : Bool := (SMap.get [] s.sys.ringPorts g).contains port || (s.groupPorts g).contains port
/-- PORT_DOWN: every open group whose ring uses the port is knelled (R431, R440). -/
def execPortDown (port : Nat) (s : State) : Answer :=
  .next (if 6 ≤ port || s.sys.portsDown.contains port then s
    else
      let s := ({ s with sys := { s.sys with portsDown := port :: s.sys.portsDown } }).interrupt 2
      ((List.range 64).filter fun g => s.grpState g = 1 && s.ringUses g port).foldl (fun s g => fatalFault g s) s)
/-- A message of an open group has taken a port that is down, or its ring leads over one: the group has a fatal fault (R431, R440). -/
def execRingDown (g : Nat) (s : State) : Answer :=
  .next (if s.grpState g = 1 && s.sys.portsDown.any (s.ringUses g) then fatalFault g s else s)
/-- TIME_SYNC_MESSAGE: ADDR carries the pod's time, and a GT that is behind takes it; one that is ahead stays, since a later read of GT is never
smaller (R2, R359, R383). DESIGN CHOICE [19]. -/
def execTimeSyncMessage (ch : Nat) (p : Option Packet) (s : State) : Answer :=
  .next (onHead ch p (fun q _ => q.kind == 9) (fun q s => { s with gt := if s.gt ≤ q.addr then q.addr else s.gt }) s)

-- Divergence (R445, R446).

/-- A gang or a context is stopped as by HALT, at the word where it stands; a gang that is being taken to a trap, after it (R360, R361,
R446). DEDUCED [106]. -/
def haltAgent (id : Nat) (s : State) : State :=
  match s.agent? id with
  | none => s
  | some a =>
    let p := (a.runnable[0]?).getD ((a.paths[0]?).getD Path.empty)
    if a.parked || a.ended then s
    else if a.stopping.isSome && !a.drover then s.setAgent { a with pausing := some .halt }
    else asyncStop id ⟨a.haltReport, p.pc, p.plane, p.id, []⟩ s
/-- The gangs of a saved team are parked, or halted, where they were saved: they enter the park log, and they run on no core that could write a
STOP record (R446, R467). DEDUCED [106]. -/
def parkSaved (halt : Bool) (s : State) : State :=
  let stop := fun (a : Agent) => if a.parked then a else { a with parked := true, nonstop := !halt, trap := if halt then a.haltReport else a.trap }
  (s.teams.filter fun t => t.state == .saved && s.gridInScope t.grid).foldl (fun s t =>
    let s := (t.saved.filter (!·.parked)).foldl (fun s a => logPark (!halt) (stop a) s) s
    s.setTeam { s.team t.id with saved := (s.team t.id).saved.map stop }) s
/-- Every agent in scope is halted (R446). -/
def haltAll (s : State) : State :=
  let s := parkSaved true s
  ((s.all.filter fun a => s.gridInScope a.grid).map (·.id)).foldl (fun s id => haltAgent id s) s
/-- HALT_NOTICE (R446). -/
def execHaltNotice (ch : Nat) (p : Option Packet) (s : State) : Answer :=
  .next (onHead ch p (fun q _ => q.kind == 11) (fun _ s => haltAll s) s)
/-- The policy of a divergence (R446). -/
def divergence (s : State) : State :=
  match (s.reg (rFab 0xA18)).toNat % 4 with
  | 1 => (s.all.filter fun a => s.gridInScope a.grid && !a.drover && !a.parked).foldl (fun s a =>
    finishStop false a.id (s.setAgent { a with pausing := some (a.pausing.getD .park) })) (parkSaved false s)
  | 2 => haltAll (tellPeers (fun s m => modulePacket s m 11 3 0 0) s)
  | _ => s
/-- The reference digest of checkpoint i of a channel, read at its home; none where it cannot be corrected, and then nothing is compared (R43, R52,
R445). DESIGN CHOICE [107]. -/
def readReference (a : Nat) (s : State) : State × Option Nat :=
  match readHome none true false 127 a 8 s with
  | (s, .ok bs) => (s, some (ofBytes bs))
  | (s, .error _) => (s, none)
/-- WAYBILL_CHECKPOINT: the record, and the comparison with the reference table, once its home can be read (R445, R446, R450). -/
def execWaybillCheckpoint (ch : Nat) (s : State) : Answer :=
  .next (match s.sys.wbDue.find? (·.1 == ch) with
    | none => s
    | some (_, i, d) =>
      let ctl := s.reg (rFab 0xA18)
      let refn := (s.reg (rFab 0xBA8)).toNat % 2 ^ 32
      let a := (s.reg (rFab 0xBA0)).toNat % 2 ^ 44 + 8 * (ch * refn + i)
      let compared := ctl.getLsbD 2 && i < refn
      if compared && s.homeWaits none a 8 then s
      else
        let s := trace 0 64 7 0 ch i 0 d.toNat { s with sys := { s.sys with wbDue := s.sys.wbDue.erase (ch, i, d) } }
        if !compared then s
        else
          match readReference a s with
          | (s, none) => s
          | (s, some want) =>
            if want = d.toNat then s
            else
              let s := s.count (rFab 0xBB0) 1
              if ctl.getLsbD 3 then s
              else divergence ((trace 0 64 9 0 ch i want d.toNat (s.setReg (rFab 0xA18) (ctl ||| 8))).interrupt 5))

end Sys2Proof.Machine
end

