-- ==== Sys2Proof/Machine/FloatOps.lean ====
section
/-!
DEFINITION. The vector floating-point instructions, packed 16-bit arithmetic and the conversions (R272 to R283).
-/
namespace Sys2Proof.Machine

/-- The sources of a lane after ABS and NEG (R265). -/
def modA (m : FMod) (x : U32) : U32 := signMods 31 m.negA m.absA x
def modB (m : FMod) (x : U32) : U32 := signMods 31 m.negB m.absB x
def modC (m : FMod) (x : U32) : U32 := signMods 31 m.negC false x

/-- An FP32 instruction with one or two sources (R267, R273). -/
def float1 (h : Hint) (m : FMod) (d a : Reg) (f : Val → Nat × BitVec 5) (s : State) : State :=
  unlessMarked (s.act h) (fun l => [s.vr a l]) (floatTo h d fun l => f (f32 (modA m (s.vr a l)))) s
def float2 (h : Hint) (m : FMod) (d a b : Reg) (f : U32 → U32 → Nat × BitVec 5) (s : State) : State :=
  unlessMarked (s.act h) (fun l => [s.vr a l, s.vr b l]) (floatTo h d fun l => f (modA m (s.vr a l)) (modB m (s.vr b l))) s
/-- A rounded result with flags of its own. -/
def roundWith (rm : Rm) (x : Val × BitVec 5) : Nat × BitVec 5 := let r := toF32 rm x.1; (r.1, r.2 ||| x.2)

/-- F.ADD (R274). -/
def execFAdd (h : Hint) (m : FMod) (d a b : Reg) (s : State) : Answer := .next (float2 h m d a b (fun x y => addF fp32 (rmOf m.rm) (f32 x) (f32 y)) s)
/-- F.SUB (R274). -/
def execFSub (h : Hint) (m : FMod) (d a b : Reg) (s : State) : Answer := .next (float2 h m d a b (fun x y => addF fp32 (rmOf m.rm) (f32 x) (f32 y).neg) s)
/-- F.MUL (R274). -/
def execFMul (h : Hint) (m : FMod) (d a b : Reg) (s : State) : Answer := .next (float2 h m d a b (fun x y => mulF fp32 (rmOf m.rm) (f32 x) (f32 y)) s)
/-- F.DIV (R274). -/
def execFDiv (h : Hint) (m : FMod) (d a b : Reg) (s : State) : Answer := .next (float2 h m d a b (fun x y => roundWith (rmOf m.rm) (divVal (f32 x) (f32 y))) s)
/-- F.MIN (R274). -/
def execFMin (h : Hint) (m : FMod) (d a b : Reg) (s : State) : Answer := .next (float2 h m d a b (fun x y => minMax false x y) s)
/-- F.MAX (R274). -/
def execFMax (h : Hint) (m : FMod) (d a b : Reg) (s : State) : Answer := .next (float2 h m d a b (fun x y => minMax true x y) s)
/-- F.FMA: one rounding (R274). -/
def execFFma (h : Hint) (m : FMod) (d a b c : Reg) (s : State) : Answer :=
  .next (unlessMarked (s.act h) (fun l => [s.vr a l, s.vr b l, s.vr c l])
    (floatTo h d fun l => fmaF fp32 (rmOf m.rm) (f32 (modA m (s.vr a l))) (f32 (modB m (s.vr b l))) (f32 (modC m (s.vr c l)))) s)
/-- F.CMP (R275). -/
def execFCmp (h : Hint) (m : FMod) (cc : BitVec 3) (d : BitVec 4) (a b : Reg) (s : State) : Answer :=
  .next (unlessMarked (s.act h) (fun l => [s.vr a l, s.vr b l])
    (floatMask h d fun l => cmpF cc (f32 (modA m (s.vr a l))) (f32 (modB m (s.vr b l)))) s)
/-- F.CLASS (R276). -/
def execFClass (h : Hint) (d a : Reg) (s : State) : Answer := .next (vectorTo h d (fun l => classF (s.vr a l)) s)
/-- F.SQRT (R274). -/
def execFSqrt (h : Hint) (m : FMod) (d a : Reg) (s : State) : Answer := .next (float1 h m d a (fun x => toF32 (rmOf m.rm) (sqrtVal x)) s)
/-- F.RCP (R277). -/
def execFRcp (h : Hint) (m : FMod) (d a : Reg) (s : State) : Answer := .next (float1 h m d a (fun x => roundWith .rne (divVal (.num false 1 0 false) x)) s)
/-- F.RSQ (R277). -/
def execFRsq (h : Hint) (m : FMod) (d a : Reg) (s : State) : Answer := .next (float1 h m d a (fun x => roundWith .rne (rsqVal x)) s)
/-- F.EXP2 (R277). -/
def execFExp2 (h : Hint) (m : FMod) (d a : Reg) (s : State) : Answer := .next (float1 h m d a (fun x => toF32 .rne (exp2Val x)) s)
/-- F.LOG2 (R277). -/
def execFLog2 (h : Hint) (m : FMod) (d a : Reg) (s : State) : Answer := .next (float1 h m d a (fun x => roundWith .rne (log2Val x)) s)
/-- F.SINPI (R277). -/
def execFSinpi (h : Hint) (m : FMod) (d a : Reg) (s : State) : Answer := .next (float1 h m d a (fun x => toF32 .rne (sinpiVal x)) s)
/-- F.COSPI (R277). -/
def execFCospi (h : Hint) (m : FMod) (d a : Reg) (s : State) : Answer := .next (float1 h m d a (fun x => toF32 .rne (cospiVal x)) s)
/-- F.TANH (R277). -/
def execFTanh (h : Hint) (m : FMod) (d a : Reg) (s : State) : Answer := .next (float1 h m d a (fun x => toF32 .rne (tanhVal x)) s)
/-- F.RND (R274). -/
def execFRnd (h : Hint) (m : FMod) (d a : Reg) (s : State) : Answer := .next (float1 h m d a (fun x => rndF (rmOf m.rm) x) s)
/-- F.SCALE: the exponent count is an INT32 and no floating-point data (R274). -/
def execFScale (h : Hint) (m : FMod) (d a b : Reg) (s : State) : Answer :=
  .next (unlessMarked (s.act h) (fun l => [s.vr a l])
    (floatTo h d fun l => toF32 (rmOf m.rm) (scaleVal (f32 (modA m (s.vr a l))) (s.vr b l).toInt)) s)

/-- Key and counter base of stochastic rounding: s[2K] and s[2K + 1] (R231, R280). -/
def State.srWordAt (s : State) (k : BitVec 5) (l j : Nat) : Nat :=
  srWord (s.g.sget (2 * k.toNat)) (s.globalLane s.g l) (s.g.sget (2 * k.toNat + 1)) j
/-- Element i of width w of a word (R223). -/
def elemAt (w i : Nat) (x : U32) : Nat := x.toNat / 2 ^ (w * i) % 2 ^ w
/-- The words a conversion reads as floating-point data: none from an integer format (R267). -/
def floatWords (c : BitVec 6) (xs : List U32) : List U32 := if isIntFmt c then [] else xs

/-- F.CVT (R280). -/
def execFCvt (h : Hint) (dst srcf : BitVec 6) (rmx : BitVec 3) (sat : Bool) (sel : BitVec 3) (k : BitVec 5) (d a : Reg)
    (s : State) : Answer :=
  .next (unlessMarked (s.act h) (fun l => floatWords srcf [s.vr a l])
    (floatTo h d fun l => roundTo dst (decodeVal srcf (elemAt (fmtWidth srcf) sel.toNat (s.vr a l))) (rmxOf rmx) sat
      (if rmx == 5 then s.srWordAt k l 0 else 0)) s)

/-- F.CVTI from FP32 to an integer (R282). -/
def execFCvtiToInt (h : Hint) (i : BitVec 6) (shift : BitVec 7) (rm : BitVec 2) (d a : Reg) (s : State) : Answer :=
  .next (unlessMarked (s.act h) (fun l => [s.vr a l])
    (floatTo h d fun l =>
      let (w, sg) := ifmt i
      let r := roundInt (intRange w sg).1 (intRange w sg).2 (scaleVal (f32 (s.vr a l)) shift.toInt) (rmOf rm) 0
      ((r.1 % (2 ^ 32 : Nat)).toNat, r.2)) s)
/-- F.CVTI from an integer to FP32 (R282). -/
def execFCvtiToFloat (h : Hint) (i : BitVec 6) (shift : BitVec 7) (rm : BitVec 2) (d a : Reg) (s : State) : Answer :=
  .next (floatTo h d (fun l => toF32 (rmOf rm) (scaleVal (decodeVal i (s.vr a l).toNat) shift.toInt)) s)

/-- F.PACK: the codes of a and b stand at elements 2J and 2J + 1 of vD; its other bits are kept (R281). -/
def execFPack (h : Hint) (dst : BitVec 6) (rmx : BitVec 3) (sat : Bool) (j : BitVec 2) (k : BitVec 5) (d a b : Reg)
    (s : State) : Answer :=
  .next (unlessMarked (s.act h) (fun l => [s.vr a l, s.vr b l])
    (floatTo h d fun l =>
      let w := fmtWidth dst
      let cv := fun (x : U32) (n : Nat) => roundTo dst (f32 x) (rmxOf rmx) sat (if rmx == 5 then s.srWordAt k l n else 0)
      let x := cv (s.vr a l) 0
      let y := cv (s.vr b l) 1
      ((bfi 32 (w * (2 * j.toNat)) (2 * w) (s.vr d l) (BitVec.ofNat 32 (x.1 + y.1 * 2 ^ w))).toNat, x.2 ||| y.2)) s)

/-- F.UNPK: exact, but that a NaN becomes the canonical one (R281). -/
def execFUnpk (h : Hint) (srcf : BitVec 6) (j : BitVec 2) (d a : Reg) (s : State) : Answer :=
  let w := fmtWidth srcf
  let cv := fun (l i : Nat) => toF32 .rne (decodeVal srcf (elemAt w (2 * j.toNat + i) (s.vr a l)))
  .next (unlessMarked (s.act h) (fun l => floatWords srcf [s.vr a l]) (fun s' =>
    retire h (raiseFlags (flagsOf (s.act h) (fun l => cv l 0) ||| flagsOf (s.act h) (fun l => cv l 1))
      (setV (d.toNat + 1) (s.act h) (fun l => BitVec.ofNat 32 (cv l 1).1)
        (setV d.toNat (s.act h) (fun l => BitVec.ofNat 32 (cv l 0).1) s')))) s)

/-- The 16-bit format of TY (R278), an operand's element after its modifiers, and both elements computed. -/
def hFmt (bf : Bool) : FFmt := if bf then bf16 else fp16
def hElem (bf neg abs : Bool) (x : U32) (i : Nat) : Val :=
  decodeF (hFmt bf) ((signMods 15 neg abs ((x >>> (16 * i)) &&& 0xFFFF)).toNat)

/-- H.ADD (R278). -/
def execHAdd (h : Hint) (bf : Bool) (m : FMod) (d a b : Reg) (s : State) : Answer :=
  .next (unlessMarked (s.act h) (fun l => [s.vr a l, s.vr b l])
    (floatTo h d fun l => halves fun i =>
      addF (hFmt bf) (rmOf m.rm) (hElem bf m.negA m.absA (s.vr a l) i) (hElem bf m.negB m.absB (s.vr b l) i)) s)
/-- H.MUL (R278). -/
def execHMul (h : Hint) (bf : Bool) (m : FMod) (d a b : Reg) (s : State) : Answer :=
  .next (unlessMarked (s.act h) (fun l => [s.vr a l, s.vr b l])
    (floatTo h d fun l => halves fun i =>
      mulF (hFmt bf) (rmOf m.rm) (hElem bf m.negA m.absA (s.vr a l) i) (hElem bf m.negB m.absB (s.vr b l) i)) s)
/-- H.FMA (R278). -/
def execHFma (h : Hint) (bf : Bool) (m : FMod) (d a b c : Reg) (s : State) : Answer :=
  .next (unlessMarked (s.act h) (fun l => [s.vr a l, s.vr b l, s.vr c l])
    (floatTo h d fun l => halves fun i =>
      fmaF (hFmt bf) (rmOf m.rm) (hElem bf m.negA m.absA (s.vr a l) i) (hElem bf m.negB m.absB (s.vr b l) i)
        (hElem bf m.negC false (s.vr c l) i)) s)

/-- F.DEQ: an element times a block scale, rounded once (R233, R283). -/
def execFDeq (h : Hint) (ef sf : BitVec 6) (sel : BitVec 3) (rm : BitVec 2) (d a b : Reg) (s : State) : Answer :=
  .next (unlessMarked (s.act h) (fun l => floatWords ef [s.vr a l])
    (floatTo h d fun l => toF32 (rmOf rm) (scaled (decodeVal ef (elemAt (fmtWidth ef) sel.toNat (s.vr a l)))
      (decodeVal sf ((s.vr b l).toNat % 256)))) s)

end Sys2Proof.Machine
end

