-- ==== Sys2Proof/Machine/Snapshots.lean ====
section
/-!
DEFINITION. Snapshots from the local cut to release (R135 to R153, R441 to R443, R447).
-/
namespace Sys2Proof.Machine

-- What is in scope (R135 to R137).

/-- The valid granule ranges of SNAPRNG (R135). -/
def State.snapRanges (s : State) : List (Nat × Nat) :=
  (List.range 16).filterMap fun i =>
    let x := s.reg (rSnap (0x28 + 8 * i))
    let lo := (x.extractLsb' 0 25).toNat
    let hi := (x.extractLsb' 25 25).toNat
    if x.getLsbD 63 && lo ≤ hi then some (lo, hi) else none
/-- A DRAM address lies in scope. -/
def State.dramInScope (s : State) (a : Nat) : Bool := s.snapRanges.any fun r => r.1 ≤ grMem a && grMem a ≤ r.2
/-- The granules from address a of n bytes. -/
def rangeOf (a n : Nat) : List (Nat × Nat) := if n = 0 then [] else [(grMem a, grMem (a + n - 1))]
/-- The granules in scope, as ranges: none crosses from one die to another (R136, R137). -/
def State.scopeRanges (s : State) : List (Nat × Nat) :=
  let dram := s.snapRanges.flatMap fun r => (List.range 8).filterMap fun d =>
    let lo := max r.1 (d * 2 ^ 22)
    let hi := min r.2 (d * 2 ^ 22 + (2 ^ 22 - 1))
    if lo ≤ hi then some (lo, hi) else none
  let grids := s.grids.filter fun g => g.state == .running && s.inScope g.ctx
  let ds := grids.flatMap fun g => g.dscratch.flatMap fun e => rangeOf (2 ^ 40 + e.1 * 2 ^ 26 + e.2) (upTo g.rc.dskib 64 * 1024)
  let ts := s.teams.filter fun t => t.state != .offered && t.state != .saved && s.gridInScope t.grid
  let pools := ts.flatMap fun t => rangeOf t.origin t.size
  let tiles := ts.flatMap fun t =>
    let n := t.arrays.length
    if n = 0 then [] else [(grTile t.id 0, grTile t.id (8 * n - 1)), (grBuf t.id 0, grBuf t.id (2 * n - 1))]
  let gangs := (s.all.filter fun a => !a.drover && s.gridInScope a.grid).flatMap fun a =>
    [(grVec a.id 0, grVec a.id (a.q - 1)), (grScalar a.id, grScalar a.id)]
  dram ++ ds ++ pools ++ tiles ++ gangs

-- The order of the sweep (R144).

/-- The first granule from g on, of n, that has not been captured. -/
def firstLeft (n g : Nat) (capt : List Nat) : Option Nat :=
  match n with
  | 0 => none
  | n + 1 => if capt.contains g then firstLeft n (g + 1) capt else some g
/-- The granules that come next in each range of a colour. -/
def Colour.nexts (c : Colour) : List Nat := c.pend.filterMap fun r => firstLeft (r.2 + 1 - r.1) r.1 c.capt
/-- The die that sweeps a granule, and its place in the order: core state by core, in the order registers, tiles, buffers and
scratchpad, then die scratchpad, then DRAM (R144). -/
def State.sweepKey (s : State) (gr : Nat) : Nat × List Nat :=
  if gr < 2 ^ 26 then (gr / 2 ^ 22 % 8, [2, gr])
  else if gr < 2 ^ 40 then (gr / 2 ^ 12 % 8, [1, gr])
  else if gr < 2 ^ 50 then (let p := (gr - 2 ^ 40) / 1024; (p / 64, [0, p % 64, 3, gr]))
  else if gr < 2 ^ 51 then (let a := (s.agent? ((gr - 2 ^ 50) / 256)).getD Agent.absent; (a.die, [0, a.core, 0, gr]))
  else if gr < 2 ^ 52 then (let a := (s.agent? (gr - 2 ^ 51)).getD Agent.absent; (a.die, [0, a.core, 0, gr]))
  else if gr < 2 ^ 53 then (let t := s.team ((gr - 2 ^ 52) / 16); (t.die, [0, t.core, 1, gr]))
  else (let t := s.team ((gr - 2 ^ 53) / 4); (t.die, [0, t.core, 2, gr]))
/-- Keys in lexicographic order. -/
def keyLe (a b : List Nat) : Bool :=
  match a, b with
  | [], _ => true
  | _, [] => false
  | x :: r, y :: q => x < y || (x == y && keyLe r q)
/-- The granule that a packhorse sweeps next (R144). -/
def State.sweepNext (s : State) (d : Nat) : Option Nat :=
  let cs := (s.sys.c0.nexts ++ s.sys.c1.nexts).filter fun g => (s.sweepKey g).1 == d
  cs.foldl (fun (m : Option Nat) g => match m with
    | none => some g
    | some x => if keyLe (s.sweepKey x).2 (s.sweepKey g).2 then some x else some g) none

-- The cut (R140 to R142).

/-- LOCAL_CUT: the cut that was asked for begins; words of in-scope agents stop issuing (R140, step 1). -/
def execLocalCut (col : Bool) (s : State) : Answer :=
  let c := s.colour col
  .next (if c.asked && !c.cutting then s.setColour col { c with asked := false, cutting := true } else s)

/-- Every instruction that in-scope agents issued has completed, what they have been stopped by has been taken, their matrix and epilogue
operations are over, and walkers stand at an element boundary (R140, step 2). A word that has waited for a read of its own issues again after
the cut. -/
def State.drained (s : State) : Bool :=
  (s.ops.all fun o => !s.gridInScope o.grid || (o.isOver && (o.inlineRead || o.eng.isSome))) &&
  (s.all.all fun a => !s.gridInScope a.grid || (a.stopping.isNone && a.pausing.isNone && a.resuming.isNone)) &&
  (s.eng.mats.all fun m => !s.gridInScope m.grid) &&
  s.eng.xfers.all fun x => !s.gridInScope x.grid || x.kind == .table ||
    (x.before.isNone && x.stopsAt x.prog.n && s.ops.all (·.eng != some x.id)) &&
  s.sys.ending.all fun c => !s.gridInScope c.grid
/-- Step 3: every partial of a line in scope is merged at its home (R124, R140). Those of other lines stay: the manual leaves open which of
them are merged too. DESIGN CHOICE [102]. -/
def State.scopePartials (s : State) : List Nat := ((s.partials.map (·.line)).filter fun l => s.dramInScope (l * 128)).eraseDups
def mergeScope (s : State) : State := s.scopePartials.foldl (fun s l => mergeAlone l s) s

/-- The data of an OPEN record (R153). -/
def State.openBytes (s : State) : List Byte :=
  bytesOf 4 s.mylmn.toNat ++ bytesOf 4 s.myphys.toNat ++ le64 (s.reg (rXlat 0x820)) ++
    (List.range 64).flatMap fun g => le64 (s.reg (rFab (0x600 + 8 * g)))
/-- The data of a drover record: PC, s0 to s31, k0 to k7, the deadline, the index buffer (R153). DESIGN CHOICE [23]: their order. -/
def droverBytes (a : Agent) : List Byte :=
  w64 ((a.paths[0]?).getD Path.empty).pc.toNat ++ ((List.range 32).flatMap fun n => le64 (a.sget n)) ++
    ((List.range 8).flatMap fun n => bytesOf 64 (a.kget n).toNat) ++ le64 a.deadline ++ zeros 496 ++
    (List.range 16384).map fun i => SMap.get 0 a.ixbuf i
/-- The data of a transfer record (R140, step 6; R396): descriptors, coordinates, batch or sequence number, offset, the table slots of its
walker, and its running CRCs, which stand where a transfer with one descriptor has no second, and a copy between tensors no barrier and no
offset. DESIGN CHOICE [23]: their order. -/
def State.xferBytes (s : State) (x : Xfer) : List Byte :=
  let sl := (s.core x.core).slots
  let co := fun (l : List U64) => (List.range 3).flatMap fun i => le64 (l.getD i 0)
  let kind := match x.kind with | .ld => 0 | .st => 1 | .cp => 2 | .table => 3
  let cp := x.kind == .cp
  let src := x.prog.crc % 2 ^ 32
  let dst := x.dstRun % 2 ^ 32
  bytesOf 64 x.desc.toNat ++ bytesOf 64 (if cp then x.desc2.toNat else src + dst * 2 ^ 32) ++
    (if x.kind == .table then le64 ((x.coord[0]?).getD 0) ++ w64 x.space ++ w64 x.slot else co x.coord) ++
    (if x.mc then le64 x.mask ++ zeros 16
      else if cp then co [x.coord2.getD 0 0, x.coord2.getD 1 0, ((x.coord2.getD 2 0).setWidth 32).setWidth 64 ||| BitVec.ofNat 64 (dst * 2 ^ 32)]
      else zeros 24) ++
    w64 (b01 x.batch.isSome * 2 ^ 63 + kind * 2 ^ 60 + b01 x.mc * 2 ^ 59 + b01 x.accepted * 2 ^ 58 + x.rop.toNat * 2 ^ 56 +
      (((s.anyAgent x.agent).getD Agent.absent).idx) % 256 * 2 ^ 48 +
      sumNat ((List.range 4).map fun i => b01 (((sl[i]?).map (·.full)).getD false) * 2 ^ (40 + i)) + x.sdie * 2 ^ 36 + (x.batch.getD x.seq).toNat) ++
    w64 ((if cp then src else x.off % 2 ^ 32) + (s.team x.target).teamid.toNat * 2 ^ 32) ++
    (List.range 4).flatMap fun i => ((((sl[i]?).map (·.data)).getD []) ++ zeros 16).take 16
/-- The records of step 5 and 6: small state of agents and teams, box transfers, those among them that no walker has accepted, router buffers
(R140, R142, R442). What belongs to a saved team belongs to no core (R152). The manual gives no die for the records of a router, whose slots
hold the messages that await this module's value, and the chunks that await an output port: they are staged at die 0. DESIGN CHOICE [107]. -/
def State.smallRecords (s : State) (tag : BitVec 2) : List Rec :=
  let coreOf := fun (t : Team) => if t.state == .saved then 255 else t.core
  let gang := fun (a : Agent) (t : Team) =>
    (⟨9, tag, t.die, coreOf t, false, s.teamLoc t, BitVec.ofNat 64 (a.idx * 2 ^ 48), s.gangSmall a⟩ : Rec)
  let ags := s.all.filter fun a => s.gridInScope a.grid
  let ts := s.teams.filter fun t => t.state != .offered && s.gridInScope t.grid
  ts.map (fun t => (⟨0x0A, tag, t.die, coreOf t, false, s.teamLoc t, BitVec.ofNat 64 ((s.grid t.grid).parentId.toNat * 2 ^ 32),
      s.teamSmall t⟩ : Rec)) ++
    ((ags.filter (!·.drover)).map fun a => gang a (s.team a.team)) ++
    (ts.flatMap fun t => t.saved.map fun a => gang a t) ++
    ((ags.filter (·.drover)).map fun a => (⟨0x0C, tag, a.die, 255, false, BitVec.ofNat 64 a.idx,
      (s.grid a.grid).gridid.setWidth 64, droverBytes a⟩ : Rec)) ++
    ((s.eng.xfers.filter fun x => s.gridInScope x.grid).map fun x => (⟨0x0B, tag, x.core / 64 % 8, x.core % 64, false,
      if x.drover then BitVec.allOnes 64 else s.teamLoc (s.team x.team), BitVec.ofNat 64 x.prog.n, s.xferBytes x⟩ : Rec)) ++
    (s.sys.routers ++ s.sys.inject.map fun x => (⟨x.port, 2, packetHeader x.packet, x.packet.payload⟩ : RouterBuf)).map fun r =>
      let addr := (r.header.extractLsb' 0 64).toNat
      (⟨0x0D, tag, 0, 255, false, BitVec.ofNat 64 (r.port * 256 + r.vc),
        BitVec.ofNat 64 (addr % 2 ^ 32 * 2 ^ 32 + r.tag), bytesOf 16 r.header.toNat ++ (r.data ++ zeros 256).take 256⟩ : Rec)

/-- A cairn of a colour, on one channel of a port (R441). The number of the neighbour is free, and the port is the one that it marks: the
remap entry that it reads at injection decides nothing (R21). DESIGN CHOICE [24]. -/
def sendCairn (col : Bool) (port vc : Nat) (s : State) : State :=
  sendOn port (modulePacket s s.free.toNat 6 vc (b01 col) s.gt) (s.useFree 1)
/-- CUT_DRAIN_COMPLETE: steps 2 to 8 of the cut (R140, R441, R445), once the homes of the lines to merge do not wait (R38, R42). -/
def execCutDrainComplete (col : Bool) (s : State) : Answer :=
  .next (if !(s.colour col).cutting || !s.drained || s.scopePartials.any (fun l => s.homeWaits none (l * 128) 128) then s
    else
      let s := mergeScope s
      let c := s.colour col
      let s := s.setColour col { c with cutting := false, pend := s.scopeRanges, capt := [] }
      let s := s.setReg (rSnap (if col then 0xC8 else 0xC0)) s.gt
      let s := (List.range 24).foldl (fun s ch => trace 0 64 8 0 (ch + b01 col * 256) (s.reg (rWbcnt ch)).toNat 0
        (s.reg (rWbdig ch)).toNat s) s
      let ob := s.openBytes
      let s := (List.range 8).foldl (fun s d => stage false ⟨1, tagOf col, d, 255, false, 0, s.gt, ob⟩ s) s
      let s := (s.smallRecords (tagOf col)).foldl (fun s r => stage false r s) s
      let chs := s.snapPorts.flatMap fun p => (List.range 4).map fun v => (p, v)
      let s := chs.foldl (fun s (pv : Nat × Nat) => sendCairn col pv.1 pv.2 s) s
      { s with sys := { s.sys with logPos := (s.sys.logPos.filter fun e => e.1 % 2 ≠ b01 col) } })

/-- CAIRN_ARRIVAL (R147, R441): a cairn is not delivered and does not advance the waybill. -/
def execCairnArrival (ch : Nat) (p : Option Packet) (s : State) : Answer :=
  let s := pushPacket ch p s
  .next (match s.headPacket ch with
    | none => s
    | some q =>
      let col := q.tag.getLsbD 0
      let c := s.colour col
      if q.kind != 6 || s.sys.restoring.isSome then s
      else if s.sys.lateCairns.contains (col, ch) then
        let s := popPacket ch s
        { s with sys := { s.sys with lateCairns := s.sys.lateCairns.erase (col, ch) } }
      else match c.st with
        | .complete => s
        | .free => startColour col (some ch) (popPacket ch s)
        | .recording =>
          let rest := c.chans.filter (· != ch)
          (popPacket ch s).setColour col { c with chans := rest, st := if rest.isEmpty then .streaming else .recording }
        | .streaming => popPacket ch s)

-- Captures (R143, R144).

/-- GRANULE_CAPTURE: the capture that a first write makes (R143). -/
def execGranuleCapture (gr : Nat) (s : State) : Answer := .next (capture false gr s)
/-- PACKHORSE_SWEEP (R144). -/
def execPackhorseSweep (die : Nat) (s : State) : Answer :=
  .next (match s.sweepNext die with | some g => capture true g s | none => s)

-- Records at their target (R147, R150 to R152).

/-- RECORD_DURABLE (R151). -/
def execRecordDurable (die : Nat) (s : State) : Answer := .next (writeRecord die true s)
/-- RECORD_WRITE_FAIL (R147). -/
def execRecordWriteFail (die : Nat) (s : State) : Answer := .next (writeRecord die false s)

-- Completion (R147, R443).

/-- No record tagged with a colour is staged. -/
def State.noneStaged (s : State) (col : Bool) : Bool :=
  s.dies.all fun (e : Nat × DieState) => e.2.staging.all fun r => r.colours &&& tagOf col == 0
/-- LOCAL_COMPLETION: nothing is awaited, pending or staged; the packhorses write CLOSE records (R147, R153). -/
def execLocalCompletion (col : Bool) (s : State) : Answer :=
  let c := s.colour col
  .next (if c.st != .streaming || c.asked || c.cutting || c.local_ || c.abort || !c.nexts.isEmpty || !s.noneStaged col then s
    else
      let s := s.setColour col { c with local_ := true, pend := [], capt := [] }
      if c.fail then s
      else (List.range 8).foldl (fun s d => stage false ⟨0x0F, tagOf col, d, 255, false, 0, BitVec.ofNat 64 (SMap.get 0 c.count d), []⟩ s) s)

/-- The coordinator of the snapshot domain, and its number of modules (R443). -/
def State.coordinator (s : State) : Nat := (s.reg (rSnap 0xD0)).toNat % 4096
def State.snapCount (s : State) : Nat := min 4096 (max 1 ((s.reg (rSnap 0xD0)).toNat / 2 ^ 16 % 2 ^ 13))
/-- The notices of KIND 10: TAG[0] the colour, TAG[1] its fail bit, TAG[2] set in the completion notice. DESIGN CHOICE [24]. -/
def State.notice (s : State) (m : Nat) (col fail done : Bool) : Packet :=
  modulePacket s m 10 3 (b01 col + b01 fail * 2 + b01 done * 4) 0
/-- The completion notice reaches this module (R443). -/
def completes (col fail : Bool) (s : State) : State :=
  let c := s.colour col
  if c.st == .free || c.abort then s else s.setColour col { c with st := .complete, fail := c.fail || fail }
/-- A notice reaches the coordinator: with the last one it tells every module, and interrupts (R443). -/
def coordinate (col fail : Bool) (s : State) : State :=
  let k := b01 col
  let n := SMap.get 0 s.sys.notices k + 1
  let f := SMap.get false s.sys.noticeFail k || fail
  if n < s.snapCount then
    { s with sys := { s.sys with notices := SMap.set 0 s.sys.notices k n, noticeFail := SMap.set false s.sys.noticeFail k f } }
  else
    let s := { s with sys := { s.sys with notices := SMap.set 0 s.sys.notices k 0, noticeFail := SMap.set false s.sys.noticeFail k false } }
    let s := tellPeers (fun s m => s.notice m col f true) s
    completes col f (s.interrupt 4)
/-- COMPLETION_REPORT (R443). -/
def execCompletionReport (col : Bool) (s : State) : Answer :=
  let c := s.colour col
  .next (if c.st != .streaming || !c.local_ || c.reported || !((List.range 8).all fun d => c.closed.contains d) then s
    else
      let s := s.setColour col { c with reported := true }
      if s.coordinator = s.mylmn.toNat then coordinate col c.fail s else sendPacket (s.notice s.coordinator col c.fail false) s)
/-- COORDINATOR_NOTICE_ARRIVAL (R443). -/
def execCoordinatorNoticeArrival (ch : Nat) (p : Option Packet) (s : State) : Answer :=
  .next (onHead ch p (fun q _ => q.kind == 10 && !q.tag.getLsbD 2) (fun q s =>
    if s.coordinator = s.mylmn.toNat then coordinate (q.tag.getLsbD 0) (q.tag.getLsbD 1) s else s) s)
/-- GLOBAL_COMPLETION_NOTICE (R443). -/
def execGlobalCompletionNotice (ch : Nat) (p : Option Packet) (s : State) : Answer :=
  .next (onHead ch p (fun q _ => q.kind == 10 && q.tag.getLsbD 2) (fun q s => completes (q.tag.getLsbD 0) (q.tag.getLsbD 1) s) s)

-- The host's commands (R146, R147, R149).

/-- The outcome in SNAPRES. -/
def setSnapres (n : Nat) (s : State) : State := s.setReg (rSnap 0xB8) (BitVec.ofNat 64 n)
/-- SNAPCMD_START (R146). -/
def execSnapcmdStart (col : Bool) (s : State) : Answer :=
  let (r, s) := snapRequest col s
  .next (setSnapres r s)
/-- A colour becomes FREE (R147). -/
def freeColour (col : Bool) (s : State) : State := s.setColour col Colour.free
/-- SNAPCMD_RELEASE: a complete colour is freed; one in progress is aborted (R147, R443). -/
def execSnapcmdRelease (col : Bool) (s : State) : Answer :=
  let s := setSnapres 4 s
  let k := b01 col
  let s := { s with sys := { s.sys with notices := SMap.set 0 s.sys.notices k 0, noticeFail := SMap.set false s.sys.noticeFail k false } }
  let c := s.colour col
  .next (match c.st with
    | .free => s
    | .complete => freeColour col s
    | _ =>
      if c.abort then s
      else
        let late := s.sys.lateCairns ++ c.chans.map fun h => (col, h)
        let s := { s with sys := { s.sys with lateCairns := late } }
        if c.fail then freeColour col s
        else
          let s := s.setColour col { c with asked := false, cutting := false, pend := [], capt := [], chans := [], abort := true, aborting := List.range 8 }
          (List.range 8).foldl (fun s d => stage false ⟨0x10, tagOf col, d, 255, false, 0, 0, []⟩ s) s)
/-- ABORT_RECORDS_DURABLE (R147). -/
def execAbortRecordsDurable (col : Bool) (s : State) : Answer :=
  let c := s.colour col
  .next (if c.abort && c.aborting.isEmpty then freeColour col s else s)

end Sys2Proof.Machine
end

