-- ==== Sys2Proof/Machine/Restore.lean ====
section
/-!
DEFINITION. Restoring a snapshot: the records of a region, their checks, and what each kind puts back (R427, R428, R444, R493, R494).
-/
namespace Sys2Proof.Machine

-- The records of a region (R152, R153).

/-- Records at the head of some bytes, each with whether its CRC agrees. -/
def parseRecs (n : Nat) (bs : List Byte) : List (Rec × Bool) :=
  match n with
  | 0 => []
  | n + 1 =>
    let w := recField bs 0 8
    let len := w / 2 ^ 32
    let kind := w % 256
    if kind = 0 || 0x10 < kind || bs.length < 32 + len then []
    else
      let data := (bs.drop 32).take len
      let r : Rec := {
        kind := BitVec.ofNat 8 kind
        colours := BitVec.ofNat 2 (w / 256)
        die := w / 2 ^ 16 % 8
        core := w / 2 ^ 24 % 256
        bad := w.testBit 10
        loc := BitVec.ofNat 64 (recField bs 8 8)
        aux := BitVec.ofNat 64 (recField bs 16 8)
        data }
      (r, recField bs 24 4 == crc32c (bs.take 24 ++ data)) :: parseRecs n (bs.drop (upTo (32 + len) 64))
/-- The set of one colour is whole: every die has its CLOSE record, and it counts the die's records (R153). -/
def wholeSet (rs : List Rec) : Bool :=
  (List.range 8).all fun d =>
    let mine := rs.filter fun r => r.die == d && r.kind != 0x0F
    rs.any fun r => r.kind == 0x0F && r.die == d && r.aux.toNat == mine.length
/-- The records of a colour in a region, or the value of RES (R444). -/
def State.restoreSet (s : State) (col : Bool) (region : List Byte) : Except Nat (List Rec) :=
  let all := parseRecs (region.length / 64 + 1) region
  let good := ((all.takeWhile (·.2)).map (·.1)).filter fun r => r.colours &&& tagOf col != 0
  let ext := fun (x : Nat) => x / 2 ^ 12 % 2 ^ 6
  if wholeSet good then
    if (good.filter (·.kind == 1)).all fun r => recField r.data 0 4 == s.mylmn.toNat &&
        ext (recField r.data 8 8) == ext (s.reg (rXlat 0x820)).toNat then .ok good
    else .error 3
  else if all.any fun r => !r.2 then .error 1 else .error 2

-- Gangs (R426 to R428).

/-- A path of a control set. -/
def parsePath (bs : List Byte) (o id issued : Nat) (taken : Bool) : Option Path :=
  let w := recField bs o 8
  if !w.testBit 63 || w.testBit 62 then none
  else some ⟨id, BitVec.ofNat 54 w, BitVec.ofNat 64 (recField bs (o + 8) 8),
    if issued = 0 then 0 else Nat.log2 issued + 1, 0, false, taken, [], none, []⟩
/-- A list that begins at one of its places: which is free. -/
def turned {α : Type} (k : Nat) (l : List α) : List α := let n := Config.pick k % max 1 l.length; l.drop n ++ l.take n
/-- What stands in the spill region of a restored gang, the oldest first: a frame (0), a call entry (1), a split (2) or a TABLE entry (3); its
slice offset; the registers of a frame. A record tells the depth of the region and RB, not where entries lie among frames: that is free, as far
as what the words decode to fits, and the frames have the sizes of the calls that made them, the oldest `left` registers in all (R206,
R207). `hard` holds the frame sizes of the calls in hardware. DESIGN CHOICE [25]. -/
def spillPlan (fuel pos bottom left k : Nat) (frames calls hard : List Nat) (dec : Nat → U64 × U64) : Option (List (Nat × Nat × Nat)) :=
  match fuel with
  | 0 => none
  | n + 1 =>
    if pos ≤ bottom then (if left = 0 && (calls ++ hard).take frames.length == frames then some [] else none)
    else
      let sizes := match calls[frames.length]? with | some f => [f] | none => (List.range 31).map fun i => 8 * (i + 1)
      let opts := ((sizes.filter fun f => f ≤ left && 4 * f ≤ pos - bottom).map fun f => (0, pos - 4 * f, f)) ++
        [(1, pos - 4, 0), (2, pos - 4, 0)] ++ if 12 ≤ pos - bottom then [(3, pos - 12, 0)] else []
      (turned k opts).findSome? fun e =>
        let w := (dec (if e.1 = 3 then e.2.1 + 8 else e.2.1)).1.toNat
        let size := w / 2 ^ 54 % 256
        let frames := if e.1 = 0 then frames ++ [e.2.2] else frames
        let calls := if e.1 = 1 && size ≠ 0 then calls ++ [size] else calls
        let both := min frames.length calls.length
        let fitsKind := match e.1 with | 0 => true | 1 => w / 2 ^ 63 = 0 | 2 => w / 2 ^ 62 = 1 | _ => w / 2 ^ 63 = 1
        if fitsKind && frames.take both == calls.take both then
          (spillPlan n e.2.1 bottom (left - e.2.2) (k + 1) frames calls hard dec).map (e :: ·)
        else none
/-- A stack entry as a record or the spill region holds it: its word, its lanes, its slice offset. -/
abbrev RawEntry := Nat × U64 × Option Nat
/-- The entries of a hardware stack, the oldest first. -/
def hardEntries (bs : List Byte) (o n : Nat) : List RawEntry :=
  (List.range n).map fun i => (recField bs (o + 16 * i) 8, BitVec.ofNat 64 (recField bs (o + 16 * i + 8) 8), none)
/-- The spilled entries of some kinds, as their words decode (R74). -/
def spilledEntries (plan : List (Nat × Nat × Nat)) (p : Nat → Bool) (dec : Nat → U64 × U64) : List RawEntry :=
  plan.filterMap fun e =>
    if !p e.1 then none else let x := dec (if e.1 = 3 then e.2.1 + 8 else e.2.1); some (x.1.toNat, x.2, some e.2.1)
/-- The entries of the divergence stack, newest first: the model's names of the paths that pushed them are 100 and up, and each runs in
the next newer one; the newest runs in the listed paths. DESIGN CHOICE [21]. -/
def parseDivs (es : List RawEntry) (running : List Nat) : List DivEntry :=
  (es.zipIdx.map fun e =>
    { kind := if e.1.1 / 2 ^ 62 % 4 = 2 then .jmpT else if e.1.1 / 2 ^ 62 % 4 = 3 then .callT else .split
      owner := 100 + e.2
      join := BitVec.ofNat 54 e.1.1
      lanes := e.1.2.1
      todo := []
      running := if e.2 + 1 < es.length then [101 + e.2] else running
      frame := e.1.1 / 2 ^ 54 % 256
      taken := false
      spill := e.1.2.2 : DivEntry }).reverse
/-- The path that owns a call: the one that pushed the outermost entry inside it, or the running one (R250). -/
def callOwner (divs : List DivEntry) (paths : List Path) (lanes : U64) : Nat :=
  match divs.reverse.find? fun e => e.lanes &&& ~~~lanes == 0 with
  | some e => e.owner
  | none => ((paths.find? fun p => p.lanes &&& ~~~lanes == 0).getD Path.empty).id
def parseCalls (es : List RawEntry) (divs : List DivEntry) (paths : List Path) : List CallEntry :=
  (es.map fun e =>
    { ret := BitVec.ofNat 54 e.1
      frame := e.1 / 2 ^ 54 % 256
      owner := callOwner divs paths e.2.1
      lanes := e.2.1
      group := e.1.testBit 62
      spill := e.2.2 : CallEntry }).reverse
/-- The frames that the open calls made, newest first: spilled ones lie below RB, the oldest at the top of the slice or where the plan has them
(R206, R207). -/
def parseFrames (plan : List (Nat × Nat × Nat)) (calls : List CallEntry) (wb rb slice : Nat) : List Frame :=
  let fs := calls.filter (·.frame != 0)
  let bare := (fs.foldl (fun (m : Nat × List Frame) c => (m.1 - c.frame, m.2 ++ [(⟨m.1 - c.frame, c.frame, none⟩ : Frame)])) (wb, [])).2
  let down := (bare.reverse.foldl (fun (m : Nat × List Nat) f => (m.1 - 4 * f.size, m.2 ++ [m.1 - 4 * f.size])) (slice, [])).2
  let offs := if plan.isEmpty then down else (plan.filter (·.1 = 0)).map (·.2.1)
  (bare.reverse.zipIdx.map fun e => if e.1.base < rb then { e.1 with spill := offs[e.2]? } else e.1).reverse
/-- A control set at offset o of a gang's record (R427), with what its lanes' slices hold for it (R74, R207, item 5). -/
def parseControl (bs : List Byte) (o slice k : Nat) (dec : Nat → U64 × U64) : ControlSet :=
  let prog := recField bs (o + 0x48) 8
  let flags := recField bs (o + 0x58) 8
  let win := recField bs (o + 0x50) 8
  let reg := recField bs (o + 0x40) 8
  let pl := recField bs (o + 0x30) 16
  let second := (recField bs (o + 0x10) 8).testBit 63 && !(recField bs (o + 0x10) 8).testBit 62
  let paths := ([parsePath bs o 1 (prog / 2 ^ 26 % 16) second, parsePath bs (o + 0x10) 2 (prog / 2 ^ 30 % 16) false]).filterMap id
  let hard := hardEntries bs 0x880 (min (flags / 64 % 64) 16)
  let plan := if flags / 2 ^ 32 ≤ 4 * (win / 2 ^ 32) then []
    else (spillPlan slice slice (slice - flags / 2 ^ 32) (win / 2 ^ 32) k [] []
      ((hard.map fun e => e.1 / 2 ^ 54 % 256).filter (· != 0)) dec).getD []
  let divs := parseDivs (spilledEntries plan (2 ≤ ·) dec ++ hardEntries bs 0x680 (min (flags % 64) 32)) (paths.map (·.id))
  let calls := parseCalls (spilledEntries plan (· = 1) dec ++ hard) divs paths
  { paths
    exec := BitVec.ofNat 64 (recField bs (o + 0x20) 8)
    save := if flags.testBit 12 then some (BitVec.ofNat 64 (recField bs (o + 0x28) 8)) else none
    planes := (List.range 64).filterMap fun l => if pl / 4 ^ l % 4 = 0 then none else some (l, pl / 4 ^ l % 4)
    region := if reg.testBit 63 then some ⟨BitVec.ofNat 54 reg, prog / 2 ^ 24 % 4 + 1, prog % 2 ^ 24⟩ else none
    wb := win % 2 ^ 32
    rb := win / 2 ^ 32
    spill := flags / 2 ^ 32
    parked := flags.testBit 13
    calls
    divs
    noHit := []
    frames := parseFrames plan calls (win % 2 ^ 32) (win / 2 ^ 32) slice }
/-- A pending entry (R428): of the interrupted code, or, where a forced save has left it for replay, of the words that issued last. -/
def parseEntry (bs : List Byte) (width wb inner : Nat) : PendEntry :=
  let w := recField bs 0 8
  let lanes := BitVec.ofNat 64 (recField bs 8 8)
  let ls := (List.range width).filter fun l => bit lanes l
  { order := 0
    wb := if w.testBit 63 then inner else wb
    replay := w.testBit 63
    planes := BitVec.ofNat 4 (w / 2 ^ 54)
    off := BitVec.ofNat 54 w
    lanes
    word := BitVec.ofNat 64 (recField bs 16 8)
    addr := ls.map fun l => (l, BitVec.ofNat 64 (recField bs (32 + 24 * l) 8))
    data := ls.map fun l => (l, (BitVec.ofNat 64 (recField bs (40 + 24 * l) 8), BitVec.ofNat 64 (recField bs (48 + 24 * l) 8))) }
/-- The small state of a gang from the data of its record of kind 0x09 (R426). -/
def parseGang (id : Nat) (t : Team) (r : LaunchRec) (alloc : SMap Byte) (k : Nat) (bs : List Byte) : Agent :=
  let w := fun (o : Nat) => BitVec.ofNat 64 (recField bs o 8)
  let width := recField bs 0 8 / 2 ^ 40 % 256
  let flags := recField bs 0x10 8
  let idx := recField bs 0 8 / 2 ^ 48
  let dec := fun (off : Nat) =>
    let at_ := fun (l i : Nat) => SMap.get 0 alloc (upTo t.spad 2048 + idx * r.slice * width + (off / 4 * width + l) * 4 + i)
    let y : BitVec 128 := BitVec.ofNat 128 (ofBytes ((List.range 4).flatMap fun l => (List.range 4).map (at_ l)))
    let x := Config.spillForm.invFun y
    (x.extractLsb' 0 64, x.extractLsb' 64 64 &&& lowMask width)
  let c := parseControl bs 0x40 r.slice k dec
  let handler := if flags.testBit 0 then some (parseControl bs 0xA0 r.slice (k + 4096) dec) else none
  let tag := recField bs 0x2980 8
  let b := recField bs 0x240 8
  { Agent.absent with
    id := id
    team := t.id
    grid := t.grid
    idx
    die := t.die
    core := t.core
    width := width
    q := r.vregs * 8
    kregs := (List.range 16).filterMap fun i =>
      let v := BitVec.ofNat 512 (recField bs (0x280 + 64 * i) 64)
      if v = 0 then none else some (i, v)
    mregs := (List.range 16).filterMap fun i => if i = 0 || w (0x140 + 8 * i) = 0 then none else some (i, w (0x140 + 8 * i))
    exec := c.exec
    live := w 0x258
    planes := c.planes
    region := c.region
    save := c.save
    paths := c.paths
    nextPath := 200
    divs := c.divs
    calls := c.calls
    frames := c.frames
    wb := c.wb
    rb := c.rb
    spill := c.spill
    fp := BitVec.ofNat 5 (recField bs 0x138 8)
    prog := (List.range 16).filterMap fun i => if w (0x1C0 + 8 * i) = 0 then none else some (i, w (0x1C0 + 8 * i))
    mbatch := BitVec.ofNat 32 b
    cbatch := BitVec.ofNat 32 (b / 2 ^ 32)
    trap := ⟨w 0x100, w 0x108, w 0x110, w 0x118, w 0x120⟩
    trapvec := w 0x130
    pend := (List.range (recField bs 0x18 8 % 64)).map fun i => parseEntry (bs.drop (0x2A00 + i * (32 + 24 * width))) width
      ((handler.map (·.wb)).getD c.wb) c.wb
    handler
    heldFault := if flags.testBit 2 then some ⟨w 0x260, 0, w 0x270, w 0x268, 0⟩ else none
    parked := c.parked
    forced := flags.testBit 1
    latch := if tag.testBit 63 then ⟨true, tag / 2 ^ 32 % 256, tag % 2 ^ 32,
      (List.range 2048).filterMap fun i =>
        let v := BitVec.ofNat 32 (recField bs (0x980 + 4 * i) 4)
        if v = 0 then none else some (i, v)⟩ else ⟨false, 0, 0, []⟩ }
/-- A group of eight vector registers (R137, R153). -/
def putGroup (a : Agent) (g : Nat) (bs : List Byte) : Agent :=
  (List.range 8).foldl (fun a i => (List.range a.width).foldl (fun a l =>
    a.pset (8 * g + i) l (BitVec.ofNat 32 (recField bs (4 * (i * a.width + l)) 4))) a) a
/-- A gang with the registers that its records hold. -/
def withRegs (rs : List Rec) (loc : U64) (a : Agent) : Agent :=
  let mine := rs.filter fun r => r.loc == loc && r.aux.toNat / 2 ^ 48 == a.idx
  let a := (mine.filter (·.kind == 5)).foldl (fun a r =>
    if r.bad then { a with flawed := (List.range 512).map (r.aux.toNat % 256 * 512 + ·) ++ a.flawed } else putGroup a (r.aux.toNat % 256) r.data) a
  (mine.filter (·.kind == 6)).foldl (fun a r => (List.range 128).foldl (fun a n => a.sset n (BitVec.ofNat 64 (recField r.data (8 * n) 8))) a) a

-- Teams and grids (R429, R493, R494).

/-- A held entry (R494). -/
def parseHeld (bs : List Byte) : Option HeldWrite :=
  let w := recField bs 0 8
  let off := w / 2 ^ 32
  match w % 256 with
  | 1 => some (.record off ((bs.drop 8).take 16))
  | 2 => some (.arrive off 1)
  | 3 => some (.broken off (BitVec.ofNat 3 (w / 256 % 4)))
  | _ => none
/-- A stationary buffer (R493). -/
def parseBuffer (aux : U64) (bs : List Byte) : Buffer :=
  let list := fun (l : List Byte) => l.zipIdx.filterMap fun (e : Byte × Nat) => if e.1 = 0 then none else some (e.2, e.1)
  let f := aux.extractLsb' 48 15
  ⟨!aux.getLsbD 63, list (bs.take 32768), list ((bs.drop 32768).take 2048), if aux.getLsbD 63 && f = 0 then none else some f, false⟩
/-- The grid of a restored team, made where it is not there: the record names neither its context nor the place of its launch record,
and those are free. DESIGN CHOICE [25]. -/
def restoreGrid (bs : List Byte) (s : State) : Nat × State :=
  let gid := BitVec.ofNat 32 (recField bs 4 4)
  match s.grids.find? fun g => g.gridid == gid && g.state == .running with
  | some g => (g.id, s)
  | none =>
    let ctxs := (List.range 256).filter s.inScope
    let g := { Grid.absent with
      id := s.serial
      gridid := gid
      ctx := (ctxs[s.free.toNat % max 1 ctxs.length]?).getD 0
      recva := Config.freeWord (s.fresh + 1)
      rc := parseRecord ((bs.drop 0x100).take 256)
      parentId := BitVec.ofNat 32 (recField bs 0x20C 4)
      depth := recField bs 0x200 8 % 16
      state := .running }
    (g.id, { s.useFree 2 with serial := s.serial + 1, grids := s.grids ++ [g] })
/-- A team becomes a SAVED unit of its grid (R444, item 2). -/
def restoreSaved (rs : List Rec) (r : Rec) (s : State) : State :=
  let bs := r.data
  let (gid, s) := restoreGrid bs s
  let rc := (s.grid gid).rc
  let mine := rs.filter fun x => x.loc == r.loc
  let arrays := (List.range 2).filter fun i => (recField bs 0x20 8).testBit i
  let h := recField bs 0x210 2
  let t0 := { Team.absent with
    id := s.serial
    teamid := BitVec.ofNat 32 (recField bs 0 4)
    grid := gid
    state := .saved
    lin := recField bs 8 8
    member := recField bs 0x10 8 % 64
    die := r.die
    core := r.core
    size := recField bs 0x18 8 % 2 ^ 32
    spad := upTo rc.scratch 2048
    filled := true
    started := true
    preq := true
    pdl := recField bs 0x28 8
    tiles := (mine.filter (·.kind == 7)).foldl (fun m (x : Rec) =>
      (List.range 16384).foldl (fun m i =>
        SMap.set (tMarker (x.aux.toNat % 16)) m (x.aux.toNat % 16 * 16384 + i) (BitVec.ofNat 32 (recField x.data (4 * i) 4))) m) []
    bufs := (mine.filter (·.kind == 8)).foldl (fun m (x : Rec) =>
      SMap.set Buffer.empty m (x.aux.toNat % 4) { parseBuffer x.aux x.data with flawed := x.bad }) []
    flawed := (mine.filter fun x => x.kind == 7 && x.bad).flatMap fun (x : Rec) => (List.range 16384).map (x.aux.toNat % 16 * 16384 + ·)
    arrays := arrays
    held := (List.range h).filterMap fun i => parseHeld (bs.drop (0x240 + 32 * i))
    saveOrder := s.serial }
  let alloc := (mine.filter (·.kind == 4)).foldl (fun (m : SMap Byte) x => putBytes x.aux.toNat x.data m) []
  let gs := (mine.filter (·.kind == 9)).zipIdx.map fun (e : Rec × Nat) =>
    withRegs mine r.loc (parseGang (s.serial + 1 + e.2) t0 rc alloc (s.fresh + 8192 * e.2) e.1.data)
  let coll := ((mine.find? (·.kind == 9)).map fun x => recField x.data 0x250 8 % 64).getD 0
  let t := { t0 with saved := gs, coll := coll, slot := s.saveSlot (rc.slotSize t0) }
  let s := { s.useFree (8192 * gs.length) with serial := s.serial + 17, teams := s.teams ++ [t] }
  let body := s.teamRecordOf t ((List.range t.size).map fun i => SMap.get 0 alloc i)
  let lost := (mine.filter fun x => x.kind == 4 && x.bad).flatMap fun (x : Rec) =>
    ((List.range 256).map fun i => x.aux.toNat + 64 * i).filter (· < t.size)
  let s := match t.slot with | some (a, _) => writeTeamRecord a body lost s | none => s
  s.setTeam { t with arrays := [], heldAt := heldStart t body }
/-- The members of each restored unit, and the next team that each grid offers: those before it have been offered. DEDUCED [105]. -/
def restoreUnits (ids : List Nat) (s : State) : State :=
  let mine := s.teams.filter fun t => ids.contains t.id
  let s := mine.foldl (fun s t =>
    let unit := (List.range 64).filterMap fun m =>
      (mine.find? fun x => x.grid == t.grid && x.member == m && x.lin + t.member == t.lin + m).map (·.id)
    s.setTeam { s.team t.id with unit := unit }) s
  mine.foldl (fun s t => let g := s.grid t.grid; s.setGrid { g with next := max g.next (t.lin + g.rc.members - t.member) }) s

-- The other records (R444, items 1 and 3 to 5, and the packets).

/-- A granule of memory; one that could not be read is uncorrectable. -/
def restoreGranule (r : Rec) (s : State) : State :=
  let a := r.loc.toNat % 2 ^ 44
  if r.bad then
    let n := (unitOf a).2
    { s with bad := ((List.range (16384 / n)).map fun i => a + n * i) ++ s.bad }
  else s.writeMem a r.data
/-- The die scratchpad of a grid stands where its granules stood (R48, R153). -/
def restoreScratch (r : Rec) (s : State) : State :=
  let a := r.loc.toNat % 2 ^ 44
  match s.grids.find? fun g => g.gridid == BitVec.ofNat 32 r.aux.toNat && g.state == .running with
  | none => s
  | some g =>
    let d := a / 2 ^ 26 % 8
    let base := match g.dscratch.find? (·.1 == d) with | some e => min e.2 (a % 2 ^ 26) | none => a % 2 ^ 26
    s.setGrid { g with dscratch := SMap.insert g.dscratch d base }
/-- A drover context, which starts when a context is free: its home team is not recorded. DESIGN CHOICE [25]. -/
def restoreDrover (r : Rec) (s : State) : State :=
  let bs := r.data
  let g := (s.grids.find? fun g => g.gridid == BitVec.ofNat 32 r.aux.toNat && g.state == .running).getD Grid.absent
  let a := { Agent.absent with
    id := s.serial
    drover := true
    grid := g.id
    idx := r.loc.toNat % 256
    die := r.die
    core := r.loc.toNat % 256 / 4
    width := 1
    exec := 1
    live := 1
    paths := [Path.start 0 (BitVec.ofNat 54 (recField bs 0 8)) 1 false []]
    kregs := (List.range 8).filterMap fun i =>
      let v := BitVec.ofNat 512 (recField bs (264 + 64 * i) 64)
      if v = 0 then none else some (i, v)
    deadline := BitVec.ofNat 64 (recField bs 776 8)
    ixbuf := ((bs.drop 1280).take 16384).zipIdx.filterMap fun (e : Byte × Nat) => if e.1 = 0 then none else some (e.2, e.1) }
  let a := (List.range 32).foldl (fun (a : Agent) n => a.sset n (BitVec.ofNat 64 (recField bs (8 + 8 * n) 8))) a
  let x := s.die r.die
  { s.setDie r.die { x with restored := x.restored ++ [a] } with serial := s.serial + 1 }
/-- A transfer at a cursor: the source bytes that the elements below it have read are covered by its CRC. -/
def Progress.at (x : Xfer) (n crc : Nat) : Progress := { Progress.start with n, crc, seen := ((List.range n).flatMap x.readsAt).eraseDups }
/-- A transfer enters its walker's queue at its cursor, or waits for an entry as it did; the walker's table slots are set again (R142, R394,
R396, R444, item 4). -/
def restoreXfer (r : Rec) (s : State) : State :=
  let bs := r.data
  let w := recField bs 0xB0 8
  let o := recField bs 0xB8 8
  let who := w / 2 ^ 48 % 256
  let sdie := w / 2 ^ 36 % 8
  let drover := r.loc == BitVec.allOnes 64
  let named := fun (v : U32) => (s.teams.find? fun t => t.teamid == v && t.state == .saved).getD Team.absent
  let t := named (BitVec.ofNat 32 (if drover then o / 2 ^ 32 else r.loc.toNat))
  let a := if drover then ((s.die sdie).restored.find? (·.idx == who)).getD Agent.absent
    else (t.saved.find? (·.idx == who)).getD Agent.absent
  let core := r.die * 64 + r.core % 64
  let words := fun (p n : Nat) => (List.range n).map fun i => BitVec.ofNat 64 (recField bs (p + 8 * i) 8)
  let mc := w.testBit 59
  let cp := w / 2 ^ 60 % 8 = 2
  let table := w / 2 ^ 60 % 8 = 3
  let crcs := recField bs 0x40 8
  let (src, dst) := if cp then (o % 2 ^ 32, recField bs 0xAC 4) else (crcs % 2 ^ 32, crcs / 2 ^ 32)
  let x : Xfer := {
    id := s.serial
    kind := match w / 2 ^ 60 % 8 with | 0 => .ld | 1 => .st | 2 => .cp | _ => .table
    agent := a.id
    drover
    team := t.id
    grid := a.grid
    die := r.die
    core
    sdie
    desc := BitVec.ofNat 512 (recField bs 0 64)
    desc2 := if cp then BitVec.ofNat 512 (recField bs 64 64) else 0
    coord := words 0x80 (if table then 1 else 3)
    coord2 := if cp then words 0x98 2 ++ [BitVec.ofNat 64 (recField bs 0xA8 4)] else []
    off := if cp then 0 else o % 2 ^ 32
    target := t.id
    mc
    mask := if mc then BitVec.ofNat 64 (recField bs 0x98 8) else 0
    rop := BitVec.ofNat 2 (w / 2 ^ 56)
    batch := if w.testBit 63 then some (BitVec.ofNat 32 w) else none
    seq := BitVec.ofNat 32 w
    deadline := s.deadlineOf a.grid (if drover then a.deadline else 0)
    gtIssue := s.gt
    order := s.serial
    agentNo := if drover then 64 + who else r.core % 64
    accepted := w.testBit 58
    locked := false
    prog := Progress.start
    before := none
    base := none
    issuer := if drover then 0x8000 + sdie * 256 + who else (s.gangid a).toNat
    space := recField bs 0x88 8
    slot := recField bs 0x90 8 % 4 }
  let n := r.aux.toNat
  let x := if n = 0 then x else { x with prog := Progress.at x n src, base := some (dst, n) }
  let c := s.core core
  let slots := (List.range 4).map fun i => (⟨w.testBit (40 + i), (bs.drop (0xC0 + 16 * i)).take 16⟩ : Slot)
  let queue := if x.accepted && !table then c.queue ++ [x.id] else c.queue
  { s.setCore core { c with queue, slots } with
    serial := s.serial + 1
    eng := { s.eng with xfers := s.eng.xfers ++ [x] } }
/-- A packet by its message header and its payload; it reads the remap entry of its destination when it is injected again (R21, R441). -/
def packetOf (s : State) (h : BitVec 128) (payload : List Byte) : Packet where
  dlmn := h.extractLsb' 116 12
  slmn := h.extractLsb' 104 12
  kind := h.extractLsb' 100 4
  vc := h.extractLsb' 98 2
  tag := h.extractLsb' 64 24
  addr := h.extractLsb' 0 64
  payload := payload
  phys := (s.remap (h.extractLsb' 116 12)).getD 0
/-- A router's slot (R442): a message to this module waits again for its value; a chunk of this module's waits for its port, with the
deadline that an operation issued now would take (R410, item 3; R447). DESIGN CHOICE [107]. -/
def restoreRouter (r : Rec) (s : State) : State :=
  let b : RouterBuf := ⟨r.loc.toNat / 256 % 8, r.loc.toNat % 4, BitVec.ofNat 128 (recField r.data 0 16), (r.data.drop 16).take 256⟩
  if b.header.extractLsb' 104 12 == s.mylmn then offerChunk (s.gt + 1000000) s.gt 0 (packetOf s b.header b.data) s
  else { s with sys := { s.sys with routers := s.sys.routers ++ [b] } }
/-- A logged packet (R441). -/
def parsePacket (s : State) (r : Rec) : Packet :=
  let h : BitVec 128 := BitVec.ofNat 128 (recField r.data 0 16)
  packetOf s h ((r.data.drop 64).take ((h.extractLsb' 95 3).toNat * 64))
/-- The position of a packet in its channel's log for a colour (R441, item 3). -/
def logIndex (col : Bool) (mine : List Rec) (r : Rec) : Nat :=
  let both := mine.filter (·.colours == 3)
  if col && r.colours == 3 then r.aux.toNat - (both.foldl (fun m (x : Rec) => min m x.aux.toNat) (2 ^ 64)) else r.aux.toNat
/-- Packets by their position, insertion by insertion. -/
def orderedInsert (e : Nat × Packet) (l : List (Nat × Packet)) : List (Nat × Packet) :=
  match l with
  | [] => [e]
  | x :: r => if e.1 < x.1 then e :: x :: r else x :: orderedInsert e r
/-- The packets of one channel are injected before those that have arrived since (R444). -/
def injectChannel (col : Bool) (rs : List Rec) (ch : Nat) (s : State) : State :=
  let mine := rs.filter fun r => r.kind == 0x0E && r.loc.toNat == ch / 4 * 256 + ch % 4
  let ps := mine.foldl (fun l r => orderedInsert (logIndex col mine r, parsePacket s r) l) []
  { s with sys := { s.sys with inq := SMap.set [] s.sys.inq ch (ps.map (·.2) ++ SMap.get [] s.sys.inq ch) } }

-- The commands (R444).

def setRestres (n : Nat) (s : State) : State := s.setReg (rSnap 0xF0) (BitVec.ofNat 64 n)
/-- Every record of a set applied in the order of R444. -/
def applySet (col : Bool) (rs : List Rec) (s : State) : State :=
  let of := fun (k : BitVec 8) => rs.filter (·.kind == k)
  let s := (of 2 ++ of 3).foldl (fun s r => restoreGranule r s) s
  let n := s.teams.length
  let s := (of 0x0A).foldl (fun s r => restoreSaved rs r s) s
  let s := restoreUnits ((s.teams.drop n).map (·.id)) s
  let s := (of 3).foldl (fun s r => restoreScratch r s) s
  let s := (of 0x0C).foldl (fun s r => restoreDrover r s) s
  let s := (of 0x0B).foldl (fun s r => restoreXfer r s) s
  let s := (of 0x0D).foldl (fun s r => restoreRouter r s) s
  let s := { s with sys := { s.sys with restoredGrps := (List.range 64).filter fun g => s.grpState g = 1 } }
  (List.range 24).foldl (fun s ch => injectChannel col rs ch s) s
/-- A context in scope has a grid here. -/
def State.scopeResident (s : State) : Bool := s.grids.any fun g => g.state == .running && s.inScope g.ctx
/-- RESTCMD_GO (R444). -/
def execRestcmdGo (col : Bool) (s : State) : Answer :=
  .next (if s.sys.restoring.isSome then s
    else if s.sys.c0.st != .free || s.sys.c1.st != .free || s.scopeResident then setRestres 4 s
    else { setRestres 5 s with sys := { s.sys with restoring := some col } })
/-- RESTORE_COMPLETE: `region` is what the record region holds (R444). -/
def execRestoreComplete (region : List Byte) (s : State) : Answer :=
  .next (match s.sys.restoring with
    | none => s
    | some col =>
      let s := { s with sys := { s.sys with restoring := none } }
      if !s.regionOk (s.reg (rSnap 0xD8)).toNat then setRestres 2 s
      else
        match s.restoreSet col (region.take (s.reg (rSnap 0xE0)).toNat) with
        | .error n => setRestres n s
        | .ok rs => setRestres 0 (settleRouters (applySet col rs s)))

end Sys2Proof.Machine
end

