-- ==== Sys2Proof/Machine/HostLinks.lean ====
section
/-!
DEFINITION. What the host and the management controller do: accesses over Link A, writes of control registers, resets, clocks and power
(R129, R449, R450, R456, R459 to R469).
-/
namespace Sys2Proof.Machine

-- Accesses over Link A (R129, R459).

/-- The DRAM address of a byte of BAR2 (R459). -/
def State.bar2 (s : State) (off : Nat) : Nat := ((s.reg 0xB8).toNat % 512 * 2 ^ 30 + off) % 2 ^ 39
/-- The window holds n bytes from off: beyond 512 GiB a request completes with Unsupported Request (R459). -/
def bar2Has (off n : Nat) : Bool := off + n ≤ 2 ^ 39
/-- The module claims a request: beyond the size that the host has configured for BAR2 it does not, up to 512 GiB (R459). -/
def State.bar2Claims (s : State) (off n : Nat) : Bool := off + n ≤ s.sys.bar2Size * 2 ^ 30 || !bar2Has off n
/-- Bytes written at the home, in pieces that lie in one 64-byte unit each. -/
def hostWrite (n off : Nat) (bs : List Byte) (s : State) : State :=
  match n with
  | 0 => s
  | n + 1 =>
    if bs.isEmpty then s
    else
      let a := s.bar2 off
      let k := 64 - a % 64
      hostWrite n (off + k) (bs.drop k) (writeHome false 72 a (bs.take k) s).1
/-- Bytes read at the home, or none where a unit cannot be corrected (R52). -/
def hostBytes (n off len : Nat) (s : State) : State × Option (List Byte) :=
  match n with
  | 0 => (s, some [])
  | n + 1 =>
    if len = 0 then (s, some [])
    else
      let a := s.bar2 off
      let k := min len (64 - a % 64)
      match readHome none true false 72 a k s with
      | (s, .error _) => (s, none)
      | (s, .ok bs) =>
        match hostBytes n (off + k) (len - k) s with
        | (s, some rest) => (s, some (bs ++ rest))
        | (s, none) => (s, none)
/-- An atomic request of 32 or 64 bits, performed at the home; the old value is the answer (R129, R299). -/
def hostAtomic (aop n off : Nat) (x cmp : U64) (s : State) : State :=
  let a := s.bar2 off
  match atomicHome false 72 a n (fun old => rmw aop (8 * n) false old (x.toNat % 2 ^ (8 * n)) (cmp.toNat % 2 ^ (8 * n))) s with
  | (s, .error _) => respondBad .uncorrectable s
  | (s, .ok bs) => respond bs s
/-- A request that the module completes: it lies in the window, and an atomic is aligned (R459). PRESUMED [27]. -/
def HostReq.supported (q : HostReq) : Bool :=
  bar2Has q.off q.len && (match q.kind with | .atomic _ => q.off % q.len = 0 | _ => true)
/-- A request is performed. -/
def HostReq.perform (q : HostReq) (s : State) : State :=
  match q.kind with
  | .write _ => hostWrite (q.len / 64 + 2) q.off q.data s
  | .read =>
    match hostBytes (q.len / 64 + 2) q.off q.len s with
    | (s, some bs) => respond bs s
    | (s, none) => respondBad .uncorrectable s
  | .enqueue k => hostEnqueue k q.x s
  | .atomic aop => hostAtomic aop q.len q.off q.x q.cmp s
/-- Bytes of the window, by the address of each, that a request names. -/
def State.hostLines (s : State) (q : HostReq) : List Nat :=
  if q.len = 0 then [] else ((List.range (q.len / 64 + 2)).map fun i => s.bar2 (q.off + min (64 * i) (q.len - 1)) / 128).eraseDups
/-- A request waits for an earlier one: the write of LQENQ, a release, for every write (R461); any other for every request of its requester,
but a posted write with Relaxed Ordering only for a read or an atomic, which are acquires, and for a write of a byte of its own (R94, R102,
R129). -/
def HostReq.after (q e : HostReq) : Bool :=
  match q.kind, e.kind with
  | .enqueue _, _ => e.writes
  | _, .enqueue _ => false
  | .write true, .write _ => q.rid == e.rid && q.off < e.off + e.len && e.off < q.off + q.len
  | _, _ => q.rid == e.rid
/-- The home cannot perform a request yet: an earlier one stands before it, or a line of it waits (R38, R42, R44, R129). -/
def State.hostWaits (s : State) (before : List HostReq) (q : HostReq) : Bool :=
  before.any q.after || (q.len != 0 && (s.hostLines q).any fun l => s.homeWaits none (l * 128) 128)
/-- A request over Link A arrives: it is performed at once, or waits; a posted write with Relaxed Ordering is performed at any time from
now on. One that is not supported completes with Unsupported Request, and one that is not claimed has no effect (R129, R459). -/
def hostArrives (q : HostReq) (s : State) : State :=
  let dropped := match q.kind with | .write _ => true | _ => false
  if !s.bar2Claims q.off q.len then s
  else if !q.supported then (if dropped then s else respondBad .unsupported s)
  else if q.kind == .write true || s.hostWaits s.sys.hostq q then { s with sys := { s.sys with hostq := s.sys.hostq ++ [q] } }
  else q.perform s
/-- The request at a place of the queue is performed, if it may be. -/
def execHostServe (i : Nat) (s : State) : Answer :=
  .next (match s.sys.hostq[i]? with
    | none => s
    | some q =>
      if s.hostWaits (s.sys.hostq.take i) q then s
      else q.perform { s with sys := { s.sys with hostq := s.sys.hostq.eraseIdx i } })
/-- HOST_POSTED_WRITE: with Relaxed Ordering it is unordered with the requester's other writes; else every earlier request of the requester
has been performed first (R129). -/
def execHostPostedWrite (rid : BitVec 16) (ro : Bool) (off : Nat) (data : List Byte) (s : State) : Answer :=
  .next (hostArrives ⟨rid, .write ro, off, data.length, data, 0, 0⟩ s)
/-- HOST_READ (R129): the answer holds the bytes; it is empty, with a status of its own, where the request is not supported or the data is
uncorrectable. -/
def execHostRead (rid : BitVec 16) (off len : Nat) (s : State) : Answer := .next (hostArrives ⟨rid, .read, off, len, [], 0, 0⟩ s)
/-- HOST_FETCHADD. -/
def execHostFetchadd (rid : BitVec 16) (off : Nat) (wide : Bool) (v : U64) (s : State) : Answer :=
  .next (hostArrives ⟨rid, .atomic 0, off, if wide then 8 else 4, [], v, 0⟩ s)
/-- HOST_SWAP. -/
def execHostSwap (rid : BitVec 16) (off : Nat) (wide : Bool) (v : U64) (s : State) : Answer :=
  .next (hostArrives ⟨rid, .atomic 8, off, if wide then 8 else 4, [], v, 0⟩ s)
/-- HOST_CAS. -/
def execHostCas (rid : BitVec 16) (off : Nat) (wide : Bool) (c v : U64) (s : State) : Answer :=
  .next (hostArrives ⟨rid, .atomic 9, off, if wide then 8 else 4, [], v, c⟩ s)

-- Clocks and power (R466, R468).

/-- A CLOCK record in every core stream of every die (R450). -/
def clockRecords (khz : Nat) (s : State) : State :=
  (List.range 8).foldl (fun s d => (List.range 64).foldl (fun s c => trace d c 0xA 0 0 0 0 khz s) s) s
/-- MCLK takes another frequency; what has passed of a nanosecond is kept (R2). -/
def State.setMclk (s : State) (khz : Nat) : State := { s with mclk := khz, gtFrac := s.gtFrac * khz / max 1 s.mclk }
/-- MCLK one step of 12.5 MHz on, towards a wanted one (R466). -/
def stepMclk (want : Nat) (s : State) : State :=
  let now := s.mclkStep
  if s.power ≠ .on || want = now then s
  else
    let s := payVirtual s
    let s := s.setMclk ((if now < want then now + 1 else now - 1) * 12500)
    clockRecords s.mclk (s.interrupt 6)
/-- MCLK_ADJUST: the controller finds the highest step at which every limit holds, and MCLK goes one step towards it, below the ceiling of
MCLKSET (R466). -/
def execMclkAdjust (steps : BitVec 6) (s : State) : Answer :=
  .next (if s.power ≠ .on then s
    else stepMclk (max 24 (min steps.toNat s.mclkTop)) { s with sys := { s.sys with allowed := max 24 steps.toNat } })
/-- THERMAL_SHUTDOWN: MCLK stops on every die (R466). -/
def execThermalShutdown (_die : Nat) (s : State) : Answer :=
  .next (if s.power ≠ .on then s else clockRecords 0 ({ s with power := .shutdown }.interrupt 6))
/-- MANAGEMENT_REQUEST (R463). -/
def execManagementRequest (s : State) : Answer := .next (s.interrupt 7)

-- Resets (R465).

/-- What a reset leaves of the model's own counters, and of the world outside. -/
def afterReset (s : State) (r : State) : State := { r with fresh := s.fresh, serial := s.serial, agenda := s.agenda, strikes := s.strikes }
/-- What the management controller holds: the image that runs, and its report (R465). -/
def keepController (s : State) (r : State) : State := { r with sys := { r.sys with image := s.sys.image, pldm := s.sys.pldm } }
/-- A warm reset: registers and grids go, DRAM and GT stay (R465). Modified superblocks have been written back or not: which is free.
DESIGN CHOICE [28]. -/
def warm_ (s : State) : State :=
  let t := if s.choose 2 = 0 then s.dirty.foldl (fun s sb => writeBack sb s) s else dramBack s.dram s
  let hidden := t.flaws.filterMap fun f => if f.2 == .hidden then some f.1 else none
  { afterReset (s.useFree 1) (keepController s State.reset) with
    mem := t.mem.filter (·.1 < 2 ^ 40)
    bad := hidden ++ t.bad.filter (· < 2 ^ 40)
    flaws := t.flaws.filter (·.2 == .weakDram)
    gt := s.gt
    gtFrac := (s.setMclk State.reset.mclk).gtFrac }
/-- WARM_RESET: a module without power has none. -/
def execWarmReset (s : State) : Answer := .next (if s.power = .off then s else warm_ s)
/-- FUNCTION_LEVEL_RESET spares what the management controller holds: its last answer too (R465). -/
def execFunctionLevelReset (s : State) : Answer := .next (if s.power = .off then s else respond s.sys.reply (warm_ s))
/-- POWER_LOSS: everything is lost (R465). -/
def execPowerLoss (s : State) : Answer :=
  .next (afterReset s { State.reset with power := .off, sys := { State.reset.sys with image := none } })
/-- POWER_ON_BOOT: the first image that is verified runs, that of slot 0 or else that of slot 1; where neither is, the module stays in reset and
the controller reports it over PLDM (R465). Whether one is, is the flash's. DESIGN CHOICE [28]. -/
def execPowerOnBoot (s : State) : Answer :=
  .next (if s.power ≠ .off then s
    else
      let good := [0, 1].find? fun i => (s.useFree i).choose 2 = 0
      let s := { s.useFree 2 with power := if good.isSome then .on else .off }
      { s with sys := { s.sys with image := good, pldm := good.isNone } })
/-- SPDM_REQUEST: the answer's bytes are the controller's: they depend on the request and on what is measured (R465). DESIGN CHOICE [9]. -/
def execSpdmRequest (req : List Byte) (s : State) : Answer :=
  .next (respond (Config.spdm req (s.sys.image.getD 2) (s.reg 0xA8) s.fresh) (s.useFree 1))

-- Writes of control registers (R459, R461 to R464, R469).

/-- The state that an answer leaves. -/
def after_ (x : Answer) (s : State) : State := match x with | .next t => t | _ => s
/-- HGCMD (R462). -/
def writeHgcmd (v : U64) (s : State) : State :=
  let op := v.toNat / 2 ^ 60
  if v.extractLsb' 36 24 != 0 || (op ≠ 1 && op ≠ 2 && op ≠ 3) then s.setReg rHgres 7
  else if op = 1 then after_ (execHgcmdEndGrid (v.setWidth 32) s) s
  else hgResume (op = 2) (v.setWidth 36) s
/-- TLBINV (R34). Nonzero reserved bits drop the write. PRESUMED [29]. -/
def writeTlbinv (v : U64) (s : State) : State :=
  let k := v.toNat / 256 % 4
  if v.extractLsb' 57 7 != 0 || v.extractLsb' 10 6 != 0 then s
  else if k = 3 then tlbOverflow s
  else queueInv v s
/-- SNAPCMD (R149). -/
def writeSnapcmd (v : U64) (s : State) : State :=
  match v.toNat / 2 with
  | 1 => after_ (execSnapcmdStart (v.getLsbD 0) s) s
  | 2 => after_ (execSnapcmdRelease (v.getLsbD 0) s) s
  | _ => setSnapres 7 s
/-- RESTCMD (R444): without GO nothing starts. -/
def writeRestcmd (v : U64) (s : State) : State :=
  if 4 ≤ v.toNat then setRestres 7 s else if v.getLsbD 1 then after_ (execRestcmdGo (v.getLsbD 0) s) s else s
/-- GRPCMD (R433). -/
def writeGrpcmd (v : U64) (s : State) : State :=
  if 1024 ≤ v.toNat || v.extractLsb' 6 2 != 0 then s
  else match v.toNat / 256 with
    | 1 => after_ (execGrpcmdOpen (v.toNat % 64) s) s
    | 2 => after_ (execGrpcmdClose (v.toNat % 64) s) s
    | _ => s
/-- PREGRID (R425). -/
def writePregrid (v : U64) (s : State) : State :=
  if 2 ^ 33 ≤ v.toNat then s.setReg rPreres 7
  else if v.getLsbD 32 then after_ (execPregridWithdraw (v.setWidth 32) s) s
  else after_ (execPregridRequest (v.setWidth 32) s) s
/-- A register that holds the value written in its writable bits. -/
def writePlain (off : Nat) (v : U64) (s : State) : State :=
  s.setReg off ((s.reg off &&& ~~~writeMask off) ||| (v &&& writeMask off))
/-- MCLKSET: MCLK never exceeds it, and goes down to it at once, step by step (R466). -/
def writeMclkset (v : U64) (s : State) : State :=
  let s := writePlain 0xD8 v s
  (List.range 60).foldl (fun s _ => if s.mclkTop < s.mclkStep then stepMclk s.mclkTop s else s) s
/-- WBCTL: DIVERGED is cleared by writing 1, and a POLICY of 3 leaves the field (R445). -/
def writeWbctl (v : U64) (s : State) : State :=
  let old := s.reg (rFab 0xA18)
  let s := writePlain (rFab 0xA18) (if v.toNat % 4 = 3 then (v &&& ~~~(3 : U64)) ||| (old &&& 3) else v) s
  if v.getLsbD 3 then s.setReg (rFab 0xA18) (s.reg (rFab 0xA18) &&& ~~~(8 : U64)) else s
/-- RHCTL: once LOCK is set, nothing of it changes until a reset (R39). -/
def writeRhctl (off : Nat) (v : U64) (s : State) : State := if (s.reg off).getLsbD 17 then s else writePlain off v s
/-- TRCTL: streams begin with a SYNC record after EN changes from zero (R450). -/
def writeTrctl (d : Nat) (v : U64) (s : State) : State :=
  let old := (s.reg (rTrace d 0x10)).extractLsb' 32 16
  let s := writePlain (rTrace d 0x10) v s
  if old = 0 && v.extractLsb' 32 16 != 0 then
    { s with sys := { s.sys with trSync := s.sys.trSync.filter fun e => e.1 / 65 ≠ d } }
  else s
/-- A register of a group is written only while the group is CLOSED (R433). -/
def groupOpen (off : Nat) (s : State) : Bool := rFab 0 ≤ off && off < rFab 0x800 && s.grpState ((off - rFab 0) / 8 % 64) ≠ 0
/-- A write of 64 bits at an offset of BAR0. -/
def writeReg (off : Nat) (v : U64) (s : State) : State :=
  if off % 8 ≠ 0 then s
  else if off < 0x40 then after_ (execHostEnqueue (BitVec.ofNat 3 (off / 8)) v s) s
  else if off = 0x88 then writeHgcmd v s
  else if off = rHintst then s.setReg rHintst (s.reg rHintst &&& ~~~v)
  else if off = 0xD8 then writeMclkset v s
  else if off = 0xE8 then (if v = 1 then warm_ s else s)
  else if off = rXlat 0x800 then writeTlbinv v s
  else if off = rXlat 0x808 then s.setReg off (s.reg off &&& ~~~(v &&& 2))
  else if off = rSnap 0xB0 then writeSnapcmd v s
  else if off = rSnap 0xE8 then writeRestcmd v s
  else if off = rFab 0xA00 then writeGrpcmd v s
  else if off = rFab 0xA18 then writeWbctl v s
  else if off = rSave 0x30 then writePregrid v s
  else if off = rRb 0x10 then (if v.getLsbD 0 then setFrozen none s else s)
  else if 0x100000 ≤ off && off < 0x900000 && off % 0x100000 = 0x30010 then writeTrctl ((off - 0x100000) / 0x100000) v s
  else if 0x100000 ≤ off && off < 0x900000 && off % 0x100000 = 0 then writeRhctl off v s
  else if groupOpen off s then s
  else writePlain off v s
/-- REGISTER_WRITE: a management write to a locked group is dropped and counted (R464). -/
def execRegisterWrite (mgmt : Bool) (off : BitVec 26) (v : U64) (s : State) : Answer :=
  let locked := match lockGroup off.toNat with | some g => (s.reg 0xA8).getLsbD g | none => false
  .next (if mgmt && locked then s.count 0xB0 1 else writeReg off.toNat v s)

end Sys2Proof.Machine
end

