-- ==== Sys2Proof/Machine/Issue.lean ====
section
/-!
DEFINITION. The issue of words: candidates, readiness and choice (R189 to R191, R386, R407 to R409), fetch and the checks before issue
(R30, R166, R167, R195), breakpoints (R451, R452), and what follows a word.
-/
namespace Sys2Proof.Machine

-- Candidates (R407).

/-- A scheduler: numbers below 1024 are the gang schedulers, two for each core; the six drovers of each die follow. -/
def Agent.unit (a : Agent) : Nat := if a.drover then 1024 + a.die * 6 + a.core else 2 * a.coreNo + a.sched
/-- The number that breaks ties: the slot of a gang, the context of a drover (R386, R408). -/
def Agent.place (a : Agent) : Nat := if a.drover then a.idx else a.slot
/-- A colour's cut has stopped the issue of agents in scope (R140). -/
def State.cutStops (s : State) (a : Agent) : Bool := a.resuming.isNone && (s.sys.c0.stops || s.sys.c1.stops) && s.gridInScope a.grid
/-- A gang of the agent's unit settles replay entries: the gangs of a resumed unit issue together (R430, step 5). -/
def State.unitSettles (s : State) (a : Agent) : Bool :=
  s.all.any fun b => (match b.resuming with | some ⟨.replay _, _, _⟩ => true | _ => false) && (s.team a.team).unit.contains b.team
/-- Nothing stops the agent as a whole: a trap being taken, a park, a save, a barrier, a held acquire, a cut, a causal delay, a hit or a fault
that is owed (R102, R140, R257, R407, R412, R417, R420, R421, R430, R452, R455). -/
def State.mayIssue (s : State) (a : Agent) : Bool :=
  let t := s.team a.team
  a.stopping.isNone && (a.pausing.isNone || a.resuming.isSome) && !a.parked && !a.yielded && !a.ended && !a.atBarT && !a.atBarC &&
    (a.drover || !(t.preq && t.pdlDone) || a.resuming.isSome) && !s.owesReplay a && !a.owesHit && !s.unitSettles a && !s.acquiring a.id && !s.cutStops a &&
    (match s.sys.trial with | some x => SMap.get 0 x.hold a.id == 0 | none => true)

/-- The planes of a path that still owe their word of the offset it stands at (R167, R407). -/
def Agent.todo (a : Agent) (p : Path) : List Nat := (a.occupied (p.lanes &&& a.live)).filter (p.plane ≤ ·)
/-- The word that a path offers, where it can be fetched. -/
def State.peek (s : State) (a : Agent) (p : Path) : Option U64 :=
  match (a.todo p).head? with
  | none => none
  | some q => match (fetchWord a p.pc q s).2 with | .ok w => some w | .error _ => none

/-- The destination of an operation in flight is this register of its agent. -/
def MemOp.writes (o : MemOp) (a : Agent) (r : RegRef) : Bool :=
  match o.dest, r with
  | .scalar n, .s m => n == m
  | .vector p q, .v m => a.phys m == p || (o.size == 8 && a.phys m == q)
  | _, _ => false
/-- A path and those from which its lanes have come: the owners of the entries that cover it (R170). -/
def Agent.lineage (a : Agent) (n pid : Nat) : List Nat :=
  match n with
  | 0 => [pid]
  | n + 1 => pid :: (match a.cover pid with | some e => a.lineage n e.owner | none => [])
/-- The operation came before the words of a path in program order (R88): the path sent it, or one from which its lanes have come, or one
whose lanes have moved on. DEDUCED [95]. -/
def Agent.follows (a : Agent) (p : Path) (o : MemOp) : Bool :=
  (a.lineage a.divs.length p.id).contains o.path ||
    !((a.paths.any fun q => q.id == o.path) || a.divs.any fun e => e.owner == o.path)
/-- The word stands in the shadow of the instruction that sent the operation (R191). -/
def Path.ignores (p : Path) (o : MemOp) : Bool := p.shadows.any fun x => 0 < x.left && !x.fresh && x.op == some o.id
/-- The scoreboard lets a word of the path issue: no load or atomic before it is still to write a register that it reads or writes, but
the one whose LOOK shadow it stands in (R191, R285, R407). -/
def State.scoreboard (s : State) (a : Agent) (p : Path) : Bool :=
  let due := s.ops.filter fun o => o.agent == a.id && o.dest != .none && a.follows p o && !p.ignores o
  if due.isEmpty then true
  else
    match s.peek a p with
    | none => true
    | some w =>
      let r := wordRegs (s.decCtx a) w
      (r.1 ++ r.2).all fun x => due.all fun o => !o.writes a x
/-- The ready candidates of a scheduler (R407). -/
def State.ready (s : State) (unit : Nat) : List (Agent × Path) :=
  (s.all.filter fun a => a.unit == unit && s.mayIssue a && a.gap == 0).flatMap fun a =>
    (a.runnable.filter fun p => !p.stalled && s.scoreboard a p).map fun p => (a, p)

-- The choice (R190, R386, R408, R409).

/-- x comes before y: older, then the lower slot, then the taken arm. -/
def ahead (x y : Agent × Path) : Bool :=
  y.2.age < x.2.age || (x.2.age == y.2.age &&
    (x.1.place < y.1.place || (x.1.place == y.1.place && x.1.id == y.1.id && x.2.taken && !y.2.taken)))
def firstOf (l : List (Agent × Path)) : Option (Agent × Path) :=
  l.foldl (fun m y => match m with | none => some y | some x => if ahead y x then some y else some x) none
/-- The last word of the agent gives way for this cycle to others of its scheduler that are ready (R190). -/
def givesWay (l : List (Agent × Path)) (a : Agent) : Bool := a.gw != 0 && l.any fun y => y.1.id != a.id
/-- The candidate that issues (R386, R408). -/
def State.choice (s : State) (unit : Nat) : Option (Agent × Path) :=
  let l := s.ready unit
  let old := l.filter fun x => !x.1.drover && 48 ≤ x.2.age
  let free := l.filter fun x => !givesWay l x.1
  if !old.isEmpty then firstOf old else if !free.isEmpty then firstOf free else firstOf l
/-- A word of the asynchronous group goes to a unit that both schedulers of a core share (R409). -/
def sharedWord (w : U64) : Bool := let op := (Sys2Proof.fld w 54 9).toNat; !flag w 63 && 0x182 ≤ op && op ≤ 0x195
/-- The word that a scheduler would issue goes to a shared unit. -/
def State.goesShared (s : State) (unit : Nat) : Bool :=
  match s.choice unit with
  | some x => (match s.peek x.1 x.2 with | some w => sharedWord w | none => false)
  | none => false
/-- The word that a scheduler would issue is a LAUNCH. -/
def State.goesLaunch (s : State) (unit : Nat) : Bool :=
  match s.choice unit with
  | some x => (match s.peek x.1 x.2 with | some w => !flag w 63 && Sys2Proof.fld w 54 9 == 0x54 | none => false)
  | none => false
/-- LAUNCHes of one cycle go to their queues in ascending die and core order, so the last free place is the first one's (R400). -/
def State.launchWaits (s : State) (unit : Nat) : Bool :=
  unit < 1024 && s.goesLaunch unit && (s.all.map Agent.unit).any fun v => v / 2 < unit / 2 && !s.served.contains v && s.goesLaunch v
/-- The mark, among the schedulers that have issued in this cycle, of one whose word went to a shared unit (R409). -/
def sharedMark (unit : Nat) : Nat := 4096 + unit
/-- Where both schedulers of a core issue a word for a shared unit in one cycle, that of scheduler 0 goes first in even cycles, that of
scheduler 1 in odd ones (R409): the second waits for the first, and a first that comes after the second is of the next cycle. -/
def State.waitsTurn (s : State) (unit : Nat) : Bool :=
  let other := unit / 2 * 2 + (1 - unit % 2)
  s.launchWaits unit || unit < 1024 && s.goesShared unit &&
    (if unit % 2 = s.cyc.toNat % 2 then s.served.contains (sharedMark other) else !s.served.contains other && s.goesShared other)

/-- An agent becomes the one at issue. -/
def bring (id : Nat) (s : State) : State :=
  if s.g.id = id then s
  else
    match s.agents.find? (·.id == id) with
    | none => s
    | some a => { s with g := a, agents := (s.agents.filter (·.id != id)) ++ (if s.g.id = 0 then [] else [s.g]) }
/-- GANG_ISSUE_SELECT: a scheduler picks the candidate that issues in this cycle (R408). -/
def execGangIssueSelect (unit : Nat) (s : State) : Answer :=
  .next (if s.sel || s.served.contains unit then s
    else
      match s.choice unit with
      | none => s
      | some (a, p) =>
        { bring a.id s with cur := p.id, sel := true, served := unit :: (if s.goesShared unit then [sharedMark unit] else []) ++ s.served })

-- Fetch and the checks before decoding (R30, R167, R195).

/-- The words of some planes at an offset, or why a plane's word cannot be fetched. -/
def fetchAll (a : Agent) (o : Offs) (ps : List Nat) (s : State) : State × List (Nat × Except Bad U64) :=
  match ps with
  | [] => (s, [])
  | p :: r =>
    let (s, x) := fetchWord a o p s
    let (s, xs) := fetchAll a o r s
    (s, (p, x) :: xs)
/-- The lanes of a path in some planes. -/
def Agent.lanesIn (a : Agent) (p : Path) (ps : List Nat) : U64 :=
  ps.foldl (fun m q => m ||| a.inPlane (p.lanes &&& a.live) q) 0
/-- The words that are checked when they move their path; every other word at the last position of a region would leave it (R167,
R246). -/
def movesItself (w : U64) : Bool := let op := (Sys2Proof.fld w 54 9).toNat; !flag w 63 && 0x40 ≤ op && op ≤ 0x4D
/-- A control word at issue would move the gang out of its region with a lane outside plane 0 (R167, item 3). -/
def State.leaves (s : State) (i : Instr) : Bool :=
  let a := s.g
  let m := s.path.lanes
  let next := a.after s.path.pc
  let br := fun (h : Hint) (x : BitVec 18) (taken : Bool) => a.strands m (if s.act h ≠ 0 && taken then s.target 18 x else next)
  let pl := fun (h : Hint) (pos : Nat) (p : Nat → Nat) (n1 : BitVec 2) (l : BitVec 24) =>
    let g := { a with region := some (a.region.getD ⟨s.path.pc - BitVec.ofNat 54 pos, n1.toNat + 1, l.toNat⟩) }
    let g := (lanesOf (s.act h)).foldl (fun (b : Agent) i => { b with planes := SMap.set 0 b.planes i (p i) }) g
    g.strands m (g.after s.path.pc)
  match i with
  | .bra h x => br h x true
  | .brS h z r x => br h x ((s.sr r == 0) == z)
  | .brAny h neg k x => br h x (s.act h &&& s.predBits neg k != 0)
  | .brAll h neg k x => br h x (s.act h &&& ~~~(s.predBits neg k) == 0)
  | .loop h d x => br h x (s.sr d - 1 != 0)
  | .call h _ x => br h x true
  | .brDiv h neg k _ x =>
    let t := m &&& a.live &&& a.exec &&& s.predBits neg k
    if s.act h = 0 then a.strands m next
    else a.strands t (s.target 18 x) || a.strands (m &&& a.live &&& ~~~t) next
  | .join _ => match a.cover s.cur with
    | some e => e.join == s.path.pc && e.kind != .callT && !a.hasCalls s.cur && (a.completes s.cur).isSome && a.strands e.lanes next
    | none => false
  | .ret _ => match a.calls.find? (·.owner == s.cur) with
    | some e => a.strands m (returnOffset e s)
    | none => false
  | .exit h => a.strands (m &&& ~~~(s.act h)) next
  | .plane h pos r n1 l => pl h pos.toNat (fun i => (s.vr r i).toNat % 4) n1 l
  | .planeI h pos p n1 l => pl h pos.toNat (fun _ => p.toNat) n1 l
  | .callT h _ _ _ => s.act h = 0 && a.strands m next
  | .jmpT h _ _ _ => s.act h = 0 && a.strands m next
  | _ => false
/-- The same of a word whose later checks have not been made: of its instruction as its fields read. -/
def State.leavesBy (s : State) (w : U64) : Bool :=
  s.g.region.isSome && movesItself w &&
    match rowOf (Sys2Proof.fld w 54 9).toNat with | some r => s.leaves (r.build (hintOf w) w) | none => false
/-- The word or words at issue: the state with their word, lanes and planes; or the trap of the first check that fails (R195, steps 1
and 2). -/
def fetchIssue (s : State) : Except State State :=
  let a := s.g
  let p := s.path
  let ps := a.todo p
  let (s, ws) := fetchAll a p.pc ps s
  let bad := ws.filterMap fun x => match x.2 with | .error b => some (x.1, b) | .ok _ => none
  let good := ws.filterMap fun x => match x.2 with | .ok w => some (x.1, w) | .error _ => none
  let at_ := fun (qs : List Nat) (w : U64) => { s with word := w, lanes := a.lanesIn p qs, pmask := planeMask qs }
  if bad.any fun x => x.2 == notYet then .error (stall s) else
  match bad, good with
  | x :: more, _ =>
    let qs := bad.map (·.1)
    let first := fun (q : Nat) => lowest (a.lanesIn p [q])
    let (q, b) := more.foldl (fun x y => if first y.1 < first x.1 then y else x) x
    let r : TrapRegs := { rep b.1 b.2 (a.lanesIn p qs) (a.wordAddr p.pc q) 0 with pc := (planeMask qs ++ p.pc).setWidth 64 }
    .error (stop ⟨r, p.pc, p.plane, p.id, []⟩ (at_ qs 0))
  | [], [] => .error { s with sel := false }
  | [], (q, w) :: more =>
    if (good.any fun x => isControlWord x.2) && more.any fun x => x.2 != w then
      .error (raise (rep cPlane 0xD0 (a.lanesIn p ps) 0 0) (at_ ps w))
    else if a.strands p.lanes (p.pc + 1) && !movesItself w then .error (raise (rep cPlane 0xD0 (a.lanesIn p ps) 0 0) (at_ ps w))
    else
      let s' := if isControlWord w then at_ ps w else at_ [q] w
      if s'.leavesBy w then .error (stranded s') else .ok s'

-- Breakpoints (R451, R452).

/-- The active lanes of the word at issue: those of either half of a pair. -/
def State.activeNow (s : State) : U64 :=
  let w := s.word
  let g := if flag w 63 then
      match halfOpOf (Sys2Proof.fld w 56 7).toNat, halfOpOf (Sys2Proof.fld w 25 7).toNat with
      | some p, some q => s.g.passing (halfAt w 32 p).guard ||| s.g.passing (halfAt w 1 q).guard
      | _, _ => BitVec.allOnes 64
    else s.g.passing (Sys2Proof.fld w 8 4)
  s.before &&& g
/-- The lowest breakpoint of the core that the word at issue hits. -/
def breakHits (s : State) : List Hit :=
  let a := s.g
  if a.drover || a.noHit.contains (s.cur, s.path.pc) then []
  else
    ((List.range 8).filterMap fun n =>
      let r := fun (o : Nat) => s.reg (rCore a.coreNo (o + 8 * n))
      let c := r 0x180
      if !c.getLsbD 0 then none
      else
        let qs := (List.range 4).filter fun q => c.getLsbD (15 + q) && s.pmask.getLsbD q
        let m := qs.foldl (fun m q => m ||| a.inPlane s.activeNow q) 0
        if s.dbgMatches a c && r 0x100 == s.rc.entry && (r 0x140).setWidth 54 == s.path.pc && m != 0 then
          some ⟨{ rep cBrk 0 m 0 (BitVec.ofNat 64 (0x100 + n)) with pc := s.trapPc }, c.getLsbD 1, a.trapMode⟩
        else none).take 1

-- Decoding, and what follows the word.

/-- A failed check of steps 3 to 9 (R195, R196). -/
def decodeTrap (e : DecErr) (s : State) : State :=
  raise (rep (if e.pair then cPair else cIllegal) e.detail.toNat (s.lanes &&& s.g.live) 0 (BitVec.ofNat 64 e.reg)) s
-- Broken promises of LOOK (R191, items 2 and 3).

/-- What an agent holds in some registers. -/
def Agent.values (a : Agent) (rs : List RegRef) : RegVals where
  s := rs.filterMap fun r => match r with | .s n => some (n, a.sget n) | _ => none
  v := rs.flatMap fun r => match r with
    | .v n => (List.range a.width).map fun l => (a.phys n * 64 + l, a.vget n l)
    | _ => []
  m := []
/-- Values put back into an agent's registers. -/
def Agent.put (a : Agent) (x : RegVals) : Agent :=
  let a := x.s.foldl (fun (a : Agent) e => a.sset e.1 e.2) a
  x.v.foldl (fun (a : Agent) e => a.pset (e.1 / 64) (e.1 % 64) e.2) a
/-- Each of several values, or what stands in the agent: which is free, from the free choice k on. -/
def freeVals (s : State) (k : Nat) (old now : RegVals) : RegVals :=
  let pick := fun (i : Nat) => Config.pick (s.fresh + k + i) % 2 = 1
  ⟨old.s.zipIdx.map fun e => (e.1.1, if pick e.2 then e.1.2 else SMap.get 0 now.s e.1.1),
   old.v.zipIdx.map fun e => (e.1.1, if pick (old.s.length + e.2) then e.1.2 else SMap.get 0 now.v e.1.1), []⟩
/-- The values of those registers that the word at issue reads or writes. -/
def State.touched (s : State) (x : RegVals) : RegVals :=
  let r := wordRegs (s.decCtx s.g) s.word
  let rs := r.1 ++ r.2
  ⟨x.s.filter fun e => rs.contains (.s e.1),
   x.v.filter fun e => rs.any fun r => match r with | .v n => s.g.phys n == e.1 / 64 | _ => false, []⟩
/-- The word stands in LOOK shadows: a register that their instruction writes reads, in each lane, as before that instruction or as it
stands now; what it holds now is lent (R191, item 2). -/
def castShadows (s : State) : State :=
  let olds := (s.path.shadows.filter fun x => 0 < x.left && !x.fresh).map fun x => s.touched x.was
  if olds.all (· == RegVals.none) then s
  else
    let now : RegVals := ⟨olds.flatMap fun x => x.s.map fun e => (e.1, s.g.sget e.1),
      olds.flatMap fun x => x.v.map fun e => (e.1, s.g.pget (e.1 / 64) (e.1 % 64)), []⟩
    let a := (olds.zipIdx.foldl (fun (a : Agent) x => a.put (freeVals s (4096 * x.2) x.1 now)) s.g)
    { s with g := { a with lent := now } }.useFree (4096 * olds.length)
/-- After the word: a register that it has not written takes back what was lent; one that it has written holds its value or what was
lent (R191, item 3). b is the agent as the word found it. -/
def takeBack (b a : Agent) (s : State) : State :=
  if b.lent == RegVals.none then s
  else
    let x := b.lent
    let kept : RegVals := ⟨x.s.filter fun e => a.sget e.1 == b.sget e.1,
      x.v.filter fun e => a.pget (e.1 / 64) (e.1 % 64) == b.pget (e.1 / 64) (e.1 % 64), []⟩
    let wrote : RegVals := ⟨x.s.filter fun e => !kept.s.contains e, x.v.filter fun e => !kept.v.contains e, []⟩
    let own : RegVals := ⟨wrote.s.map fun e => (e.1, a.sget e.1), wrote.v.map fun e => (e.1, a.pget (e.1 / 64) (e.1 % 64)), []⟩
    let c := (a.put kept).put (freeVals s 0 wrote own)
    ({ s.setAgent { c with lent := RegVals.none } with fresh := s.fresh }).useFree (wrote.s.length + wrote.v.length)
/-- The shadow that the word has opened keeps what the registers held that it writes (R191). -/
def keepOld (b : Agent) (old : RegVals) (s : State) : State :=
  match s.agent? b.id with
  | none => s
  | some a =>
    let upd := fun (p : Path) => match p.shadows.getLast? with
      | some x => if x.was == RegVals.none then { p with shadows := p.shadows.dropLast ++ [{ x with was := old }] } else p
      | none => p
    s.setAgent { a with paths := updFirst (·.id == s.cur) upd a.paths }

/-- The instruction at issue, ready for its meaning; or the state after the trap of a check that fails. -/
def prepare (s : State) : Except State (State × Instr) :=
  match fetchIssue s with
  | .error t => .error t
  | .ok s =>
    match decodeWord (s.decCtx s.g) s.word with
    | .error e => .error (decodeTrap e s)
    | .ok i => .ok (castShadows { s with g := { s.g with hits := s.g.hits ++ breakHits s } }, i)
/-- Words that wait are tried again: what they wait for may have come (R175). -/
def Agent.wake (a : Agent) : Agent := { a with paths := a.paths.map fun (p : Path) => { p with stalled := false } }
def wake (s : State) : State := { s with g := s.g.wake, agents := s.agents.map Agent.wake }
/-- After the meaning of a word: s is the state in which it was at issue, t the state that it leaves. A word that waits was no
candidate: it takes back its hits, and its scheduler may issue another in this cycle (R407, R408). One that completes stops its gang
where it hit (R452), a barrier's once its gang has departed; issues are counted (R395, R455). -/
def settleWord (s t : State) : State :=
  let id := s.g.id
  match t.agent? id with
  | none => wake (if s.g.drover then t.count (rDrv s.g.die 0xC0) 1
      else if (List.range 4).any fun p => s.pmask.getLsbD p && s.inTrial s.g s.path.pc p then countTrial s.g t
      else t)
  | some a =>
    let trial := fun (t : State) =>
      if (List.range 4).any fun p => s.pmask.getLsbD p && s.inTrial s.g s.path.pc p then countTrial s.g t else t
    if (a.atBarT && !s.g.atBarT) || (a.atBarC && !s.g.atBarC) then trial (takeBack s.g a t)
    else if ((a.path? s.cur).map (·.stalled)).getD false then
      let t := takeBack s.g a { t with served := t.served.filter fun u => u != s.g.unit && u != sharedMark s.g.unit }
      let a := (t.agent? id).getD a
      t.setAgent { a with hits := s.g.hits.filter fun x => x.regs.pc != s.trapPc, waits := true }
    else
      let t := takeBack s.g a t
      let t := if s.word.extractLsb' 0 4 = 0 || flag s.word 63 then t else keepOld s.g ((s.g.put s.g.lent).values s.dests) t
      let a := { (t.agent? id).getD a with waits := false, want := none }
      let t := t.setAgent a
      let t := if s.g.drover then t.count (rDrv s.g.die 0xC0) 1
        else trial t
      let trapped := a.stopping.isSome || a.pausing.isSome || a.parked || (a.handler.isSome && s.g.handler.isNone)
      wake (if trapped || a.hits.isEmpty || t.g.id != id then t else takeHit t)

end Sys2Proof.Machine
end

