-- ==== Sys2Proof/Machine/Pair.lean ====
section
/-!
DEFINITION. The pair form (R186 to R188, R214).
-/
namespace Sys2Proof.Machine

/-- What a half writes, computed from the state before either half (R188): a scalar, the lanes of a vector register, the lanes of
a mask register, or nothing; and the flags that it raises. -/
inductive HalfWrite where
  | none
  | scalar (d : Nat) (v : U64)
  | vector (d : Nat) (m : U64) (vs : List (Nat × U32)) (fl : BitVec 5)
  | mask (d : Nat) (m v : U64)
deriving DecidableEq, Repr

/-- The active lanes of a half, under its own guard (R172, R187). -/
def State.halfAct (s : State) (x : Half) : U64 := s.before &&& s.g.passing x.guard
/-- The operand words of a half that it reads as floating-point data (R165). -/
def State.halfFloats (s : State) (x : Half) (l : Nat) : List U32 :=
  match x.op with
  | .fAdd | .fSub | .fMul | .fMin | .fMax | .hAdd | .hMul => [s.g.vget x.d.toNat l, s.g.vget x.a.toNat l]
  | _ => []

/-- The scalar result of an S half: 64 bits, D the first source (R187, R239, R241). -/
def sHalf (op : HalfOp) (x y : U64) (i : BitVec 6) : U64 :=
  match op with
  | .sAdd => iAdd 64 x y
  | .sSub => iSub 64 x y
  | .sAnd => iAnd 64 x y
  | .sOr => iOr 64 x y
  | .sXor => iXor 64 x y
  | .sAddi => x + i.signExtend 64
  | .sShli => iShl 64 x (i.setWidth 64)
  | .sShri => iShr 64 x (i.setWidth 64)
  | .sMin => iMin 64 x y
  | .sMax => iMax 64 x y
  | _ => y
/-- The element of a V half: 32 bits (R187, R270). -/
def vHalf (op : HalfOp) (x y : U32) (i : BitVec 6) : U32 :=
  match op with
  | .vAdd => iAdd 32 x y
  | .vSub => iSub 32 x y
  | .vAnd => iAnd 32 x y
  | .vOr => iOr 32 x y
  | .vXor => iXor 32 x y
  | .vAddi => x + i.signExtend 32
  | .vShli => vShlN 32 x (i.setWidth 32)
  | .vShri => vShrN 32 x (i.setWidth 32)
  | .vMin => iMin 32 x y
  | .vMax => iMax 32 x y
  | _ => y
/-- The element of an F or H half, rounded to nearest even, with its flags (R187, R274, R278). -/
def fHalf (op : HalfOp) (x y : U32) : Nat × BitVec 5 :=
  let e := fun (w : U32) (i : Nat) => hElem false false false w i
  match op with
  | .fAdd => addF fp32 .rne (f32 x) (f32 y)
  | .fSub => addF fp32 .rne (f32 x) (f32 y).neg
  | .fMul => mulF fp32 .rne (f32 x) (f32 y)
  | .fMin => minMax false x y
  | .fMax => minMax true x y
  | .hAdd => halves fun i => addF fp16 .rne (e x i) (e y i)
  | _ => halves fun i => mulF fp16 .rne (e x i) (e y i)

/-- The write of a half (R187). -/
def State.halfWrite (s : State) (x : Half) : HalfWrite :=
  let m := s.halfAct x
  let d := x.d.toNat
  let a := x.a.toNat
  let vec := fun (f : Nat → U32 × BitVec 5) =>
    HalfWrite.vector d m ((lanesOf m).map fun l => (l, (f l).1)) ((lanesOf m).foldl (fun z l => z ||| (f l).2) 0)
  match x.op with
  | .hnop => .none
  | .sAdd | .sSub | .sAnd | .sOr | .sXor | .sMov | .sAddi | .sShli | .sShri | .sMin | .sMax =>
    if m = 0 then .none else .scalar d (sHalf x.op (s.g.sget d) (s.g.sget a) x.a)
  | .vAdd | .vSub | .vAnd | .vOr | .vXor | .vMov | .vAddi | .vShli | .vShri | .vMin | .vMax =>
    vec fun l => (vHalf x.op (s.g.vget d l) (s.g.vget a l) x.a, 0)
  | .vMovs => vec fun _ => (lo32 (s.g.sget a), 0)
  | .fAdd | .fSub | .fMul | .fMin | .fMax | .hAdd | .hMul =>
    vec fun l => let r := fHalf x.op (s.g.vget d l) (s.g.vget a l); (BitVec.ofNat 32 r.1, r.2)
  | .mAnd => .mask d m (s.g.mget d &&& s.g.mget a)
  | .mOr => .mask d m (s.g.mget d ||| s.g.mget a)
  | .mXor => .mask d m (s.g.mget d ^^^ s.g.mget a)
  | .mMov => .mask d m (s.g.mget a)
/-- The write performed. -/
def putHalfWrite (w : HalfWrite) (s : State) : State :=
  match w with
  | .none => s
  | .scalar d v => setS d v s
  | .vector d m vs fl => raiseFlags fl (setV d m (fun l => ((vs.find? (·.1 == l)).map (·.2)).getD 0) s)
  | .mask d m v => setM d m v s

/-- PAIR_WORD: both halves read all their operands before either writes (R188); UNINIT in either stops both (R165). -/
def execPairWord (_as : Bool) (x y : Half) (s : State) : Answer :=
  .next (unlessMarked (s.halfAct x) (s.halfFloats x) (unlessMarked (s.halfAct y) (s.halfFloats y) (fun s' =>
    retire Hint.plain (putHalfWrite (s.halfWrite y) (putHalfWrite (s.halfWrite x) s')))) s)
/-- HNOP: a pair of two halves that do nothing (R187). -/
def execHnop (_as : Bool) (s : State) : Answer := .next (retire Hint.plain s)

end Sys2Proof.Machine
end

