-- ==== Sys2Proof/Machine/Scalar.lean ====
section
/-!
DEFINITION. The scalar integer instructions (R237 to R243).
-/
namespace Sys2Proof.Machine

/-- S.ADD (R239). -/
def execSAdd (h : Hint) (b32 : Bool) (d a b : Reg) (s : State) : Answer :=
  .next (scalarTo h d (byWidth2 b32 iAdd (s.sr a) (s.sr b)) s)
/-- S.SUB (R239). -/
def execSSub (h : Hint) (b32 : Bool) (d a b : Reg) (s : State) : Answer :=
  .next (scalarTo h d (byWidth2 b32 iSub (s.sr a) (s.sr b)) s)
/-- S.MUL (R239). -/
def execSMul (h : Hint) (b32 : Bool) (d a b : Reg) (s : State) : Answer :=
  .next (scalarTo h d (byWidth2 b32 iMul (s.sr a) (s.sr b)) s)
/-- S.MULH (R239). -/
def execSMulh (h : Hint) (b32 : Bool) (d a b : Reg) (s : State) : Answer :=
  .next (scalarTo h d (byWidth2 b32 iMulh (s.sr a) (s.sr b)) s)
/-- S.MULHU (R239). -/
def execSMulhu (h : Hint) (b32 : Bool) (d a b : Reg) (s : State) : Answer :=
  .next (scalarTo h d (byWidth2 b32 iMulhu (s.sr a) (s.sr b)) s)
/-- S.DIV (R239). -/
def execSDiv (h : Hint) (b32 : Bool) (d a b : Reg) (s : State) : Answer :=
  .next (scalarTo h d (byWidth2 b32 iDiv (s.sr a) (s.sr b)) s)
/-- S.DIVU (R239). -/
def execSDivu (h : Hint) (b32 : Bool) (d a b : Reg) (s : State) : Answer :=
  .next (scalarTo h d (byWidth2 b32 iDivu (s.sr a) (s.sr b)) s)
/-- S.REM (R239). -/
def execSRem (h : Hint) (b32 : Bool) (d a b : Reg) (s : State) : Answer :=
  .next (scalarTo h d (byWidth2 b32 iRem (s.sr a) (s.sr b)) s)
/-- S.REMU (R239). -/
def execSRemu (h : Hint) (b32 : Bool) (d a b : Reg) (s : State) : Answer :=
  .next (scalarTo h d (byWidth2 b32 iRemu (s.sr a) (s.sr b)) s)
/-- S.AND (R239). -/
def execSAnd (h : Hint) (b32 : Bool) (d a b : Reg) (s : State) : Answer :=
  .next (scalarTo h d (byWidth2 b32 iAnd (s.sr a) (s.sr b)) s)
/-- S.OR (R239). -/
def execSOr (h : Hint) (b32 : Bool) (d a b : Reg) (s : State) : Answer :=
  .next (scalarTo h d (byWidth2 b32 iOr (s.sr a) (s.sr b)) s)
/-- S.XOR (R239). -/
def execSXor (h : Hint) (b32 : Bool) (d a b : Reg) (s : State) : Answer :=
  .next (scalarTo h d (byWidth2 b32 iXor (s.sr a) (s.sr b)) s)
/-- S.ANDN (R239). -/
def execSAndn (h : Hint) (b32 : Bool) (d a b : Reg) (s : State) : Answer :=
  .next (scalarTo h d (byWidth2 b32 iAndn (s.sr a) (s.sr b)) s)
/-- S.SHL (R239). -/
def execSShl (h : Hint) (b32 : Bool) (d a b : Reg) (s : State) : Answer :=
  .next (scalarTo h d (byWidth2 b32 iShl (s.sr a) (s.sr b)) s)
/-- S.SHR (R239). -/
def execSShr (h : Hint) (b32 : Bool) (d a b : Reg) (s : State) : Answer :=
  .next (scalarTo h d (byWidth2 b32 iShr (s.sr a) (s.sr b)) s)
/-- S.SRA (R239). -/
def execSSra (h : Hint) (b32 : Bool) (d a b : Reg) (s : State) : Answer :=
  .next (scalarTo h d (byWidth2 b32 iSra (s.sr a) (s.sr b)) s)
/-- S.MIN (R239). -/
def execSMin (h : Hint) (b32 : Bool) (d a b : Reg) (s : State) : Answer :=
  .next (scalarTo h d (byWidth2 b32 iMin (s.sr a) (s.sr b)) s)
/-- S.MAX (R239). -/
def execSMax (h : Hint) (b32 : Bool) (d a b : Reg) (s : State) : Answer :=
  .next (scalarTo h d (byWidth2 b32 iMax (s.sr a) (s.sr b)) s)
/-- S.MINU (R239). -/
def execSMinu (h : Hint) (b32 : Bool) (d a b : Reg) (s : State) : Answer :=
  .next (scalarTo h d (byWidth2 b32 iMinu (s.sr a) (s.sr b)) s)
/-- S.MAXU (R239). -/
def execSMaxu (h : Hint) (b32 : Bool) (d a b : Reg) (s : State) : Answer :=
  .next (scalarTo h d (byWidth2 b32 iMaxu (s.sr a) (s.sr b)) s)
/-- S.CLZ (R239). -/
def execSClz (h : Hint) (b32 : Bool) (d a : Reg) (s : State) : Answer := .next (scalarTo h d (byWidth1 b32 iClz (s.sr a)) s)
/-- S.POPC (R239). -/
def execSPopc (h : Hint) (b32 : Bool) (d a : Reg) (s : State) : Answer := .next (scalarTo h d (byWidth1 b32 iPopc (s.sr a)) s)
/-- S.BFX (R242). -/
def execSBfx (h : Hint) (b32 sx : Bool) (pos len1 : BitVec 6) (d a : Reg) (s : State) : Answer :=
  .next (scalarTo h d (byWidth1 b32 (fun n => bfx n sx pos.toNat (len1.toNat + 1)) (s.sr a)) s)
/-- S.BFI (R242). -/
def execSBfi (h : Hint) (b32 : Bool) (pos len1 : BitVec 6) (d a : Reg) (s : State) : Answer :=
  .next (scalarTo h d (byWidth2 b32 (fun n => bfi n pos.toNat (len1.toNat + 1)) (s.sr d) (s.sr a)) s)
/-- S.MAD (R239). -/
def execSMad (h : Hint) (b32 : Bool) (d a b c : Reg) (s : State) : Answer :=
  .next (scalarTo h d (byWidth2 b32 iAdd (byWidth2 b32 iMul (s.sr a) (s.sr b)) (s.sr c)) s)
/-- S.CMP (R240). -/
def execSCmp (h : Hint) (b32 : Bool) (cc : BitVec 4) (d a b : Reg) (s : State) : Answer :=
  .next (scalarTo h d (if (if b32 then cond 32 cc (lo32 (s.sr a)) (lo32 (s.sr b)) else cond 64 cc (s.sr a) (s.sr b)) then 1 else 0) s)
/-- S.SEL (R239). -/
def execSSel (h : Hint) (d a b c : Reg) (s : State) : Answer :=
  .next (scalarTo h d (if s.sr c != 0 then s.sr a else s.sr b) s)
/-- S.MOV (R239). -/
def execSMov (h : Hint) (b32 : Bool) (d a : Reg) (s : State) : Answer :=
  .next (scalarTo h d (byWidth1 b32 (fun _ x => x) (s.sr a)) s)
/-- S.ADDI (R241). -/
def execSAddi (h : Hint) (d a : Reg) (imm : BitVec 18) (s : State) : Answer :=
  .next (scalarTo h d (iAdd 64 (s.sr a) (imm64 imm)) s)
/-- S.ANDI (R241). -/
def execSAndi (h : Hint) (d a : Reg) (imm : BitVec 18) (s : State) : Answer :=
  .next (scalarTo h d (iAnd 64 (s.sr a) (imm64 imm)) s)
/-- S.ORI (R241). -/
def execSOri (h : Hint) (d a : Reg) (imm : BitVec 18) (s : State) : Answer :=
  .next (scalarTo h d (iOr 64 (s.sr a) (imm64 imm)) s)
/-- S.XORI (R241). -/
def execSXori (h : Hint) (d a : Reg) (imm : BitVec 18) (s : State) : Answer :=
  .next (scalarTo h d (iXor 64 (s.sr a) (imm64 imm)) s)
/-- S.SHLI (R241). -/
def execSShli (h : Hint) (d a : Reg) (cnt : BitVec 6) (s : State) : Answer :=
  .next (scalarTo h d (iShl 64 (s.sr a) (cnt.setWidth 64)) s)
/-- S.SHRI (R241). -/
def execSShri (h : Hint) (d a : Reg) (cnt : BitVec 6) (s : State) : Answer :=
  .next (scalarTo h d (iShr 64 (s.sr a) (cnt.setWidth 64)) s)
/-- S.SRAI (R241). -/
def execSSrai (h : Hint) (d a : Reg) (cnt : BitVec 6) (s : State) : Answer :=
  .next (scalarTo h d (iSra 64 (s.sr a) (cnt.setWidth 64)) s)
/-- S.CMPI (R240). -/
def execSCmpi (h : Hint) (cc : BitVec 4) (d a : Reg) (imm : BitVec 18) (s : State) : Answer :=
  .next (scalarTo h d (if cond 64 cc (s.sr a) (imm64 imm) then 1 else 0) s)
/-- S.MOVI (R181). -/
def execSMovi (h : Hint) (d : Reg) (imm : BitVec 34) (s : State) : Answer := .next (scalarTo h d (imm.signExtend 64) s)
/-- S.MOVHI: bits [63:34] are replaced, bits [33:0] are kept (R181). -/
def execSMovhi (h : Hint) (d : Reg) (imm : BitVec 30) (s : State) : Answer :=
  .next (scalarTo h d (imm ++ (s.sr d).extractLsb' 0 34) s)
/-- The offset from which plane p fetches the word of offset o (R166). -/
def Agent.fetchAt (a : Agent) (o : Offs) (p : Nat) : Offs :=
  match a.region with | some r => if r.has o then o + BitVec.ofNat 54 (p * r.len) else o | none => o
/-- S.ADDPC: the virtual address of a word relative to the one fetched (R241). -/
def execSAddpc (h : Hint) (d : Reg) (imm : BitVec 18) (s : State) : Answer :=
  .next (scalarTo h d (((s.g.fetchAt s.path.pc (lowPlane s.pmask) + 1 + imm.signExtend 54).setWidth 64) <<< 3) s)

end Sys2Proof.Machine
end

