-- ==== Sys2Proof/Machine/Vector.lean ====
section
/-!
DEFINITION. The vector integer instructions (R268 to R271).
-/
namespace Sys2Proof.Machine

/-- V.ADD (R270). -/
def execVAdd (h : Hint) (x2 : Bool) (d a b : Reg) (s : State) : Answer :=
  .next (vectorTo h d (fun l => elem2 x2 iAdd (s.vr a l) (s.vr b l)) s)
/-- V.SUB (R270). -/
def execVSub (h : Hint) (x2 : Bool) (d a b : Reg) (s : State) : Answer :=
  .next (vectorTo h d (fun l => elem2 x2 iSub (s.vr a l) (s.vr b l)) s)
/-- V.MUL (R270). -/
def execVMul (h : Hint) (x2 : Bool) (d a b : Reg) (s : State) : Answer :=
  .next (vectorTo h d (fun l => elem2 x2 iMul (s.vr a l) (s.vr b l)) s)
/-- V.SHL (R270). -/
def execVShl (h : Hint) (x2 : Bool) (d a b : Reg) (s : State) : Answer :=
  .next (vectorTo h d (fun l => elem2 x2 vShlN (s.vr a l) (s.vr b l)) s)
/-- V.SHR (R270). -/
def execVShr (h : Hint) (x2 : Bool) (d a b : Reg) (s : State) : Answer :=
  .next (vectorTo h d (fun l => elem2 x2 vShrN (s.vr a l) (s.vr b l)) s)
/-- V.SRA (R270). -/
def execVSra (h : Hint) (x2 : Bool) (d a b : Reg) (s : State) : Answer :=
  .next (vectorTo h d (fun l => elem2 x2 vSraN (s.vr a l) (s.vr b l)) s)
/-- V.MIN (R270). -/
def execVMin (h : Hint) (x2 : Bool) (d a b : Reg) (s : State) : Answer :=
  .next (vectorTo h d (fun l => elem2 x2 iMin (s.vr a l) (s.vr b l)) s)
/-- V.MAX (R270). -/
def execVMax (h : Hint) (x2 : Bool) (d a b : Reg) (s : State) : Answer :=
  .next (vectorTo h d (fun l => elem2 x2 iMax (s.vr a l) (s.vr b l)) s)
/-- V.MINU (R270). -/
def execVMinu (h : Hint) (x2 : Bool) (d a b : Reg) (s : State) : Answer :=
  .next (vectorTo h d (fun l => elem2 x2 iMinu (s.vr a l) (s.vr b l)) s)
/-- V.MAXU (R270). -/
def execVMaxu (h : Hint) (x2 : Bool) (d a b : Reg) (s : State) : Answer :=
  .next (vectorTo h d (fun l => elem2 x2 iMaxu (s.vr a l) (s.vr b l)) s)
/-- V.MULH (R270). -/
def execVMulh (h : Hint) (d a b : Reg) (s : State) : Answer :=
  .next (vectorTo h d (fun l => iMulh 32 (s.vr a l) (s.vr b l)) s)
/-- V.MULHU (R270). -/
def execVMulhu (h : Hint) (d a b : Reg) (s : State) : Answer :=
  .next (vectorTo h d (fun l => iMulhu 32 (s.vr a l) (s.vr b l)) s)
/-- V.AND (R270). -/
def execVAnd (h : Hint) (d a b : Reg) (s : State) : Answer :=
  .next (vectorTo h d (fun l => iAnd 32 (s.vr a l) (s.vr b l)) s)
/-- V.OR (R270). -/
def execVOr (h : Hint) (d a b : Reg) (s : State) : Answer :=
  .next (vectorTo h d (fun l => iOr 32 (s.vr a l) (s.vr b l)) s)
/-- V.XOR (R270). -/
def execVXor (h : Hint) (d a b : Reg) (s : State) : Answer :=
  .next (vectorTo h d (fun l => iXor 32 (s.vr a l) (s.vr b l)) s)
/-- V.ANDN (R270). -/
def execVAndn (h : Hint) (d a b : Reg) (s : State) : Answer :=
  .next (vectorTo h d (fun l => iAndn 32 (s.vr a l) (s.vr b l)) s)
/-- V.MAD (R270). -/
def execVMad (h : Hint) (d a b c : Reg) (s : State) : Answer :=
  .next (vectorTo h d (fun l => s.vr a l * s.vr b l + s.vr c l) s)
/-- V.ABS (R270). -/
def execVAbs (h : Hint) (x2 : Bool) (d a : Reg) (s : State) : Answer :=
  .next (vectorTo h d (fun l => elem1 x2 iAbs (s.vr a l)) s)
/-- V.CLZ (R270). -/
def execVClz (h : Hint) (d a : Reg) (s : State) : Answer := .next (vectorTo h d (fun l => iClz 32 (s.vr a l)) s)
/-- V.POPC (R270). -/
def execVPopc (h : Hint) (d a : Reg) (s : State) : Answer := .next (vectorTo h d (fun l => iPopc 32 (s.vr a l)) s)
/-- V.BFX (R271). -/
def execVBfx (h : Hint) (sx : Bool) (pos len1 : BitVec 6) (d a : Reg) (s : State) : Answer :=
  .next (vectorTo h d (fun l => bfx 32 sx pos.toNat (len1.toNat + 1) (s.vr a l)) s)
/-- V.BFI (R271). -/
def execVBfi (h : Hint) (pos len1 : BitVec 6) (d a : Reg) (s : State) : Answer :=
  .next (vectorTo h d (fun l => bfi 32 pos.toNat (len1.toNat + 1) (s.vr d l) (s.vr a l)) s)
/-- V.ADDSAT (R270). -/
def execVAddsat (h : Hint) (x2 u : Bool) (d a b : Reg) (s : State) : Answer :=
  .next (vectorTo h d (fun l => elem2 x2 (iAddsat u) (s.vr a l) (s.vr b l)) s)
/-- V.SUBSAT (R270). -/
def execVSubsat (h : Hint) (x2 u : Bool) (d a b : Reg) (s : State) : Answer :=
  .next (vectorTo h d (fun l => elem2 x2 (iSubsat u) (s.vr a l) (s.vr b l)) s)
/-- V.DOT4 (R270). -/
def execVDot4 (h : Hint) (ua ub : Bool) (d a b c : Reg) (s : State) : Answer :=
  .next (vectorTo h d (fun l => dot4 ua ub (s.vr a l) (s.vr b l) (s.vr c l)) s)
/-- V.CMP (R271). -/
def execVCmp (h : Hint) (cc d : BitVec 4) (a b : Reg) (s : State) : Answer :=
  .next (maskTo h d (fun l => cond 32 cc (s.vr a l) (s.vr b l)) s)
/-- V.SEL (R271). -/
def execVSel (h : Hint) (d a b : Reg) (m : BitVec 4) (s : State) : Answer :=
  .next (vectorTo h d (fun l => if bit (s.g.mget m.toNat) l then s.vr a l else s.vr b l) s)
/-- V.MOV (R270). -/
def execVMov (h : Hint) (d a : Reg) (s : State) : Answer := .next (vectorTo h d (fun l => s.vr a l) s)
/-- V.MOVS (R270). -/
def execVMovs (h : Hint) (d a : Reg) (s : State) : Answer := .next (vectorTo h d (fun _ => lo32 (s.sr a)) s)
/-- V.ADDI (R270). -/
def execVAddi (h : Hint) (d a : Reg) (imm : BitVec 18) (s : State) : Answer :=
  .next (vectorTo h d (fun l => s.vr a l + imm32 imm) s)
/-- V.ANDI (R270). -/
def execVAndi (h : Hint) (d a : Reg) (imm : BitVec 18) (s : State) : Answer :=
  .next (vectorTo h d (fun l => s.vr a l &&& imm32 imm) s)
/-- V.SHLI (R270). -/
def execVShli (h : Hint) (d a : Reg) (cnt : BitVec 6) (s : State) : Answer :=
  .next (vectorTo h d (fun l => vShlN 32 (s.vr a l) (cnt.setWidth 32)) s)
/-- V.SHRI (R270). -/
def execVShri (h : Hint) (d a : Reg) (cnt : BitVec 6) (s : State) : Answer :=
  .next (vectorTo h d (fun l => vShrN 32 (s.vr a l) (cnt.setWidth 32)) s)
/-- V.SRAI (R270). -/
def execVSrai (h : Hint) (d a : Reg) (cnt : BitVec 6) (s : State) : Answer :=
  .next (vectorTo h d (fun l => vSraN 32 (s.vr a l) (cnt.setWidth 32)) s)
/-- V.MOVI: the immediate truncated to 32 bits (R181). -/
def execVMovi (h : Hint) (d : Reg) (imm : BitVec 34) (s : State) : Answer :=
  .next (vectorTo h d (fun _ => imm.setWidth 32) s)

end Sys2Proof.Machine
end

