-- ==== Sys2Proof/Machine/Dispatch.lean ====
section
/-!
DEFINITION. The dispatch of a step to its meaning: one arm for each constructor of Instr.
-/
namespace Sys2Proof.Machine

def exec (i : Instr) (s : State) : Host.Outcome State Fault Refusal :=
  match i with
  | .sAdd h b32 d a b => Sys2Proof.Machine.execSAdd h b32 d a b s
  | .sSub h b32 d a b => Sys2Proof.Machine.execSSub h b32 d a b s
  | .sMul h b32 d a b => Sys2Proof.Machine.execSMul h b32 d a b s
  | .sMulh h b32 d a b => Sys2Proof.Machine.execSMulh h b32 d a b s
  | .sMulhu h b32 d a b => Sys2Proof.Machine.execSMulhu h b32 d a b s
  | .sDiv h b32 d a b => Sys2Proof.Machine.execSDiv h b32 d a b s
  | .sDivu h b32 d a b => Sys2Proof.Machine.execSDivu h b32 d a b s
  | .sRem h b32 d a b => Sys2Proof.Machine.execSRem h b32 d a b s
  | .sRemu h b32 d a b => Sys2Proof.Machine.execSRemu h b32 d a b s
  | .sAnd h b32 d a b => Sys2Proof.Machine.execSAnd h b32 d a b s
  | .sOr h b32 d a b => Sys2Proof.Machine.execSOr h b32 d a b s
  | .sXor h b32 d a b => Sys2Proof.Machine.execSXor h b32 d a b s
  | .sAndn h b32 d a b => Sys2Proof.Machine.execSAndn h b32 d a b s
  | .sShl h b32 d a b => Sys2Proof.Machine.execSShl h b32 d a b s
  | .sShr h b32 d a b => Sys2Proof.Machine.execSShr h b32 d a b s
  | .sSra h b32 d a b => Sys2Proof.Machine.execSSra h b32 d a b s
  | .sMin h b32 d a b => Sys2Proof.Machine.execSMin h b32 d a b s
  | .sMax h b32 d a b => Sys2Proof.Machine.execSMax h b32 d a b s
  | .sMinu h b32 d a b => Sys2Proof.Machine.execSMinu h b32 d a b s
  | .sMaxu h b32 d a b => Sys2Proof.Machine.execSMaxu h b32 d a b s
  | .sClz h b32 d a => Sys2Proof.Machine.execSClz h b32 d a s
  | .sPopc h b32 d a => Sys2Proof.Machine.execSPopc h b32 d a s
  | .sBfx h b32 sx pos len1 d a => Sys2Proof.Machine.execSBfx h b32 sx pos len1 d a s
  | .sBfi h b32 pos len1 d a => Sys2Proof.Machine.execSBfi h b32 pos len1 d a s
  | .sMad h b32 d a b c => Sys2Proof.Machine.execSMad h b32 d a b c s
  | .sCmp h b32 cond d a b => Sys2Proof.Machine.execSCmp h b32 cond d a b s
  | .sSel h d a b c => Sys2Proof.Machine.execSSel h d a b c s
  | .sMov h b32 d a => Sys2Proof.Machine.execSMov h b32 d a s
  | .sAddi h d a imm => Sys2Proof.Machine.execSAddi h d a imm s
  | .sAndi h d a imm => Sys2Proof.Machine.execSAndi h d a imm s
  | .sOri h d a imm => Sys2Proof.Machine.execSOri h d a imm s
  | .sXori h d a imm => Sys2Proof.Machine.execSXori h d a imm s
  | .sShli h d a cnt => Sys2Proof.Machine.execSShli h d a cnt s
  | .sShri h d a cnt => Sys2Proof.Machine.execSShri h d a cnt s
  | .sSrai h d a cnt => Sys2Proof.Machine.execSSrai h d a cnt s
  | .sCmpi h cond d a imm => Sys2Proof.Machine.execSCmpi h cond d a imm s
  | .sMovi h d imm => Sys2Proof.Machine.execSMovi h d imm s
  | .sMovhi h d imm => Sys2Proof.Machine.execSMovhi h d imm s
  | .sAddpc h d imm => Sys2Proof.Machine.execSAddpc h d imm s
  | .bra h x => Sys2Proof.Machine.execBra h x s
  | .brS h z a x => Sys2Proof.Machine.execBrS h z a x s
  | .brAny h neg m x => Sys2Proof.Machine.execBrAny h neg m x s
  | .brAll h neg m x => Sys2Proof.Machine.execBrAll h neg m x s
  | .brDiv h neg m join x => Sys2Proof.Machine.execBrDiv h neg m join x s
  | .join h => Sys2Proof.Machine.execJoin h s
  | .loop h d x => Sys2Proof.Machine.execLoop h d x s
  | .call h f x => Sys2Proof.Machine.execCall h f x s
  | .ret h => Sys2Proof.Machine.execRet h s
  | .callT h src a f => Sys2Proof.Machine.execCallT h src a f s
  | .jmpT h src a x => Sys2Proof.Machine.execJmpT h src a x s
  | .exit h => Sys2Proof.Machine.execExit h s
  | .plane h pos a n1 l => Sys2Proof.Machine.execPlane h pos a n1 l s
  | .planeI h pos p n1 l => Sys2Proof.Machine.execPlaneI h pos p n1 l s
  | .allBegin h => Sys2Proof.Machine.execAllBegin h s
  | .allEnd h => Sys2Proof.Machine.execAllEnd h s
  | .barT h => Sys2Proof.Machine.execBarT h s
  | .barC h => Sys2Proof.Machine.execBarC h s
  | .waitcnt h ld bound => Sys2Proof.Machine.execWaitcnt h ld bound s
  | .yield h => Sys2Proof.Machine.execYield h s
  | .launch h a => Sys2Proof.Machine.execLaunch h a s
  | .chwait h a => Sys2Proof.Machine.execChwait h a s
  | .nop h => Sys2Proof.Machine.execNop h s
  | .vAdd h x2 d a b => Sys2Proof.Machine.execVAdd h x2 d a b s
  | .vSub h x2 d a b => Sys2Proof.Machine.execVSub h x2 d a b s
  | .vMul h x2 d a b => Sys2Proof.Machine.execVMul h x2 d a b s
  | .vMulh h d a b => Sys2Proof.Machine.execVMulh h d a b s
  | .vMulhu h d a b => Sys2Proof.Machine.execVMulhu h d a b s
  | .vMad h d a b c => Sys2Proof.Machine.execVMad h d a b c s
  | .vAnd h d a b => Sys2Proof.Machine.execVAnd h d a b s
  | .vOr h d a b => Sys2Proof.Machine.execVOr h d a b s
  | .vXor h d a b => Sys2Proof.Machine.execVXor h d a b s
  | .vAndn h d a b => Sys2Proof.Machine.execVAndn h d a b s
  | .vShl h x2 d a b => Sys2Proof.Machine.execVShl h x2 d a b s
  | .vShr h x2 d a b => Sys2Proof.Machine.execVShr h x2 d a b s
  | .vSra h x2 d a b => Sys2Proof.Machine.execVSra h x2 d a b s
  | .vMin h x2 d a b => Sys2Proof.Machine.execVMin h x2 d a b s
  | .vMax h x2 d a b => Sys2Proof.Machine.execVMax h x2 d a b s
  | .vMinu h x2 d a b => Sys2Proof.Machine.execVMinu h x2 d a b s
  | .vMaxu h x2 d a b => Sys2Proof.Machine.execVMaxu h x2 d a b s
  | .vAbs h x2 d a => Sys2Proof.Machine.execVAbs h x2 d a s
  | .vClz h d a => Sys2Proof.Machine.execVClz h d a s
  | .vPopc h d a => Sys2Proof.Machine.execVPopc h d a s
  | .vBfx h sx pos len1 d a => Sys2Proof.Machine.execVBfx h sx pos len1 d a s
  | .vBfi h pos len1 d a => Sys2Proof.Machine.execVBfi h pos len1 d a s
  | .vAddsat h x2 u d a b => Sys2Proof.Machine.execVAddsat h x2 u d a b s
  | .vSubsat h x2 u d a b => Sys2Proof.Machine.execVSubsat h x2 u d a b s
  | .vDot4 h ua ub d a b c => Sys2Proof.Machine.execVDot4 h ua ub d a b c s
  | .vCmp h cond d a b => Sys2Proof.Machine.execVCmp h cond d a b s
  | .vSel h d a b m => Sys2Proof.Machine.execVSel h d a b m s
  | .vMov h d a => Sys2Proof.Machine.execVMov h d a s
  | .vMovs h d a => Sys2Proof.Machine.execVMovs h d a s
  | .vAddi h d a imm => Sys2Proof.Machine.execVAddi h d a imm s
  | .vAndi h d a imm => Sys2Proof.Machine.execVAndi h d a imm s
  | .vShli h d a cnt => Sys2Proof.Machine.execVShli h d a cnt s
  | .vShri h d a cnt => Sys2Proof.Machine.execVShri h d a cnt s
  | .vSrai h d a cnt => Sys2Proof.Machine.execVSrai h d a cnt s
  | .vMovi h d imm => Sys2Proof.Machine.execVMovi h d imm s
  | .fAdd h m d a b => Sys2Proof.Machine.execFAdd h m d a b s
  | .fSub h m d a b => Sys2Proof.Machine.execFSub h m d a b s
  | .fMul h m d a b => Sys2Proof.Machine.execFMul h m d a b s
  | .fFma h m d a b c => Sys2Proof.Machine.execFFma h m d a b c s
  | .fMin h m d a b => Sys2Proof.Machine.execFMin h m d a b s
  | .fMax h m d a b => Sys2Proof.Machine.execFMax h m d a b s
  | .fCmp h m cond d a b => Sys2Proof.Machine.execFCmp h m cond d a b s
  | .fClass h d a => Sys2Proof.Machine.execFClass h d a s
  | .fDiv h m d a b => Sys2Proof.Machine.execFDiv h m d a b s
  | .fSqrt h m d a => Sys2Proof.Machine.execFSqrt h m d a s
  | .fRcp h m d a => Sys2Proof.Machine.execFRcp h m d a s
  | .fRsq h m d a => Sys2Proof.Machine.execFRsq h m d a s
  | .fExp2 h m d a => Sys2Proof.Machine.execFExp2 h m d a s
  | .fLog2 h m d a => Sys2Proof.Machine.execFLog2 h m d a s
  | .fSinpi h m d a => Sys2Proof.Machine.execFSinpi h m d a s
  | .fCospi h m d a => Sys2Proof.Machine.execFCospi h m d a s
  | .fTanh h m d a => Sys2Proof.Machine.execFTanh h m d a s
  | .fRnd h m d a => Sys2Proof.Machine.execFRnd h m d a s
  | .fCvt h dst srcf rmx sat sel k d a => Sys2Proof.Machine.execFCvt h dst srcf rmx sat sel k d a s
  | .fCvtiToInt h ifmt shift rm d a => Sys2Proof.Machine.execFCvtiToInt h ifmt shift rm d a s
  | .fCvtiToFloat h ifmt shift rm d a => Sys2Proof.Machine.execFCvtiToFloat h ifmt shift rm d a s
  | .fPack h dst rmx sat j k d a b => Sys2Proof.Machine.execFPack h dst rmx sat j k d a b s
  | .fUnpk h srcf j d a => Sys2Proof.Machine.execFUnpk h srcf j d a s
  | .hAdd h bf m d a b => Sys2Proof.Machine.execHAdd h bf m d a b s
  | .hMul h bf m d a b => Sys2Proof.Machine.execHMul h bf m d a b s
  | .hFma h bf m d a b c => Sys2Proof.Machine.execHFma h bf m d a b c s
  | .fScale h m d a b => Sys2Proof.Machine.execFScale h m d a b s
  | .fDeq h ef sf sel rm d a b => Sys2Proof.Machine.execFDeq h ef sf sel rm d a b s
  | .laneid h d => Sys2Proof.Machine.execLaneid h d s
  | .shflIdx h seg d a b => Sys2Proof.Machine.execShflIdx h seg d a b s
  | .shflUp h seg delta d a => Sys2Proof.Machine.execShflUp h seg delta d a s
  | .shflDn h seg delta d a => Sys2Proof.Machine.execShflDn h seg delta d a s
  | .shflXor h seg delta d a => Sys2Proof.Machine.execShflXor h seg delta d a s
  | .voteAny h neg d m => Sys2Proof.Machine.execVoteAny h neg d m s
  | .voteAll h neg d m => Sys2Proof.Machine.execVoteAll h neg d m s
  | .ballot h d a => Sys2Proof.Machine.execBallot h d a s
  | .rdxAdd h ty d a => Sys2Proof.Machine.execRdxAdd h ty d a s
  | .rdxMin h ty d a => Sys2Proof.Machine.execRdxMin h ty d a s
  | .rdxMax h ty d a => Sys2Proof.Machine.execRdxMax h ty d a s
  | .scanAdd h excl f32 d a => Sys2Proof.Machine.execScanAdd h excl f32 d a s
  | .v2s h sx lane d a => Sys2Proof.Machine.execV2s h sx lane d a s
  | .s2l h lane d a => Sys2Proof.Machine.execS2l h lane d a s
  | .mAnd h d a b => Sys2Proof.Machine.execMAnd h d a b s
  | .mOr h d a b => Sys2Proof.Machine.execMOr h d a b s
  | .mXor h d a b => Sys2Proof.Machine.execMXor h d a b s
  | .mNot h d a => Sys2Proof.Machine.execMNot h d a s
  | .mMov h d a => Sys2Proof.Machine.execMMov h d a s
  | .mPopc h d a => Sys2Proof.Machine.execMPopc h d a s
  | .mFfs h d a => Sys2Proof.Machine.execMFfs h d a s
  | .mFroms h d a => Sys2Proof.Machine.execMFroms h d a s
  | .mTos h d a => Sys2Proof.Machine.execMTos h d a s
  | .mGetx h d => Sys2Proof.Machine.execMGetx h d s
  | .mSetx h a => Sys2Proof.Machine.execMSetx h a s
  | .ld h x d a b => Sys2Proof.Machine.execLd h x d a b s
  | .st h x d a b => Sys2Proof.Machine.execSt h x d a b s
  | .ldS h x d a b => Sys2Proof.Machine.execLdS h x d a b s
  | .stS h x d a b => Sys2Proof.Machine.execStS h x d a b s
  | .ldg h x d a => Sys2Proof.Machine.execLdg h x d a s
  | .stg h x d a => Sys2Proof.Machine.execStg h x d a s
  | .atom h x aop d a b => Sys2Proof.Machine.execAtom h x aop d a b s
  | .atomS h x aop d a b => Sys2Proof.Machine.execAtomS h x aop d a b s
  | .rstore h x aop d a b => Sys2Proof.Machine.execRstore h x aop d a b s
  | .fence h ord scope => Sys2Proof.Machine.execFence h ord scope s
  | .cinvRange h a b => Sys2Proof.Machine.execCinvRange h a b s
  | .cinvAll h => Sys2Proof.Machine.execCinvAll h s
  | .pref h size scale nt a b => Sys2Proof.Machine.execPref h size scale nt a b s
  | .kset h space d a => Sys2Proof.Machine.execKset h space d a s
  | .kmod h j d a => Sys2Proof.Machine.execKmod h j d a s
  | .boxLd h mc m scope d a b => Sys2Proof.Machine.execBoxLd h mc m scope d a b s
  | .boxSt h rop scope d a b => Sys2Proof.Machine.execBoxSt h rop scope d a b s
  | .boxCp h kdst rop scope d a b => Sys2Proof.Machine.execBoxCp h kdst rop scope d a b s
  | .cpfence h => Sys2Proof.Machine.execCpfence h s
  | .cpwait h scope last a => Sys2Proof.Machine.execCpwait h scope last a s
  | .mldN h scope d a b c => Sys2Proof.Machine.execMldN h scope d a b c s
  | .mldW h scope d a b => Sys2Proof.Machine.execMldW h scope d a b s
  | .mma h scope nrows1 row0 w reuse d a b => Sys2Proof.Machine.execMma h scope nrows1 row0 w reuse d a b s
  | .mmaz h scope nrows1 row0 w reuse d a b => Sys2Proof.Machine.execMmaz h scope nrows1 row0 w reuse d a b s
  | .mfence h => Sys2Proof.Machine.execMfence h s
  | .mwait h scope last a => Sys2Proof.Machine.execMwait h scope last a s
  | .epi h scope row0 nrows1 d a b => Sys2Proof.Machine.execEpi h scope row0 nrows1 d a b s
  | .epiRs h scope row0 nrows1 d a b => Sys2Proof.Machine.execEpiRs h scope row0 nrows1 d a b s
  | .cbarInit h space scope a b => Sys2Proof.Machine.execCbarInit h space scope a b s
  | .cbarArr h space rel scope d a b => Sys2Proof.Machine.execCbarArr h space rel scope d a b s
  | .cbarWait h space acq scope a b => Sys2Proof.Machine.execCbarWait h space acq scope a b s
  | .cbarTest h space acq scope d a b => Sys2Proof.Machine.execCbarTest h space acq scope d a b s
  | .collAr h scope inpl d a b => Sys2Proof.Machine.execCollAr h scope inpl d a b s
  | .collRs h scope inpl d a b => Sys2Proof.Machine.execCollRs h scope inpl d a b s
  | .collAg h scope inpl d a b => Sys2Proof.Machine.execCollAg h scope inpl d a b s
  | .collBc h scope inpl d a b => Sys2Proof.Machine.execCollBc h scope inpl d a b s
  | .collStep h scope a b => Sys2Proof.Machine.execCollStep h scope a b s
  | .drvStart h scope d a b => Sys2Proof.Machine.execDrvStart h scope d a b s
  | .sRdsr h idx d => Sys2Proof.Machine.execSRdsr h idx d s
  | .sWrsr h idx a => Sys2Proof.Machine.execSWrsr h idx a s
  | .trap h n => Sys2Proof.Machine.execTrap h n s
  | .tret h => Sys2Proof.Machine.execTret h s
  | .resumeByMask h d a => Sys2Proof.Machine.execResumeByMask h d a s
  | .resumeComplete h d => Sys2Proof.Machine.execResumeComplete h d s
  | .resumeDiscard h d => Sys2Proof.Machine.execResumeDiscard h d s
  | .snap h col d => Sys2Proof.Machine.execSnap h col d s
  | .snapTry h col d => Sys2Proof.Machine.execSnapTry h col d s
  | .snapw h col d => Sys2Proof.Machine.execSnapw h col d s
  | .brk h n => Sys2Proof.Machine.execBrk h n s
  | .trace h tag a => Sys2Proof.Machine.execTrace h tag a s
  | .prog h n => Sys2Proof.Machine.execProg h n s
  | .rand h nw d a b => Sys2Proof.Machine.execRand h nw d a b s
  | .knell h a => Sys2Proof.Machine.execKnell h a s
  | .halt h => Sys2Proof.Machine.execHalt h s
  | .bxiLd h c d a b => Sys2Proof.Machine.execBxiLd h c d a b s
  | .bxiSt h c rop d a b => Sys2Proof.Machine.execBxiSt h c rop d a b s
  | .bxiCp h c kx rop d a b => Sys2Proof.Machine.execBxiCp h c kx rop d a b s
  | .bxw h a => Sys2Proof.Machine.execBxw h a s
  | .darr h a b => Sys2Proof.Machine.execDarr h a b s
  | .dwait h a b => Sys2Proof.Machine.execDwait h a b s
  | .idxldFill h c a b => Sys2Proof.Machine.execIdxldFill h c a b s
  | .idxldRead h size d a => Sys2Proof.Machine.execIdxldRead h size d a s
  | .tblld h space slot d a b => Sys2Proof.Machine.execTblld h space slot d a b s
  | .dend h => Sys2Proof.Machine.execDend h s
  | .pairWord as h1 h2 => Sys2Proof.Machine.execPairWord as h1 h2 s
  | .hnop as => Sys2Proof.Machine.execHnop as s
  | .gangIssueSelect unit => Sys2Proof.Machine.execGangIssueSelect unit s
  | .loadDataReturn id => Sys2Proof.Machine.execLoadDataReturn id s
  | .storeAck id => Sys2Proof.Machine.execStoreAck id s
  | .pageWalkStart die => Sys2Proof.Machine.execPageWalkStart die s
  | .pageWalkComplete die => Sys2Proof.Machine.execPageWalkComplete die s
  | .tlbinvPage ctx vpn => Sys2Proof.Machine.execTlbinvPage ctx vpn s
  | .tlbinvContext ctx => Sys2Proof.Machine.execTlbinvContext ctx s
  | .tlbinvAllContexts => Sys2Proof.Machine.execTlbinvAllContexts s
  | .tlbinvReservedKind => Sys2Proof.Machine.execTlbinvReservedKind s
  | .tlbinvDone => Sys2Proof.Machine.execTlbinvDone s
  | .homeReadRequest id => Sys2Proof.Machine.execHomeReadRequest id s
  | .homeWriteRequest id => Sys2Proof.Machine.execHomeWriteRequest id s
  | .homeReduceRequest id => Sys2Proof.Machine.execHomeReduceRequest id s
  | .directoryInvalidateAck line die => Sys2Proof.Machine.execDirectoryInvalidateAck line die s
  | .reduceRegistered id => Sys2Proof.Machine.execReduceRegistered id s
  | .l2Writeback sb => Sys2Proof.Machine.execL2Writeback sb s
  | .rowActivationLimit die row => Sys2Proof.Machine.execRowActivationLimit die row s
  | .rowRefresh die row => Sys2Proof.Machine.execRowRefresh die row s
  | .patrolScrub unit => Sys2Proof.Machine.execPatrolScrub unit s
  | .errlogbRead die => Sys2Proof.Machine.execErrlogbRead die s
  | .clusterRemoteAccess id => Sys2Proof.Machine.execClusterRemoteAccess id s
  | .l1IntervalDecision core => Sys2Proof.Machine.execL1IntervalDecision core s
  | .hostPostedWrite rid ro off data => Sys2Proof.Machine.execHostPostedWrite rid ro off data s
  | .hostRead rid off len => Sys2Proof.Machine.execHostRead rid off len s
  | .hostFetchadd rid off wide v => Sys2Proof.Machine.execHostFetchadd rid off wide v s
  | .hostSwap rid off wide v => Sys2Proof.Machine.execHostSwap rid off wide v s
  | .hostCas rid off wide c v => Sys2Proof.Machine.execHostCas rid off wide c v s
  | .linkCompletion id outside err => Sys2Proof.Machine.execLinkCompletion id outside err s
  | .boxTransferStart core => Sys2Proof.Machine.execBoxTransferStart core s
  | .bxiAccept core => Sys2Proof.Machine.execBxiAccept core s
  | .tableSlotFill core slot => Sys2Proof.Machine.execTableSlotFill core slot s
  | .boxTransferComplete core => Sys2Proof.Machine.execBoxTransferComplete core s
  | .boxTransferFault core => Sys2Proof.Machine.execBoxTransferFault core s
  | .mldComplete core => Sys2Proof.Machine.execMldComplete core s
  | .mmaComplete core => Sys2Proof.Machine.execMmaComplete core s
  | .epiComplete core => Sys2Proof.Machine.execEpiComplete core s
  | .epiRsComplete core => Sys2Proof.Machine.execEpiRsComplete core s
  | .matrixOpFault core => Sys2Proof.Machine.execMatrixOpFault core s
  | .collectiveChunkArrival ch p => Sys2Proof.Machine.execCollectiveChunkArrival ch p s
  | .stepVoteArrival ch p => Sys2Proof.Machine.execStepVoteArrival ch p s
  | .collectiveComplete grp => Sys2Proof.Machine.execCollectiveComplete grp s
  | .knellArrival ch p => Sys2Proof.Machine.execKnellArrival ch p s
  | .fatalGroupFault grp => Sys2Proof.Machine.execFatalGroupFault grp s
  | .stepReportArrival ch p => Sys2Proof.Machine.execStepReportArrival ch p s
  | .agreementTimeout grp => Sys2Proof.Machine.execAgreementTimeout grp s
  | .grpcmdOpen grp => Sys2Proof.Machine.execGrpcmdOpen grp s
  | .grpcmdClose grp => Sys2Proof.Machine.execGrpcmdClose grp s
  | .fabricReadRequest ch p => Sys2Proof.Machine.execFabricReadRequest ch p s
  | .fabricWriteRequest ch p => Sys2Proof.Machine.execFabricWriteRequest ch p s
  | .fabricAtomicRequest ch p => Sys2Proof.Machine.execFabricAtomicRequest ch p s
  | .fabricResponse ch p => Sys2Proof.Machine.execFabricResponse ch p s
  | .fabricReservedKind ch p => Sys2Proof.Machine.execFabricReservedKind ch p s
  | .portDown port => Sys2Proof.Machine.execPortDown port s
  | .timeSyncMessage ch p => Sys2Proof.Machine.execTimeSyncMessage ch p s
  | .haltNotice ch p => Sys2Proof.Machine.execHaltNotice ch p s
  | .waybillCheckpoint ch => Sys2Proof.Machine.execWaybillCheckpoint ch s
  | .localCut col => Sys2Proof.Machine.execLocalCut col s
  | .cutDrainComplete col => Sys2Proof.Machine.execCutDrainComplete col s
  | .cairnArrival ch p => Sys2Proof.Machine.execCairnArrival ch p s
  | .granuleCapture gr => Sys2Proof.Machine.execGranuleCapture gr s
  | .packhorseSweep die => Sys2Proof.Machine.execPackhorseSweep die s
  | .recordDurable die => Sys2Proof.Machine.execRecordDurable die s
  | .recordWriteFail die => Sys2Proof.Machine.execRecordWriteFail die s
  | .localCompletion col => Sys2Proof.Machine.execLocalCompletion col s
  | .completionReport col => Sys2Proof.Machine.execCompletionReport col s
  | .coordinatorNoticeArrival ch p => Sys2Proof.Machine.execCoordinatorNoticeArrival ch p s
  | .globalCompletionNotice ch p => Sys2Proof.Machine.execGlobalCompletionNotice ch p s
  | .snapcmdStart col => Sys2Proof.Machine.execSnapcmdStart col s
  | .snapcmdRelease col => Sys2Proof.Machine.execSnapcmdRelease col s
  | .abortRecordsDurable col => Sys2Proof.Machine.execAbortRecordsDurable col s
  | .restcmdGo col => Sys2Proof.Machine.execRestcmdGo col s
  | .restoreComplete region => Sys2Proof.Machine.execRestoreComplete region s
  | .hostEnqueue q v => Sys2Proof.Machine.execHostEnqueue q v s
  | .gridDispatch => Sys2Proof.Machine.execGridDispatch s
  | .lnklogcRead => Sys2Proof.Machine.execLnklogcRead s
  | .teamOffer => Sys2Proof.Machine.execTeamOffer s
  | .teamPlace die => Sys2Proof.Machine.execTeamPlace die s
  | .unitReserving die => Sys2Proof.Machine.execUnitReserving die s
  | .allocationZeroFillDone team => Sys2Proof.Machine.execAllocationZeroFillDone team s
  | .bindingContextGrant die => Sys2Proof.Machine.execBindingContextGrant die s
  | .gridRetire grid => Sys2Proof.Machine.execGridRetire grid s
  | .droverTrap agent => Sys2Proof.Machine.execDroverTrap agent s
  | .droverProgramFault agent => Sys2Proof.Machine.execDroverProgramFault agent s
  | .droverBarrierMark agent => Sys2Proof.Machine.execDroverBarrierMark agent s
  | .droverContextFree agent => Sys2Proof.Machine.execDroverContextFree agent s
  | .trapEntry agent => Sys2Proof.Machine.execTrapEntry agent s
  | .pregridRequest grid => Sys2Proof.Machine.execPregridRequest grid s
  | .pregridWithdraw grid => Sys2Proof.Machine.execPregridWithdraw grid s
  | .pdlExpire team => Sys2Proof.Machine.execPdlExpire team s
  | .teamSave team => Sys2Proof.Machine.execTeamSave team s
  | .teamResume team => Sys2Proof.Machine.execTeamResume team s
  | .causalTrialStart => Sys2Proof.Machine.execCausalTrialStart s
  | .causalDelayPayment => Sys2Proof.Machine.execCausalDelayPayment s
  | .causalTrialEnd => Sys2Proof.Machine.execCausalTrialEnd s
  | .freezeCommand => Sys2Proof.Machine.execFreezeCommand s
  | .freezePin => Sys2Proof.Machine.execFreezePin s
  | .freezeLatch => Sys2Proof.Machine.execFreezeLatch s
  | .frzstRearm => Sys2Proof.Machine.execFrzstRearm s
  | .readbackRead => Sys2Proof.Machine.execReadbackRead s
  | .hgcmdEndGrid grid => Sys2Proof.Machine.execHgcmdEndGrid grid s
  | .hgcmdResumeComplete gang => Sys2Proof.Machine.execHgcmdResumeComplete gang s
  | .hgcmdResumeDiscard gang => Sys2Proof.Machine.execHgcmdResumeDiscard gang s
  | .parklogbRead => Sys2Proof.Machine.execParklogbRead s
  | .warmReset => Sys2Proof.Machine.execWarmReset s
  | .functionLevelReset => Sys2Proof.Machine.execFunctionLevelReset s
  | .powerOnBoot => Sys2Proof.Machine.execPowerOnBoot s
  | .spdmRequest req => Sys2Proof.Machine.execSpdmRequest req s
  | .mclkAdjust steps => Sys2Proof.Machine.execMclkAdjust steps s
  | .thermalShutdown die => Sys2Proof.Machine.execThermalShutdown die s
  | .registerWrite mgmt off v => Sys2Proof.Machine.execRegisterWrite mgmt off v s
  | .powerLoss => Sys2Proof.Machine.execPowerLoss s
  | .managementRequest => Sys2Proof.Machine.execManagementRequest s
  | .refreshManagementComplete die row => Sys2Proof.Machine.execRefreshManagementComplete die row s

end Sys2Proof.Machine
end

