-- ==== Sys2Proof/Machine/Clock.lean ====
section
/-!
DEFINITION. The passing of a cycle (R2, R62, R209, R403, R407, R419, R455, R456), the events that a state brings forth by itself, and
what a module without clock or power still does (R465, R466).
-/
namespace Sys2Proof.Machine

-- A cycle.

/-- A path one cycle on is older (R407). -/
def Path.tick (p : Path) : Path := { p with age := p.age + 1, stalled := false }
/-- An agent one cycle on: its gap is shorter (R189). -/
def Agent.tick (a : Agent) : Agent := { a with paths := a.paths.map Path.tick, gap := a.gap - 1, gw := a.gw - 1 }
/-- GT one cycle on, with the rest of a nanosecond (R2). -/
def passTime (s : State) : State :=
  let n := s.gtFrac + 1000000
  { s with gt := s.gt + BitVec.ofNat 64 (n / max 1 s.mclk), gtFrac := n % max 1 s.mclk }
/-- A team one cycle on: a held one has waited longer, the budget of a requested one runs down unless a gang of it is parked in
non-stop mode (R403, R419, R453). -/
def State.tickTeam (s : State) (t : Team) : Team :=
  { t with
    waited := if t.state == .offered || (t.state == .saved && s.dies.any fun e => e.2.offered.contains t.id) then t.waited + 1 else t.waited
    pdl := if t.state == .running && t.preq && !((s.gangsOf t.id).any fun a => a.parked && a.nonstop) then t.pdl - 1 else t.pdl }
/-- Requests of a die that wait for the refresh management of their bank (R38, R50): of accesses, also to a line whose place in a reduction buffer
another must leave, of the host, of other modules, of the module's own writes, and of page walks, program headers and instruction fetches that
would go on if the die held no bank. -/
def State.waitingRows (s : State) (d : Nat) : Nat :=
  if (s.die d).heldRows.isEmpty then 0
  else
    let held := fun (a : Nat) => dieOf a == d && ((s.die d).tag? (a / 512)).isNone && s.rowHeld a
    let t := s.setDie d { s.die d with heldRows := [] }
    let moves := fun (u : State) (e : State → Answer) => match e u with | .next v => v != u | _ => false
    let goesOn := fun (e : State → Answer) => !moves s e && moves t e
    let full := fun (o : MemOp) (a : Nat) => o.kind == .reduce && s.bufferWaits o.core o.die o.aop.toNat o.size o.bf (a / 128) &&
      !t.bufferWaits o.core o.die o.aop.toNat o.size o.bf (a / 128)
    let fetches := fun (u : State) (a : Agent) (p : Path) =>
      !(a.todo p).isEmpty && (fetchAll a p.pc (a.todo p) u).2.all fun x => match x.2 with | .error b => b != notYet | .ok _ => true
    sumNat (s.ops.map fun o => (o.parts.filter fun p => p.st == .waiting && s.isHome p &&
        (held (p.pa % 2 ^ 44) || (dieOf (p.pa % 2 ^ 44) == d && full o (p.pa % 2 ^ 44)))).length) +
      sumNat (s.all.map fun a => (a.paths.filter fun p => p.stalled && !fetches s a p && fetches t a p).length) +
      ((s.sys.posted.take 1).filter fun w => held w.1).length + (if goesOn (execBindingContextGrant d) then 1 else 0) +
      (s.sys.hostq.filter fun q => (s.hostLines q).any fun l => held (l * 128)).length +
      (s.sys.inq.filter fun e => (e.2.head?).any fun p => p.kind.toNat < 3 && held (p.addr.toNat % 2 ^ 44)).length +
      ((List.range 8).filter fun x => !(s.die x).walking.isEmpty && goesOn (execPageWalkComplete x)).length
/-- A cycle of a core: its counters, and the mark of a reclaim (R63, R395). -/
def tickCore (c : Nat) (s : State) : State :=
  let s := if s.waitsTable c then s.count (rCore c 0x50) 1 else s
  s.setCore c { s.core c with reclaimed := false }
/-- The cores that a walker, an array or an interval may act on. -/
def State.busyCores (s : State) : List Nat :=
  ((s.cores.map fun (e : Nat × CoreState) => e.1) ++ (s.eng.xfers.map s.xferCore) ++
    s.eng.mats.map fun (m : MatOp) => m.die * 64 + m.core % 64).eraseDups
/-- By the end of a cycle a core has accepted a transfer that has an entry of its queue, and its idle walker has started one (R392, R394):
cycles that a transfer then waits for a table are counted. DESIGN CHOICE [1]. -/
def startWalker (core : Nat) (s : State) : State := after_ (execBoxTransferStart core (after_ (execBxiAccept core s) s)) s
/-- The decisions that end an interval, of the cores that have not made theirs (R62, R63). -/
def endInterval (s : State) : State :=
  if !s.intervalEnds then s else (List.range 512).foldl (fun s c => if s.did (onceInterval c) then s else decideL1 c s) s
/-- A trial one cycle on: a gang that is parked is held for its delay when it goes on (R455). DESIGN CHOICE [26]. -/
def Trial.tick (parked : Nat → Bool) (t : Trial) : Trial :=
  { t with
    cycles := t.cycles + 1
    hold := t.hold.filterMap fun (e : Nat × Nat) => if parked e.1 then some e else if e.2 ≤ 1 then none else some (e.1, e.2 - 1) }
/-- The errors whose cycle has come strike (R51). -/
def strikes (s : State) : State :=
  let due := s.strikes.filter (·.cyc ≤ s.cyc)
  due.foldl (fun s x => strike x s) { s with strikes := s.strikes.filter (s.cyc < ·.cyc) }
/-- One cycle of MCLK passes: no scheduler has anything left to issue in it. Delay that is owed for 1,024 cycles is paid (R455). -/
def tick (s : State) : State :=
  let s := after_ (execCausalDelayPayment s) s
  let s := s.busyCores.foldl (fun s c => startWalker c s) (endInterval s)
  let s := strikes (passTime { s with cyc := s.cyc + 1, served := [] })
  let s := (s.cores.map (·.1)).foldl (fun s c => tickCore c s) s
  let s := (List.range 8).foldl (fun s d => let n := s.waitingRows d; if n = 0 then s else s.count (rDieMem d 0x58) n) s
  { s with
    g := s.g.tick
    agents := s.agents.map Agent.tick
    teams := s.teams.map s.tickTeam
    sys := { s.sys with
      trial := s.sys.trial.map (Trial.tick fun id => s.all.any fun a => a.id == id && a.parked)
      freezeIn := s.sys.freezeIn.map (· - 1) } }

-- Events that the state brings forth by itself.

/-- The effect of an event that may come next. -/
abbrev Event := State → Answer

/-- What may come next of a memory operation. -/
def MemOp.events (o : MemOp) : List Event :=
  if o.held then [freeHeld o.id]
  else
  match o.kind with
  | .load => [execHomeReadRequest o.id, execClusterRemoteAccess o.id, execLoadDataReturn o.id]
  | .fill => [execHomeReadRequest o.id, execLoadDataReturn o.id]
  | .store => [execHomeWriteRequest o.id, execClusterRemoteAccess o.id, execStoreAck o.id]
  | .atomic => [execHomeWriteRequest o.id, execClusterRemoteAccess o.id, execLoadDataReturn o.id]
  | .reduce => [execHomeReduceRequest o.id, execClusterRemoteAccess o.id, execReduceRegistered o.id]
/-- Acknowledgements of copies that a write has had invalidated (R42). -/
def State.ackEvents (s : State) (o : MemOp) : List Event :=
  (o.parts.filter fun p => p.st == .invalidating).flatMap fun p =>
    let l := p.pa % 2 ^ 44 / 128
    (sharersOf (s.dirOf l)).map fun d => execDirectoryInvalidateAck l d
/-- What the head of a channel may do now. -/
def channelEvents (ch : Nat) (p : Packet) : List Event :=
  match p.kind.toNat with
  | 0 => [execFabricReadRequest ch none]
  | 1 => [execFabricWriteRequest ch none]
  | 2 => [execFabricAtomicRequest ch none]
  | 3 => [execFabricResponse ch none]
  | 4 => [execCollectiveChunkArrival ch none]
  | 5 => [execStepVoteArrival ch none]
  | 6 => [execCairnArrival ch none]
  | 7 => [execKnellArrival ch none]
  | 8 => [execStepReportArrival ch none]
  | 9 => [execTimeSyncMessage ch none]
  | 10 => [execCoordinatorNoticeArrival ch none, execGlobalCompletionNotice ch none]
  | 11 => [execHaltNotice ch none]
  | _ => [execFabricReservedKind ch none]
def coreEvents (c : Nat) : List Event :=
  [execBoxTransferStart c, execBxiAccept c, execBoxTransferStep c, execBoxTransferComplete c, execBoxTransferFault c, execMldComplete c, execMmaComplete c,
    execEpiComplete c, execEpiRsComplete c, execMatrixOpFault c] ++ (List.range 4).map (execTableSlotFill c)
def State.dieEvents (s : State) (d : Nat) : List Event :=
  [execPageWalkStart d, execPageWalkComplete d, execPackhorseSweep d, execRecordDurable d, execTeamPlace d, execUnitReserving d,
    execBindingContextGrant d] ++
    ((s.die d).rows.map fun e => execRowActivationLimit d e.1) ++ (s.die d).heldRows.map fun r => execRefreshManagementComplete d r
def agentEvents (a : Agent) : List Event :=
  if a.drover then [execDroverTrap a.id, execDroverProgramFault a.id, execDroverBarrierMark a.id, execDroverContextFree a.id]
  else [execTrapEntry a.id, fun s => execSettle a.id s, execUnsend a.id, fun s => .next (hitDue a.id s)]
def teamEvents (t : Team) : List Event :=
  match t.state with
  | .offered => []
  | .starting => [execAllocationZeroFillDone t.id]
  | .running => [execPdlExpire t.id, execTeamSave t.id]
  | .saved => [execTeamResume t.id]
  | .exited => [execTeamSave t.id]
def colourEvents (c : Bool) : List Event :=
  [execLocalCut c, execCutDrainComplete c, execLocalCompletion c, execCompletionReport c, execAbortRecordsDurable c]
/-- Everything that the machine's own state may bring about next; those of them that change nothing are not due. -/
def State.prospects (s : State) : List Event :=
  s.ops.flatMap MemOp.events ++ s.ops.flatMap s.ackEvents ++ (s.sys.inq.flatMap fun e => (e.2.take 1).flatMap (channelEvents e.1)) ++
    s.busyCores.flatMap coreEvents ++ (List.range 8).flatMap s.dieEvents ++ s.all.flatMap agentEvents ++ s.teams.flatMap teamEvents ++
    colourEvents false ++ colourEvents true ++ (s.grids.map fun g => execGridRetire g.id) ++
    ((s.sys.colls.map (·.grp)).eraseDups.map fun g => execCollectiveComplete g) ++ (s.sys.colls.map fun c => execCollectiveWork c.id) ++
    (s.sys.ringPorts.map fun e => execRingDown e.1) ++ ((List.range s.sys.hostq.length).map execHostServe) ++
    ((List.range 64).map fun g => execAgreementTimeout g) ++ ((List.range 6).map fun p => fun s => .next (injectChunk p s)) ++
    [fun s => .next (postedDue s)] ++ (s.sys.ending.map fun c => execCollectiveWork c.id) ++
    (s.sys.wbDue.map fun e => execWaybillCheckpoint e.1) ++
    [execTlbinvDone, execGridDispatch, execTeamOffer, execLinkWrites, execReapTeams, execCausalTrialStart, execCausalDelayPayment, execCausalTrialEnd]
/-- The event changes the state. -/
def changes (s : State) (e : Event) : Bool := match e s with | .next t => t != s | _ => false
/-- The schedulers that have a ready candidate and have not issued in this cycle (R408, R409). -/
def State.schedulers (s : State) : List Nat :=
  ((s.all.map Agent.unit).eraseDups.filter fun u => !s.served.contains u && (s.choice u).isSome && !s.waitsTurn u)
/-- What may come next of accesses to memory, of the host and of other modules, and the refresh management that banks wait for. -/
def State.memoryEvents (s : State) : List Event :=
  s.ops.flatMap MemOp.events ++ s.ops.flatMap s.ackEvents ++ (s.sys.inq.flatMap fun e => (e.2.take 1).flatMap (channelEvents e.1)) ++
    ((List.range s.sys.hostq.length).map execHostServe) ++ [fun s => .next (postedDue s)] ++
    (List.range 8).flatMap fun d => (s.die d).heldRows.map fun r => execRefreshManagementComplete d r
/-- In one cycle of 2 ^ 20, accesses that wait go before anything else, until none can go on: every write is performed within finite time
(R99). The number is the model's. DESIGN CHOICE [1]. -/
def State.overdue (s : State) : List Event :=
  if s.cyc.toNat % 2 ^ 20 = 2 ^ 20 - 1 then s.memoryEvents.filter (changes s) else []
/-- What can happen next: the registers of a freeze latch at their edge (R456); accesses that are overdue go on; else a
scheduler issues, an event that is due happens, or, where every scheduler has issued that could, the cycle ends. -/
def State.options (s : State) : List Event :=
  if s.sys.freezeIn = some 0 then [execFreezeLatch]
  else
    let late := s.overdue
    if !late.isEmpty then late
    else
      let us := s.schedulers
      us.map execGangIssueSelect ++ s.prospects.filter (changes s) ++ if us.isEmpty then [fun s => .next (tick s)] else []
/-- The one of several options that happens is free (DESIGN CHOICE [1]); words that wait are tried again after an event. -/
def advance (s : State) : State :=
  let os := s.options
  let s := if 1 < os.length then s.useFree 1 else s
  match os[Config.pick (s.fresh - 1) % max 1 os.length]? with
  | some e => let t := after_ (e s) s; if t.sel then t else wake t
  | none => tick s
/-- The register that a write of the host names, by its offset. -/
def hostWrites (i : Instr) : Option (BitVec 26) :=
  match i with
  | .registerWrite false off _ => some off
  | .hostEnqueue q _ => some (8 * q.setWidth 26)
  | _ => none
/-- The event that comes next of those that come in one cycle, and the rest: a write of the management controller comes after those of the
host to its register (R464). -/
def nextEvent (l : List Instr) : Option (Instr × List Instr) :=
  match l with
  | [] => none
  | i :: r =>
    match i, nextEvent r with
    | .registerWrite true off v, some (j, rest) =>
      if r.any fun k => hostWrites k == some off then some (j, .registerWrite true off v :: rest) else some (i, r)
    | _, _ => some (i, r)
/-- An event of the outside world or of an engine: it is no word. -/
def isEvent (i : Instr) : Bool := (encode i).isNone

-- Clock and power (R465, R466).

/-- What can happen to a module without power, or with its clocks stopped: the controller boots and resets it. -/
def admits (p : Power) (i : Instr) : Bool :=
  match p, i with
  | .on, _ => isEvent i
  | .off, .powerOnBoot => true
  | .off, .spdmRequest _ => true
  | .shutdown, .warmReset => true
  | .shutdown, .functionLevelReset => true
  | .shutdown, .powerLoss => true
  | .shutdown, .spdmRequest _ => true
  | .shutdown, .managementRequest => true
  | .shutdown, .readbackRead => true
  | .shutdown, .registerWrite _ _ _ => true
  | .shutdown, .timeSyncMessage _ _ => true
  | _, _ => false

end Sys2Proof.Machine
end

