-- ==== Sys2Proof/Machine/Loader.lean ====
section
/-!
DEFINITION. A resident agent that stands at a given word: what the launch of a program leaves (R158 to R164, R176, R384). The state
after reset holds no program; see assumption 30.
-/
namespace Sys2Proof.Machine

/-- Where the word is placed: the second page of 64 KiB of context 0, mapped to the same address of the module's DRAM. -/
def loadAddr : Nat := 0x10000
/-- The leaf of that page: valid, with read, write and execute (R16, R17). -/
def loadLeaf : U64 := BitVec.ofNat 64 (loadAddr + 0xF)
/-- The word of a program's first step: that of a gang, or, where no gang may execute it, that of a drover. -/
def loadsDrover (word : U64) : Bool := match decodeWord ⟨false, 32, 2⟩ word with | .ok _ => false | .error _ => true
/-- An agent at the start of the loaded word. -/
def loadAgent (id team grid : Nat) (drover : Bool) : Agent :=
  { Agent.absent with
    id := id
    drover := drover
    team := team
    grid := grid
    width := if drover then 1 else 32
    q := 256
    exec := if drover then 1 else lowMask 32
    live := if drover then 1 else lowMask 32
    paths := [Path.start 0 (BitVec.ofNat 54 (loadAddr / 8)) (if drover then 1 else lowMask 32) false []] }
/-- The state with one more team of one gang on core 0 of die 0, or one more drover context of die 0, whose next word is `word`; it is
selected for issue, and its page is held by the TLBs. The module stands at physical and logical number 0. -/
def loadWord (word : U64) (s : State) : State :=
  let n := s.serial
  let drover := loadsDrover word
  let rc := { LaunchRec.absent with entry := BitVec.ofNat 64 loadAddr, wcode := 1, arrays := 2 }
  let g := { Grid.absent with id := n, gridid := BitVec.ofNat 32 n, rc := rc, state := .running, next := 1 }
  let t := { Team.absent with
    id := n + 1
    teamid := BitVec.ofNat 32 n
    grid := n
    state := .running
    unit := [n + 1]
    arrays := [0, 1]
    filled := true
    started := true }
  let e : TlbEntry := ⟨0, 1, 0, loadLeaf⟩
  let regs : List (Nat × U64) := [(rXlat 0, 1), (rXlat 0x810, 0), (rXlat 0x818, 0), (rRemap 0, 0x80000000)]
  let s := { s with bar := regs.foldl (fun m r => SMap.insert m r.1 r.2) s.bar }
  let s := install (if drover then none else some 0) 0 e s
  { s with
    mem := putBytes loadAddr (bytesOf 8 word.toNat) s.mem
    serial := n + 3
    grids := s.grids ++ [g]
    teams := s.teams ++ [t]
    g := loadAgent (n + 2) (n + 1) n drover
    agents := if s.g.id = 0 then s.agents else s.agents ++ [s.g]
    cur := 0
    sel := true
    power := .on }

end Sys2Proof.Machine
end

