-- ==== Sys2Proof/Machine/Step.lean ====
section
/-!
DEFINITION. One step of the machine: a word that has been selected issues; else the next event from outside happens; else one of the
things that can happen by themselves. And a word placed where the next step fetches it.
-/
namespace Sys2Proof.Machine

/-- The word at issue: the checks before it, its meaning, and what follows it (R195, R408, R452). -/
def issue (s : State) : Host.Outcome State Fault Refusal :=
  match prepare s with
  | .error t => .next (wake t)
  | .ok (t, i) =>
    match exec i t with
    | .next u => .next (settleWord t u)
    | .fault f => .fault f
    | .refused r => .refused r
/-- An event from outside; words that wait are tried again after it. -/
def event (i : Instr) (s : State) : Host.Outcome State Fault Refusal :=
  match exec i s with
  | .next t => .next (wake t)
  | .fault f => .fault f
  | .refused r => .refused r
/-- One step. A module whose clocks are stopped only counts time; one without power has no step (R465, R466). -/
def step (s : State) : Host.Outcome State Fault Refusal :=
  match s.sel, nextEvent s.agenda, s.power with
  | true, _, .on => issue s
  | _, some (i, rest), p => if admits p i then event i { s with agenda := rest } else .next { s with agenda := rest }
  | _, none, .on => .next (advance s)
  | _, none, .shutdown => .next (passTime s)
  | _, none, .off => .fault .poweredOff

/-- The state with an instruction word placed where the next step issues it: a resident agent stands at it. -/
def State.withFetchWord (s : State) (nbits w : Nat) : State := loadWord (BitVec.ofNat 64 (w % 2 ^ nbits)) s

end Sys2Proof.Machine
end

