-- ==== Sys2Proof/Safety.lean ====
section
/-!
DEFINITION. What claims are stated in: the canonical form of memory, what a word leaves as it was (its frame), and what an instruction
answers with.
-/
namespace Sys2Proof.Machine

/-- The canonical form of memory: addresses strictly rising, and no byte listed that an unlisted one reads as. -/
def Memory.wf (m : SMap Byte) : Bool := SMap.wf 0 m
/-- What every step keeps of the module's memory. -/
def State.Canonical (s : State) : Prop := Memory.wf s.mem = true

-- Frames.

/-- The module outside the agent at issue is as before, but for the records that the capture of a pending granule stages, which a module
with nothing pending does not do (R138); every byte of memory reads as before. -/
def ModuleKept (s t : State) : Prop :=
  t = { s with g := t.g, sel := t.sel, bar := t.bar, dies := t.dies, sys := t.sys, fresh := t.fresh } ∧
  (s.calm = true → t.bar = s.bar ∧ t.dies = s.dies ∧ t.sys = s.sys ∧ t.fresh = s.fresh) ∧
  ∀ a, t.getByte a = s.getByte a
/-- The agent a with what the end of a word sets in b: its paths, the hints of the word, the marks that the end of a word clears, and
the region that the gang is in. -/
def Agent.ending (a b : Agent) : Agent :=
  { a with paths := b.paths, walked := b.walked, noHit := b.noHit, gap := b.gap, gw := b.gw, region := b.region }
/-- The gang is in the region that it was in, or has left it (R166, R255). -/
def RegionKept (a b : Agent) : Prop := b.region = a.region ∨ b.region = none
/-- The agent is as before but for its paths, the hints of the word, and marks that the end of a word clears. -/
def GangKept (a b : Agent) : Prop := b = a.ending b ∧ RegionKept a b
/-- The same, but for scalar register d. -/
def GangKeptButScalar (d : Nat) (a b : Agent) : Prop :=
  b = { a.ending b with sregs := b.sregs } ∧ RegionKept a b ∧ ∀ n, n ≠ d → b.sget n = a.sget n
/-- The same, but for the lanes m of the physical vector registers in ps: a written lane is no longer uncorrectable. -/
def GangKeptButVector (ps : List Nat) (m : U64) (a b : Agent) : Prop :=
  b = { a.ending b with vregs := b.vregs, flawed := b.flawed } ∧ RegionKept a b ∧ (∀ w ∈ b.flawed, w ∈ a.flawed) ∧
  ∀ p l, l < 64 → (p ∉ ps ∨ m.getLsbD l = false) → b.pget p l = a.pget p l
/-- The same, but for the lanes m of mask register d. -/
def GangKeptButMask (d : Nat) (m : U64) (a b : Agent) : Prop :=
  b = { a.ending b with mregs := b.mregs } ∧ RegionKept a b ∧
  (∀ n, n ≠ d → b.mget n = a.mget n) ∧
  ∀ l, l < a.width → m.getLsbD l = false → (b.mget d).getLsbD l = (a.mget d).getLsbD l

-- Results of words.

/-- The instruction answers a next state in which scalar register d holds v, where a lane is active; nothing else of the module or of the
agent has changed (R185, R203). -/
def WritesScalar (i : Instr) (h : Hint) (d : Reg) (v : State → U64) : Prop :=
  ∀ s, ∃ t, exec i s = .next t ∧ ModuleKept s t ∧ GangKeptButScalar d.toNat s.g t.g ∧
    t.sr d = if s.act h = 0 then s.sr d else v s
/-- The instruction answers a next state in which every active lane of vector register d holds f; nothing else has changed (R203, R264). -/
def WritesVector (i : Instr) (h : Hint) (d : Reg) (f : State → Nat → U32) : Prop :=
  ∀ s, ∃ t, exec i s = .next t ∧ ModuleKept s t ∧ GangKeptButVector [s.g.phys d.toNat] (s.act h) s.g t.g ∧
    ∀ l, (s.act h).getLsbD l = true → t.vr d l = f s l
/-- The instruction answers a next state in which bit l of mask register d holds f l for every active lane l, and no bit above the
gang's width; m0 discards the write; nothing else has changed (R204, R264). -/
def WritesMask (i : Instr) (h : Hint) (d : BitVec 4) (f : State → Nat → Bool) : Prop :=
  ∀ s, ∃ t, exec i s = .next t ∧ ModuleKept s t ∧ GangKeptButMask d.toNat (s.act h) s.g t.g ∧
    (d ≠ 0 → ∀ l, l < s.g.width → (s.act h).getLsbD l = true → (t.g.mget d.toNat).getLsbD l = f s l) ∧
    (d ≠ 0 → ∀ l, s.g.width ≤ l → (t.g.mget d.toNat).getLsbD l = false)
/-- No active lane reads a marker among these words (R165). -/
def Unmarked (s : State) (h : Hint) (words : Nat → List U32) : Prop :=
  ∀ l, (s.act h).getLsbD l = true → ∀ x ∈ words l, marker x = none
/-- A floating-point instruction whose sources hold no marker answers a next state in which every active lane of vector register d
holds the result, and FPFLAGS the flags of every lane beside those it held; nothing else has changed (R211, R264, R273). -/
def WritesFloat (i : Instr) (h : Hint) (d : Reg) (words : State → Nat → List U32) (f : State → Nat → Nat × BitVec 5) : Prop :=
  ∀ s, Unmarked s h (words s) → ∃ t, exec i s = .next t ∧ ModuleKept s t ∧
    GangKeptButVector [s.g.phys d.toNat] (s.act h) { s.g with fp := t.g.fp } t.g ∧
    (∀ l, (s.act h).getLsbD l = true → t.vr d l = BitVec.ofNat 32 (f s l).1) ∧
    t.g.fp = (lanesOf (s.act h)).foldl (fun z l => z ||| (f s l).2) s.g.fp

/-- R240: the condition codes of S.CMP and S.CMPI. -/
def condHolds (n c : Nat) (x y : BitVec n) : Prop :=
  (c = 0 ∧ x = y) ∨ (c = 1 ∧ x ≠ y) ∨ (c = 2 ∧ x.toInt < y.toInt) ∨ (c = 3 ∧ y.toInt ≤ x.toInt) ∨ (c = 4 ∧ x.toNat < y.toNat) ∨
  (c = 5 ∧ y.toNat ≤ x.toNat) ∨ (c = 6 ∧ x.toInt ≤ y.toInt) ∨ (c = 7 ∧ y.toInt < x.toInt) ∨ (c = 8 ∧ x.toNat ≤ y.toNat) ∨
  (c = 9 ∧ y.toNat < x.toNat) ∨ (c = 10 ∧ x &&& y ≠ 0) ∨ (c = 11 ∧ x &&& y = 0)

-- Families of words of one shape: what follows holds for every guard, hint and operand.

/-- A scalar operation on two registers, of 64 bits, or of their low 32 bits with the result sign-extended (R238). -/
def ScalarOp (i : Hint → Bool → Reg → Reg → Reg → Instr) (f : (n : Nat) → BitVec n → BitVec n → BitVec n) : Prop :=
  ∀ h w d a b, WritesScalar (i h w d a b) h d fun s => byWidth2 w f (s.sr a) (s.sr b)
/-- A scalar operation on one register (R238). -/
def ScalarOp1 (i : Hint → Bool → Reg → Reg → Instr) (f : (n : Nat) → BitVec n → BitVec n) : Prop :=
  ∀ h w d a, WritesScalar (i h w d a) h d fun s => byWidth1 w f (s.sr a)
/-- A scalar operation on a register and a sign-extended 18-bit immediate (R181, R241). -/
def ScalarImm (i : Hint → Reg → Reg → BitVec 18 → Instr) (f : U64 → U64 → U64) : Prop :=
  ∀ h d a m, WritesScalar (i h d a m) h d fun s => f (s.sr a) (m.signExtend 64)
/-- A shift of a scalar register by a 6-bit count (R241). -/
def ScalarShift (i : Hint → Reg → Reg → BitVec 6 → Instr) (f : U64 → Nat → U64) : Prop :=
  ∀ h d a n, WritesScalar (i h d a n) h d fun s => f (s.sr a) n.toNat
/-- A vector operation on two registers, of 32-bit elements or of their 16-bit halves (R269, R270). -/
def VectorOpX (i : Hint → Bool → Reg → Reg → Reg → Instr) (f : (n : Nat) → BitVec n → BitVec n → BitVec n) : Prop :=
  ∀ h x2 d a b, WritesVector (i h x2 d a b) h d fun s l => elem2 x2 f (s.vr a l) (s.vr b l)
/-- A vector operation on two registers (R270). -/
def VectorOp (i : Hint → Reg → Reg → Reg → Instr) (f : U32 → U32 → U32) : Prop :=
  ∀ h d a b, WritesVector (i h d a b) h d fun s l => f (s.vr a l) (s.vr b l)
/-- A vector operation on one register (R270). -/
def VectorOp1 (i : Hint → Reg → Reg → Instr) (f : U32 → U32) : Prop :=
  ∀ h d a, WritesVector (i h d a) h d fun s l => f (s.vr a l)
/-- A shift of a vector register by a 6-bit count (R270). -/
def VectorShift (i : Hint → Reg → Reg → BitVec 6 → Instr) (f : U32 → Nat → U32) : Prop :=
  ∀ h d a n, WritesVector (i h d a n) h d fun s l => f (s.vr a l) n.toNat
/-- The FP32 sources of a lane: ABS, then NEG, on the sign bit (R265, R273). -/
def srcA (m : FMod) (x : U32) : Val := f32 (signMods 31 m.negA m.absA x)
def srcB (m : FMod) (x : U32) : Val := f32 (signMods 31 m.negB m.absB x)
def srcC (m : FMod) (x : U32) : Val := f32 (signMods 31 m.negC false x)
/-- An FP32 operation with two sources (R273). -/
def FloatOp (i : Hint → FMod → Reg → Reg → Reg → Instr) (f : Rm → Val → Val → Nat × BitVec 5) : Prop :=
  ∀ h m d a b, WritesFloat (i h m d a b) h d (fun s l => [s.vr a l, s.vr b l])
    fun s l => f (rmOf m.rm) (srcA m (s.vr a l)) (srcB m (s.vr b l))
/-- An FP32 operation with one source (R273, R277). -/
def FloatOp1 (i : Hint → FMod → Reg → Reg → Instr) (f : Rm → Val → Nat × BitVec 5) : Prop :=
  ∀ h m d a, WritesFloat (i h m d a) h d (fun s l => [s.vr a l]) fun s l => f (rmOf m.rm) (srcA m (s.vr a l))
/-- A result of a value and flags of its own, rounded (R273). -/
def rounded (rm : Rm) (x : Val × BitVec 5) : Nat × BitVec 5 := ((toF32 rm x.1).1, (toF32 rm x.1).2 ||| x.2)
/-- A mask operation on two masks, bit by bit (R290). -/
def MaskOp (i : Hint → BitVec 4 → BitVec 4 → BitVec 4 → Instr) (f : Bool → Bool → Bool) : Prop :=
  ∀ h d a b, WritesMask (i h d a b) h d fun s l => f ((s.g.mget a.toNat).getLsbD l) ((s.g.mget b.toNat).getLsbD l)

/-- The word at issue stops with this report: it has taken no effect; its agent enters its handler, or parks or ends where R415 says so,
at once when nothing that it sent is outstanding, else when the last of it has finished (R361, R412, R413). -/
def StopsAt (r : Stopping) (s t : State) : Prop :=
  let u := { s with sel := false, g := { s.g with noHit := (s.cur, s.path.pc) :: s.g.noHit } }
  t = if u.stopsNow u.g r.regs.pc then enterTrap u.g r u else { u with g := { u.g with stopping := some r } }
/-- A trap of the word at issue that TRET issues again: cause code, detail, lanes, address, register (R26, R361). -/
def TrapsWith (c d : Nat) (m a reg : U64) (s t : State) : Prop :=
  StopsAt ⟨⟨BitVec.ofNat 64 (c + 256 * d), (s.pmask ++ s.path.pc).setWidth 64, m, a, reg⟩, s.path.pc, lowPlane s.pmask, s.cur, []⟩ s t

-- Paths (R167, R170, R246).

/-- No record of this kind is written for the agent at issue (R448 to R450). -/
def State.TraceOff (s : State) (kind : Nat) : Prop :=
  (s.reg (rTrace s.g.die 8)).toNat % 2 ^ 32 = 0 ∨ (s.reg (rTrace s.g.die 0x10)).getLsbD (32 + kind) = false
/-- GAP and GW of the word keep the agent from issuing and let others go first from the next cycle on (R189, R190). -/
def HintsTaken (h : Hint) (b : Agent) : Prop := b.gap = (if h.gap = 0 then 0 else h.gap.toNat + 1) ∧ b.gw = if h.gw then 2 else 0
/-- The path at issue stands at an offset and a plane of it, ready for its next word under the hints of this one, with the lanes that it
had; the gang's other paths are as they were (R167, R189, R190). -/
def StandsAt (h : Hint) (x : Offs × Nat) (s t : State) : Prop :=
  HintsTaken h t.g ∧ ∀ p, s.g.path? s.cur = some p →
    (∃ q, t.g.path? s.cur = some q ∧ q.pc = x.1 ∧ q.plane = x.2 ∧ q.lanes = p.lanes ∧ q.age = 0 ∧ q.stalled = false) ∧
    t.g.paths.filter (·.id != s.cur) = s.g.paths.filter (·.id != s.cur)
/-- The path at issue stands at offset o, ready for its next word (R246). -/
def GoesTo (h : Hint) (o : Offs) (s t : State) : Prop := StandsAt h (o, 0) s t
/-- The word has completed: with no plane still owing it, or where it has issued again for a fault that came with its data, its path goes on
(R167, R361). -/
def Proceeds (h : Hint) (s t : State) : Prop := s.path.back ≠ [] ∨ s.owed = false → StandsAt h s.goesOn s t
/-- The region that the gang is in after its paths have moved: none once no path and no lane of it is left there (R166, R255). -/
def regionNow (s t : State) : Option Region := s.g.region.filter t.g.within
/-- The path goes to offset o, and nothing else of the gang changes; nor does the module, where no branch is traced (R246, R450). -/
def MovesPath (h : Hint) (o : Offs) (s t : State) : Prop :=
  GoesTo h o s t ∧ t.g = { s.g with paths := t.g.paths, gap := t.g.gap, gw := t.g.gw, region := t.g.region, walked := [], noHit := s.hitsAgain } ∧
  t.g.region = regionNow s t ∧ t.sel = false ∧ (s.TraceOff 2 → ModuleKept s t)
/-- A word that sends its path to offset o: it moves, or traps where that would leave the region with a lane outside plane 0 (R167). -/
def Sends (i : Instr) (h : Hint) (o : State → Offs) : Prop :=
  ∀ s, ∃ t, exec i s = .next t ∧
    (s.g.strands s.path.lanes (o s) = false → MovesPath h (o s) s t) ∧
    (s.g.strands s.path.lanes (o s) = true → TrapsWith 0x05 0xD0 (s.lanes &&& s.g.live) 0 0 s t)
/-- The word waits at issue: nothing but the stall of its path changes (R175). -/
def Waits (s t : State) : Prop :=
  t = { s with sel := false, g := { s.g with paths := updFirst (·.id == s.cur) (fun p => { p with stalled := true }) s.g.paths } }
/-- Registers that a word leaves alone: scalar, vector, mask and descriptor registers, EXEC, LIVE, the trap registers. -/
def RegsKept (a b : Agent) : Prop :=
  b.sregs = a.sregs ∧ b.vregs = a.vregs ∧ b.mregs = a.mregs ∧ b.kregs = a.kregs ∧ b.exec = a.exec ∧ b.live = a.live ∧
  b.fp = a.fp ∧ b.trap = a.trap ∧ b.trapvec = a.trapvec ∧ b.pend = a.pend
/-- The word has done its work and stops with this report: TRET goes on after it, with the planes still owed first (R361). -/
def StopsAfter (c d : Nat) (m a reg : U64) (es : List PendEntry) (s t : State) : Prop :=
  let r : Stopping := ⟨⟨BitVec.ofNat 64 (c + 256 * d), (s.pmask ++ s.path.pc).setWidth 64, m, a, reg⟩,
    if s.owed then s.path.pc else s.g.after s.path.pc, if s.owed then topPlane s.pmask + 1 else 0, s.cur, es⟩
  let u := { s with sel := false }
  t = if u.stopsNow u.g r.regs.pc then enterTrap u.g r u else { u with g := { u.g with stopping := some r } }

-- Accesses to memory (R25, R295 to R305).

/-- Every byte of memory reads as before. -/
def MemoryKept (s t : State) : Prop := ∀ y, t.getByte y = s.getByte y
/-- An access of this form may issue: its counter has room, and what its release waits for has happened (R101, R305). -/
def State.mayAccess (s : State) (f : Form) : Prop :=
  s.countersFull f = false ∧ (f.rel = true → s.mayRelease s.g.id f.scope = true ∧ s.g.dropped = [])
/-- The access of every lane passes its checks and goes to these bytes of a scratchpad, of the die scratchpad or of a slice. -/
def State.lanesAt (s : State) (f : Form) (rs : List Req) (bs : Nat → List Nat) : Prop := ∀ r ∈ rs, s.place s.g f r = .own (bs r.lane)
/-- No two lanes meet, and no unit of the bytes is uncorrectable. -/
def State.apart (s : State) (f : Form) (rs : List Req) (bs : Nat → List Nat) : Prop :=
  (∀ r ∈ rs, (bs r.lane).Nodup ∧ ∀ y ∈ bs r.lane, s.badUnits y 1 = []) ∧
  (∀ r ∈ rs, ∀ q ∈ rs, r.lane ≠ q.lane →
    meets (r.ea.toNat, r.ea.toNat + f.n) (q.ea.toNat, q.ea.toNat + f.n) = false ∧ ∀ y ∈ bs r.lane, y ∉ bs q.lane)
/-- Bytes outside those of the lanes read as before. -/
def OnlyBytes (rs : List Req) (bs : Nat → List Nat) (s t : State) : Prop :=
  ∀ y, (∀ r ∈ rs, y ∉ bs r.lane) → t.getByte y = s.getByte y
/-- What a word of memory leaves alone in its agent. -/
def AccessKept (a b : Agent) : Prop :=
  b.mregs = a.mregs ∧ b.kregs = a.kregs ∧ b.exec = a.exec ∧ b.live = a.live ∧ b.fp = a.fp ∧ b.trap = a.trap ∧ b.trapvec = a.trapvec ∧
  b.pend = a.pend ∧ b.calls = a.calls ∧ b.divs = a.divs ∧ b.wb = a.wb ∧ b.planes = a.planes
/-- The access leaves the core as one operation on its way to memory, with a part for every lane; no register and no byte of memory has
changed yet (R295, R296, R305). -/
def Leaves (f : Form) (rs : List Req) (s t : State) : Prop :=
  MemoryKept s t ∧ AccessKept s.g t.g ∧ t.g.sregs = s.g.sregs ∧ t.g.vregs = s.g.vregs ∧
  (∀ q ∈ s.ops, ∃ k ∈ t.ops, k.id = q.id ∧ k.kind = q.kind ∧ k.parts.map (·.pa) = q.parts.map (·.pa)) ∧
  ∃ o ∈ t.ops, o.id = s.serial ∧ o.agent = s.g.id ∧ o.kind = f.kind ∧ o.aop.toNat = f.aop % 16 ∧ o.size = f.n ∧ o.dest = f.dest ∧
    o.acq = f.acq ∧ o.parts.length = rs.length ∧
    ∀ r ∈ rs, ∀ p, s.place s.g f r = .glob p → ∃ q ∈ o.parts, q.lane = r.lane ∧ q.ea = r.ea ∧ q.pa = p.pa ∧
      (f.kind ≠ .load → q.data = r.data ∧ q.cmp = r.cmp)
/-- A word of memory in space 0 whose lanes all pass their checks sends its access. -/
def SendsAccess (pre : State → Prop) (i : Instr) (f : State → Form) (rs : State → List Req) : Prop :=
  ∀ s, pre s → rs s ≠ [] → s.mayAccess (f s) → (f s).space = 0 → (∀ q ∈ s.ops, q.id < s.serial) →
    (∀ r ∈ rs s, ∃ p, s.place s.g (f s) r = .glob p) → ∃ t, exec i s = .next t ∧ Leaves (f s) (rs s) s t
/-- What is said of every lane-level word of memory: its premise, its form and the accesses of its lanes (R294 to R301). -/
def EveryLaneAccess (P : (State → Prop) → Instr → (State → Form) → (State → List Req) → Prop) : Prop :=
  let none0 : Nat → U64 := fun _ => 0
  (∀ h x d a b, P (fun _ => True) (.ld h x d a b) (fun s => formOf .load x 0 (s.g.vdest d) false) (fun s => s.reqs h (s.laneEa x.scale a b) none0 none0)) ∧
  (∀ h x d a b, P (fun _ => True) (.st h x d a b) (fun _ => formOf .store x 0 .none false)
    (fun s => s.reqs h (s.laneEa x.scale a b) (s.laneData x.size d) none0)) ∧
  (∀ h x d a, P (fun _ => True) (.ldg h x d a) (fun s => formOf .load x 0 (s.g.vdest d) false) (fun s => s.reqs h (s.vr2 a) none0 none0)) ∧
  (∀ h x d a, P (fun _ => True) (.stg h x d a) (fun _ => formOf .store x 0 .none false) (fun s => s.reqs h (s.vr2 a) (s.laneData x.size d) none0)) ∧
  (∀ h x (o : BitVec 4) d a b, P (fun s => 10 ≤ o.toNat → Unmarked s h fun l => [s.vr d l]) (.atom h x o d a b)
    (fun s => formOf .atomic x o (s.g.vdest d) false) (fun s => s.reqs h (s.laneEa x.scale a b)
      (s.laneData x.size (if o = 9 then d + (if x.size = 3 then 2 else 1) else d)) (if o = 9 then s.laneData x.size d else none0))) ∧
  (∀ h x (o : BitVec 4) d a b, P (fun s => 10 ≤ o.toNat → Unmarked s h fun l => [s.vr d l]) (.rstore h x o d a b)
    (fun _ => formOf .reduce x o .none false) (fun s => s.reqs h (s.laneEa x.scale a b) (s.laneData x.size d) none0))
/-- What is said of every gang-uniform word of memory. -/
def EveryUniformAccess (P : (State → Prop) → Instr → (State → Form) → (State → List Req) → Prop) : Prop :=
  (∀ h x d a b, P (fun _ => True) (.ldS h x d a b) (fun _ => formOf .load x 0 (.scalar d.toNat) true) (fun s => s.uniReq h (s.scalarEa x.scale a b) 0 0)) ∧
  (∀ h x d a b, P (fun _ => True) (.stS h x d a b) (fun _ => formOf .store x 0 .none true)
    (fun s => s.uniReq h (s.scalarEa x.scale a b) (s.sr d) 0)) ∧
  (∀ h x (o : BitVec 4) d a b, P (fun s => 10 ≤ o.toNat → marker (lo32 (s.sr d)) = none) (.atomS h x o d a b)
    (fun _ => formOf .atomic x o (.scalar d.toNat) true) (fun s => s.uniReq h (s.scalarEa x.scale a b)
      (s.sr (if o = 9 then d + 1 else d)) (if o = 9 then s.sr d else 0)))
/-- The access is not aligned to its size (R25). -/
def Req.misaligned (r : Req) (f : Form) : Prop := r.ea.toNat % f.n ≠ 0
/-- A gang-uniform access that is not aligned traps with ALIGN and the lanes active before its guard; a watchpoint on it is still to be
reported (R25, R297, R452). -/
def UniformMisaligned (pre : State → Prop) (i : Instr) (f : State → Form) (rs : State → List Req) : Prop :=
  ∀ s, pre s → s.mayAccess (f s) → ∀ r ∈ rs s, r.misaligned (f s) →
    ∃ t, exec i s = .next t ∧ TrapsWith 0x12 0x50 s.before r.ea 0 { s with g := { s.g with hits := s.g.hits ++ (watchHits (f s) (rs s) s).take 1 } } t
/-- Of an access of lanes whose aligned lanes all pass their checks, those that are not aligned are reported with the address of the lowest,
and stand in one entry: at once, or when what the agent has sent has finished (R25, R26, R412, R413). -/
def LanesMisaligned (pre : State → Prop) (i : Instr) (f : State → Form) (rs : State → List Req) : Prop :=
  ∀ s k, pre s → s.g.id ≠ 0 → s.mayAccess (f s) → k ∈ rs s → k.misaligned (f s) → (∀ r ∈ rs s, r.lane < k.lane → ¬r.misaligned (f s)) →
    (∀ r ∈ rs s, ¬r.misaligned (f s) → let at_ := s.place s.g (f s) r
      (∃ bs, at_ = .own bs) ∨ (∃ a, at_ = .far a) ∨ ∃ p, at_ = .glob p) →
    ∃ t e, exec i s = .next t ∧
      (∀ l, l < 64 → (e.lanes.getLsbD l = true ↔ ∃ r ∈ rs s, r.lane = l ∧ r.misaligned (f s))) ∧
      e.off = s.path.pc ∧ e.word = s.word ∧ e.planes = s.pmask ∧ e.replay = false ∧ e.wb = s.g.wb ∧
      (∀ r ∈ rs s, r.misaligned (f s) → (r.lane, r.ea) ∈ e.addr) ∧
      let r : TrapRegs := ⟨0x5012, s.trapPc, e.lanes, k.ea, 0⟩
      ((∃ x, t.g.stopping = some x ∧ x.regs = r ∧ x.entries = [e]) ∨
        (t.g.stopping = none ∧ t.g.trap = r ∧ t.g.pend = putEntry e (s.g.pend.filter fun e => e.lanes != 0)))
/-- The read that the word has sent for itself is o and has returned, for these lanes (R251, R260). -/
def State.readBack (s : State) (o : MemOp) (ls : List Nat) : Prop :=
  s.ownRead = some o ∧ (∀ p ∈ o.parts, p.st = .done) ∧ o.parts.map (·.lane) = ls
/-- The word takes what its read has found. -/
def State.taken (s : State) (o : MemOp) : State := { s with ops := s.ops.filter (·.id != o.id) }
/-- A word that has not read what it needs, and whose lanes all pass their checks, sends its read of n bytes at each address, and waits for
it (R251, R260). -/
def SendsRead (pre : State → Prop) (i : Instr) (n : Nat) (eas : State → List (Nat × U64)) : Prop :=
  let f : Form := ⟨.load, 0, n, false, false, 0, false, false, 0, false, .none, true⟩
  ∀ s, pre s → eas s ≠ [] → s.ownRead = none → (∀ q ∈ s.ops, q.id < s.serial) →
    let rs := (eas s).map fun e => (⟨e.1, e.2, 0, 0⟩ : Req)
    (∀ r ∈ rs, ∃ p, s.place s.g f r = .glob p) → ∃ t, exec i s = .next t ∧ Leaves f rs s t
/-- With no active lane the word has no effect and goes on (R185). -/
def Inert (h : Hint) (i : Instr) : Prop := ∀ s, s.act h = 0 → exec i s = .next (retire h s)
/-- A counted barrier's 16 bytes are at k: the access passes its checks (R327). -/
def State.barrierAt (s : State) (space : Nat) (write fresh : Bool) (ea : U64) (k : Nat) : Prop :=
  s.localLoc s.g space (lowest s.before) ea 16 = .at_ k ∧ (s.g.drover = false → s.locked write k 16 = none) ∧
  (∀ o ∈ s.ops, o.agent = s.g.id → ∀ p ∈ o.parts, p.st.isOver = true ∨ meets (p.bytes o.size) (2 ^ 60 + k, 2 ^ 60 + k + 16) = false) ∧
  (fresh = false → s.readBad k 16 = none)

end Sys2Proof.Machine
end

