-- ==== Sys2Proof/Certificates/Slice0/Obligations.lean ====
section
/-!
DEFINITION. The statements for the provers: what the words and the events do, where they complete, what they leave unchanged, and what
every step keeps.
-/
open Sys2Proof Sys2Proof.Machine

-- Scalar words.

/-- R239: the operations of the register forms, of 64 bits or of 32; nothing but sD changes. -/
def Obligations.ScalarRegisterResults : Prop :=
  ScalarOp .sAdd (fun _ x y => x + y) ∧ ScalarOp .sSub (fun _ x y => x - y) ∧ ScalarOp .sMul (fun _ x y => x * y) ∧
  ScalarOp .sMulh (fun n x y => BitVec.ofInt n (x.toInt * y.toInt / 2 ^ n)) ∧
  ScalarOp .sMulhu (fun n x y => BitVec.ofNat n (x.toNat * y.toNat / 2 ^ n)) ∧
  ScalarOp .sDiv (fun n x y => if y = 0 then BitVec.allOnes n else BitVec.ofInt n (x.toInt.tdiv y.toInt)) ∧
  ScalarOp .sDivu (fun n x y => if y = 0 then BitVec.allOnes n else BitVec.ofNat n (x.toNat / y.toNat)) ∧
  ScalarOp .sRem (fun n x y => if y = 0 then x else BitVec.ofInt n (x.toInt.tmod y.toInt)) ∧
  ScalarOp .sRemu (fun n x y => if y = 0 then x else BitVec.ofNat n (x.toNat % y.toNat)) ∧
  ScalarOp .sAnd (fun _ x y => x &&& y) ∧ ScalarOp .sOr (fun _ x y => x ||| y) ∧ ScalarOp .sXor (fun _ x y => x ^^^ y) ∧
  ScalarOp .sAndn (fun _ x y => x &&& ~~~y) ∧
  ScalarOp .sShl (fun n x y => x <<< (y.toNat % n)) ∧ ScalarOp .sShr (fun n x y => x >>> (y.toNat % n)) ∧
  ScalarOp .sSra (fun n x y => x.sshiftRight (y.toNat % n)) ∧
  ScalarOp .sMin (fun _ x y => if x.toInt < y.toInt then x else y) ∧
  ScalarOp .sMax (fun _ x y => if x.toInt < y.toInt then y else x) ∧
  ScalarOp .sMinu (fun _ x y => if x.toNat < y.toNat then x else y) ∧
  ScalarOp .sMaxu (fun _ x y => if x.toNat < y.toNat then y else x) ∧
  ScalarOp1 .sClz (fun n x => BitVec.ofNat n (((List.range n).reverse.takeWhile fun i => !x.getLsbD i).length)) ∧
  ScalarOp1 .sPopc (fun n x => BitVec.ofNat n ((List.range n).countP fun i => x.getLsbD i)) ∧
  (∀ h w d a b c, WritesScalar (.sMad h w d a b c) h d fun s =>
    if w then (lo32 (s.sr a) * lo32 (s.sr b) + lo32 (s.sr c)).signExtend 64 else s.sr a * s.sr b + s.sr c) ∧
  ScalarOp1 .sMov (fun _ x => x) ∧
  (∀ h d a b c, WritesScalar (.sSel h d a b c) h d fun s => if s.sr c ≠ 0 then s.sr a else s.sr b)

/-- R181, R241: the immediate, shift-immediate, wide-immediate and PC-relative forms. In S.ADDPC the word of the lowest plane at issue
was fetched from its own copy (R166). -/
def Obligations.ScalarImmediateResults : Prop :=
  ScalarImm .sAddi (fun x y => x + y) ∧ ScalarImm .sAndi (fun x y => x &&& y) ∧ ScalarImm .sOri (fun x y => x ||| y) ∧
  ScalarImm .sXori (fun x y => x ^^^ y) ∧
  ScalarShift .sShli (fun x n => x <<< n) ∧ ScalarShift .sShri (fun x n => x >>> n) ∧
  ScalarShift .sSrai (fun x n => x.sshiftRight n) ∧
  (∀ h d m, WritesScalar (.sMovi h d m) h d fun _ => m.signExtend 64) ∧
  (∀ h d m, WritesScalar (.sMovhi h d m) h d fun s => BitVec.ofNat 64 (m.toNat * 2 ^ 34 + (s.sr d).toNat % 2 ^ 34)) ∧
  (∀ h d m, WritesScalar (.sAddpc h d m) h d fun s =>
    let o := match s.g.region with
      | some r => if (s.path.pc - r.base).toNat < r.len then s.path.pc + BitVec.ofNat 54 (lowPlane s.pmask * r.len) else s.path.pc
      | none => s.path.pc
    BitVec.ofNat 64 (8 * (o + 1 + m.signExtend 54).toNat))

/-- R240 and R242: S.CMP and S.CMPI write 1 when COND holds and 0 otherwise, for COND 0 to 11; S.BFX and S.BFI take the field of LEN
bits at POS of an operand in which it fits, and their .b32 forms sign-extend the result. -/
def Obligations.ScalarCompareAndFields : Prop :=
  (∀ h w c d a b, c.toNat < 12 → ∀ s, ∃ t, exec (.sCmp h w c d a b) s = .next t ∧ ModuleKept s t ∧
    GangKeptButScalar d.toNat s.g t.g ∧ (s.act h = 0 → t.sr d = s.sr d) ∧
    (s.act h ≠ 0 → (t.sr d = 1 ∧ (if w then condHolds 32 c.toNat (lo32 (s.sr a)) (lo32 (s.sr b)) else condHolds 64 c.toNat (s.sr a) (s.sr b))) ∨
      (t.sr d = 0 ∧ ¬(if w then condHolds 32 c.toNat (lo32 (s.sr a)) (lo32 (s.sr b)) else condHolds 64 c.toNat (s.sr a) (s.sr b))))) ∧
  (∀ h c d a m, c.toNat < 12 → ∀ s, ∃ t, exec (.sCmpi h c d a m) s = .next t ∧ ModuleKept s t ∧
    GangKeptButScalar d.toNat s.g t.g ∧ (s.act h = 0 → t.sr d = s.sr d) ∧
    (s.act h ≠ 0 → (t.sr d = 1 ∧ condHolds 64 c.toNat (s.sr a) (m.signExtend 64)) ∨
      (t.sr d = 0 ∧ ¬condHolds 64 c.toNat (s.sr a) (m.signExtend 64)))) ∧
  (∀ h w sx pos len1 d a s, pos.toNat + (len1.toNat + 1) ≤ (if w then 32 else 64) →
    ∃ t, exec (.sBfx h w sx pos len1 d a) s = .next t ∧ ModuleKept s t ∧ GangKeptButScalar d.toNat s.g t.g ∧
      (s.act h = 0 → t.sr d = s.sr d) ∧ (s.act h ≠ 0 → w = true → t.sr d = ((t.sr d).setWidth 32 : U32).signExtend 64) ∧
      (s.act h ≠ 0 → ∀ j, j < (if w then 32 else 64) → (t.sr d).getLsbD j =
        if j < len1.toNat + 1 then (s.sr a).getLsbD (pos.toNat + j) else sx && (s.sr a).getLsbD (pos.toNat + len1.toNat))) ∧
  (∀ h w pos len1 d a s, pos.toNat + (len1.toNat + 1) ≤ (if w then 32 else 64) →
    ∃ t, exec (.sBfi h w pos len1 d a) s = .next t ∧ ModuleKept s t ∧ GangKeptButScalar d.toNat s.g t.g ∧
      (s.act h = 0 → t.sr d = s.sr d) ∧ (s.act h ≠ 0 → w = true → t.sr d = ((t.sr d).setWidth 32 : U32).signExtend 64) ∧
      (s.act h ≠ 0 → ∀ j, j < (if w then 32 else 64) → (t.sr d).getLsbD j =
        if pos.toNat ≤ j ∧ j < pos.toNat + (len1.toNat + 1) then (s.sr a).getLsbD (j - pos.toNat) else (s.sr d).getLsbD j))

-- Vector integer words.

/-- R270: the results of V.ADD to V.MOVI, of 32-bit elements, or of 16-bit halves under .x2; nothing but the active lanes of vD
changes. -/
def Obligations.VectorIntegerResults : Prop :=
  VectorOpX .vAdd (fun _ x y => x + y) ∧ VectorOpX .vSub (fun _ x y => x - y) ∧ VectorOpX .vMul (fun _ x y => x * y) ∧
  VectorOp .vMulh (fun x y => BitVec.ofInt 32 (x.toInt * y.toInt / 2 ^ 32)) ∧
  VectorOp .vMulhu (fun x y => BitVec.ofNat 32 (x.toNat * y.toNat / 2 ^ 32)) ∧
  (∀ h d a b c, WritesVector (.vMad h d a b c) h d fun s l => s.vr a l * s.vr b l + s.vr c l) ∧
  VectorOp .vAnd (fun x y => x &&& y) ∧ VectorOp .vOr (fun x y => x ||| y) ∧ VectorOp .vXor (fun x y => x ^^^ y) ∧
  VectorOp .vAndn (fun x y => x &&& ~~~y) ∧
  VectorOpX .vShl (fun n x y => if n ≤ y.toNat then 0 else x <<< y.toNat) ∧
  VectorOpX .vShr (fun n x y => if n ≤ y.toNat then 0 else x >>> y.toNat) ∧
  VectorOpX .vSra (fun n x y => if n ≤ y.toNat then (if x.msb then BitVec.allOnes n else 0) else x.sshiftRight y.toNat) ∧
  VectorOpX .vMin (fun _ x y => if x.toInt < y.toInt then x else y) ∧
  VectorOpX .vMax (fun _ x y => if x.toInt < y.toInt then y else x) ∧
  VectorOpX .vMinu (fun _ x y => if x.toNat < y.toNat then x else y) ∧
  VectorOpX .vMaxu (fun _ x y => if x.toNat < y.toNat then y else x) ∧
  (∀ h x2 d a, WritesVector (.vAbs h x2 d a) h d fun s l => elem1 x2 (fun n x => BitVec.ofNat n x.toInt.natAbs) (s.vr a l)) ∧
  VectorOp1 .vClz (fun x => BitVec.ofNat 32 (((List.range 32).reverse.takeWhile fun i => !x.getLsbD i).length)) ∧
  VectorOp1 .vPopc (fun x => BitVec.ofNat 32 ((List.range 32).countP fun i => x.getLsbD i)) ∧
  (∀ h x2 d a b, WritesVector (.vAddsat h x2 false d a b) h d fun s l =>
    elem2 x2 (fun n x y => BitVec.ofInt n (max (-2 ^ (n - 1)) (min (2 ^ (n - 1) - 1) (x.toInt + y.toInt)))) (s.vr a l) (s.vr b l)) ∧
  (∀ h x2 d a b, WritesVector (.vAddsat h x2 true d a b) h d fun s l =>
    elem2 x2 (fun n x y => BitVec.ofNat n (min (2 ^ n - 1) (x.toNat + y.toNat))) (s.vr a l) (s.vr b l)) ∧
  (∀ h x2 d a b, WritesVector (.vSubsat h x2 false d a b) h d fun s l =>
    elem2 x2 (fun n x y => BitVec.ofInt n (max (-2 ^ (n - 1)) (min (2 ^ (n - 1) - 1) (x.toInt - y.toInt)))) (s.vr a l) (s.vr b l)) ∧
  (∀ h x2 d a b, WritesVector (.vSubsat h x2 true d a b) h d fun s l =>
    elem2 x2 (fun n x y => BitVec.ofNat n (x.toNat - y.toNat)) (s.vr a l) (s.vr b l)) ∧
  (∀ h ua ub d a b c, WritesVector (.vDot4 h ua ub d a b c) h d fun s l =>
    let byte := fun (u : Bool) (x : U32) (i : Nat) => if u then ((x.extractLsb' (8 * i) 8).toNat : Int) else (x.extractLsb' (8 * i) 8).toInt
    let p := fun (i : Nat) => byte ua (s.vr a l) i * byte ub (s.vr b l) i
    BitVec.ofInt 32 ((s.vr c l).toInt + p 0 + p 1 + p 2 + p 3)) ∧
  VectorOp1 .vMov (fun x => x) ∧
  (∀ h d a, WritesVector (.vMovs h d a) h d fun s _ => (s.sr a).setWidth 32) ∧
  (∀ h d a m, WritesVector (.vAddi h d a m) h d fun s l => s.vr a l + m.signExtend 32) ∧
  (∀ h d a m, WritesVector (.vAndi h d a m) h d fun s l => s.vr a l &&& m.signExtend 32) ∧
  VectorShift .vShli (fun x n => if 32 ≤ n then 0 else x <<< n) ∧
  VectorShift .vShri (fun x n => if 32 ≤ n then 0 else x >>> n) ∧
  VectorShift .vSrai (fun x n => if 32 ≤ n then (if x.msb then BitVec.allOnes 32 else 0) else x.sshiftRight n) ∧
  (∀ h d m, WritesVector (.vMovi h d m) h d fun _ _ => m.setWidth 32)

/-- R271: V.CMP for COND 0 to 11, V.SEL, and V.BFX and V.BFI where the field fits. -/
def Obligations.VectorCompareSelectFields : Prop :=
  (∀ h c d a b, c.toNat < 12 → ∀ s, ∃ t, exec (.vCmp h c d a b) s = .next t ∧ ModuleKept s t ∧
    GangKeptButMask d.toNat (s.act h) s.g t.g ∧
    (d ≠ 0 → ∀ l, l < s.g.width → (s.act h).getLsbD l = true →
      ((t.g.mget d.toNat).getLsbD l = true ↔ condHolds 32 c.toNat (s.vr a l) (s.vr b l)))) ∧
  (∀ h d a b m, WritesVector (.vSel h d a b m) h d fun s l => if (s.g.mget m.toNat).getLsbD l then s.vr a l else s.vr b l) ∧
  (∀ h sx pos len1 d a s, pos.toNat + (len1.toNat + 1) ≤ 32 →
    ∃ t, exec (.vBfx h sx pos len1 d a) s = .next t ∧ ModuleKept s t ∧ GangKeptButVector [s.g.phys d.toNat] (s.act h) s.g t.g ∧
      ∀ l, (s.act h).getLsbD l = true → ∀ j, j < 32 → (t.vr d l).getLsbD j =
        if j < len1.toNat + 1 then (s.vr a l).getLsbD (pos.toNat + j) else sx && (s.vr a l).getLsbD (pos.toNat + len1.toNat)) ∧
  (∀ h pos len1 d a s, pos.toNat + (len1.toNat + 1) ≤ 32 →
    ∃ t, exec (.vBfi h pos len1 d a) s = .next t ∧ ModuleKept s t ∧ GangKeptButVector [s.g.phys d.toNat] (s.act h) s.g t.g ∧
      ∀ l, (s.act h).getLsbD l = true → ∀ j, j < 32 → (t.vr d l).getLsbD j =
        if pos.toNat ≤ j ∧ j < pos.toNat + (len1.toNat + 1) then (s.vr a l).getLsbD (j - pos.toNat) else (s.vr d l).getLsbD j)

-- Floating point.

/-- R273, R274: FP32 arithmetic on operands that hold no marker: exact, then rounded once, with the flags ORed into FPFLAGS. -/
def Obligations.FloatArithmeticResults : Prop :=
  FloatOp .fAdd (fun rm x y => toF32 rm (addVal (rm == .rd) x y)) ∧
  FloatOp .fSub (fun rm x y => toF32 rm (addVal (rm == .rd) x y.neg)) ∧
  FloatOp .fMul (fun rm x y => toF32 rm (mulVal x y)) ∧
  (∀ h m d a b c, WritesFloat (.fFma h m d a b c) h d (fun s l => [s.vr a l, s.vr b l, s.vr c l]) fun s l =>
    toF32 (rmOf m.rm) (addVal (rmOf m.rm == .rd) (mulVal (srcA m (s.vr a l)) (srcB m (s.vr b l))) (srcC m (s.vr c l)))) ∧
  FloatOp .fDiv (fun rm x y => rounded rm (divVal x y)) ∧
  FloatOp1 .fSqrt (fun rm x => toF32 rm (sqrtVal x)) ∧
  FloatOp1 .fRnd (fun rm x => rndF rm x) ∧
  (∀ h m d a b, WritesFloat (.fScale h m d a b) h d (fun s l => [s.vr a l]) fun s l =>
    toF32 (rmOf m.rm) (scaleVal (srcA m (s.vr a l)) (s.vr b l).toInt)) ∧
  (∀ h m d a b, WritesFloat (.fMin h m d a b) h d (fun s l => [s.vr a l, s.vr b l]) fun s l =>
    minMax false (signMods 31 m.negA m.absA (s.vr a l)) (signMods 31 m.negB m.absB (s.vr b l))) ∧
  (∀ h m d a b, WritesFloat (.fMax h m d a b) h d (fun s l => [s.vr a l, s.vr b l]) fun s l =>
    minMax true (signMods 31 m.negA m.absA (s.vr a l)) (signMods 31 m.negB m.absB (s.vr b l)))

/-- R277: the special functions, always rounded to nearest even. -/
def Obligations.SpecialFunctionResults : Prop :=
  FloatOp1 .fRcp (fun _ x => rounded .rne (divVal (.num false 1 0 false) x)) ∧
  FloatOp1 .fRsq (fun _ x => rounded .rne (rsqVal x)) ∧
  FloatOp1 .fExp2 (fun _ x => toF32 .rne (exp2Val x)) ∧
  FloatOp1 .fLog2 (fun _ x => rounded .rne (log2Val x)) ∧
  FloatOp1 .fSinpi (fun _ x => toF32 .rne (sinpiVal x)) ∧
  FloatOp1 .fCospi (fun _ x => toF32 .rne (cospiVal x)) ∧
  FloatOp1 .fTanh (fun _ x => toF32 .rne (tanhVal x))

/-- R275, R276: F.CMP writes mask bits and raises NV; F.CLASS sets exactly one of ten class bits, and bit 10 for a marker. -/
def Obligations.FloatCompareAndClass : Prop :=
  (∀ h m c d a b s, Unmarked s h (fun l => [s.vr a l, s.vr b l]) →
    ∃ t, exec (.fCmp h m c d a b) s = .next t ∧ ModuleKept s t ∧
      GangKeptButMask d.toNat (s.act h) { s.g with fp := t.g.fp } t.g ∧
      (∀ l, d ≠ 0 → l < s.g.width → (s.act h).getLsbD l = true →
        (t.g.mget d.toNat).getLsbD l = (cmpF c (srcA m (s.vr a l)) (srcB m (s.vr b l))).1) ∧
      t.g.fp = (lanesOf (s.act h)).foldl (fun z l => z ||| (cmpF c (srcA m (s.vr a l)) (srcB m (s.vr b l))).2) s.g.fp) ∧
  (∀ h d a, WritesVector (.fClass h d a) h d fun s l => classF (s.vr a l)) ∧
  (∀ x : U32, (∃ k : Nat, k < 10 ∧ (classF x).toNat = 2 ^ k + if (marker x).isSome then 1024 else 0)) ∧
  (∀ x : U32, (marker x).isSome = true ↔ 0x7F810000 ≤ x.toNat ∧ x.toNat < 0x7F840000)

/-- R278, R280 to R283: packed 16-bit arithmetic and the conversions, on operands that hold no marker. -/
def Obligations.PackedAndConversionResults : Prop :=
  (∀ h bf m d a b, WritesFloat (.hAdd h bf m d a b) h d (fun s l => [s.vr a l, s.vr b l]) fun s l => halves fun i =>
    addF (hFmt bf) (rmOf m.rm) (hElem bf m.negA m.absA (s.vr a l) i) (hElem bf m.negB m.absB (s.vr b l) i)) ∧
  (∀ h bf m d a b, WritesFloat (.hMul h bf m d a b) h d (fun s l => [s.vr a l, s.vr b l]) fun s l => halves fun i =>
    mulF (hFmt bf) (rmOf m.rm) (hElem bf m.negA m.absA (s.vr a l) i) (hElem bf m.negB m.absB (s.vr b l) i)) ∧
  (∀ h bf m d a b c, WritesFloat (.hFma h bf m d a b c) h d (fun s l => [s.vr a l, s.vr b l, s.vr c l]) fun s l => halves fun i =>
    fmaF (hFmt bf) (rmOf m.rm) (hElem bf m.negA m.absA (s.vr a l) i) (hElem bf m.negB m.absB (s.vr b l) i)
      (hElem bf m.negC false (s.vr c l) i)) ∧
  (∀ h dst src rmx sat sel k d a, WritesFloat (.fCvt h dst src rmx sat sel k d a) h d
    (fun s l => if isIntFmt src then [] else [s.vr a l]) fun s l =>
      roundTo dst (decodeVal src (elemAt (fmtWidth src) sel.toNat (s.vr a l))) (rmxOf rmx) sat
        (if rmx = 5 then srWord (s.g.sget (2 * k.toNat)) (s.globalLane s.g l) (s.g.sget (2 * k.toNat + 1)) 0 else 0)) ∧
  (∀ h i n rm d a, WritesFloat (.fCvtiToInt h i n rm d a) h d (fun s l => [s.vr a l]) fun s l =>
    let r := roundInt (intRange (ifmt i).1 (ifmt i).2).1 (intRange (ifmt i).1 (ifmt i).2).2 (scaleVal (f32 (s.vr a l)) n.toInt) (rmOf rm) 0
    ((r.1 % (2 ^ 32 : Nat)).toNat, r.2)) ∧
  (∀ h i n rm d a, WritesFloat (.fCvtiToFloat h i n rm d a) h d (fun _ _ => []) fun s l =>
    toF32 (rmOf rm) (scaleVal (decodeVal i (s.vr a l).toNat) n.toInt)) ∧
  (∀ h dst rmx sat j k d a b, WritesFloat (.fPack h dst rmx sat j k d a b) h d (fun s l => [s.vr a l, s.vr b l]) fun s l =>
    let w := fmtWidth dst
    let sr := fun (n : Nat) => if rmx = 5 then srWord (s.g.sget (2 * k.toNat)) (s.globalLane s.g l) (s.g.sget (2 * k.toNat + 1)) n else 0
    let x := roundTo dst (f32 (s.vr a l)) (rmxOf rmx) sat (sr 0)
    let y := roundTo dst (f32 (s.vr b l)) (rmxOf rmx) sat (sr 1)
    ((bfi 32 (w * (2 * j.toNat)) (2 * w) (s.vr d l) (BitVec.ofNat 32 (x.1 + y.1 * 2 ^ w))).toNat, x.2 ||| y.2)) ∧
  (∀ h ef sf sel rm d a b, WritesFloat (.fDeq h ef sf sel rm d a b) h d (fun s l => if isIntFmt ef then [] else [s.vr a l]) fun s l =>
    toF32 (rmOf rm) (scaled (decodeVal ef (elemAt (fmtWidth ef) sel.toNat (s.vr a l))) (decodeVal sf ((s.vr b l).toNat % 256)))) ∧
  (∀ h srcf j d a s, Unmarked s h (fun l => if isIntFmt srcf then [] else [s.vr a l]) → 1 < s.g.q →
    ∃ t, exec (.fUnpk h srcf j d a) s = .next t ∧ ModuleKept s t ∧
      GangKeptButVector [s.g.phys d.toNat, s.g.phys (d.toNat + 1)] (s.act h) { s.g with fp := t.g.fp } t.g ∧
      t.g.fp = s.g.fp ||| (lanesOf (s.act h)).foldl (fun z l => z |||
        (toF32 .rne (decodeVal srcf (elemAt (fmtWidth srcf) (2 * j.toNat) (s.vr a l)))).2 |||
        (toF32 .rne (decodeVal srcf (elemAt (fmtWidth srcf) (2 * j.toNat + 1) (s.vr a l)))).2) 0 ∧
      ∀ l, (s.act h).getLsbD l = true →
        t.vr d l = BitVec.ofNat 32 (toF32 .rne (decodeVal srcf (elemAt (fmtWidth srcf) (2 * j.toNat) (s.vr a l)))).1 ∧
        t.g.vget (d.toNat + 1) l = BitVec.ofNat 32 (toF32 .rne (decodeVal srcf (elemAt (fmtWidth srcf) (2 * j.toNat + 1) (s.vr a l)))).1)

/-- R273, item 4, and R226: every NaN result is the canonical one, and a number that FP32 holds rounds to itself with no flag. -/
def Obligations.RoundingKeepsValues : Prop :=
  (∀ rm x, (f32 (BitVec.ofNat 32 (toF32 rm x).1)).isNan = true → (toF32 rm x).1 = 0x7FC00000) ∧
  (∀ rm (w : U32), (f32 w).isNan = false → toF32 rm (f32 w) = (w.toNat, 0)) ∧
  (∀ rm x, (toF32 rm x).1 < 2 ^ 32)

/-- R165, R361: an active lane that reads a marker as floating-point data stops the word: no register is written, the trap says which
lanes matched and what the lowest of them read first, and its offset and planes; with nothing outstanding the trap is taken. The FP32 words, the
packed ones, the conversions from floating point, RDX and SCAN of FP32, the halves of pairs, and floating-point atomics and reduce-stores read so. -/
def Obligations.MarkerStopsFloat : Prop :=
  let stops := fun (i : Instr) (m : State → U64) (words : State → Nat → List U32) => ∀ s l x c n,
    (∀ k, k < l → (m s).getLsbD k = true → ∀ y ∈ words s k, marker y = none) → l < 64 → (m s).getLsbD l = true →
    (words s l).find? (fun y => (marker y).isSome) = some x → marker x = some (c, n) →
    ∃ t r, exec i s = .next t ∧ StopsAt ⟨r, s.path.pc, lowPlane s.pmask, s.cur, []⟩ s t ∧
      r.cause = 0x03 ∧ r.pc = (s.pmask ++ s.path.pc).setWidth 64 ∧ r.reg = BitVec.ofNat 64 (c * 65536 + n) ∧ r.addr = 0 ∧
      ∀ k, k < 64 → (r.mask.getLsbD k = true ↔ (m s).getLsbD k = true ∧ ∃ y ∈ words s k, (marker y).isSome = true)
  let act := fun (h : Hint) (s : State) => s.act h
  let two := fun (i : Hint → FMod → Reg → Reg → Reg → Instr) => ∀ h m d a b, stops (i h m d a b) (act h) fun s l => [s.vr a l, s.vr b l]
  let one := fun (i : Hint → FMod → Reg → Reg → Instr) => ∀ h m d a, stops (i h m d a) (act h) fun s l => [s.vr a l]
  two .fAdd ∧ two .fSub ∧ two .fMul ∧ two .fDiv ∧ two .fMin ∧ two .fMax ∧ one .fSqrt ∧ one .fRnd ∧
  one .fRcp ∧ one .fRsq ∧ one .fExp2 ∧ one .fLog2 ∧ one .fSinpi ∧ one .fCospi ∧ one .fTanh ∧
  (∀ h m d a b c, stops (.fFma h m d a b c) (act h) fun s l => [s.vr a l, s.vr b l, s.vr c l]) ∧
  (∀ h m d a b, stops (.fScale h m d a b) (act h) fun s l => [s.vr a l]) ∧
  (∀ h m c d a b, stops (.fCmp h m c d a b) (act h) fun s l => [s.vr a l, s.vr b l]) ∧
  (∀ h bf m d a b, stops (.hAdd h bf m d a b) (act h) (fun s l => [s.vr a l, s.vr b l]) ∧
    stops (.hMul h bf m d a b) (act h) fun s l => [s.vr a l, s.vr b l]) ∧
  (∀ h bf m d a b c, stops (.hFma h bf m d a b c) (act h) fun s l => [s.vr a l, s.vr b l, s.vr c l]) ∧
  (∀ h dst src rmx sat sel k d a, stops (.fCvt h dst src rmx sat sel k d a) (act h) fun s l => if isIntFmt src then [] else [s.vr a l]) ∧
  (∀ h i n rm d a, stops (.fCvtiToInt h i n rm d a) (act h) fun s l => [s.vr a l]) ∧
  (∀ h dst rmx sat j k d a b, stops (.fPack h dst rmx sat j k d a b) (act h) fun s l => [s.vr a l, s.vr b l]) ∧
  (∀ h ef sf sel rm d a b, stops (.fDeq h ef sf sel rm d a b) (act h) fun s l => if isIntFmt ef then [] else [s.vr a l]) ∧
  (∀ h srcf j d a, stops (.fUnpk h srcf j d a) (act h) fun s l => if isIntFmt srcf then [] else [s.vr a l]) ∧
  (∀ h d a, stops (.rdxAdd h 2 d a) (act h) (fun s l => [s.vr a l]) ∧ stops (.rdxMin h 2 d a) (act h) (fun s l => [s.vr a l]) ∧
    stops (.rdxMax h 2 d a) (act h) fun s l => [s.vr a l]) ∧
  (∀ h excl d a, stops (.scanAdd h excl true d a) (act h) fun s l => [s.vr a l]) ∧
  (∀ sl x y, stops (.pairWord sl x y) (·.halfAct x) fun s => s.halfFloats x) ∧
  (∀ sl x y, (∀ s : State, s.halfFloats x = fun _ => []) → stops (.pairWord sl x y) (·.halfAct y) fun s => s.halfFloats y) ∧
  ∀ h x (aop : BitVec 4) d a b, 10 ≤ aop.toNat → stops (.atom h x aop d a b) (act h) (fun s l => [s.vr d l]) ∧
    stops (.rstore h x aop d a b) (act h) (fun s l => [s.vr d l]) ∧
    stops (.atomS h x aop d a b) (fun s => if s.act h = 0 then 0 else s.before) fun s _ => [(s.sr d).setWidth 32]

-- Lanes and masks.

/-- R286: the shuffles. -/
def Obligations.ShuffleResults : Prop :=
  (∀ h seg d a b, WritesVector (.shflIdx h seg d a b) h d fun s l =>
    let n := if seg = 0 then s.g.width else 2 ^ seg.toNat
    s.vr a (l - l % n + (s.vr b l).toNat % n)) ∧
  (∀ h seg k d a, WritesVector (.shflUp h seg k d a) h d fun s l =>
    let n := if seg = 0 then s.g.width else 2 ^ seg.toNat
    s.vr a (if l - l % n + k.toNat ≤ l then l - k.toNat else l)) ∧
  (∀ h seg k d a, WritesVector (.shflDn h seg k d a) h d fun s l =>
    let n := if seg = 0 then s.g.width else 2 ^ seg.toNat
    s.vr a (if l + k.toNat < l - l % n + n then l + k.toNat else l)) ∧
  (∀ h seg k d a, WritesVector (.shflXor h seg k d a) h d fun s l => s.vr a (l ^^^ k.toNat))

/-- R287: LANEID, the votes, BALLOT, V2S and S2L. -/
def Obligations.LaneAndVoteResults : Prop :=
  (∀ h d, WritesVector (.laneid h d) h d fun _ l => BitVec.ofNat 32 l) ∧
  (∀ h neg d m, WritesMask (.voteAny h neg d m) h d fun s _ =>
    (List.range 64).any fun l => (s.act h).getLsbD l && ((s.g.mget m.toNat).getLsbD l != neg)) ∧
  (∀ h neg d m, WritesMask (.voteAll h neg d m) h d fun s _ =>
    (List.range 64).all fun l => !(s.act h).getLsbD l || ((s.g.mget m.toNat).getLsbD l != neg)) ∧
  (∀ h d a s, s.act h ≠ 0 → ∃ t, exec (.ballot h d a) s = .next t ∧ ModuleKept s t ∧ GangKeptButScalar d.toNat s.g t.g ∧
    ∀ l, l < s.g.width → l < 64 → ((t.sr d).getLsbD l = true ↔ (s.act h).getLsbD l = true ∧ s.vr a l ≠ 0)) ∧
  (∀ h sx k d a, WritesScalar (.v2s h sx k d a) h d fun s =>
    if sx then (s.vr a k.toNat).signExtend 64 else (s.vr a k.toNat).setWidth 64) ∧
  (∀ h k d a s, ∃ t, exec (.s2l h k d a) s = .next t ∧ ModuleKept s t ∧
    GangKeptButVector [s.g.phys d.toNat] (s.act h &&& BitVec.ofNat 64 (2 ^ k.toNat)) s.g t.g ∧
    ((s.act h).getLsbD k.toNat = true → t.vr d k.toNat = (s.sr a).setWidth 32))

/-- R288, R289: the reductions and the scans of integers and of unmarked FP32 words, by the trees of the rules. -/
def Obligations.ReductionAndScanResults : Prop :=
  let lanes := fun (s : State) (h : Hint) (a : Reg) (l : Nat) =>
    if (s.act h).getLsbD l then some ((s.vr a l, 0) : U32 × BitVec 5) else none
  let reduces := fun (i : Hint → BitVec 2 → Reg → Reg → Instr) (op : Nat) =>
    ∀ h ty d a s, Unmarked s h (fun l => if ty = 2 then [s.vr a l] else []) →
      ∃ t, exec (i h ty d a) s = .next t ∧ ModuleKept s t ∧ GangKeptButScalar d.toNat { s.g with fp := t.g.fp } t.g ∧
        match reduceTree op ty (lanes s h a) (Nat.log2 s.g.width) 0 with
        | none => t.sr d = s.sr d ∧ t.g.fp = s.g.fp
        | some (x, fl) => t.sr d = (if ty = 0 then x.signExtend 64 else x.setWidth 64) ∧ t.g.fp = s.g.fp ||| fl
  reduces .rdxAdd 0 ∧ reduces .rdxMin 1 ∧ reduces .rdxMax 2 ∧
  (∀ h excl fl d a s, Unmarked s h (fun l => if fl then [s.vr a l] else []) →
    ∃ t, exec (.scanAdd h excl fl d a) s = .next t ∧ ModuleKept s t ∧
      GangKeptButVector [s.g.phys d.toNat] (s.act h) { s.g with fp := t.g.fp } t.g ∧
      let u := scanTree (if fl then 2 else 0) (Nat.log2 s.g.width) 0 ((List.range s.g.width).map fun l => (lanes s h a l).map (·.1)) 0
      t.g.fp = s.g.fp ||| u.2 ∧
      ∀ l, (s.act h).getLsbD l = true → t.vr d l =
        if excl then (if l = 0 then 0 else ((u.1[l - 1]?).getD none).getD 0) else ((u.1[l]?).getD none).getD 0)

/-- R290, R291: the mask instructions. M.SETX writes the bits of the live lanes of the path and the planes at issue that pass the guard,
and of no others; bits at and above W are zero. -/
def Obligations.MaskAndExecResults : Prop :=
  MaskOp .mAnd (fun x y => x && y) ∧ MaskOp .mOr (fun x y => x || y) ∧ MaskOp .mXor (fun x y => x != y) ∧
  (∀ h d a, WritesMask (.mNot h d a) h d fun s l => !(s.g.mget a.toNat).getLsbD l) ∧
  (∀ h d a, WritesMask (.mMov h d a) h d fun s l => (s.g.mget a.toNat).getLsbD l) ∧
  (∀ h d a, WritesMask (.mFroms h d a) h d fun s l => (s.sr a).getLsbD l) ∧
  (∀ h d a, WritesScalar (.mPopc h d a) h d fun s => BitVec.ofNat 64 ((List.range 64).countP fun i => (s.g.mget a.toNat).getLsbD i)) ∧
  (∀ h d a, WritesScalar (.mFfs h d a) h d fun s => BitVec.ofNat 64 (((List.range 64).takeWhile fun i => !(s.g.mget a.toNat).getLsbD i).length)) ∧
  (∀ h d a, WritesScalar (.mTos h d a) h d fun s => s.g.mget a.toNat) ∧
  (∀ h d, WritesScalar (.mGetx h d) h d fun s => s.g.exec &&& s.g.live) ∧
  (∀ h a s, ∃ t, exec (.mSetx h a) s = .next t ∧ ModuleKept s t ∧ GangKept { s.g with exec := t.g.exec } t.g ∧
    ∀ l, l < s.g.width → l < 64 → t.g.exec.getLsbD l =
      if (s.lanes &&& s.g.live &&& s.g.passing h.guard).getLsbD l then (s.sr a).getLsbD l else s.g.exec.getLsbD l)

/-- R172, R184, R204: a guard names a mask register or its complement, m0 reads all ones, and the active lanes are those of the issue
that are live, in EXEC, and pass it. -/
def Obligations.ActiveLanes : Prop :=
  (∀ (s : State) (h : Hint) l, l < 64 → ((s.act h).getLsbD l = true ↔ s.lanes.getLsbD l = true ∧ s.g.live.getLsbD l = true ∧ s.g.exec.getLsbD l = true ∧
    ((s.g.mget (h.guard.toNat % 8)).getLsbD l = true ↔ h.guard.toNat < 8))) ∧
  (∀ a : Agent, a.mget 0 = BitVec.allOnes 64) ∧
  (∀ (a : Agent) n sel v, (a.mset n sel v).mget 0 = BitVec.allOnes 64) ∧
  (∀ (a : Agent) n sel v l, n ≠ 0 → a.width ≤ l → ((a.mset n sel v).mget n).getLsbD l = false)

/-- R165, R186 to R188: a pair reads both halves' operands before either writes; then H1 writes before H2. -/
def Obligations.PairReadsBeforeWrites : Prop :=
  (∀ sl x y s,
    (∀ l, (s.halfAct x).getLsbD l = true → ∀ w ∈ s.halfFloats x l, marker w = none) →
    (∀ l, (s.halfAct y).getLsbD l = true → ∀ w ∈ s.halfFloats y l, marker w = none) →
    ∃ t, exec (.pairWord sl x y) s = .next t ∧ t.mem = s.mem ∧ t.agents = s.agents ∧
      GangKept (putHalfWrite (s.halfWrite y) (putHalfWrite (s.halfWrite x) s)).g t.g) ∧
  (∀ sl gx gy (dx dy ax ay : BitVec 6) s, dx ≠ dy → s.before &&& s.g.passing gx ≠ 0 → s.before &&& s.g.passing gy ≠ 0 →
    ∃ t, exec (.pairWord sl ⟨.sAdd, dx, ax, gx⟩ ⟨.sSub, dy, ay, gy⟩) s = .next t ∧
      t.g.sget dx.toNat = s.g.sget dx.toNat + s.g.sget ax.toNat ∧ t.g.sget dy.toNat = s.g.sget dy.toNat - s.g.sget ay.toNat ∧
      (∀ n, n ≠ dx.toNat → n ≠ dy.toNat → t.g.sget n = s.g.sget n) ∧ t.g.vregs = s.g.vregs ∧ t.g.mregs = s.g.mregs ∧ t.mem = s.mem) ∧
  (∀ sl gx (dx dy ax ay : BitVec 6) s, dx ≠ dy → 256 ≤ s.g.q → s.before &&& s.g.passing gx = s.before →
    ∃ t, exec (.pairWord sl ⟨.vXor, dx, ax, gx⟩ ⟨.vMov, dy, ay, gx⟩) s = .next t ∧
      ∀ l, s.before.getLsbD l = true → t.g.vget dx.toNat l = s.g.vget dx.toNat l ^^^ s.g.vget ax.toNat l ∧
        t.g.vget dy.toNat l = s.g.vget ay.toNat l) ∧
  (∀ sl s, ∃ t, exec (.hnop sl) s = .next t ∧ ModuleKept s t ∧ GangKept s.g t.g)

-- Control words.

/-- R246, R262: the uniform branches and NOP send the whole path; a branch that is not taken, or whose guard passes no lane, goes on.
Where a path stands after its word, and when it would leave its region, is the model's reading (assumptions 11 and 41). -/
def Obligations.UniformBranches : Prop :=
  (∀ h x, Sends (.bra h x) h fun s => if s.act h = 0 then s.g.after s.path.pc else s.path.pc + 1 + x.signExtend 54) ∧
  (∀ h a x, Sends (.brS h false a x) h fun s =>
    if s.act h = 0 ∨ s.sr a = 0 then s.g.after s.path.pc else s.path.pc + 1 + x.signExtend 54) ∧
  (∀ h a x, Sends (.brS h true a x) h fun s =>
    if s.act h = 0 ∨ s.sr a ≠ 0 then s.g.after s.path.pc else s.path.pc + 1 + x.signExtend 54) ∧
  (∀ h neg m x, Sends (.brAny h neg m x) h fun s =>
    if (List.range 64).any (fun l => (s.act h).getLsbD l && ((s.g.mget m.toNat).getLsbD l != neg)) then s.path.pc + 1 + x.signExtend 54
    else s.g.after s.path.pc) ∧
  (∀ h neg m x, Sends (.brAll h neg m x) h fun s =>
    if s.act h ≠ 0 ∧ (List.range 64).all (fun l => !(s.act h).getLsbD l || ((s.g.mget m.toNat).getLsbD l != neg)) then
      s.path.pc + 1 + x.signExtend 54
    else s.g.after s.path.pc) ∧
  (∀ (a : Agent) o, a.region = none → a.after o = o + 1 ∧ ∀ m, a.strands m o = false) ∧
  (∀ h s, ∃ t, exec (.nop h) s = .next t ∧ ModuleKept s t ∧ GangKept s.g t.g ∧
    Proceeds h s t) ∧
  (∀ s : State, s.path.back = [] → s.goesOn = (s.g.after s.path.pc, 0))

/-- R247: LOOP counts sD down and branches while the new value is not zero; with no active lane it goes on and leaves sD as it is. It traps
where its path would leave the region with a lane outside plane 0.
Where a path stands after its word, and when it would leave its region, is the model's reading (assumptions 11 and 41). -/
def Obligations.LoopCountsDown : Prop :=
  (∀ h d x s, s.act h = 0 → ∃ t, exec (.loop h d x) s = .next t ∧
    (s.g.strands s.path.lanes (s.g.after s.path.pc) = false → MovesPath h (s.g.after s.path.pc) s t) ∧
    (s.g.strands s.path.lanes (s.g.after s.path.pc) = true → TrapsWith 0x05 0xD0 (s.lanes &&& s.g.live) 0 0 s t)) ∧
  (∀ h d x s, s.act h ≠ 0 →
    s.g.strands s.path.lanes (if s.sr d - 1 ≠ 0 then s.path.pc + 1 + x.signExtend 54 else s.g.after s.path.pc) = true →
    ∃ t, exec (.loop h d x) s = .next t ∧ TrapsWith 0x05 0xD0 (s.lanes &&& s.g.live) 0 0 s t) ∧
  ∀ h d x s, s.act h ≠ 0 →
    let o := if s.sr d - 1 ≠ 0 then s.path.pc + 1 + x.signExtend 54 else s.g.after s.path.pc
    s.g.strands s.path.lanes o = false →
    ∃ t, exec (.loop h d x) s = .next t ∧ t.sr d = s.sr d - 1 ∧ GoesTo h o s t ∧
      t.g = { s.g.ending t.g with walked := [], noHit := s.hitsAgain, sregs := t.g.sregs } ∧ RegionKept s.g t.g ∧
      (∀ n, n ≠ d.toNat → t.g.sget n = s.g.sget n) ∧ (s.TraceOff 2 → ModuleKept s t)

/-- R170, R248: BR.DIV pushes an entry with every live lane of the path; the lanes in EXEC whose predicate bit is set start at the taken
target, the others at the next word: at once, or, beside another path of the gang, after the taken arm. A spill that does not fit traps
with SPILL, and an arm that would leave the region with a lane outside plane 0 with PLANE.
Where a path stands after its word, when it would leave its region, and where a spilled entry lies in a slice are the model's readings
(assumptions 11, 38 and 41). -/
def Obligations.BranchDivergeSplits : Prop :=
  ∀ h neg m join x s, s.act h ≠ 0 →
    let all := s.path.lanes &&& s.g.live
    let t1 := all &&& s.g.exec &&& (if neg then ~~~(s.g.mget m.toNat) else s.g.mget m.toNat)
    let f1 := all &&& ~~~t1
    let tpc := s.path.pc + 1 + x.signExtend 54
    let fo := s.g.after s.path.pc
    let one := (s.g.paths.filter fun p => p.lanes &&& s.g.live != 0).length = 1
    (s.g.strands t1 tpc = true ∨ s.g.strands f1 fo = true →
      ∃ t, exec (.brDiv h neg m join x) s = .next t ∧ TrapsWith 0x05 0xD0 (s.lanes &&& s.g.live) 0 0 s t) ∧
    (s.g.strands t1 tpc = false → s.g.strands f1 fo = false →
      (∀ ea, divFails s = some ea → ∃ t, exec (.brDiv h neg m join x) s = .next t ∧ TrapsWith 0x08 0 (s.lanes &&& s.g.live) ea 0 s t) ∧
      (divFails s = none → ∃ t, exec (.brDiv h neg m join x) s = .next t ∧
        RegsKept s.g t.g ∧ HintsTaken h t.g ∧ t.sel = false ∧ t.g.divs.length = s.g.divs.length + 1 ∧
        (∀ p ∈ s.g.paths, p.id ≠ s.cur → p ∈ t.g.paths) ∧
        ∃ e, t.g.divs.head? = some e ∧ e.kind = .split ∧ e.owner = s.cur ∧ e.join = s.path.pc + 1 + join.signExtend 54 ∧ e.lanes = all ∧
          (t1 ≠ 0 → ∃ p ∈ t.g.paths, p.id ∈ e.running ∧ p.pc = tpc ∧ p.lanes = t1 ∧ p.taken = true) ∧
          (f1 ≠ 0 → t1 = 0 ∨ one → e.todo = [] ∧ ∃ p ∈ t.g.paths, p.id ∈ e.running ∧ p.pc = fo ∧ p.lanes = f1) ∧
          (f1 ≠ 0 → t1 ≠ 0 → ¬one → e.todo = [⟨f1, fo⟩]) ∧ (f1 = 0 → e.todo = [])))

/-- R170, R249: JOIN at the join of the topmost entry that covers the path is its arrival: it waits for the arms that still run; the next
arm that has a live lane starts; or the entry is popped and its live lanes form the owner's path at the next word. Anywhere else it
traps.
Where a path stands after its word, and when it would leave its region, is the model's reading (assumptions 11 and 41). -/
def Obligations.JoinArrives : Prop :=
  (∀ h s, (∀ e, s.g.cover s.cur = some e → e.join ≠ s.path.pc ∨ e.kind = .callT ∨ s.g.hasCalls s.cur = true) →
    ∃ t, exec (.join h) s = .next t ∧ TrapsWith 0x01 0xA9 (s.lanes &&& s.g.live) 0 0 s t) ∧
  (∀ h s e, s.g.cover s.cur = some e → e.join = s.path.pc → e.kind ≠ .callT → s.g.hasCalls s.cur = false →
    let left := e.todo.filter fun a => a.lanes &&& s.g.live != 0
    let done := fun (t : State) => RegsKept s.g t.g ∧ HintsTaken h t.g ∧ t.sel = false
    (e.running.filter (· != s.cur) = [] → left = [] → s.g.strands e.lanes (s.g.after e.join) = true →
      ∃ t, exec (.join h) s = .next t ∧ TrapsWith 0x05 0xD0 (s.lanes &&& s.g.live) 0 0 s t) ∧
    (e.running.filter (· != s.cur) ≠ [] → ∃ t, exec (.join h) s = .next t ∧ done t ∧ (∀ p ∈ t.g.paths, p.id ≠ s.cur) ∧
      (s.g.divs.find? (·.owner == e.owner) = some e → ∃ x ∈ t.g.divs, x = { e with running := e.running.filter (· != s.cur) })) ∧
    (∀ a r, e.running.filter (· != s.cur) = [] → left = a :: r → ∃ t, exec (.join h) s = .next t ∧ done t ∧
      (∃ p ∈ t.g.paths, p.pc = a.start ∧ p.lanes = a.lanes &&& s.g.live) ∧
      (s.g.divs.find? (·.owner == e.owner) = some e → ∃ x ∈ t.g.divs, x.owner = e.owner ∧ x.todo = r)) ∧
    (e.running.filter (· != s.cur) = [] → left = [] → s.g.strands e.lanes (s.g.after e.join) = false → e.lanes &&& s.g.live ≠ 0 →
      ∃ t, exec (.join h) s = .next t ∧ done t ∧ (∀ x ∈ t.g.divs, x.owner ≠ e.owner) ∧
        ∃ p ∈ t.g.paths, p.id = e.owner ∧ p.pc = s.g.after e.join ∧ p.lanes = e.lanes &&& s.g.live))

/-- R206, R250: CALL pushes the return offset, the frame and the path, moves the window up by F, whose newly exposed registers hold
markers, and goes to its target; a call that does not fit its spill region, or a 17th call of a drover, traps with SPILL and does
nothing. A call that moves the window waits for vector loads in flight.
Where a path stands after its word, when it would leave its region, where a spilled entry lies in a slice and the wait for loads are the model's
readings (assumptions 11, 38 and 41). -/
def Obligations.CallOpensFrame : Prop :=
  ∀ h (f : BitVec 8) x s, s.act h ≠ 0 → s.g.strands s.path.lanes (s.path.pc + 1 + x.signExtend 54) = false →
    let free := f ≠ 0 → s.vectorsDue = false
    ∃ t, exec (.call h f x) s = .next t ∧
      (s.g.drover = true → callOver s.g = true → TrapsWith 0x08 0 (s.lanes &&& s.g.live) 0 0 s t) ∧
      ((s.g.drover && callOver s.g) = false → ¬free → Waits s t) ∧
      (∀ ea, (s.g.drover && callOver s.g) = false → free → callFails f.toNat s = some ea →
        TrapsWith 0x08 0 (s.lanes &&& s.g.live) ea 0 s t) ∧
      ((s.g.drover && callOver s.g) = false → free → callFails f.toNat s = none →
        GoesTo h (s.path.pc + 1 + x.signExtend 54) s t ∧ t.g.calls.length = s.g.calls.length + 1 ∧
        (∃ e, t.g.calls.head? = some e ∧ e.ret = s.g.after s.path.pc ∧ e.frame = f.toNat ∧ e.owner = s.cur ∧
          e.lanes = s.path.lanes &&& s.g.live ∧ e.group = false ∧ e.spill = none) ∧
        t.g.wb = s.g.wb + f.toNat ∧ t.g.sregs = s.g.sregs ∧ t.g.mregs = s.g.mregs ∧ t.g.exec = s.g.exec ∧ t.g.live = s.g.live ∧
        (∀ n l, 256 - f.toNat ≤ n → n < 256 → l < s.g.width → s.g.width ≤ 64 → t.g.vget n l = vMarker (t.g.phys n)))

/-- R206, R250, R253: RET closes the newest call that the path owns: the path goes to its return offset, of a spilled entry to that which
its words decode to, and the window back to where it stood. The return of a group of CALL.T is its arrival: the next group starts, or, after the
last, the lanes of the entry form the path that made the call. With no call the word traps.
Where a path stands after its word is the model's reading (assumption 11). -/
def Obligations.ReturnClosesFrame : Prop :=
  (∀ h s, (∀ e ∈ s.g.calls, e.owner ≠ s.cur) →
    ∃ t, exec (.ret h) s = .next t ∧ TrapsWith 0x01 0xAA (s.lanes &&& s.g.live) 0 0 s t) ∧
  (∀ h s e, s.g.calls.find? (·.owner == s.cur) = some e → e.group = false →
    let o := (s.callAt s.g e).ret
    s.g.strands s.path.lanes o = false →
    (e.frame ≠ 0 → s.vectorsDue = false) → ∃ t, exec (.ret h) s = .next t ∧ GoesTo h o s t ∧ t.g.calls.length + 1 = s.g.calls.length ∧
      t.g.sregs = s.g.sregs ∧ t.g.mregs = s.g.mregs ∧ t.g.exec = s.g.exec ∧ t.g.live = s.g.live ∧
      (e.frame = 0 → t.g.wb = s.g.wb ∧ t.g.frames = s.g.frames ∧ t.g.vregs = s.g.vregs) ∧
      (∀ x r, e.frame ≠ 0 → s.g.frames = x :: r → t.g.wb = x.base ∧ t.g.frames = r ∧ (x.spill = none → t.g.vregs = s.g.vregs))) ∧
  (∀ h s e x, s.g.calls.find? (·.owner == s.cur) = some e → e.group = true → s.g.strands s.path.lanes (s.callAt s.g e).ret = false →
    (e.frame ≠ 0 → s.vectorsDue = false) → (∀ y ∈ s.g.divs, y.spill = none) → s.g.cover s.cur = some x →
    ∃ t, exec (.ret h) s = .next t ∧ t.sel = false ∧ HintsTaken h t.g ∧ t.g.sregs = s.g.sregs ∧ t.g.mregs = s.g.mregs ∧ t.g.exec = s.g.exec ∧
      t.g.live = s.g.live ∧
      (x.running.filter (· != s.cur) ≠ [] → ∀ p ∈ t.g.paths, p.id ≠ s.cur) ∧
      (∀ a r, x.running.filter (· != s.cur) = [] → x.todo.filter (fun a => a.lanes &&& s.g.live != 0) = a :: r →
        ∃ p ∈ t.g.paths, (p.pc = a.start ∨ p.pc = x.join) ∧ p.lanes = a.lanes &&& s.g.live) ∧
      (x.running.filter (· != s.cur) = [] → x.todo.filter (fun a => a.lanes &&& s.g.live != 0) = [] → x.lanes &&& s.g.live ≠ 0 →
        (∀ y ∈ t.g.divs, y.owner ≠ x.owner) ∧
        ∃ p ∈ t.g.paths, p.id = x.owner ∧ p.pc = s.g.after x.join ∧ p.lanes = x.lanes &&& s.g.live))

/-- R251 to R253: an index at or beyond TBLLEN traps with DISPATCH for every lane that has one; else the word reads the entries of its lanes
and, once they have come, a malformed entry traps too; a CALL.T of one group is a call, and a CALL.T of several, as a JMP.T, pushes a TABLE
entry whose first group starts at its target.
The TRAPADDR of a malformed entry is the model's choice (assumption 58); where a path stands after its word, when it would leave its region, where a
spilled entry lies and which lanes a group takes are its readings (assumptions 11, 38, 41 and 104). -/
def Obligations.TableDispatch : Prop :=
  (∀ h src a x s, s.act h ≠ 0 →
    let idx := fun (l : Nat) => if src then (s.sr a).toNat else (s.vr a l).toNat
    ∀ l, l < 64 → (s.act h).getLsbD l = true → s.rc.tbllen ≤ idx l → (∀ k, k < l → (s.act h).getLsbD k = true → idx k < s.rc.tbllen) →
      ∃ t m, exec (.jmpT h src a x) s = .next t ∧ (∀ f, exec (.callT h src a f) s = .next t) ∧
        TrapsWith 0x06 0xC0 m (BitVec.ofNat 64 (idx l)) 0 s t ∧
        ∀ k, k < 64 → (m.getLsbD k = true ↔ (s.act h).getLsbD k = true ∧ s.rc.tbllen ≤ idx k)) ∧
  (∀ h src a x f, let idx := fun (s : State) (l : Nat) => if src then s.sr a else (s.vr a l).setWidth 64
    let within := fun (s : State) => s.act h ≠ 0 ∧ ∀ l, l < 64 → (s.act h).getLsbD l = true → (idx s l).toNat < s.rc.tbllen
    let eas := fun (s : State) => (lanesOf (s.act h)).map fun l => (l, s.rc.tblbase + idx s l * 8)
    SendsRead within (.jmpT h src a x) 8 eas ∧ SendsRead within (.callT h src a f) 8 eas) ∧
  ∀ h src a x f s o, s.act h ≠ 0 →
    let idx := fun (l : Nat) => if src then s.sr a else (s.vr a l).setWidth 64
    (∀ l, l < 64 → (s.act h).getLsbD l = true → (idx l).toNat < s.rc.tbllen) → s.readBack o (lanesOf (s.act h)) →
    let u := s.taken o
    ((∃ p ∈ o.parts, p.data &&& 0xFE00000000000007 ≠ 0) → ∃ t m, exec (.jmpT h src a x) s = .next t ∧ exec (.callT h src a f) s = .next t ∧
      TrapsWith 0x06 0xC1 m 0 0 u t ∧
      ∀ k, k < 64 → (m.getLsbD k = true ↔ ∃ p ∈ o.parts, p.lane = k ∧ p.data &&& 0xFE00000000000007 ≠ 0)) ∧
    ∀ g r, (∀ p ∈ o.parts, p.data &&& 0xFE00000000000007 = 0) →
      groupsOf (o.parts.map fun p => (p.lane, idx p.lane, p.data)) = g :: r →
      (∀ k ∈ g :: r, s.g.strands k.lanes k.start = false) →
      (divFails u = none → ∃ t, exec (.jmpT h src a x) s = .next t ∧ RegsKept s.g t.g ∧ HintsTaken h t.g ∧ t.sel = false ∧
        t.g.divs.length = s.g.divs.length + 1 ∧
        ∃ e, t.g.divs.head? = some e ∧ e.kind = .jmpT ∧ e.owner = s.cur ∧ e.join = s.path.pc + 1 + x.signExtend 54 ∧
          e.lanes = s.path.lanes &&& s.g.live ∧ e.todo = r ∧
          ∃ p ∈ t.g.paths, p.id ∈ e.running ∧ p.pc = g.start ∧ p.lanes = g.lanes) ∧
      (r = [] → s.g.strands s.path.lanes g.start = false → (s.g.drover && callOver s.g) = false → (f ≠ 0 → u.vectorsDue = false) →
        callFails f.toNat u = none → ∃ t, exec (.callT h src a f) s = .next t ∧ GoesTo h g.start u t ∧
          t.g.calls.length = s.g.calls.length + 1 ∧ t.g.wb = s.g.wb + f.toNat ∧ t.g.sregs = s.g.sregs ∧ t.g.exec = s.g.exec ∧
          ∃ e, t.g.calls.head? = some e ∧ e.ret = s.g.after s.path.pc ∧ e.frame = f.toNat ∧ e.owner = s.cur ∧ e.group = s.groupAgain ∧
            e.lanes = s.path.lanes &&& s.g.live) ∧
      (r ≠ [] → (f ≠ 0 → u.vectorsDue = false) → tableCallFails f.toNat u = none →
        ∃ t, exec (.callT h src a f) s = .next t ∧ t.g.sregs = s.g.sregs ∧ t.g.exec = s.g.exec ∧ t.g.live = s.g.live ∧ HintsTaken h t.g ∧
          t.sel = false ∧ t.g.divs.length = s.g.divs.length + 1 ∧ t.g.calls.length = s.g.calls.length + 1 ∧ t.g.wb = s.g.wb + f.toNat ∧
          ∃ e c, t.g.divs.head? = some e ∧ e.kind = .callT ∧ e.owner = s.cur ∧ e.join = s.path.pc ∧ e.lanes = s.path.lanes &&& s.g.live ∧
            e.todo = r ∧ t.g.calls.head? = some c ∧ c.ret = s.g.after s.path.pc ∧ c.frame = f.toNat ∧ c.group = true ∧
            ∃ p ∈ t.g.paths, p.id ∈ e.running ∧ c.owner = p.id ∧ p.pc = g.start ∧ p.lanes = g.lanes)

/-- R100, R101, R254: EXIT is a release at module scope: it waits for its loads, for STCNT, for stores of other gangs that it has read from the
store queue, and, with a frame open, for every load that its window holds; then its active lanes leave LIVE; a gang without live lanes is no
more. Dropped stores trap first; that several make one report is the model's choice (assumption 103). -/
def Obligations.ExitEndsLanes : Prop :=
  ∀ h s, s.act h ≠ 0 → let free := s.mayRelease s.g.id 3 = true ∧ (s.g.frames = [] ∨ s.vectorsDue = false)
    ∃ t, exec (.exit h) s = .next t ∧
    (¬free → Waits s t) ∧
    (∀ d r, free → s.g.dropped = d :: r →
      TrapsWith 0x14 0x83 (s.g.dropped.foldl (fun m x => m ||| x.lanes) 0) d.addr 0 { s with g := { s.g with dropped := [] } } t) ∧
    (free → s.g.dropped = [] →
      s.g.strands (s.path.lanes &&& s.g.live &&& ~~~(s.act h)) (s.g.after s.path.pc) = false →
      (s.g.live &&& ~~~(s.act h) ≠ 0 → t.g.live = s.g.live &&& ~~~(s.act h) ∧ t.g.exec = s.g.exec ∧ t.g.sregs = s.g.sregs ∧
        t.g.mregs = s.g.mregs ∧ t.g.id = s.g.id) ∧
      (s.g.live &&& ~~~(s.act h) = 0 → s.g.id ≠ 0 → (∀ a ∈ s.agents, a.id ≠ s.g.id ∧ a.id ≠ 0) → t.agent? s.g.id = none))

/-- R166, R255: PLANE and PLANE.I set the planes of the active lanes and record the region; a plane number N or more, or another region
than the one the gang is in, traps and changes no plane; the region is checked and recorded also where no lane is active. From the last
position the path goes to the end of the region, where every lane is in plane 0, and traps elsewhere.
That the end is base + N * L is the model's reading (assumption 11). -/
def Obligations.PlaneSetsPlanes : Prop :=
  let sets := fun (i : Hint → BitVec 2 → BitVec 24 → Instr) (pos : Nat) (p : State → Nat → Nat) =>
    ∀ h n1 (l : BitVec 24) s, (s.g.path? s.cur).isSome = true →
      let r : Region := ⟨s.path.pc - BitVec.ofNat 54 pos, n1.toNat + 1, l.toNat⟩
      ∃ t, exec (i h n1 l) s = .next t ∧
        ((∃ x, s.g.region = some x ∧ x ≠ r) → TrapsWith 0x05 0xD2 (s.path.lanes &&& s.g.live) 0 0 s t) ∧
        ((∀ x, s.g.region = some x → x = r) → (∃ x, x < 64 ∧ (s.act h).getLsbD x = true ∧ r.n ≤ p s x) →
          ∃ m, TrapsWith 0x05 0xD1 m 0 0 s t ∧ ∀ x, x < 64 → (m.getLsbD x = true ↔ (s.act h).getLsbD x = true ∧ r.n ≤ p s x)) ∧
        ((∀ x, s.g.region = some x → x = r) → (∀ x, (s.act h).getLsbD x = true → p s x < r.n) → pos + 1 < l.toNat →
          RegsKept s.g t.g ∧ ModuleKept s t ∧ GoesTo h (s.path.pc + 1) s t ∧ t.g.region = some r ∧
          ∀ x, t.g.plane x = if (s.act h).getLsbD x = true then p s x else s.g.plane x) ∧
        ((∀ x, s.g.region = some x → x = r) → (∀ x, (s.act h).getLsbD x = true → p s x < r.n) → pos + 1 = l.toNat →
          s.path.lanes &&& s.g.live ≠ 0 →
          let plane := fun (x : Nat) => if (s.act h).getLsbD x = true then p s x else s.g.plane x
          ((∃ x, x < 64 ∧ s.g.live.getLsbD x = true ∧ plane x ≠ 0) → TrapsWith 0x05 0xD0 (s.lanes &&& s.g.live) 0 0 s t) ∧
          ((∀ x, x < 64 → s.g.live.getLsbD x = true → plane x = 0) → r.n * r.len < 2 ^ 54 → RegsKept s.g t.g ∧
            GoesTo h (r.base + BitVec.ofNat 54 (r.n * r.len)) s t ∧ ∀ x, t.g.plane x = plane x))
  (∀ (pos : BitVec 8) a, sets (fun h n1 l => .plane h pos a n1 l) pos.toNat fun s x => (s.vr a x).toNat % 4) ∧
  (∀ (pos : BitVec 14) (p : BitVec 2), sets (fun h n1 l => .planeI h pos p n1 l) pos.toNat fun _ _ => p.toNat)

/-- R174, R256: ALL.BEGIN saves EXEC and activates every live lane of a gang that runs as one path in one plane; ALL.END restores the bits
of its path's lanes and empties the slot. Out of order they trap. Where a word goes on at the end of a region is the model's reading
(assumption 11). -/
def Obligations.AllBeginAllEnd : Prop :=
  (∀ h s, ∃ t, exec (.allBegin h) s = .next t ∧
    (s.g.united = false → TrapsWith 0x04 0 (s.lanes &&& s.g.live) 0 0 s t) ∧
    (s.g.united = true → s.g.save.isSome = true → TrapsWith 0x01 0xA7 (s.lanes &&& s.g.live) 0 0 s t) ∧
    (s.g.united = true → s.g.save = none → s.g.strands s.path.lanes (s.g.after s.path.pc) = false →
      MovesPath h (s.g.after s.path.pc) { s with g := { s.g with save := some (s.g.exec &&& s.g.live), exec := s.g.live } } t)) ∧
  (∀ h s, ∃ t, exec (.allEnd h) s = .next t ∧
    (s.g.save = none → TrapsWith 0x01 0xA7 (s.lanes &&& s.g.live) 0 0 s t) ∧
    (∀ v, s.g.save = some v → s.g.strands s.path.lanes (s.g.after s.path.pc) = false →
      MovesPath h (s.g.after s.path.pc) { s with g := { s.g with save := none, exec := t.g.exec } } t ∧
      ∀ l, l < s.g.width → l < 64 → t.g.exec.getLsbD l =
        if s.lanes.getLsbD l && s.g.live.getLsbD l then v.getLsbD l else s.g.exec.getLsbD l))

/-- R175, R257: a gang arrives at BAR.T when its earlier loads have returned, and waits; when every live gang of the team has arrived, all
depart. Two runnable paths trap with CONVERGE, whatever the guard. BAR.C waits for the gangs of every member of the cluster, after its stores too. -/
def Obligations.BarriersGather : Prop :=
  let bar := fun (i : Hint → Instr) (at_ : Agent → Bool) (others : State → List Agent) (scope : Nat) =>
    (∀ h s, 1 < s.g.livePaths.length → ∃ t, exec (i h) s = .next t ∧ TrapsWith 0x04 0 (s.lanes &&& s.g.live) 0 0 s t) ∧
    ∀ h s, s.act h ≠ 0 → ∃ t, exec (i h) s = .next t ∧
      (s.g.livePaths.length ≤ 1 → s.mayRelease s.g.id scope = true → s.g.dropped = [] → s.g.id ≠ 0 → s.g.drover = false →
        (∀ a ∈ s.agents, a.id ≠ s.g.id ∧ a.id ≠ 0) → (s.agents.map (·.id)).Nodup → s.g.atBarT = false → s.g.atBarC = false → s.g.team ∈ s.tm.unit →
        (∀ a ∈ s.agents, a.atBarT = false ∨ a.atBarC = false) →
        ((∃ a ∈ others s, at_ a = false) → at_ t.g = true ∧ RegsKept s.g t.g ∧ t.agents = s.agents ∧
          t.g.paths.map (·.pc) = s.g.paths.map (·.pc)) ∧
        ((∀ a ∈ others s, at_ a = true) → at_ t.g = false ∧ ∀ a ∈ t.agents, a.id ∈ (others s).map (·.id) → at_ a = false))
  bar .barT (·.atBarT) (fun s => s.agents.filter fun a => !a.drover && a.team == s.g.team) 1 ∧
  bar .barC (·.atBarC) (fun s => s.agents.filter fun a => !a.drover && s.tm.unit.contains a.team) 2

/-- R53, R258, R259: WAITCNT waits until its counter is at or below BOUND, and a wait for STCNT at zero reports dropped stores; YIELD does
nothing while PREQ is clear, and stops the gang for its save while it is set. Where a word goes on at the end of a region is the model's
reading (assumption 11), and that several dropped stores make one report its choice (103). -/
def Obligations.WaitCountersAndYield : Prop :=
  (∀ h ld n s, s.act h ≠ 0 → ∃ t, exec (.waitcnt h ld n) s = .next t ∧
    (n.toNat < s.inFlight s.g.id (!ld) → Waits s t) ∧
    (s.inFlight s.g.id (!ld) ≤ n.toNat → (ld = true ∨ n ≠ 0 ∨ s.g.dropped = []) → ModuleKept s t ∧ GangKept s.g t.g ∧
      Proceeds h s t) ∧
    (∀ d r, s.inFlight s.g.id (!ld) ≤ n.toNat → ld = false → n = 0 → s.g.dropped = d :: r →
      TrapsWith 0x14 0x83 (s.g.dropped.foldl (fun m x => m ||| x.lanes) 0) d.addr 0 { s with g := { s.g with dropped := [] } } t)) ∧
  (∀ h s, s.act h ≠ 0 → ∃ t, exec (.yield h) s = .next t ∧
    (s.tm.preq = false → s.g.strands s.path.lanes (s.g.after s.path.pc) = false → MovesPath h (s.g.after s.path.pc) s t) ∧
    (s.tm.preq = true → s.g.strands s.path.lanes (s.g.after s.path.pc) = false → s.mayRelease s.g.id 5 = true → s.g.dropped = [] →
      t.g.yielded = true ∧ GoesTo h (s.g.after s.path.pc) s t ∧ t.g.sregs = s.g.sregs ∧ t.g.vregs = s.g.vregs))

/-- R260, R261: LAUNCH by the team leader, once its release has been met and the PRIO byte has been read, puts the record into its queue and
among the team's children; another gang traps, as does depth 10, and a full queue stalls. CHWAIT waits for the child that it names, or
for all of them. Where a word goes on at the end of a region is the model's reading (assumption 11). -/
def Obligations.LaunchAndChildWait : Prop :=
  (∀ h a s, s.g.idx ≠ 0 → ∃ t, exec (.launch h a) s = .next t ∧ TrapsWith 0x01 0xAB (s.lanes &&& s.g.live) 0 0 s t) ∧
  (∀ h a s, s.g.idx = 0 → 10 ≤ s.gr.depth →
    ∃ t, exec (.launch h a) s = .next t ∧ TrapsWith 0x07 0 (s.lanes &&& s.g.live) 0 0 s t) ∧
  (∀ h a, SendsRead (fun s => s.act h ≠ 0 ∧ s.g.idx = 0 ∧ s.gr.depth < 10 ∧ s.mayRelease s.g.id 3 = true ∧ s.g.dropped = []) (.launch h a) 1
    fun s => [(lowest s.before, (s.sr a &&& ~~~0xFF) + 0x25)]) ∧
  (∀ h a s o v, s.act h ≠ 0 → s.g.idx = 0 → s.gr.depth < 10 → s.mayRelease s.g.id 3 = true → s.g.dropped = [] →
    s.readBack o [lowest s.before] → o.parts.map (·.data) = [v] → let u := s.taken o
    u.g.strands u.path.lanes (u.g.after u.path.pc) = false →
    let q := min (v.toNat % 256) 7
    ∃ t, exec (.launch h a) s = .next t ∧
      (1024 ≤ (u.queue q).length → Waits u t) ∧
      ((u.queue q).length < 1024 → GoesTo h (u.g.after u.path.pc) u t ∧
        let x : Queued := ⟨s.sr a &&& ~~~0xFF, u.gr.ctx, some u.tm.id, u.gr.gridid, u.gr.depth + 1, u.tm.children.length, s.cyc, s.g.coreNo + 1⟩
        (∃ l r, u.queue q = l ++ r ∧ t.queue q = l ++ x :: r ∧ (∀ y ∈ l, y.born ≠ s.cyc ∨ y.rank ≤ x.rank) ∧
          ∀ y, r.head? = some y → y.born = s.cyc ∧ x.rank < y.rank) ∧
        (∀ x ∈ u.teams, x.id = u.g.team → t.tm.children = u.tm.children ++ [(s.sr a &&& ~~~0xFF, none, u.tm.children.length)]))) ∧
  (∀ h a s, s.act h ≠ 0 → ∃ t, exec (.chwait h a) s = .next t ∧
    let cs := if s.sr a = 0 then s.tm.children
      else ((s.tm.children.filter fun c => c.1 == (s.sr a &&& ~~~0xFF)).getLast?).toList
    ((∃ c ∈ cs, s.childDone c = false) → Waits s t) ∧
    ((∀ c ∈ cs, s.childDone c = true) → GangKept s.g t.g ∧ t.mem = s.mem ∧ t.agents = s.agents ∧
      (s.g.drover = false → (t.core s.g.coreNo).l1 = [])))

-- Memory words.

/-- R185: a word of memory, of the asynchronous, system or drover group whose guard passes no active lane has no effect and goes on; one
that needs a whole gang is checked for that first. A write of EXEC (0x008) acts as M.SETX, which takes no EXEC (R211, R291). -/
def Obligations.InactiveWordsDoNothing : Prop :=
  let inert := fun (h : Hint) (i : Instr) => ∀ s, s.act h = 0 → s.g.whole = true → exec i s = .next (retire h s)
  (∀ h x d a b, Inert h (.ld h x d a b) ∧ Inert h (.st h x d a b) ∧ Inert h (.ldS h x d a b) ∧ Inert h (.stS h x d a b) ∧
    Inert h (.ldg h x d a) ∧ Inert h (.stg h x d a)) ∧
  (∀ h x o d a b, Inert h (.atom h x o d a b) ∧ Inert h (.atomS h x o d a b) ∧ Inert h (.rstore h x o d a b)) ∧
  (∀ h o c a b z n, Inert h (.fence h o c) ∧ Inert h (.cinvRange h a b) ∧ Inert h (.cinvAll h) ∧ Inert h (.pref h z z n a b)) ∧
  (∀ h c d a j, Inert h (.kset h c d a) ∧ Inert h (.kmod h j d a) ∧ Inert h (.cpfence h) ∧ Inert h (.mfence h)) ∧
  (∀ h c l a, Inert h (.cpwait h c l a) ∧ Inert h (.mwait h c l a) ∧ Inert h (.chwait h a) ∧ Inert h (.knell h a)) ∧
  (∀ h c k d a b e, Inert h (.cbarInit h c k a b) ∧ Inert h (.cbarArr h c e k d a b) ∧ Inert h (.cbarWait h c e k a b) ∧
    Inert h (.cbarTest h c e k d a b) ∧ Inert h (.drvStart h k d a b)) ∧
  (∀ h i d, Inert h (.sRdsr h i d) ∧ (i ≠ 0x008 → Inert h (.sWrsr h i d))) ∧
  (∀ h n c d, Inert h (.trap h n) ∧ Inert h (.brk h n) ∧ Inert h (.halt h) ∧ Inert h (.snap h c d) ∧ Inert h (.snapTry h c d) ∧
    Inert h (.snapw h c d)) ∧
  (∀ h t n a, Inert h (.trace h t a) ∧ Inert h (.prog h n)) ∧
  (∀ h c k r d a b z, Inert h (.bxiLd h c d a b) ∧ Inert h (.bxiSt h c r d a b) ∧ Inert h (.bxiCp h c k r d a b) ∧ Inert h (.bxw h d) ∧
    Inert h (.darr h d b) ∧ Inert h (.dwait h d b) ∧ Inert h (.idxldFill h c a b) ∧ Inert h (.idxldRead h z d b) ∧
    Inert h (.tblld h k z d d b) ∧ Inert h (.dend h)) ∧
  ((∀ h e m r c k d a b, inert h (.boxLd h e m c d a b) ∧ inert h (.boxSt h r c d a b) ∧ inert h (.boxCp h k r c d a b)) ∧
    (∀ h c w a b d, inert h (.mldN h c w a b d) ∧ inert h (.mldW h c w a b)) ∧
    (∀ h c n r w z d a b, inert h (.mma h c n r w z d a b) ∧ inert h (.mmaz h c n r w z d a b)) ∧
    (∀ h c r n d a b, inert h (.epi h c r n d a b) ∧ inert h (.epiRs h c r n d a b)) ∧
    (∀ h c e d a b, inert h (.collAr h c e d a b) ∧ inert h (.collRs h c e d a b) ∧ inert h (.collAg h c e d a b) ∧
      inert h (.collBc h c e d a b)) ∧
    ∀ h c a b, inert h (.collStep h c a b))

/-- R294, R295: a load from a scratchpad, the die scratchpad or a slice gives every active lane the bytes at its address, the lowest first,
extended to its register; nothing else of the registers and no byte of memory changes.
The top of a slice and a drover's bound are the model's readings (assumptions 42 and 44). -/
def Obligations.LocalLoads : Prop :=
  let loads := fun (i : Hint → MemX → Reg → Reg → Reg → Instr) (ea : State → MemX → Reg → Reg → Nat → U64) =>
    ∀ h x d a b s (bs : Nat → List Nat),
      let f := formOf .load x 0 (s.g.vdest d) false
      let rs := s.reqs h (ea s x a b) (fun _ => 0) (fun _ => 0)
      s.g.id ≠ 0 → 1 < s.g.q → s.mayAccess f → s.lanesAt f rs bs →
      ∃ t, exec (i h x d a b) s = .next t ∧ MemoryKept s t ∧ AccessKept s.g t.g ∧ t.g.sregs = s.g.sregs ∧
        (∀ p l, l < 64 → ((s.act h).getLsbD l = false ∨ (p ≠ s.g.phys d.toNat ∧ (x.size ≠ 3 ∨ p ≠ s.g.phys (d.toNat + 1)))) →
          t.g.pget p l = s.g.pget p l) ∧
        ∀ l, (s.act h).getLsbD l = true →
          (x.size ≠ 3 → t.vr d l = (extend x.sx (8 * 2 ^ x.size.toNat) (s.bytesAt (bs l))).setWidth 32) ∧
          (x.size = 3 → t.vr2 d l = s.bytesAt (bs l))
  loads (fun h x d a b => .ld h x d a b) (fun s x a b l => s.sr a + (s.vr b l).signExtend 64 <<< x.scale.toNat) ∧
  loads (fun h x d a _ => .ldg h x d a) (fun s _ a _ l => s.g.vget (a.toNat + 1) l ++ s.g.vget a.toNat l) ∧
  (∀ h x d a b s bs, let f := formOf .load x 0 (.scalar d.toNat) true
    let rs := s.uniReq h (s.sr a + (if b = 0 then 0 else s.sr b <<< x.scale.toNat)) 0 0
    s.act h ≠ 0 → s.g.id ≠ 0 → s.mayAccess f → s.lanesAt f rs bs →
    ∃ t, exec (.ldS h x d a b) s = .next t ∧ MemoryKept s t ∧ AccessKept s.g t.g ∧ t.g.vregs = s.g.vregs ∧
      (∀ n, n ≠ d.toNat → t.g.sget n = s.g.sget n) ∧ t.sr d = extend x.sx (8 * 2 ^ x.size.toNat) (s.bytesAt (bs (lowest s.before))))

/-- R294, R296: a store to a scratchpad, the die scratchpad or a slice writes the low bytes of every active lane's operand at its address,
where no two lanes meet; no other byte and no register changes. -/
def Obligations.LocalStores : Prop :=
  let stores := fun (i : Hint → MemX → Reg → Reg → Reg → Instr) (ea : State → MemX → Reg → Reg → Nat → U64) =>
    ∀ h x d a b s (bs : Nat → List Nat),
      let f := formOf .store x 0 .none false
      let rs := s.reqs h (ea s x a b) (s.laneData x.size d) (fun _ => 0)
      s.mayAccess f → s.lanesAt f rs bs → s.apart f rs bs →
      ∃ t, exec (i h x d a b) s = .next t ∧ AccessKept s.g t.g ∧ t.g.sregs = s.g.sregs ∧ t.g.vregs = s.g.vregs ∧ OnlyBytes rs bs s t ∧
        ∀ l, (s.act h).getLsbD l = true → t.bytesAt (bs l) =
          extend false (8 * 2 ^ x.size.toNat) (if x.size = 3 then s.vr2 d l else (s.vr d l).setWidth 64)
  stores (fun h x d a b => .st h x d a b) (fun s x a b l => s.sr a + (s.vr b l).signExtend 64 <<< x.scale.toNat) ∧
  stores (fun h x d a _ => .stg h x d a) (fun s _ a _ l => s.g.vget (a.toNat + 1) l ++ s.g.vget a.toNat l) ∧
  (∀ h x d a b s bs, let f := formOf .store x 0 .none true
    let rs := s.uniReq h (s.sr a + (if b = 0 then 0 else s.sr b <<< x.scale.toNat)) (s.sr d) 0
    s.act h ≠ 0 → s.mayAccess f → s.lanesAt f rs bs → s.apart f rs bs →
    ∃ t, exec (.stS h x d a b) s = .next t ∧ AccessKept s.g t.g ∧ t.g.sregs = s.g.sregs ∧ t.g.vregs = s.g.vregs ∧ OnlyBytes rs bs s t ∧
      t.bytesAt (bs (lowest s.before)) = extend false (8 * 2 ^ x.size.toNat) (s.sr d))

/-- R298, R299, R301: in a scratchpad, the die scratchpad or a slice an atomic reads, operates and writes in every active lane, where no two
lanes meet, and returns the old value; a reduce-store returns nothing. Operands of the floating-point operations hold no marker. -/
def Obligations.LocalAtomics : Prop :=
  (∀ h x (o : BitVec 4) d a b s bs, let f := formOf .atomic x o (s.g.vdest d) false
    let n := 8 * 2 ^ x.size.toNat
    let next : Reg := d + (if x.size = 3 then 2 else 1)
    let data := s.laneData x.size (if o = 9 then next else d)
    let cmp := fun l => if o = 9 then s.laneData x.size d l else 0
    let rs := s.reqs h (s.laneEa x.scale a b) data cmp
    s.g.id ≠ 0 → 1 < s.g.q → (10 ≤ o.toNat → Unmarked s h fun l => [s.vr d l]) → s.mayAccess f → s.lanesAt f rs bs → s.apart f rs bs →
    ∃ t, exec (.atom h x o d a b) s = .next t ∧ AccessKept s.g t.g ∧ t.g.sregs = s.g.sregs ∧ OnlyBytes rs bs s t ∧
      ∀ l, (s.act h).getLsbD l = true →
        t.bytesAt (bs l) = BitVec.ofNat 64 (rmw o.toNat n x.sx (s.bytesAt (bs l)).toNat ((data l).toNat % 2 ^ n) ((cmp l).toNat % 2 ^ n) % 2 ^ n) ∧
        (x.size ≠ 3 → t.vr d l = (s.bytesAt (bs l)).setWidth 32) ∧ (x.size = 3 → t.vr2 d l = s.bytesAt (bs l))) ∧
  (∀ h x (o : BitVec 4) d a b s bs, let f := formOf .reduce x o .none false
    let n := 8 * 2 ^ x.size.toNat
    let rs := s.reqs h (s.laneEa x.scale a b) (s.laneData x.size d) (fun _ => 0)
    (10 ≤ o.toNat → Unmarked s h fun l => [s.vr d l]) → s.mayAccess f → s.lanesAt f rs bs → s.apart f rs bs →
    ∃ t, exec (.rstore h x o d a b) s = .next t ∧ AccessKept s.g t.g ∧ t.g.sregs = s.g.sregs ∧ t.g.vregs = s.g.vregs ∧ OnlyBytes rs bs s t ∧
      ∀ l, (s.act h).getLsbD l = true → t.bytesAt (bs l) =
        BitVec.ofNat 64 (rmw o.toNat n x.sx (s.bytesAt (bs l)).toNat ((s.laneData x.size d l).toNat % 2 ^ n) 0 % 2 ^ n)) ∧
  (∀ h x (o : BitVec 4) d a b s bs, let f := formOf .atomic x o (.scalar d.toNat) true
    let n := 8 * 2 ^ x.size.toNat
    let data := if o = 9 then s.sr (d + 1) else s.sr d
    let cmp := if o = 9 then s.sr d else 0
    let rs := s.uniReq h (s.scalarEa x.scale a b) data cmp
    s.act h ≠ 0 → s.g.id ≠ 0 → (10 ≤ o.toNat → marker (lo32 (s.sr d)) = none) → s.mayAccess f → s.lanesAt f rs bs → s.apart f rs bs →
    ∃ t, exec (.atomS h x o d a b) s = .next t ∧ AccessKept s.g t.g ∧ t.g.vregs = s.g.vregs ∧ OnlyBytes rs bs s t ∧
      (∀ m, m ≠ d.toNat → t.g.sget m = s.g.sget m) ∧
      let old := s.bytesAt (bs (lowest s.before))
      t.sr d = extend false n old ∧
      t.bytesAt (bs (lowest s.before)) = BitVec.ofNat 64 (rmw o.toNat n x.sx old.toNat (data.toNat % 2 ^ n) (cmp.toNat % 2 ^ n) % 2 ^ n)) ∧
  (∀ n bf (old x cmp : Nat), old < 2 ^ n → x < 2 ^ n → 0 < n →
    rmw 0 n bf old x cmp = (old + x) % 2 ^ n ∧
    rmw 1 n bf old x cmp = (if (BitVec.ofNat n old).toInt < (BitVec.ofNat n x).toInt then old else x) ∧
    rmw 2 n bf old x cmp = (if (BitVec.ofNat n old).toInt < (BitVec.ofNat n x).toInt then x else old) ∧
    rmw 3 n bf old x cmp = min old x ∧ rmw 4 n bf old x cmp = max old x ∧
    rmw 5 n bf old x cmp = old &&& x ∧ rmw 6 n bf old x cmp = old ||| x ∧ rmw 7 n bf old x cmp = old ^^^ x ∧
    rmw 8 n bf old x cmp = x ∧ rmw 9 n bf old x cmp = (if old = cmp then x else old))

/-- R12, R295, R296, R299, R301, R305: an access to global memory whose lanes all pass their checks leaves as one operation with every
lane's address and operand, and nothing else of the agent changes until it returns.
That all lanes leave at issue is the model's choice (assumption 34). -/
def Obligations.GlobalAccessesLeave : Prop := EveryLaneAccess SendsAccess ∧ EveryUniformAccess SendsAccess

/-- R25 to R28, R297, R412, R413: an access that is not aligned traps with ALIGN, in every space. A gang-uniform one reports the lanes active
before its guard and has no effect. Of a lane-level one the lanes that are not aligned stand in a pending entry, and the lanes that pass
are performed: in a load of a scratchpad they are loaded.
That the lanes which pass are performed before the trap is the model's choice of order (assumption 34). -/
def Obligations.MisalignedAccessTraps : Prop :=
  EveryUniformAccess UniformMisaligned ∧ EveryLaneAccess LanesMisaligned ∧
  (∀ h x d a b (s : State) k (bs : Nat → List Nat), let f := formOf .load x 0 (s.g.vdest d) false
    let off := fun (l : Nat) => (s.laneEa x.scale a b l).toNat % 2 ^ x.size.toNat ≠ 0
    x.space = 1 → x.size ≠ 3 → x.ord = 0 → s.g.id ≠ 0 → s.g.drover = false → s.g.handler = none → s.g.trapvec >>> 3 ≠ 0 → s.stopsNow s.g s.trapPc = true →
    s.countersFull f = false → k < 64 → (s.act h).getLsbD k = true → off k → (∀ l, l < k → (s.act h).getLsbD l = true → ¬off l) →
    (∀ l, (s.act h).getLsbD l = true → ¬off l → s.place s.g f ⟨l, s.laneEa x.scale a b l, 0, 0⟩ = .own (bs l)) →
    ∃ t m, exec (.ld h x d a b) s = .next t ∧ t.g.trap = ⟨0x5012, s.trapPc, m, s.laneEa x.scale a b k, 0⟩ ∧ t.g.handler.isSome = true ∧
      (∀ l, l < 64 → (m.getLsbD l = true ↔ (s.act h).getLsbD l = true ∧ off l)) ∧
      (∃ e, t.g.pend = putEntry e (s.g.pend.filter fun e => e.lanes != 0) ∧ e.lanes = m ∧ e.off = s.path.pc ∧ e.word = s.word ∧ e.planes = s.pmask) ∧
      ∀ l, l < 64 → (s.act h).getLsbD l = true → t.vr d l =
        if off l then s.vr d l else (extend x.sx (8 * 2 ^ x.size.toNat) (s.bytesAt (bs l))).setWidth 32)

/-- R53, R101 to R103, R302 to R304: FENCE waits for earlier loads and stores, and an acquire at cluster scope or wider clears the L1;
CINV clears the whole L1 or the lines of its range; PREF never traps, writes no register and sends fills. -/
def Obligations.FencesInvalidationsPrefetch : Prop :=
  (∀ h o c s, s.act h ≠ 0 → ∃ t, exec (.fence h o c) s = .next t ∧
    (s.loadsBack s.g.id = false → Waits s t) ∧
    (s.inFlight s.g.id true ≠ 0 → Waits s t) ∧
    (s.loadsBack s.g.id = true → s.inFlight s.g.id true = 0 → (∀ k ∈ s.ops, k.readers.contains s.g.id = false) → s.g.dropped = [] →
      GangKept s.g t.g ∧ MemoryKept s t ∧ t.agents = s.agents ∧
      (o.getLsbD 0 = true → 2 ≤ c.toNat → s.g.drover = false → (t.core s.g.coreNo).l1 = [] ∧
        ∀ k ∈ t.ops, k.core = some s.g.coreNo → k.fills = []))) ∧
  (∀ h s, s.act h ≠ 0 → ∃ t, exec (.cinvAll h) s = .next t ∧ GangKept s.g t.g ∧ MemoryKept s t ∧ (t.core s.g.coreNo).l1 = [] ∧
    (∀ k ∈ t.ops, k.core = some s.g.coreNo → k.fills = []) ∧ ∀ c, c ≠ s.g.coreNo → t.core c = s.core c) ∧
  (∀ h a b s, s.act h ≠ 0 → ∃ t, exec (.cinvRange h a b) s = .next t ∧ MemoryKept s t ∧
    (2 ^ 21 < (s.sr b).toNat → GangKept s.g t.g ∧ (t.core s.g.coreNo).l1 = []) ∧
    ((s.sr b).toNat ≤ 2 ^ 21 → (∀ p ∈ pagesOf (s.sr a).toNat (s.sr b).toNat, ∀ v,
        s.find s.g ⟨false, false, false⟩ (BitVec.ofNat 64 (max (s.sr a).toNat (p * 65536))) ≠ .miss v) →
      GangKept s.g t.g ∧ (∀ k ∈ (t.core s.g.coreNo).l1, k ∈ (s.core s.g.coreNo).l1) ∧
      ∀ p ∈ pagesOf (s.sr a).toNat (s.sr b).toNat, ∀ q,
        s.find s.g ⟨false, false, false⟩ (BitVec.ofNat 64 (max (s.sr a).toNat (p * 65536))) = .ok q →
        ∀ k ∈ (t.core s.g.coreNo).l1,
          q.pa + (min ((s.sr a).toNat + (s.sr b).toNat) ((p + 1) * 65536) - max (s.sr a).toNat (p * 65536)) ≤ k.line * 128 ∨
          (k.line + 1) * 128 ≤ q.pa)) ∧
  (∀ h z c n a b s, ∃ t, exec (.pref h z c n a b) s = .next t ∧ RegsKept s.g t.g ∧ MemoryKept s t ∧ t.g.stopping = s.g.stopping ∧
    ((∀ r ∈ s.reqs h (s.laneEa c a b) (fun _ => 0) (fun _ => 0), ∃ p,
        s.place s.g ⟨.fill, 0, 2 ^ z.toNat, false, false, 0, false, n, 0, false, .none, false⟩ r = .glob p) → s.act h ≠ 0 →
      ∃ o ∈ t.ops, o.id = s.serial ∧ o.kind = .fill ∧ o.agent = s.g.id ∧ o.parts.length = (lanesOf (s.act h)).length))

-- The asynchronous group.

/-- R308, R309: KSET, once its 64 bytes have been read, and KMOD give a descriptor register its new value; an invalid one leaves it as it was
and traps, with the failing bit in TRAPREG. A KSET that is not aligned traps.
Which mask applies while CB is clear is the model's reading (assumption 12). -/
def Obligations.DescriptorRegisters : Prop :=
  let sets := fun (u : State) (d : BitVec 4) (v : BitVec 512) (t : State) =>
    (∀ p r, descFails v = p :: r → TrapsWith 0x01 0xA2 (u.lanes &&& u.g.live) 0 (BitVec.ofNat 64 p) u t) ∧
    (descFails v = [] → t.g.kget d.toNat = v ∧ (∀ n, n ≠ d.toNat → t.g.kget n = u.g.kget n) ∧ ModuleKept u t ∧
      t.g = { u.g.ending t.g with kregs := t.g.kregs } ∧ RegionKept u.g t.g)
  (∀ h c d a s, s.act h ≠ 0 → (s.sr a).toNat % 64 ≠ 0 →
    ∃ t, exec (.kset h c d a) s = .next t ∧ TrapsWith 0x12 0x50 s.before (s.sr a) 0 s t) ∧
  (∀ h c d a s u (w : Nat → U64), s.act h ≠ 0 → (s.sr a).toNat % 64 = 0 → s.countersFull (plainForm .load) = false →
    inlineRead c.toNat 8 ((List.range 8).map fun i => (i, s.sr a + BitVec.ofNat 64 (8 * i))) s = (.ok ((List.range 8).map fun i => (i, w i)), u) →
    ∃ t, exec (.kset h c d a) s = .next t ∧
      sets u d (w 7 ++ w 6 ++ w 5 ++ w 4 ++ w 3 ++ w 2 ++ w 1 ++ w 0) t) ∧
  (∀ h j d a s, s.act h ≠ 0 → ∃ t v, exec (.kmod h j d a) s = .next t ∧ sets s d v t ∧
    ∀ i, i < 512 → v.getLsbD i = if i / 64 = j.toNat then (s.sr a).getLsbD (i % 64) else (s.g.kget d.toNat).getLsbD i)

/-- R173, R310 to R312: a box copy needs a whole gang and passes its checks in their order; then, after its release, it holds its range
locks and stands in its core's queue; its registers and memory are as they were.
Reserved fields of the word and of its operands, and the bits that BOX.CP takes from the source, are as the model reads them (assumptions
37, 47 and 52). -/
def Obligations.BoxCopiesIssue : Prop :=
  let starts := fun (i : Instr) (h : Hint) (scope : Nat) (x : State → Xfer) => ∀ s, ∃ t, exec i s = .next t ∧
    (s.g.whole = false → TrapsWith 0x04 0 (s.lanes &&& s.g.live) 0 0 s t) ∧
    (s.g.whole = true → s.act h ≠ 0 →
      (∀ d, copyIllegal (x s) = some d → TrapsWith 0x01 d (s.lanes &&& s.g.live) 0 0 s t) ∧
      (copyIllegal (x s) = none →
        (∀ o, (x s).offsets.find? (fun o => o % 16 != 0) = some o → TrapsWith 0x12 0x50 s.before (BitVec.ofNat 64 o) 0 s t) ∧
        ((∀ o ∈ (x s).offsets, o % 16 = 0) → (x s).mc = true → ((x s).mask = 0 ∨ 2 ^ s.rc.members ≤ (x s).mask.toNat) →
          TrapsWith 0x15 0x71 s.before 0 0 s t) ∧
        ((∀ o ∈ (x s).offsets, o % 16 = 0) → ((x s).mc = true → (x s).mask ≠ 0 ∧ (x s).mask.toNat < 2 ^ s.rc.members) →
          (∀ o, (x s).outside s.rc.scratch = some o → TrapsWith 0x16 0x60 s.before (BitVec.ofNat 64 o) 0 s t) ∧
          ((x s).outside s.rc.scratch = none → s.mayRelease s.g.id scope = true → s.g.dropped = [] →
            (s.eng.xfers.filter fun y => y.agent == s.g.id && !y.drover).length < 32 → (s.core (x s).core).queue.length < 64 →
            s.lockRoom ((s.xferTeams (x s)).flatMap (x s).lockOf) = true →
            t.eng.xfers = s.eng.xfers ++ [{ x s with accepted := true, locked := true }] ∧
            (t.core (x s).core).queue = (s.core (x s).core).queue ++ [s.serial] ∧
            (∀ e ∈ (s.xferTeams (x s)).flatMap (x s).lockOf, e.2 ∈ (t.core e.1).locks) ∧
            t.serial = s.serial + 1 ∧ GangKept s.g t.g ∧ MemoryKept s t))))
  (∀ h m scope d a b, starts (.boxLd h false m scope d a b) h scope.toNat fun s =>
    s.newXfer .ld s.g.team s.g.coreNo (s.g.kget a.toNat) 0 (s.sr d).toNat [s.sr b, s.sr (b + 1), s.sr (b + 2)] []) ∧
  (∀ h (m : BitVec 7) scope d a b, starts (.boxLd h true m scope d a b) h scope.toNat fun s =>
    { s.newXfer .ld s.g.team s.g.coreNo (s.g.kget a.toNat) 0 (s.sr d).toNat [s.sr b, s.sr (b + 1), s.sr (b + 2)] [] with
      mc := true, mask := s.sr (m.setWidth 8) }) ∧
  (∀ h rop scope d a b, starts (.boxSt h rop scope d a b) h scope.toNat fun s =>
    { s.newXfer .st s.g.team s.g.coreNo (s.g.kget a.toNat) 0 (s.sr d).toNat [s.sr b, s.sr (b + 1), s.sr (b + 2)] [] with rop := rop }) ∧
  (∀ h k rop scope d a b, starts (.boxCp h k rop scope d a b) h scope.toNat fun s =>
    { s.newXfer .cp s.g.team s.g.coreNo (s.g.kget a.toNat) (s.g.kget k.toNat) 0 [s.sr b, s.sr (b + 1), s.sr (b + 2)]
        [s.sr d, s.sr (d + 1), s.sr (d + 2)] with rop := rop })

/-- R173, R337, R342, R346, R353: a matrix instruction whose checks pass starts one operation after its release; MLD records its buffer's
format, MMA takes its rows of A from its registers or from the operand latch. One that names a tile and a buffer of different arrays, or a buffer of another format, traps.
Reserved bits of the operands, and a scale format that a buffer records without block scales, are as the model reads them (assumptions 52
and 54). -/
def Obligations.MatrixWordsIssue : Prop :=
  let ready := fun (s : State) (h : Hint) (scope : Nat) (ls : List (Nat × Lock)) =>
    s.g.whole = true ∧ s.act h ≠ 0 ∧ s.mayRelease s.g.id scope = true ∧ s.g.dropped = [] ∧
    (s.eng.mats.filter fun y => y.agent == s.g.id).length < 32 ∧ s.lockRoom ls = true
  let fits := fun (s : State) (rs : List Span) => ∀ r ∈ rs, r.1 + r.2 ≤ s.rc.scratch
  let started := fun (s : State) (x : MatOp) (t : State) =>
    t.eng.mats = s.eng.mats ++ [x] ∧ t.serial = s.serial + 1 ∧ RegsKept s.g t.g ∧ MemoryKept s t
  (∀ h scope (w : BitVec 2) a b c s, let f := s.sr b
    ready s h scope.toNat (spanLock s.serial false s.tm (mldSpans (s.sr a).toNat (s.sr c).toNat f)) → fbValid f = true →
    (s.sr a).toNat % 16 = 0 → (fbBsfmt f = 0 ∨ (s.sr c).toNat % 16 = 0) → fbAsoff f % 16 = 0 →
    fits s (mldSpans (s.sr a).toNat (s.sr c).toNat f) →
    ∃ t, exec (.mldN h scope w a b c) s = .next t ∧ started s (s.newMat .mldN 0 w.toNat 0 0 (s.sr a) f (s.sr c)) t ∧
      (s.teams.any (·.id == s.g.team) = true → (SMap.get Buffer.empty t.tm.bufs w.toNat).fmt = some (fbRecord f))) ∧
  (∀ h scope (w : BitVec 2) a b s, let f := s.sr b
    ready s h scope.toNat (spanLock s.serial false s.tm (mldSpans (s.sr a).toNat 0 f)) → fbValid f = true → fmtWidth (fbBfmt f) = 16 →
    fbBsp f = false → fbBsfmt f = 0 → (s.sr a).toNat % 16 = 0 → fbAsoff f % 16 = 0 → fits s (mldSpans (s.sr a).toNat 0 f) →
    ∃ t, exec (.mldW h scope w a b) s = .next t ∧ started s (s.newMat .mldW 0 w.toNat 0 0 (s.sr a) f 0) t ∧
      (s.teams.any (·.id == s.g.team) = true → (SMap.get Buffer.empty t.tm.bufs w.toNat).fmt = some (fbRecord f))) ∧
  (∀ (z reuse : Bool) h scope n1 row0 (w : BitVec 2) (d : BitVec 4) a b s, let f := s.sr b
    let n := n1.toNat + 1
    let i : Instr := if z then .mmaz h scope n1 row0 w reuse d a b else .mma h scope n1 row0 w reuse d a b
    (s.g.whole = true → s.act h ≠ 0 → s.mayRelease s.g.id scope.toNat = true → s.g.dropped = [] → d.toNat / 8 ≠ w.toNat / 2 →
      ∃ t, exec i s = .next t ∧ TrapsWith 0x01 0xA2 (s.lanes &&& s.g.live) 0 0 s t) ∧
    (ready s h scope.toNat (spanLock s.serial false s.tm (scaleSpans f n)) → d.toNat / 8 = w.toNat / 2 → fbValid f = true →
      fbAsoff f % 16 = 0 → (∀ r, (SMap.get Buffer.empty s.tm.bufs w.toNat).fmt = some r → recordKey r = recordKey (fbRecord f)) →
      fits s (scaleSpans f n) →
      let held := reuse = true ∧ s.g.latch.valid = true ∧ s.g.latch.nrows = n ∧ s.g.latch.reg = s.g.phys a.toNat
      ∃ t x, exec i s = .next t ∧ started s x t ∧ x.kind = (if z then .mmaz else .mma) ∧ x.tile = d.toNat ∧ x.buf = w.toNat ∧
        x.row0 = row0.toNat ∧ x.nrows = n ∧ x.s2 = f ∧ (held → x.rows = s.g.latch.rows ∧ x.lost = []) ∧
        (¬held → x.rows = s.g.aRows a.toNat n ∧ x.lost = s.g.lostRows a.toNat n (usedWords f)) ∧
        t.g.latch = (if reuse = true ∧ x.lost = [] then ⟨true, n, s.g.phys a.toNat, x.rows⟩ else ⟨false, 0, 0, []⟩)) ∧
    ((∃ r, (SMap.get Buffer.empty s.tm.bufs w.toNat).fmt = some r ∧ recordKey r ≠ recordKey (fbRecord f)) → d.toNat / 8 = w.toNat / 2 →
      fbValid f = true → fbAsoff f % 16 = 0 → s.g.whole = true → s.act h ≠ 0 → s.mayRelease s.g.id scope.toNat = true → s.g.dropped = [] →
      ∃ t, exec i s = .next t ∧ TrapsWith 0x01 0xAE (s.lanes &&& s.g.live) 0 0 s t)) ∧
  (∀ h scope row0 n1 (d : BitVec 4) a b s bs, let k : BitVec 512 := BitVec.ofNat 512 (ofBytes bs)
    let n := n1.toNat + 1
    let row := fun (i : Nat) => lockRange (swzSpan (edOswz k)) ((s.sr b).toNat + i * edStride k) (rowBytes k)
    let src := spanLock s.serial false s.tm (epiSources k)
    let dst := spanLock s.serial true s.tm ((List.range n).map fun i => ((row i).1, (row i).2 - (row i).1))
    let ranges := fun (ls : List (Nat × Lock)) => ls.map fun l => (l.2.lo, l.2.hi)
    let w := widenTo (swzSpan (edOswz k)) (s.sr b).toNat ((n - 1) * edStride k + rowBytes k)
    (s.sr a).toNat % 64 = 0 → (s.sr b).toNat % 16 = 0 → (s.sr a).toNat + 64 ≤ s.rc.scratch →
    (∀ o ∈ s.ops, o.agent = s.g.id → ∀ p ∈ o.parts, p.pa < 2 ^ 60 ∨ p.st.isOver = true) → sideRead s.tm 0 (s.sr a).toNat 64 s = .ok bs →
    (epiFails false k = [] → fits s (epiSources k ++ [(w.1, w.2 - w.1)]) →
      let locks := (if ranges src = ranges dst then [] else src) ++ dst
      ready s h scope.toNat locks →
      ∃ t, exec (.epi h scope row0 n1 d a b) s = .next t ∧ (∀ e ∈ locks, e.2 ∈ (t.core e.1).locks) ∧
        started s { s.newMat .epi d.toNat 0 row0.toNat n (s.sr a) (s.sr b) 0 with desc := k } t) ∧
    (epiFails true k = [] → fits s (epiSources k) → ready s h scope.toNat (spanLock s.serial false s.tm (epiSources k)) →
      ∃ t, exec (.epiRs h scope row0 n1 d a b) s = .next t ∧
        started s { s.newMat .epiRs d.toNat 0 row0.toNat n (s.sr a) (s.sr b) 0 with desc := k } t))

/-- R323, R324, R351, R352, R377: CPFENCE and MFENCE close a batch and go on; CPWAIT, MWAIT and BXW go on once every operation that they
cover has completed, where none of these has a fault to report; they wait for one that has not completed, and report the faults of those
that have once: the oldest, and how many there are. A word goes on after itself as assumption 11 has it. -/
def Obligations.BatchesAndWaits : Prop :=
  let goesOn := fun (h : Hint) (s t : State) => MemoryKept s t ∧ Proceeds h s t
  let tells := fun (cause : Nat) (told : EngFault → Bool) (s t : State) =>
    let fs := s.g.engFaults.filter told
    ∃ f ∈ fs, (∀ e ∈ fs, f.order ≤ e.order) ∧
      StopsAfter cause f.detail.toNat s.g.live f.addr ((f.batch.getD 0) ++ BitVec.ofNat 8 (min 255 fs.length) ++ f.under ++ f.info) []
        { s with g := { s.g with engFaults := s.g.engFaults.filter fun e => !told e } } t
  (∀ h s, s.act h ≠ 0 →
    ∃ t, exec (.cpfence h) s = .next t ∧ goesOn h s t ∧ t.g.cbatch = s.g.cbatch + 1 ∧ t.g.mbatch = s.g.mbatch ∧
      RegsKept s.g t.g ∧ t.eng.mats = s.eng.mats ∧ t.eng.xfers = s.eng.xfers.map fun x =>
        if x.agent = s.g.id ∧ x.drover = false ∧ x.batch = none then { x with batch := some (s.g.cbatch + 1) } else x) ∧
  (∀ h s, s.act h ≠ 0 →
    ∃ t, exec (.mfence h) s = .next t ∧ goesOn h s t ∧ t.g.mbatch = s.g.mbatch + 1 ∧ t.g.cbatch = s.g.cbatch ∧
      RegsKept s.g t.g ∧ t.eng.xfers = s.eng.xfers ∧ t.eng.mats = s.eng.mats.map fun x =>
        if x.agent = s.g.id ∧ x.batch = none then { x with batch := some (s.g.mbatch + 1) } else x) ∧
  (∀ h c last a s, let n := if last then s.g.cbatch else (s.sr a).setWidth 32
    let due := fun (x : Xfer) => x.agent = s.g.id ∧ x.drover = false ∧ covered n x.batch = true
    let told := fun (f : EngFault) => f.mat = false ∧ covered n f.batch = true
    s.act h ≠ 0 →
    ((∀ x ∈ s.eng.xfers, ¬due x) → (∀ f ∈ s.g.engFaults, ¬told f) →
      ∃ t, exec (.cpwait h c last a) s = .next t ∧ goesOn h s t ∧ GangKept s.g t.g ∧ t.eng = s.eng) ∧
    ((∃ x ∈ s.eng.xfers, due x) → ∃ t, exec (.cpwait h c last a) s = .next t ∧ Waits s t) ∧
    ((∀ x ∈ s.eng.xfers, ¬due x) → c.toNat < 2 → (∃ f ∈ s.g.engFaults, told f) →
      ∃ t, exec (.cpwait h c last a) s = .next t ∧ tells 0x40 told s t)) ∧
  (∀ h c last a s, let n := if last then s.g.mbatch else (s.sr a).setWidth 32
    let due := fun (x : MatOp) => x.agent = s.g.id ∧ covered n x.batch = true
    let told := fun (f : EngFault) => f.mat = true ∧ covered n f.batch = true
    s.act h ≠ 0 →
    ((∀ x ∈ s.eng.mats, ¬due x) → (∀ f ∈ s.g.engFaults, ¬told f) →
      ∃ t, exec (.mwait h c last a) s = .next t ∧ goesOn h s t ∧ GangKept s.g t.g ∧ t.eng = s.eng) ∧
    ((∃ x ∈ s.eng.mats, due x) → ∃ t, exec (.mwait h c last a) s = .next t ∧ Waits s t) ∧
    ((∀ x ∈ s.eng.mats, ¬due x) → c.toNat < 2 → (∃ f ∈ s.g.engFaults, told f) →
      ∃ t, exec (.mwait h c last a) s = .next t ∧ tells 0x41 told s t)) ∧
  (∀ h a s, let n := (s.sr a).setWidth 32
    let due := fun (x : Xfer) => x.agent = s.g.id ∧ x.drover = true ∧ covered n (some x.seq) = true
    let told := fun (f : EngFault) => f.mat = false ∧ covered n f.batch = true
    s.act h ≠ 0 →
    ((∀ x ∈ s.eng.xfers, ¬due x) → (∀ f ∈ s.g.engFaults, ¬told f) →
      ∃ t, exec (.bxw h a) s = .next t ∧ goesOn h s t ∧ GangKept s.g t.g ∧ t.eng = s.eng) ∧
    ((∃ x ∈ s.eng.xfers, due x) → ∃ t, exec (.bxw h a) s = .next t ∧ Waits s t) ∧
    ((∀ x ∈ s.eng.xfers, ¬due x) → s.g.drover = true → (∃ f ∈ s.g.engFaults, told f) →
      ∃ t, exec (.bxw h a) s = .next t ∧ tells 0x40 told s t))

/-- R326 to R331, R378: the counted barriers. An initialisation with count zero traps; an arrival returns the phase, and completes, breaks or
counts; a wait goes on when the phase differs from its token and reports a broken barrier; a test answers 2, 1 or 0.
The TRAPMASK of a broken barrier is the model's choice (assumption 50); where a word goes on at the end of a region is its reading (11). -/
def Obligations.CountedBarriers : Prop :=
  let elsewhere := fun (k : Nat) (s t : State) => ∀ y, (y < k ∨ k + 16 ≤ y) → t.getByte y = s.getByte y
  let arrived := fun (k n : Nat) (s t : State) => elsewhere k s t ∧ let b := s.barrier k
    t.barrier k = if b.broken = true ∨ n = 0 then b
      else if b.expected < b.arrived + n then { b with broken := true, why := 2 }
      else if b.arrived + n = b.expected then { b with arrived := 0, phase := !b.phase }
      else { b with arrived := b.arrived + n }
  (∀ h (c k : BitVec 3) a b s at_, s.act h ≠ 0 → s.barrierAt c.toNat true true (s.sr a) at_ → let n := (s.sr b).toNat % 2 ^ 32
    ∃ t, exec (.cbarInit h c k a b) s = .next t ∧ (n = 0 → TrapsWith 0x01 0xAD (s.lanes &&& s.g.live) 0 0 s t) ∧
      (n ≠ 0 → s.countersFull (plainForm .store) = false → (∀ u ∈ s.badUnits at_ 16, at_ ≤ u.1 ∧ u.1 + u.2.1 ≤ at_ + 16) →
        t.barrier at_ = ⟨n, 0, false, false, 0, 0⟩ ∧ elsewhere at_ s t ∧ GangKept s.g t.g)) ∧
  (∀ h (c : BitVec 3) rel k d a b s at_, s.act h ≠ 0 → s.barrierAt c.toNat true false (s.sr a) at_ →
    (rel = true → s.mayRelease s.g.id k.toNat = true ∧ s.g.dropped = []) →
    ∃ t, exec (.cbarArr h c rel k d a b) s = .next t ∧ arrived at_ ((s.sr b).toNat % 2 ^ 32) s t ∧
      t.sr d = (if (s.barrier at_).phase then 1 else 0) ∧ GangKeptButScalar d.toNat s.g t.g) ∧
  (∀ h a b s at_, s.act h ≠ 0 → s.barrierAt 1 true false (s.sr a) at_ → s.mayRelease s.g.id 2 = true → s.g.dropped = [] →
    ∃ t, exec (.darr h a b) s = .next t ∧ arrived at_ ((s.sr b).toNat % 2 ^ 32) s t ∧ t.g.sregs = s.g.sregs) ∧
  (∀ h (c : BitVec 3) acq k a b s at_, s.act h ≠ 0 → s.barrierAt c.toNat false false (s.sr a) at_ →
    ∃ t, exec (.cbarWait h c acq k a b) s = .next t ∧ let x := s.barrier at_
      (x.broken = false → x.phase = (s.sr b).getLsbD 0 → Waits s t) ∧
      (x.broken = false → x.phase ≠ (s.sr b).getLsbD 0 → GangKept s.g t.g ∧ MemoryKept s t) ∧
      (x.broken = true → acq = false → s.tm.aborts = [] → StopsAfter 0x43 (whyDetail x.why) s.before (s.sr a) 0 [] s t)) ∧
  (∀ h a b s at_, s.act h ≠ 0 → s.barrierAt 1 false false (s.sr a) at_ →
    ∃ t, exec (.dwait h a b) s = .next t ∧ let x := s.barrier at_
      (x.broken = false → x.phase = (s.sr b).getLsbD 0 → t.sel = false ∧ t.g.path? s.cur = (s.g.path? s.cur).map fun p => { p with stalled := true }) ∧
      (x.broken = false → x.phase ≠ (s.sr b).getLsbD 0 → MemoryKept s t ∧ t.g.sregs = s.g.sregs ∧
        Proceeds h s t)) ∧
  (∀ h (c : BitVec 3) acq k d a b s at_, s.act h ≠ 0 → s.barrierAt c.toNat false false (s.sr a) at_ →
    ∃ t, exec (.cbarTest h c acq k d a b) s = .next t ∧ MemoryKept s t ∧ GangKeptButScalar d.toNat s.g t.g ∧ let x := s.barrier at_
      t.sr d = if x.broken then 2 else if x.phase ≠ (s.sr b).getLsbD 0 then 1 else 0)

/-- R369 to R372: a collective whose checks pass is issued by its gang: the first gang of a team makes it, and COLL.STEP carries its vote. A
group that is closed to the team, or not open, traps with COLL.
The shape asked of .rs, and that a collective starts once every gang of the team has issued it, are the model's readings (assumptions 14
and 65); what is not checked, and which k an operation has, are its choices (71 and 64). -/
def Obligations.CollectivesIssue : Prop :=
  let issues := fun (i : Instr) (h : Hint) (scope op : Nat) (inpl : Bool) (src dst : State → BitVec 512) (b : Reg) (vote : State → Bool) (pre : State → Prop) => ∀ s : State,
    let g := (s.sr b).toNat % 64
    let off := (s.sr b >>> 32).toNat
    let n1 := if op < 4 then namesHere (src s) s else (s, some true)
    let n2 := if op < 4 ∧ inpl = false then namesHere (dst s) n1.1 else (n1.1, some true)
    let u := n2.1
    pre s → s.g.whole = true → s.act h ≠ 0 → s.sr b &&& 0xF000FFC0 = 0 →
    (op < 4 → src s ≠ 0 ∧ (inpl = true ∨ dst s ≠ 0) ∧ collShape op inpl (src s) (dst s) (s.grpSize g) = true) →
    n1.2 = some true → n2.2 = some true → off % 16 = 0 → off + 16 ≤ u.rc.scratch →
    ∃ t, exec i s = .next t ∧
      (u.grpState g = 0 ∨ u.isMember g u.tm = false → TrapsWith 0x42 0xF3 (u.lanes &&& u.g.live) 0 0 u t) ∧
      (u.grpState g ≠ 0 → u.isMember g u.tm = true → u.grpState g ≠ 1 → TrapsWith 0x42 0xF1 (u.lanes &&& u.g.live) 0 0 u t) ∧
      (u.grpState g = 1 → u.isMember g u.tm = true → u.mayRelease u.g.id scope = true → u.g.dropped = [] → 1 < u.rc.gangs →
        (∀ c ∈ u.sys.colls, c.team ≠ u.tm.id ∨ c.started = true ∨ c.issued.contains u.g.id = true) →
        GangKept u.g t.g ∧ MemoryKept u t ∧ ∃ c, t.sys.colls = u.sys.colls ++ [c] ∧ c.grp = g ∧ c.op = op ∧ c.team = s.g.team ∧
          c.issued = [u.g.id] ∧ c.started = false ∧ c.src = src s ∧ c.dst = dst s ∧ c.vote = vote s ∧ c.ctl0 = s.sr b ∧
          c.ctl1 = s.sr (b + 1) ∧ c.seq = SMap.get 0 u.sys.seqs g)
  (∀ h scope inpl (d a : BitVec 4) b,
    (issues (.collAr h scope inpl d a b) h scope.toNat 0 inpl (fun s => s.g.kget a.toNat) (fun s => if inpl then 0 else s.g.kget d.toNat) b (fun _ => false) fun _ => True) ∧
    (issues (.collRs h scope inpl d a b) h scope.toNat 1 inpl (fun s => s.g.kget a.toNat) (fun s => if inpl then 0 else s.g.kget d.toNat) b (fun _ => false) fun _ => True) ∧
    (issues (.collAg h scope inpl d a b) h scope.toNat 2 inpl (fun s => s.g.kget a.toNat) (fun s => if inpl then 0 else s.g.kget d.toNat) b (fun _ => false) fun _ => True) ∧
    (issues (.collBc h scope inpl d a b) h scope.toNat 3 inpl (fun s => s.g.kget a.toNat) (fun s => if inpl then 0 else s.g.kget d.toNat) b (fun _ => false) fun _ => True)) ∧
  (∀ h scope a b, (∀ s : State, s.g.whole = true → s.act h ≠ 0 → 1 < (s.sr a).toNat →
      ∃ t, exec (.collStep h scope a b) s = .next t ∧ TrapsWith 0x01 0xA2 (s.lanes &&& s.g.live) 0 0 s t) ∧
    (∀ i, i = Instr.collStep h scope a b →
      issues i h scope.toNat 4 true (fun _ => 0) (fun _ => 0) b (fun s => (s.sr a).getLsbD 0) fun s => (s.sr a).toNat ≤ 1))

/-- R374, R385: DRV.START takes the lowest free context of its die when its turn has come, and gives its name; else it waits in line.
That a context is granted when the waiting word issues again is the model's choice (assumption 82); a header that its home cannot serve
yet is awaited. -/
def Obligations.DroverStart : Prop :=
  (∀ h c d a b s, s.act h ≠ 0 → (s.sr a).toNat % 8 ≠ 0 →
    ∃ t, exec (.drvStart h c d a b) s = .next t ∧ TrapsWith 0x12 0x50 s.before (s.sr a) 0 s t) ∧
  (∀ h c d a b s n, s.act h ≠ 0 → (s.sr a).toNat % 8 = 0 → s.mayRelease s.g.id c.toNat = true → s.g.dropped = [] →
    (s.die s.g.die).binds = [] → (s.die s.g.die).restored = [] → s.freeContext s.g.die = some n →
    s.headerDue s.g.die n ⟨s.g.team, s.g.grid, none, s.g.id, s.path.pc, s.gt, s.sr a, s.sr b, s.sr (b + 1), s.serial⟩ = false →
    ∃ t, exec (.drvStart h c d a b) s = .next t ∧ t.sr d = BitVec.ofNat 64 (0x8000 + s.g.die * 256 + n) ∧
      ∃ x ∈ t.agents, x.drover = true ∧ x.die = s.g.die ∧ x.idx = n ∧ x.core = n / 4 ∧ x.team = s.g.team ∧ x.sget 0 = s.sr b ∧
        x.deadline = s.sr (b + 1) ∧ x.sget 2 = 4) ∧
  (∀ h c d a b s, s.act h ≠ 0 → (s.sr a).toNat % 8 = 0 → s.mayRelease s.g.id c.toNat = true → s.g.dropped = [] →
    (s.die s.g.die).binds = [] → s.freeContext s.g.die = none →
    ∃ t q, exec (.drvStart h c d a b) s = .next t ∧ (t.die s.g.die).binds = [q] ∧ q.agent = s.g.id ∧ q.prog = s.sr a ∧ q.arg = s.sr b ∧
      q.binding = none ∧ t.g.sregs = s.g.sregs ∧ t.sel = false)

/-- R375 to R381: the drover-only words. A box transfer that its target admits gets the context's next sequence number; IDXLD fills the index
buffer and reads it; TBLLD queues a table; DEND frees the context once its transfers have completed.
What IDXLD leaves after a fault and in which order it reads are the model's choices (assumption 70); the base of a BXI offset is its
reading (72). -/
def Obligations.DroverWords : Prop :=
  let sends := fun (i : Instr) (h : Hint) (d : Reg) (ea : State → U64) (x : State → Xfer) => ∀ s t0 off, s.act h ≠ 0 →
    copyIllegal (x s) = none → (∀ o ∈ (x s).offsets, o % 16 = 0) → (x s).kind ≠ .cp → s.aim s.g (ea s) = .at_ t0 off → t0 ≠ 0 →
    (x s).barrier = none →
    let at0 := (s.team t0).die * 64 + (s.team t0).core
    let y := { x s with off := off, team := t0, target := t0, core := at0, die := at0 / 64 }
    y.outside (s.team t0).size = none → s.bxiWaits y = false →
    (s.eng.xfers.filter fun y => y.drover && y.agent == s.g.id && y.kind != .table).length < 32 → s.mayRelease s.g.id 2 = true → s.g.dropped = [] →
    ∃ t, exec i s = .next t ∧ t.sr d = (s.g.seq + 1).setWidth 64 ∧ t.g.seq = s.g.seq + 1 ∧ MemoryKept s t ∧
      (∀ n, n ≠ d.toNat → t.g.sget n = s.g.sget n) ∧
      t.eng.xfers = s.eng.xfers ++ [{ y with seq := s.g.seq + 1 }]
  (∀ h (c : BitVec 5) d a b, sends (.bxiLd h c d a b) h d (fun s => s.sr (c.setWidth 8)) fun s => s.newBxi .ld c 0 a b) ∧
  (∀ h (c : BitVec 5) rop d a b, sends (.bxiSt h c rop d a b) h d (fun s => s.sr (c.setWidth 8)) fun s => s.newBxi .st c rop a b) ∧
  (∀ h (c : BitVec 5) (kx : BitVec 3) rop d a b s core,
    let x : Xfer := { s.newXfer .cp 0 0 (s.g.kget a.toNat) (s.g.kget kx.toNat) 0 (s.triple b) (s.triple (c.setWidth 8)) with rop := rop }
    let num := ((s.sr (b + 2)).extractLsb' 56 6).toNat
    s.act h ≠ 0 → copyIllegal x = none → (∀ o ∈ x.offsets, o % 16 = 0) → x.barrier = none → kRecen x.desc = false →
    s.coreFor s.g num = some core → s.teamFor s.g num = none →
    (s.eng.xfers.filter fun y => y.drover && y.agent == s.g.id && y.kind != .table).length < 32 →
    s.bxiWaits { x with off := 0, team := 0, target := 0, core := core, die := core / 64 } = false → s.mayRelease s.g.id 2 = true → s.g.dropped = [] →
    ∃ t, exec (.bxiCp h c kx rop d a b) s = .next t ∧ t.sr d = (s.g.seq + 1).setWidth 64 ∧ MemoryKept s t ∧
      ∃ y, t.eng.xfers = s.eng.xfers ++ [y] ∧ y.seq = s.g.seq + 1 ∧ y.kind = .cp ∧ y.core = core ∧ y.desc = x.desc ∧ y.desc2 = x.desc2) ∧
  (∀ h (c : BitVec 5) (a : BitVec 4) b (s u : State) v, s.act h ≠ 0 → s.g.kget a.toNat ≠ 0 → s.inFlight s.g.id true = 0 →
    let k : BitVec 512 := s.g.kget a.toNat &&& ~~~((3 : BitVec 512) <<< 414)
    let n := (boxCount k * fmtWidth (kTfmt k) + 7) / 8
    (s.sr (c.setWidth 8)).toNat + n ≤ 16384 →
    packBox ⟨s.g.die, none, (s.grid s.g.grid).ctx, s.g.grid, s.g.logNo, s.g.die, s.g.id, kNtemp k⟩ k (s.triple b) (List.range (boxCount k)) 0 0 s = (u, .ok v) →
    ∃ t, exec (.idxldFill h c a b) s = .next t ∧ t.g.sregs = u.g.sregs ∧
      (∀ i, i < n → (SMap.get 0 t.g.ixbuf ((s.sr (c.setWidth 8)).toNat + i)).toNat = v / 256 ^ i % 256) ∧
      ∀ y, (y < (s.sr (c.setWidth 8)).toNat ∨ (s.sr (c.setWidth 8)).toNat + n ≤ y) → SMap.get 0 t.g.ixbuf y = SMap.get 0 u.g.ixbuf y) ∧
  (∀ h (z : BitVec 2) d a s, s.act h ≠ 0 → let n := 2 ^ z.toNat
    ∃ t, exec (.idxldRead h z d a) s = .next t ∧
      ((s.sr a).toNat % n ≠ 0 → TrapsWith 0x12 0x50 s.before (s.sr a) 0 s t) ∧
      ((s.sr a).toNat % n = 0 → 16384 < (s.sr a).toNat + n → TrapsWith 0x16 0x60 s.before (s.sr a) 0 s t) ∧
      ((s.sr a).toNat % n = 0 → (s.sr a).toNat + n ≤ 16384 → ModuleKept s t ∧ GangKeptButScalar d.toNat s.g t.g ∧
        t.sr d = BitVec.ofNat 64 (ofBytes ((List.range n).map fun i => SMap.get 0 s.g.ixbuf ((s.sr a).toNat + i))))) ∧
  (∀ h (c : BitVec 3) (z : BitVec 2) d a b s core, s.act h ≠ 0 → (s.sr a).toNat % 16 = 0 → (s.sr b).toNat < 64 →
    s.coreFor s.g (s.sr b).toNat = some core →
    ∃ t x, exec (.tblld h c z d a b) s = .next t ∧ t.eng.xfers = s.eng.xfers ++ [x] ∧ x.kind = .table ∧ x.core = core ∧ x.slot = z.toNat ∧
      x.space = c.toNat ∧ x.coord = [s.sr a] ∧ x.seq = s.g.seq + 1 ∧ t.sr d = (s.g.seq + 1).setWidth 64 ∧ MemoryKept s t) ∧
  (∀ h s, s.act h ≠ 0 → ∃ t, exec (.dend h) s = .next t ∧
    ((∃ x ∈ s.eng.xfers, x.drover = true ∧ x.agent = s.g.id) → Waits s t) ∧
    ((∀ x ∈ s.eng.xfers, x.drover = true → x.agent ≠ s.g.id) → s.g.engFaults = [] → s.mayRelease s.g.id 2 = true → s.g.dropped = [] →
      s.g.binding = none → t.g = Agent.absent ∧ t.agents = s.agents ∧ MemoryKept s t))

-- The system group.

/-- R209 to R211, R359: what S.RDSR reads, and what S.WRSR changes: EXEC for the lanes of its path, FPFLAGS, TRAPVEC, a progress counter.
CDONE and MDONE are the last batch up to which no closed batch has an operation under way. -/
def Obligations.SpecialRegisters : Prop :=
  let reads := fun (i : BitVec 12) (f : State → U64) => ∀ h d, WritesScalar (.sRdsr h i d) h d f
  let nat := fun (i : BitVec 12) (f : State → Nat) => reads i fun s => BitVec.ofNat 64 (f s)
  (reads 0x000 (fun s => (s.tm.teamid ++ BitVec.ofNat 4 s.g.idx).setWidth 64) ∧ reads 0x001 (fun s => s.tm.teamid.setWidth 64) ∧
    reads 0x002 (fun s => s.gr.gridid.setWidth 64) ∧ nat 0x003 (fun s => s.g.width) ∧ nat 0x004 (fun s => s.g.idx) ∧
    nat 0x005 (fun s => s.rc.gangs) ∧
    nat 0x006 (fun s => if s.g.drover then 0x8000 + s.g.die * 256 + s.g.idx else s.g.die * 256 + s.g.core) ∧
    nat 0x007 (fun s => s.myphys.toNat * 2 ^ 16 + s.mylmn.toNat)) ∧
  (reads 0x008 (fun s => s.g.exec &&& s.g.live) ∧ reads 0x009 (fun s => s.g.live) ∧ nat 0x00B (fun s => s.g.wb) ∧
    nat 0x00C (fun s => s.gr.depth) ∧ reads 0x00D (fun s => s.rc.tblbase) ∧ nat 0x00E (fun s => s.rc.tbllen) ∧
    reads 0x00F (fun s => s.g.fp.setWidth 64) ∧ reads 0x010 (fun s => s.gt) ∧ reads 0x011 (fun s => s.cyc) ∧
    reads 0x012 (fun s => if s.tm.preq then 1 else 0) ∧ nat 0x013 (fun s => s.tm.pdl) ∧
    reads 0x014 (fun s => s.reg (rFab (0x600 + 8 * s.tm.coll))) ∧
    reads 0x015 (fun s => (BitVec.ofBool s.sys.c1.local_ ++ BitVec.ofBool s.sys.c0.local_ ++ BitVec.ofBool s.sys.c1.fail ++
      BitVec.ofBool s.sys.c0.fail ++ BitVec.ofNat 2 s.sys.c1.st.code ++ BitVec.ofNat 2 s.sys.c0.st.code).setWidth 64) ∧
    reads 0x031 (fun s => (s.mdone s.g).setWidth 64) ∧ reads 0x033 (fun s => (s.cdone s.g).setWidth 64)) ∧
  (∀ s : State, let done := fun (last n : U32) (bs : List (Option U32)) => (∀ b ∈ bs, b ≠ none → covered last b = true) →
      (∀ b ∈ bs, covered n b = false) ∧ (n = last ∨ some (n + 1) ∈ bs)
    done s.g.cbatch (s.cdone s.g) ((s.eng.xfers.filter fun x => x.agent == s.g.id && !x.drover).map (·.batch)) ∧
    done s.g.mbatch (s.mdone s.g) ((s.eng.mats.filter fun x => x.agent == s.g.id).map (·.batch))) ∧
  (∀ h d, WritesScalar (.sRdsr h 0x00A d) h d fun s =>
    let has := fun (p : Nat) => (List.range 64).any fun l => s.g.live.getLsbD l && s.g.plane l == p
    let occ := (if has 0 then 1 else 0) + (if has 1 then 2 else 0) + (if has 2 then 4 else 0) + (if has 3 then 8 else 0)
    match s.g.region.filter fun r => decide ((s.path.pc - r.base).toNat < r.len) with
    | none => BitVec.ofNat 64 occ
    | some r => BitVec.ofNat 64 ((s.path.pc - r.base).toNat % 2 ^ 24 * 2 ^ 32 + r.len * 2 ^ 8 + 2 ^ 7 + (r.n - 1) * 2 ^ 4 + occ)) ∧
  (reads 0x020 (fun s => s.g.trap.cause) ∧ reads 0x021 (fun s => s.g.trap.pc) ∧ reads 0x022 (fun s => s.g.trap.mask) ∧
    reads 0x023 (fun s => s.g.trap.addr) ∧ reads 0x024 (fun s => s.g.trap.reg) ∧ nat 0x025 (fun s => s.g.pend.length) ∧
    reads 0x026 (fun s => s.g.trapvec) ∧ reads 0x030 (fun s => s.g.mbatch.setWidth 64) ∧ reads 0x032 (fun s => s.g.cbatch.setWidth 64) ∧
    nat 0x034 (fun s => s.inFlight s.g.id true) ∧ nat 0x035 (fun s => s.inFlight s.g.id false)) ∧
  (∀ n : Fin 16, reads (BitVec.ofNat 12 (0x040 + n)) fun s => SMap.get 0 s.g.prog n) ∧
  (∀ h i a s, ∃ t, exec (.sWrsr h i a) s = .next t ∧ ModuleKept s t ∧ RegionKept s.g t.g ∧
    t.g = { s.g.ending t.g with exec := t.g.exec, fp := t.g.fp, trapvec := t.g.trapvec, prog := t.g.prog } ∧
    (i = 0x008 → ∀ l, l < 64 → t.g.exec.getLsbD l = (decide (l < s.g.width) &&
      if s.lanes.getLsbD l && s.g.live.getLsbD l && (s.g.passing h.guard).getLsbD l then (s.sr a).getLsbD l else s.g.exec.getLsbD l)) ∧
    (i ≠ 0x008 → t.g.exec = s.g.exec) ∧ t.g.fp = (if s.act h ≠ 0 ∧ i = 0x00F then (s.sr a).setWidth 5 else s.g.fp) ∧
    t.g.trapvec = (if s.act h ≠ 0 ∧ i = 0x026 then s.sr a &&& ~~~7 else s.g.trapvec) ∧
    ∀ n, n < 16 → SMap.get 0 t.g.prog n = if s.act h ≠ 0 ∧ i.toNat = 0x040 + n then s.sr a else SMap.get 0 s.g.prog n)

/-- R26, R361 to R363, R412 to R417: TRAP, BRK and HALT report themselves. A gang with a handler saves its control set at the return point and
goes on at TRAPVEC with one path of its live lanes; one without, or in trap mode, or at HALT, is parked and the host is interrupted. TRET
restores the control set, or enters the handler again while entries are pending. RESUME settles or drops entries.
The return point of a fault of an asynchronous access is the model's reading (assumption 40). -/
def Obligations.TrapsAndReturns : Prop :=
  let joined := fun (s : State) (r : Stopping) => r.entries.foldl (fun l e => putEntry e l) (s.g.pend.filter fun e => e.lanes != 0)
  let inOrder := fun (l : List PendEntry) => l.Pairwise fun x y => x.order ≤ y.order
  (∀ h n s, s.act h ≠ 0 →
    (∃ t, exec (.trap h n) s = .next t ∧ StopsAfter 0x32 n.toNat (s.g.exec &&& s.g.live) 0 0 [] s t) ∧
    (∃ t, exec (.brk h n) s = .next t ∧ StopsAfter 0x30 n.toNat (s.g.exec &&& s.g.live) 0 0 [] s t) ∧
    (∃ t, exec (.halt h) s = .next t ∧ StopsAfter 0x32 0xFF (s.g.exec &&& s.g.live) 0 0 [] s t)) ∧
  (∀ (r : Stopping) (s : State), inOrder (s.g.pend.filter fun e => e.lanes != 0) → inOrder (joined s r)) ∧
  (∀ (r : Stopping) (s : State), s.g.drover = false → s.g.handler = none → s.g.trapvec >>> 3 ≠ 0 → r.regs.cause ≠ 0xFF32 →
    let t := enterTrap s.g r s
    t.g.trap = r.regs ∧ t.g.pend = joined s r ∧ t.g.stopping = none ∧ t.g.parked = s.g.parked ∧
    t.g.paths = [⟨s.g.nextPath, (s.g.trapvec >>> 3).setWidth 54, s.g.live, 0, 0, false, false, [], none, []⟩] ∧
    t.g.exec = s.g.live ∧ t.g.live = s.g.live ∧ t.g.planes = [] ∧ t.g.region = none ∧ t.g.save = none ∧
    t.g.sregs = s.g.sregs ∧ t.g.vregs = s.g.vregs ∧ t.g.mregs = s.g.mregs ∧ t.g.kregs = s.g.kregs ∧ t.g.wb = s.g.wb ∧ t.g.rb = s.g.rb ∧
    ∃ c, t.g.handler = some c ∧ c.exec = s.g.exec ∧ c.save = s.g.save ∧ c.planes = s.g.planes ∧ c.wb = s.g.wb ∧
      c.region = s.g.region.filter (fun x => ({ s.g with paths := c.paths } : Agent).within x) ∧ c.rb = s.g.rb ∧ c.calls = s.g.calls ∧ c.divs = s.g.divs ∧ c.frames = s.g.frames ∧
      c.paths.map (·.id) = s.g.paths.map (·.id) ∧ c.paths.map (·.lanes) = s.g.paths.map (·.lanes) ∧
      (∀ p, s.g.path? r.path = some p → ∃ q, c.paths.find? (·.id == r.path) = some q ∧ q.pc = r.pc ∧ q.plane = r.plane)) ∧
  (∀ (r : Stopping) (s : State), s.g.drover = false → (s.g.handler.isSome = true ∨ s.g.trapvec >>> 3 = 0 ∨ r.regs.cause = 0xFF32) →
    let t := enterTrap s.g r s
    t.g.parked = true ∧ t.g.nonstop = false ∧ t.g.trap = r.regs ∧ t.g.pend = joined s r ∧ t.g.handler = s.g.handler ∧
    t.g.exec = s.g.exec ∧ t.g.live = s.g.live ∧ t.g.sregs = s.g.sregs ∧ t.g.vregs = s.g.vregs ∧
    (t.reg rHintst).getLsbD 0 = true ∧
    (s.sys.parklog.length < 64 → t.sys.parklog = s.sys.parklog ++
      [⟨false, s.g.handler.isSome, s.gangid s.g, (s.grid s.g.grid).gridid, r.regs.cause.setWidth 16⟩])) ∧
  (∀ h s, ∃ t, exec (.tret h) s = .next t ∧
    (s.g.handler = none → TrapsWith 0x01 0xAF (s.lanes &&& s.g.live) 0 0 s t) ∧
    (s.g.handler.isSome = true → s.vectorsDue = true → Waits s t) ∧
    (s.g.handler.isSome = true → s.vectorsDue = false → s.g.pend ≠ [] → t.g.handler = s.g.handler ∧ t.g.trap = s.g.trap ∧ t.g.pend = s.g.pend ∧ t.sel = false ∧
      t.g.exec = s.g.live ∧ t.g.sregs = s.g.sregs ∧ t.g.vregs = s.g.vregs ∧
      t.g.paths = [⟨s.g.nextPath, (s.g.trapvec >>> 3).setWidth 54, s.g.live, 0, 0, false, false, [], none, []⟩]) ∧
    (∀ c, s.g.handler = some c → s.vectorsDue = false → s.g.pend = [] → s.g.hits = [] →
      (∀ e ∈ c.divs, ∀ a ∈ e.todo, a.lanes ≠ 0 ∧ a.lanes &&& s.g.live = a.lanes) →
      (∀ f ∈ c.frames, f.spill.isSome = true ∨ ∀ x ∈ s.g.frames, x.base = f.base → x.spill = none) →
      (∀ p ∈ c.paths, p.lanes &&& s.g.live ≠ 0) → (∀ k ∈ c.calls, k.lanes &&& s.g.live ≠ 0) →
      t.g.handler = none ∧ t.g.paths = c.paths.map (fun p => { p with lanes := p.lanes &&& s.g.live, age := 0 }) ∧ t.g.exec = c.exec ∧
      t.g.save = c.save ∧ t.g.planes = c.planes ∧ t.g.region = c.region ∧ t.g.wb = c.wb ∧ t.g.rb = c.rb ∧ t.g.calls = c.calls ∧
      t.g.divs = c.divs ∧ t.g.frames = c.frames ∧ t.g.sregs = s.g.sregs ∧ t.g.vregs = s.g.vregs ∧ t.g.mregs = s.g.mregs ∧
      t.g.kregs = s.g.kregs ∧ t.g.fp = s.g.fp ∧ t.g.trap = s.g.trap ∧ t.g.live = s.g.live ∧ MemoryKept s t)) ∧
  (∀ h d a s, s.g.handler = none → (∃ t, exec (.resumeByMask h d a) s = .next t ∧ TrapsWith 0x01 0xAF (s.lanes &&& s.g.live) 0 0 s t) ∧
    (∃ t, exec (.resumeComplete h d) s = .next t ∧ TrapsWith 0x01 0xAF (s.lanes &&& s.g.live) 0 0 s t) ∧
    (∃ t, exec (.resumeDiscard h d) s = .next t ∧ TrapsWith 0x01 0xAF (s.lanes &&& s.g.live) 0 0 s t)) ∧
  (∀ h d s, s.g.handler.isSome = true → s.g.resuming = none → ∃ t, exec (.resumeDiscard h d) s = .next t ∧ t.sr d = 0 ∧ t.g.pend = [] ∧ MemoryKept s t ∧
    t.g.vregs = s.g.vregs ∧ t.g.trap = s.g.trap ∧ t.g.handler = s.g.handler ∧ ∀ n, n ≠ d.toNat → t.g.sget n = s.g.sget n) ∧
  (∀ h d a s i e (bs : Nat → List Nat) p q, (i = Instr.resumeComplete h d ∨ (i = Instr.resumeByMask h d a ∧ (s.sr a).getLsbD 0 = true)) →
    let f := (s.entryForm e).1
    let rs := (s.entryForm e).2
    s.g.handler.isSome = true → s.g.resuming = none → s.settlesDue = false → s.g.pend = [e] → s.g.id ≠ 0 → rs ≠ [] → f.kind = .load → f.uni = false → f.rel = false → f.space ≠ 0 →
    f.n ≠ 8 → f.dest = .vector p q → s.countersFull f = false →
    (s.lanesAt f rs bs → ∃ t, exec i s = .next t ∧ t.g.pend = [] ∧ t.sr d = 0 ∧ MemoryKept s t ∧ t.g.trap = s.g.trap ∧
      ∀ r ∈ rs, t.g.pget p r.lane = (extend f.sx (8 * f.n) (s.bytesAt (bs r.lane))).setWidth 32) ∧
    (∀ k b, k ∈ rs → s.place s.g f k = .bad b → (∀ r ∈ rs, r.lane ≠ k.lane → s.place s.g f r = .own (bs r.lane)) →
      ∃ t, exec i s = .next t ∧ t.g.pend = [{ e with lanes := lane k.lane }] ∧ t.sr d = 1 ∧ MemoryKept s t ∧
        t.g.trap = ⟨BitVec.ofNat 64 (b.1 % 256 + b.2 % 256 * 256), s.g.trap.pc, lane k.lane, k.ea, 0⟩ ∧ t.g.handler = s.g.handler ∧
        ∀ r ∈ rs, r.lane ≠ k.lane → t.g.pget p r.lane = (extend f.sx (8 * f.n) (s.bytesAt (bs r.lane))).setWidth 32))

/-- R146, R364 to R368, R373: SNAP, SNAP.TRY and SNAPW answer by the state of their colour; TRACE puts its two records into its ring, or does
nothing while records are off; PROG counts; RAND writes words of Philox4x32-10; KNELL knells one group or every open one. -/
def Obligations.SystemWords : Prop :=
  (∀ h col d s, s.act h ≠ 0 →
    ((s.reg (rSnap 0)).getLsbD 9 = false → (∃ t, exec (.snap h col d) s = .next t ∧ t.sr d = 3 ∧ ModuleKept s t ∧ GangKeptButScalar d.toNat s.g t.g) ∧
      ∃ t, exec (.snapTry h col d) s = .next t ∧ t.sr d = 3 ∧ ModuleKept s t ∧ GangKeptButScalar d.toNat s.g t.g) ∧
    ((s.reg (rSnap 0)).getLsbD 9 = true →
      ((s.colour col).st = .free → ∀ i, (i = Instr.snap h col d ∨ i = Instr.snapTry h col d) → ∃ t, exec i s = .next t ∧ t.sr d = 0 ∧
        MemoryKept s t ∧ GangKeptButScalar d.toNat s.g t.g ∧
        ((s.colour (!col)).pend = [] → (t.colour col).asked = true ∧
          ((∀ p, p < 6 → (s.reg (rSnap 0)).getLsbD p = false) → (t.colour col).st = .streaming) ∧
          ((∃ p, p < 6 ∧ (s.reg (rSnap 0)).getLsbD p = true) → (t.colour col).st = .recording))) ∧
      ((s.colour col).st = .recording → ∀ i, (i = Instr.snap h col d ∨ i = Instr.snapTry h col d) → ∃ t, exec i s = .next t ∧ t.sr d = 1 ∧
        ModuleKept s t ∧ GangKeptButScalar d.toNat s.g t.g) ∧
      (((s.colour col).st = .streaming ∨ (s.colour col).st = .complete) → (∃ t, exec (.snap h col d) s = .next t ∧ Waits s t) ∧
        ∃ t, exec (.snapTry h col d) s = .next t ∧ t.sr d = 2 ∧ ModuleKept s t ∧ GangKeptButScalar d.toNat s.g t.g))) ∧
  (∀ h col d s, s.act h ≠ 0 → ∃ t, exec (.snapw h col d) s = .next t ∧
    (((s.colour col).st = .recording ∨ (s.colour col).st = .streaming) → Waits s t) ∧
    (((s.colour col).st = .free ∨ (s.colour col).st = .complete) → ModuleKept s t ∧ GangKeptButScalar d.toNat s.g t.g ∧
      t.sr d = (if (s.colour col).st = .free then 0 else 3) + if (s.colour col).fail then 4 else 0)) ∧
  (∀ h tag a s, s.act h ≠ 0 → (s.g.drover = false → s.g.core < 64) →
    let r := fun (o : Nat) => s.reg (rTrace s.g.die o)
    let st := if s.g.drover then 64 else s.g.core
    let seg := (r 8).toNat % 2 ^ 32
    let pos := (r (0x18 + 8 * st)).toNat
    let at_ := (r 0).toNat % 2 ^ 44 + st * seg + pos
    ∃ t, exec (.trace h tag a) s = .next t ∧ GangKept s.g t.g ∧
      (s.TraceOff 4 → ModuleKept s t) ∧
      (seg ≠ 0 → (r 0x10).getLsbD 36 = true → pos + 64 ≤ seg → SMap.get 0 s.sys.trLost (s.g.die * 65 + st) = 0 →
        SMap.get false s.sys.trSync (s.g.die * 65 + st) = true →
        s.gt.toNat ≤ (SMap.get 0 s.sys.trGt (s.g.die * 65 + st)).toNat + 65535 →
        t.reg (rTrace s.g.die (0x18 + 8 * st)) = BitVec.ofNat 64 (pos + 64) ∧
        t.getVal (at_ + 7) 1 / 16 = 4 ∧ t.getVal (at_ + 16) 8 = (s.act h).toNat ∧ t.getVal (at_ + 24) 8 = tag.toNat ∧
        t.getVal (at_ + 39) 1 / 16 = 5 ∧ t.getVal (at_ + 56) 8 = (s.sr a).toNat ∧
        ∀ y, (y < at_ ∨ at_ + 64 ≤ y) → t.getByte y = s.getByte y)) ∧
  (∀ h n s, s.act h ≠ 0 → ∃ t, exec (.prog h n) s = .next t ∧ ModuleKept s t ∧
    t.g = { s.g.ending t.g with prog := t.g.prog } ∧ RegionKept s.g t.g ∧
    ∀ k, SMap.get 0 t.g.prog k = if k = n.toNat then SMap.get 0 s.g.prog k + 1 else SMap.get 0 s.g.prog k) ∧
  (∀ h nw d a b s, nw.toNat < 3 → 4 ≤ s.g.q → ∃ t, exec (.rand h nw d a b) s = .next t ∧ ModuleKept s t ∧
    GangKeptButVector ((List.range (2 ^ nw.toNat)).map fun i => s.g.phys (d.toNat + i)) (s.act h) s.g t.g ∧
    ∀ i l, i < 2 ^ nw.toNat → (s.act h).getLsbD l = true →
      let lane := ((s.tm.lin * s.rc.gangs + s.g.idx) * s.g.width + l) % 2 ^ 64
      some (t.g.vget (d.toNat + i) l).toNat = ((philox (s.sr a) (lane + (s.sr b).toNat * 2 ^ 64)).map (· % 2 ^ 32))[i]?) ∧
  (∀ h a s, s.act h ≠ 0 → let g := (s.sr a).toNat % 64
    ∃ t, exec (.knell h a) s = .next t ∧
      (s.sr a &&& 0x7FFFFFFFFFFFFFC0 ≠ 0 → TrapsWith 0x01 0xA2 (s.lanes &&& s.g.live) 0 0 s t) ∧
      (s.sr a &&& 0x7FFFFFFFFFFFFFC0 = 0 → (s.sr a).getLsbD 63 = true →
        GangKept s.g t.g ∧ ∀ k, k < 64 → s.grpState k = 1 → t.grpState k = 2 ∨ t.grpState k = 3) ∧
      (s.sr a &&& 0x7FFFFFFFFFFFFFC0 = 0 → (s.sr a).getLsbD 63 = false → s.grpState g ≠ 1 →
        TrapsWith 0x42 0xF3 (s.lanes &&& s.g.live) 0 0 s t) ∧
      (s.sr a &&& 0x7FFFFFFFFFFFFFC0 = 0 → (s.sr a).getLsbD 63 = false → s.grpState g = 1 →
        GangKept s.g t.g ∧ (t.grpState g = 2 ∨ t.grpState g = 3)))

-- Events of the memory system.

/-- R42, R43, R46, R52, R66, R69, R75, R122, R123, R295 to R301: what an operation on its way to memory meets. A read takes the bytes of its home,
a write is performed there once no die holds a copy, an atomic returns the old value, a reduce-store opens a partial sum or is applied;
data that is here is written to its register; what is acknowledged leaves the counters.
That bytes of other memories come as the event brings them is the model's choice (assumption 13). -/
def Obligations.MemoryOperationsComplete : Prop :=
  let sound := fun (s : State) => s.bad = [] ∧ s.badL2 = [] ∧ s.badTags = [] ∧ s.partials = []
  let alone := fun (s : State) (o : MemOp) (p : Part) => s.ops = [o] ∧ o.parts = [p] ∧ p.st = .waiting ∧ o.held = false ∧ sound s
  let atHome := fun (s : State) (p : Part) (n : Nat) => p.pa < 2 ^ 40 ∧ p.phys = s.myphys ∧ s.rowHeld p.pa = false ∧ p.pa % 128 + n ≤ 128
  let unshared := fun (s : State) (p : Part) => s.dirOf (p.pa / 128) = .i
  let done := fun (s : State) (o : MemOp) (p : Part) (v : U64) (t : State) =>
    t.ops = [{ o with parts := [{ p with data := v, st := .done }] }] ∧ t.g = s.g ∧ t.agents = s.agents
  let stored := fun (s : State) (a : Nat) (bs : List Byte) (t : State) =>
    (∀ i, i < bs.length → some (t.getByte (a + i)) = bs[i]?) ∧ ∀ y, (y < a ∨ a + bs.length ≤ y) → t.getByte y = s.getByte y
  (∀ s o p, alone s o p → atHome s p o.size → (o.kind = .load ∨ o.kind = .fill) →
    ∃ t, exec (.homeReadRequest o.id) s = .next t ∧ MemoryKept s t ∧ done s o p (BitVec.ofNat 64 (s.getVal p.pa o.size)) t) ∧
  (∀ s o p, alone s o p → atHome s p o.size → unshared s p → 0 < o.size → o.size ≤ 8 →
    (o.kind = .store → ∃ t, exec (.homeWriteRequest o.id) s = .next t ∧ done s o p p.data t ∧ stored s p.pa (bytesOf o.size p.data.toNat) t) ∧
    (o.kind = .atomic → ∃ t, exec (.homeWriteRequest o.id) s = .next t ∧ done s o p (BitVec.ofNat 64 (s.getVal p.pa o.size)) t ∧
      stored s p.pa (bytesOf o.size (rmw o.aop.toNat (8 * o.size) o.bf (s.getVal p.pa o.size) (p.data.toNat % 2 ^ (8 * o.size))
        (p.cmp.toNat % 2 ^ (8 * o.size)))) t)) ∧
  (∀ s o p v, alone s o p → atHome s p o.size → (o.kind = .store ∨ o.kind = .atomic) → s.dirOf (p.pa / 128) = .s v → v ≠ 0 →
    ∃ t, exec (.homeWriteRequest o.id) s = .next t ∧ MemoryKept s t ∧ t.ops = [{ o with parts := [{ p with st := .invalidating }] }]) ∧
  (∀ s o p (die : Nat), s.ops = [o] → o.parts = [p] → p.st = .invalidating → o.kind = .store → sound s →
    p.pa < 2 ^ 40 → p.pa % 128 + o.size ≤ 128 → 0 < o.size → o.size ≤ 8 → die < 8 → s.dirOf (p.pa / 128) = .s (BitVec.ofNat 8 (2 ^ die)) →
    ∃ t, exec (.directoryInvalidateAck (p.pa / 128) die) s = .next t ∧ done s o p p.data t ∧ t.dirOf (p.pa / 128) = .i ∧
      stored s p.pa (bytesOf o.size p.data.toNat) t) ∧
  (∀ s o p, alone s o p → atHome s p o.size → unshared s p → 0 < o.size → o.size ≤ 8 → o.kind = .reduce →
    let d := o.die
    let x := p.data.toNat % 2 ^ (8 * o.size)
    ∃ t, exec (.homeReduceRequest o.id) s = .next t ∧ done s o p p.data t ∧
      ((o.core = none ∨ (s.reg (rDieMem d 0x80)).getLsbD 0 = true) →
        stored s p.pa (bytesOf o.size (applyAop o.aop.toNat (8 * o.size) o.bf (s.getVal p.pa o.size) x)) t) ∧
      (∀ c, o.core = some c → (s.reg (rDieMem d 0x80)).getLsbD 0 = false → MemoryKept s t ∧
        ∃ y, t.partials = [y] ∧ y.core = some c ∧ y.die = d ∧ y.line = p.pa / 128 ∧ y.aop = o.aop ∧ y.size = o.size ∧
          y.elems = [(p.pa % 128, BitVec.ofNat 64 (applyAop o.aop.toNat (heldBits o.size) o.bf (identityOf o.aop.toNat o.size)
            (widenElem o.size o.bf x)))])) ∧
  (∀ s o p k, alone s o p → p.pa = 2 ^ 60 + k → 2 ^ 44 ≤ k → 0 < o.size → o.size ≤ 8 →
    (o.kind = .load → ∃ t, exec (.clusterRemoteAccess o.id) s = .next t ∧ MemoryKept s t ∧
      done s o p (BitVec.ofNat 64 (s.getVal k o.size)) t) ∧
    (o.kind = .store → ∃ t, exec (.clusterRemoteAccess o.id) s = .next t ∧ stored s k (bytesOf o.size p.data.toNat) t ∧
      done s o p (BitVec.ofNat 64 (s.getVal k o.size)) t)) ∧
  (∀ s o p (outside : List (Nat × Byte)), s.ops = [o] → o.parts = [p] → p.st = .waiting → o.held = false → p.pa < 2 ^ 60 → 2 ≤ regionOf p.pa → o.kind = .load →
    ∃ t, exec (.linkCompletion o.id outside false) s = .next t ∧ MemoryKept s t ∧
      done s o p (BitVec.ofNat 64 (ofBytes ((List.range o.size).map fun i => ((outside.find? (·.1 == s.busAddr (p.pa + i))).map (·.2)).getD 0))) t) ∧
  (∀ s id o, s.ops.find? (·.id == id) = some o → o.kind = .load → o.eng = none → (∀ p ∈ o.parts, p.st = .done ∧ p.lane < 64) → (o.parts.map (·.lane)).Nodup →
    o.agent = s.g.id → s.g.id ≠ 0 → o.dest ≠ .none →
    ∃ t, exec (.loadDataReturn id) s = .next t ∧ MemoryKept s t ∧ (∀ k ∈ t.ops, k.id ≠ id) ∧ t.g.paths = s.g.paths ∧
      (∀ n p, o.dest = .scalar n → o.parts = [p] → t.g.sget n = extend o.sx (8 * o.size) p.data ∧ t.g.vregs = s.g.vregs) ∧
      (∀ a b, o.dest = .vector a b → o.size ≠ 8 → t.g.sregs = s.g.sregs ∧
        (∀ p ∈ o.parts, s.g.live.getLsbD p.lane = true → t.g.pget a p.lane = (extend o.sx (8 * o.size) p.data).setWidth 32) ∧
        ∀ r l, l < 64 → (r ≠ a ∨ ∀ p ∈ o.parts, p.lane ≠ l) → t.g.pget r l = s.g.pget r l)) ∧
  (∀ s id o, s.ops.find? (·.id == id) = some o → o.eng = none → (∀ p ∈ o.parts, p.st = .done) →
    (o.kind = .store → exec (.storeAck id) s = .next { s with ops := s.ops.filter (·.id != id) }) ∧
    (o.kind = .reduce → exec (.reduceRegistered id) s = .next { s with ops := s.ops.filter (·.id != id) }))

/-- R32 to R35, R38, R41, R54, R57, R61 to R63: page walks and invalidations, the write-back of a superblock, row activations, scrubbing, the
error log, the size of an L1.
A write of TLBINV with reserved bits, the replacement in TLBs and in the L2, and the sampling of an L1 are the model's (assumptions 29, 32,
33 and 57). -/
def Obligations.MemoryMaintenance : Prop :=
  let queued := fun (i : Instr) (v : U64) => ∀ s, ∃ t, exec i s = .next t ∧
    (s.sys.tlbq.length < 16 → t = { s with sys := { s.sys with tlbq := s.sys.tlbq ++ [v] } }) ∧
    (16 ≤ s.sys.tlbq.length → (t.reg (rXlat 0x808)).getLsbD 1 = true ∧ t.sys = s.sys)
  (∀ s d w r, (s.die d).walkQ = w :: r → (s.die d).walking.length < 64 →
    ∃ t, exec (.pageWalkStart d) s = .next t ∧ (t.die d).walkQ = r ∧ (t.die d).walking = (s.die d).walking ++ [w] ∧ t.g = s.g) ∧
  (∀ s d w r, (s.die d).walking = w :: r → let u := s.setDie d { s.die d with walking := r }
    let no := ((w.asks[0]?).map fun x => s.agentNo x.2).getD 127
    let va := w.vpn * 65536
    ∃ t, exec (.pageWalkComplete d) s = .next t ∧ (s.partials = [] → s.badL2 = [] → s.badTags = [] → MemoryKept s t) ∧
      (w.restart = true → (t.die d).walking = r ++ [{ w with restart := false }]) ∧
      (∀ x, w.restart = false → (walkPage d w.ctx va no u).2 = .ok x →
        (t.die d).walking = r ∧ t.g = s.g ∧ ∀ a ∈ w.asks, (t.cached a.1 d w.ctx va).isSome = true) ∧
      (w.restart = false → (walkPage d w.ctx va no u).2 = .error notYet → (t.die d).walking = w :: r ∧ t.g = s.g) ∧
      ∀ c x, w.restart = false → (walkPage d w.ctx va no u).2 = .error (c, x) → (c, x) ≠ notYet → w.asks.map (·.2) = [s.g.id] → s.g.id ≠ 0 →
        (t.die d).walking = r ∧ t.g.walked = s.g.walked ++ [(c, w.vpn, BitVec.ofNat 8 x)]) ∧
  (∀ ctx vpn, queued (.tlbinvPage ctx vpn) (vpn.setWidth 64 <<< 16 ||| ctx.setWidth 64)) ∧
  (∀ ctx, queued (.tlbinvContext ctx) (0x100 ||| ctx.setWidth 64)) ∧ queued .tlbinvAllContexts 0x200 ∧
  (∀ s, ∃ t, exec .tlbinvReservedKind s = .next t ∧ (t.reg (rXlat 0x808)).getLsbD 1 = true ∧ t.sys = s.sys) ∧
  (∀ s v r, s.sys.tlbq = v :: r → ∃ t, exec .tlbinvDone s = .next t ∧ t.sys.tlbq = r ∧ MemoryKept s t ∧ t.g = s.g ∧
    let ctx := v.toNat % 256
    let gone := fun (e : TlbEntry) => (v.toNat / 256 % 4 = 2 → False) ∧ (v.toNat / 256 % 4 = 1 → e.ctx ≠ ctx) ∧
      (v.toNat / 256 % 4 = 0 → e.ctx ≠ ctx ∨ e.vpage ≠ v.toNat / 65536 * 65536 / 2 ^ levelShift e.level)
    (∀ c, ∀ e ∈ (t.core c).tlb, gone e) ∧ ∀ d, ∀ e ∈ (t.die d).tlb, gone e) ∧
  (∀ s sb, s.dirty.contains sb = true → s.badL2 = [] → s.badTags = [] → s.rowHeld (sb * 512) = false → ∃ t, exec (.l2Writeback sb) s = .next t ∧ MemoryKept s t ∧ t.g = s.g ∧
    t.dirty.contains sb = false ∧ (∀ e ∈ t.dram, e.1 / 512 ≠ sb) ∧ (t.die (sbDie sb)).tag? sb = none) ∧
  (∀ s d row, s.rowLimit d ≤ SMap.get 0 (s.die d).rows row → (s.die d).heldRows.contains row = false →
    ∃ t, exec (.rowActivationLimit d row) s = .next t ∧ (t.die d).heldRows = row :: (s.die d).heldRows ∧ t.mem = s.mem) ∧
  (∀ s d row, (s.die d).heldRows.contains row = true →
    ∃ t, exec (.refreshManagementComplete d row) s = .next t ∧ (t.die d).heldRows.contains row = false ∧
      SMap.get 0 (t.die d).rows row = 0 ∧ t.mem = s.mem) ∧
  (∀ s d row, ∃ t, exec (.rowRefresh d row) s = .next t ∧ (∀ k, SMap.get 0 (t.die d).rows k = if k = row then 0 else SMap.get 0 (s.die d).rows k) ∧
    t.mem = s.mem) ∧
  (∀ s n, let a := n % 2 ^ 33 * 64
    ∃ t, exec (.patrolScrub n) s = .next t ∧ t.mem = s.mem ∧ t.g = s.g ∧ (s.bad.contains a = true → (s.die (dieOf a)).errlog.length < 16 →
      (t.die (dieOf a)).errlog = (s.die (dieOf a)).errlog ++ [⟨a + s.mylmn.toNat * 2 ^ 44, 2, 0, 71, s.gt⟩])) ∧
  (∀ s d, ∃ t, exec (.errlogbRead d) s = .next t ∧ (t.die d).errlog = (s.die d).errlog.drop 1 ∧ (t.die d).errOvf = false ∧ t.mem = s.mem) ∧
  (∀ s c, let k := (s.core c).l1kib
    let r := s.coreRange (s.residents c)
    ∃ t, exec (.l1IntervalDecision c) s = .next t ∧ t.mem = s.mem ∧ t.g = s.g ∧ ((s.cyc.toNat % 65536 ≠ 65535 ∨ s.did (onceInterval c) = true) → t = s) ∧
      (s.cyc.toNat % 65536 = 65535 → s.did (onceInterval c) = false → t.did (onceInterval c) = true ∧
        (t.core c).ia = 0 ∧ (t.core c).ihs = 0 ∧ (t.core c).ihc = 0 ∧ (t.core c).ihl = 0 ∧
        (t.core c).reclaimed = false ∧ ((t.core c).l1kib = k ∨ (t.core c).l1kib = k + 64 ∨ (t.core c).l1kib = k - 64) ∧
        (∀ x ∈ (t.core c).l1, x ∈ (s.core c).l1) ∧
        ((s.core c).reclaimed = true ∨ r.1 = r.2 → (t.core c).l1kib = k) ∧
        ((s.core c).reclaimed = false → r.1 ≠ r.2 → (s.reg (rCore c 0)).getLsbD 0 = true → k < r.1 → (t.core c).l1kib = k + 64) ∧
        ((s.core c).reclaimed = false → r.1 ≠ r.2 → (s.reg (rCore c 0)).getLsbD 0 = true → r.1 ≤ k → r.2 < k → (t.core c).l1kib = k - 64) ∧
        ((s.reg (rCore c 0)).getLsbD 0 = false → (t.core c).l1kib = k)))

-- Events of the engines and of the fabric.

/-- R78, R80, R314 to R322, R333, R338 to R344, R349, R350, R354, R380, R392 to R394: a walker starts the first of its queue and ends it with its record,
its arrival or its fault; a table fills its slot; matrix operations fill buffers, tiles and output rows, or report their fault.
Swizzled bases, the source of a copy's record bit, the address of a copy's fault, a faulting index block, the detail of dropped reduce-adds
and BBLK without scales are the model's (assumptions 45, 47 to 49, 53 and 54). -/
def Obligations.EngineEvents : Prop :=
  let calm := fun (s : State) (deadline : U64) => s.gt ≤ deadline ∧ (∀ y ∈ s.teams, y.state ≠ .exited) ∧ s.bad = [] ∧ s.badL2 = [] ∧ s.badTags = []
  let resident := fun (s : State) (t : Nat) => s.teams.any (·.id == t) = true ∧ (s.team t).state ≠ .saved
  let one := fun (s : State) (x : MatOp) => s.eng.mats = [x] ∧ calm s x.deadline ∧ resident s x.team
  (∀ s core x, (s.core core).running = none → (s.core core).queue = [x.id] → s.xfer? x.id = some x → x.locked = true → s.cutting x.grid = false →
    ∃ t, exec (.boxTransferStart core) s = .next t ∧ (t.core core).running = some x.id ∧ (t.core core).queue = [] ∧ t.mem = s.mem ∧ t.g = s.g) ∧
  (∀ s core x, (s.core core).queue = [] → s.eng.xfers = [x] → s.waitingBxi core = [x] →
    ∃ t, exec (.bxiAccept core) s = .next t ∧ (t.core core).queue = [x.id] ∧ t.mem = s.mem ∧ t.g = s.g ∧
      ∃ y, t.eng.xfers = [y] ∧ y.id = x.id ∧ y.accepted = true ∧ y.core = core ∧ y.desc = x.desc) ∧
  (∀ s core slot x sl u bs, s.eng.xfers = [x] → x.kind = .table → x.core = core → x.slot = slot → (s.core core).slots[slot]? = some sl → sl.full = false →
    tableBytes x s = some (u, .ok bs) → bs ≠ [] →
    ∃ t, exec (.tableSlotFill core slot) s = .next t ∧ t.eng.xfers = [] ∧ (t.core core).slots[slot]? = some ⟨true, bs⟩ ∧ t.g = s.g) ∧
  (∀ s core x, let m := moveOn (s.mayMove x) x s
    let at_ := (s.team x.target).origin
    s.running? core = some x → m.halt = none → m.p.n = boxCount x.desc → m.before = none → x.core = core → calm s x.deadline →
    resident s x.target → x.mc = false →
    ∃ t, exec (.boxTransferComplete core) s = .next t ∧ (∀ y ∈ t.eng.xfers, y.id ≠ x.id) ∧ (t.core core).running = none ∧ t.g = s.g ∧
      (∀ c, ∀ l ∈ (t.core c).locks, l.op ≠ x.id) ∧
      (kRecen x.desc = false → x.barrier = none → t.mem = m.s.mem) ∧
      (kRecen x.desc = true → x.barrier = none → t.getVal (at_ + kRecoff x.desc) 4 = crcEnd m.endRow.p.crc % 2 ^ 32 ∧
        t.getVal (at_ + kRecoff x.desc + 8) 4 = 0 ∧ t.getVal (at_ + kRecoff x.desc + 12) 4 = boxCount x.desc % 2 ^ 32 ∧
        ∀ y, (y < at_ + kRecoff x.desc ∨ at_ + kRecoff x.desc + 16 ≤ y) → t.getByte y = m.s.getByte y) ∧
      (∀ o, kRecen x.desc = false → x.barrier = some o → t.barrier (at_ + o) = (m.s.barrier (at_ + o)).arrive 1 ∧
        ∀ y, (y < at_ + o ∨ at_ + o + 16 ≤ y) → t.getByte y = m.s.getByte y)) ∧
  (∀ s core x, let m := moveOn (s.mayMove x) x s
    s.running? core = some x → m.halt = none → m.p.n < boxCount x.desc →
    ∃ t, exec (.boxTransferComplete core) s = .next t ∧ t.g = s.g ∧ t.mem = m.s.mem ∧ (t.core core).running = some x.id ∧
      t.eng.xfers.map (·.id) = s.eng.xfers.map (·.id) ∧ ∃ y ∈ t.eng.xfers, y.id = x.id ∧ y.prog = m.p ∧ y.before = m.before) ∧
  (∀ s core x f, let m := moveOn (s.mayMove x) x s
    s.running? core = some x → m.halt = some f → x.core = core → x.agent = s.g.id → s.g.id ≠ 0 →
    ∃ t, exec (.boxTransferFault core) s = .next t ∧ (∀ y ∈ t.eng.xfers, y.id ≠ x.id) ∧ (t.core core).running = none ∧
      t.g = { s.g with engFaults := s.g.engFaults ++ [copyFault x f] } ∧ (∀ c, ∀ l ∈ (t.core c).locks, l.op ≠ x.id)) ∧
  (∀ s x, one s x → (x.kind = .mldN ∨ x.kind = .mldW) → fbBsp x.s2 = false → fbBsfmt x.s2 = 0 →
    ∃ t, exec (.mldComplete x.core) s = .next t ∧ t.eng.mats = [] ∧ t.mem = s.mem ∧ t.g = s.g ∧ (t.team x.team).tiles = (s.team x.team).tiles ∧
      (∀ b, b ≠ x.buf → SMap.get Buffer.empty (t.team x.team).bufs b = SMap.get Buffer.empty (s.team x.team).bufs b) ∧
      let b := SMap.get Buffer.empty (t.team x.team).bufs x.buf
      let at_ := (s.team x.team).origin + x.s1.toNat
      b.full = true ∧ ∀ i, i < 32768 → SMap.get 0 b.weights i =
        s.getByte (at_ + if x.kind = .mldW then (i / 2 % 128 * 128 + i / 256) * 2 + i % 2 else i)) ∧
  (∀ s x, one s x → (x.kind = .mma ∨ x.kind = .mmaz) →
    let tm := s.team x.team
    let b := SMap.get Buffer.empty tm.bufs x.buf
    let f := x.s2
    let na := fmtWidth (fbAfmt f)
    let nb := fmtWidth (fbBfmt f)
    b.full = true → b.flawed = false → x.lost = [] → tm.flawed = [] → fbAsfmt f = 0 → (∀ i, i < x.nrows → x.rowMarker i = none) →
    (x.kind = .mma → ∀ i j, i < x.nrows → j < 128 → tileMarker (tm.tileAt x.tile (x.row0 + i) j) = none) →
    ∃ t, exec (.mmaComplete x.core) s = .next t ∧ t.eng.mats = [] ∧ t.mem = s.mem ∧ t.g = s.g ∧ (t.team x.team).bufs = tm.bufs ∧
      (∀ i j, i < x.nrows → j < 128 → (t.team x.team).tileAt x.tile (x.row0 + i) j =
        mmaCell f (fun k => x.row i / 2 ^ (na * k) % 2 ^ na) (fun _ => 0)
          (fun k => ofBytes ((List.range 32768).map fun i => SMap.get 0 b.weights i) / 2 ^ (nb * (128 * k + j)) % 2 ^ nb)
          (fun k => (SMap.get 0 b.side (128 * (k / fbBblk f) + j)).toNat)
          (if x.kind = .mmaz then 0 else tm.tileAt x.tile (x.row0 + i) j)) ∧
      ∀ r j, j < 128 → (r < x.row0 ∨ x.row0 + x.nrows ≤ r) → (t.team x.team).tileAt x.tile r j = tm.tileAt x.tile r j) ∧
  (∀ s x, one s x → x.kind = .epi → epiFails false x.desc = [] → edOswz x.desc = 0 → edScen x.desc = false → edBien x.desc = false →
    let tm := s.team x.team
    let w := fmtWidth (edOfmt x.desc)
    8 ≤ w → tm.flawed = [] → (∀ i j, i < x.nrows → j < 128 → tileMarker (tm.tileAt x.tile (x.row0 + i) j) = none) →
    ∃ t, exec (.epiComplete x.core) s = .next t ∧ t.eng.mats = [] ∧ t.g = s.g ∧ (t.team x.team).tiles = tm.tiles ∧
      (∀ i j, i < x.nrows → j < 128 → t.getVal (tm.origin + x.s2.toNat + i * edStride x.desc + j * (w / 8)) (w / 8) =
        epiElem x.desc (x.row0 + i) j (tm.tileAt x.tile (x.row0 + i) j) 0x3F800000 0x80000000 % 2 ^ w) ∧
      ∀ y, (∀ i, i < x.nrows → y < tm.origin + x.s2.toNat + i * edStride x.desc ∨
        tm.origin + x.s2.toNat + i * edStride x.desc + 16 * w ≤ y) → t.getByte y = s.getByte y) ∧
  (∀ s x, one s x → x.kind = .epiRs → (runEpiRs x s).halt = none → (runEpiRs x s).wait = false →
    ∃ t, exec (.epiRsComplete x.core) s = .next t ∧ t.eng.mats = [] ∧ t.g = s.g ∧ t.mem = (runEpiRs x s).s.mem ∧
      t.partials = (runEpiRs x s).s.partials ∧ ∀ c, ∀ l ∈ (t.core c).locks, l.op ≠ x.id) ∧
  (∀ s x f, s.eng.mats = [x] → (runMat x s).halt = some f → x.agent = s.g.id → s.g.id ≠ 0 →
    ∃ t, exec (.matrixOpFault x.core) s = .next t ∧ t.eng.mats = [] ∧
      t.g = { s.g with engFaults := s.g.engFaults ++ [⟨true, x.batch, BitVec.ofNat 8 f.detail, BitVec.ofNat 8 f.under, BitVec.ofNat 16 f.info,
        f.addr, x.order⟩] } ∧ ∀ c, ∀ l ∈ (t.core c).locks, l.op ≠ x.id)

/-- R2, R45, R47, R371, R431 to R446: what comes from other modules. A packet that stands at the head of its channel is taken: a partial sum or a
vote is combined and sent on, a request is performed at its home and answered, an answer completes its part, a knell ends the collectives of
its group, STEP reports agree on the least. A group opens and closes by command.
The bit of a vote, AOP of an answer, the time of KIND 9, the ports of a ring, FP32 partial sums of BF16, the order of a team's collectives
and packets for a group being knelled are the model's (assumptions 15, 16, 18, 19, 59, 64, 66 and 67). -/
def Obligations.FabricEvents : Prop :=
  let first := fun (s : State) (ch : Nat) (q : Packet) => SMap.get [] s.sys.inq ch = [] ∧ s.sys.restoring = none ∧ q.phys = s.myphys
  let taken := fun (ch : Nat) (t : State) => SMap.get [] t.sys.inq ch = []
  let sent := fun (s t : State) (y : Packet → Prop) => ∃ c p, y p ∧ SMap.get [] t.sys.outq c = SMap.get [] s.sys.outq c ++ [p]
  let ended := fun (g : Nat) (t : State) => t.grpState g = 2 ∨ t.grpState g = 3
  let sound := fun (s : State) (q : Packet) => s.bad = [] ∧ s.badL2 = [] ∧ s.badTags = [] ∧ s.flaws = [] ∧ s.partials = [] ∧
    q.phys = s.myphys ∧ s.homeWaits none (placeOf q) (accessSize q) = false
  let stored := fun (s : State) (a : Nat) (bs : List Byte) (t : State) =>
    (∀ i, i < bs.length → some (t.getByte (a + i)) = bs[i]?) ∧ ∀ y, (y < a ∨ a + bs.length ≤ y) → t.getByte y = s.getByte y
  (∀ s ch q, first s ch q → q.kind = 4 → ∃ t, exec (.collectiveChunkArrival ch (some q)) s = .next t ∧ t.g = s.g ∧
    (s.fit false q.tag.toNat q.addr = .wait → SMap.get [] t.sys.inq ch = [q] ∧ MemoryKept s t) ∧
    (s.fit false q.tag.toNat q.addr = .hold → s.routerRoom (ch / 4) = true → taken ch t ∧ MemoryKept s t ∧
      ∃ r, t.sys.routers = s.sys.routers ++ [r] ∧ r.port = ch / 4 ∧ r.data = q.payload) ∧
    (s.fit false q.tag.toNat q.addr = .wrong → s.sys.routers = [] → ended (q.tag.toNat % 64) t) ∧
    (∀ id c, s.fit false q.tag.toNat q.addr = .take id → s.coll? id = some c → c.op < 2 → c.wide = false → s.sys.routers = [] →
      q.payload.length = 256 →
      let p := q.addr.toNat / 2 ^ 32 % 4
      let i := q.addr.toNat % 2 ^ 32
      let x := s.grpExt c.grp
      let me := s.grpSelf c.grp
      (c.at_ (inKey p i)).length = 256 → c.at_ (seenKey p i) = [] → ringPos x me p ≠ 0 → ringPos x me p + 1 ≠ ringLen x p →
      taken ch t ∧ MemoryKept s t ∧ sent s t fun y => y.kind = 4 ∧ y.payload = joinPartial c q.payload (c.at_ (inKey p i)) ∧
        y.dlmn = BitVec.ofNat 12 (s.grpBase c.grp + ringNext x me p))) ∧
  (∀ s ch q, first s ch q → q.kind = 5 → ∃ t, exec (.stepVoteArrival ch (some q)) s = .next t ∧ t.g = s.g ∧
    (s.fit true q.tag.toNat q.addr = .drop → s.sys.routers = [] → taken ch t ∧ MemoryKept s t) ∧
    (∀ id c own, s.fit true q.tag.toNat q.addr = .take id → s.coll? id = some c → c.op = 4 → s.sys.routers = [] →
      let p := q.addr.toNat / 2 ^ 32 % 4
      let x := s.grpExt c.grp
      let me := s.grpSelf c.grp
      c.at_ (inKey p 0) = [own] → c.at_ (seenKey p 0) = [] → ringPos x me p ≠ 0 → ringPos x me p + 1 ≠ ringLen x p →
      taken ch t ∧ MemoryKept s t ∧ sent s t fun y => y.kind = 5 ∧ y.payload = [] ∧
        y.addr.getLsbD 0 = (q.addr.getLsbD 0 && own.getLsbD 0) ∧ y.dlmn = BitVec.ofNat 12 (s.grpBase c.grp + ringNext x me p))) ∧
  (∀ (s : State) (c : Coll), s.sys.colls = [c] → c.started = true → c.doneChunks.length = c.total (s.grpSize c.grp) → c.writes = [] → s.engDue c.id = [] → s.gt ≤ c.deadline →
    (∀ y ∈ s.teams, y.state ≠ .exited) → s.teams.any (·.id == c.team) = true → (s.team c.team).state ≠ .saved →
    let at_ := (s.team c.team).origin + (c.ctl0 >>> 32).toNat
    ∃ t, exec (.collectiveComplete c.grp) s = .next t ∧ t.sys.colls = [] ∧ t.g = s.g ∧ t.barrier at_ = (s.barrier at_).arrive 1 ∧
      ∀ y, (y < at_ ∨ at_ + 16 ≤ y) → t.getByte y = s.getByte y) ∧
  (∀ s ch q, first s ch q → q.kind = 7 → s.grpState (q.tag.toNat % 64) = 1 → ∃ t, exec (.knellArrival ch (some q)) s = .next t ∧ taken ch t ∧
    ended (q.tag.toNat % 64) t ∧ t.g = s.g ∧ ∀ c ∈ t.sys.colls, c.grp ≠ q.tag.toNat % 64) ∧
  (∀ s g, g < 64 → s.grpState g = 1 → ∃ t, exec (.fatalGroupFault g) s = .next t ∧ ended g t ∧ t.g = s.g ∧ ∀ c ∈ t.sys.colls, c.grp ≠ g) ∧
  (∀ s ch q, first s ch q → q.kind = 8 → let g := q.tag.toNat % 64
    ∃ t, exec (.stepReportArrival ch (some q)) s = .next t ∧ taken ch t ∧ MemoryKept s t ∧ t.g = s.g ∧
      (q.slmn.toNat - s.grpBase g, q.addr) ∈ SMap.get [] t.sys.reports g ∧
      (s.grpState g = 2 → (∀ m, m < s.grpSize g → ∃ r ∈ SMap.get [] t.sys.reports g, r.1 = m) → t.grpState g = 3 ∧
        (t.reg rHintst).getLsbD 3 = true ∧ ∀ r ∈ SMap.get [] t.sys.reports g, t.reg (rFab (0x800 + 8 * g)) ≤ r.2)) ∧
  (∀ s g, g < 64 → s.grpState g = 2 → SMap.get 0 s.sys.agreeBy g ≤ s.gt → ∃ t, exec (.agreementTimeout g) s = .next t ∧ t.grpState g = 4 ∧
    (t.reg rHintst).getLsbD 3 = true ∧ t.mem = s.mem ∧ t.g = s.g) ∧
  (∀ s g, g < 64 → (∀ c ∈ s.sys.colls, c.grp ≠ g) → ∃ t, exec (.grpcmdOpen g) s = .next t ∧ t.mem = s.mem ∧ t.g = s.g ∧
    let fits := s.grpBase g ≤ s.mylmn.toNat ∧ s.mylmn.toNat < s.grpBase g + s.grpSize g ∧ s.grpBase g + s.grpSize g ≤ 4096
    (fits → t.grpState g = 1 ∧ (t.reg (rFab (8 * g))).getLsbD 60 = false ∧ SMap.get 0 t.sys.seqs g = 0) ∧
    (¬fits → t.grpState g = 0 ∧ (t.reg (rFab (8 * g))).getLsbD 60 = true)) ∧
  (∀ s g, g < 64 → ∃ t, exec (.grpcmdClose g) s = .next t ∧ t.grpState g = 0 ∧ t.g = s.g ∧ ∀ c ∈ t.sys.colls, c.grp ≠ g) ∧
  (∀ s ch q, first s ch q → sound s q → ∃ t, exec (.fabricReadRequest ch (some q)) s = .next t ∧ MemoryKept s t ∧ t.g = s.g ∧
    (q.kind = 0 → taken ch t ∧ sent s t fun y => y.kind = 3 ∧ y.dlmn = q.slmn ∧ y.tag = q.tag ∧ failedAnswer y = false ∧
      y.payload = s.getBytes (placeOf q) (accessSize q))) ∧
  (∀ s ch q, first s ch q → sound s q → accessSize q ≤ q.payload.length → q.kind = 1 →
    ∃ t, exec (.fabricWriteRequest ch (some q)) s = .next t ∧ t.g = s.g ∧ taken ch t ∧
      stored s (placeOf q) (q.payload.take (accessSize q)) t ∧ sent s t fun y => y.kind = 3 ∧ y.dlmn = q.slmn ∧ y.tag = q.tag ∧ failedAnswer y = false) ∧
  (∀ s ch q, first s ch q → sound s q → q.kind = 2 → let a := placeOf q
    let n := accessSize q
    let x := ofBytes (q.payload.take n)
    ∃ t, exec (.fabricAtomicRequest ch (some q)) s = .next t ∧ t.g = s.g ∧ taken ch t ∧
      stored s a (bytesOf n (if reducing q then applyAop (accessOp q) (8 * n) (accessBf q) (s.getVal a n) x
        else rmw (accessOp q) (8 * n) (accessBf q) (s.getVal a n) x (ofBytes ((q.payload.drop n).take n)))) t ∧
      sent s t fun y => y.kind = 3 ∧ y.dlmn = q.slmn ∧ y.tag = q.tag ∧ failedAnswer y = false ∧
        (reducing q = false → y.payload = s.getBytes a n)) ∧
  (∀ s ch q o p, first s ch q → q.kind = 3 → s.ops = [o] → o.parts = [p] → transaction o p = q.tag.toNat → p.st = .away →
    o.kind = .load → o.wholeLine p = false → ∃ t, exec (.fabricResponse ch (some q)) s = .next t ∧ taken ch t ∧ MemoryKept s t ∧ t.g = s.g ∧
      (failedAnswer q = false →
        t.ops = [{ o with parts := [{ p with data := BitVec.ofNat 64 (ofBytes (q.payload.take o.size)), st := .done }] }]) ∧
      (failedAnswer q = true → t.ops = [{ o with parts := [{ p with st := .failed 0x84 }] }])) ∧
  (∀ s ch q, SMap.get [] s.sys.inq ch = [] → 12 ≤ q.kind.toNat → ∃ t, exec (.fabricReservedKind ch (some q)) s = .next t ∧ taken ch t ∧
    t.mem = s.mem ∧ t.g = s.g ∧ t.reg (rFab 0xA10) = s.reg (rFab 0xA10) + 1) ∧
  (∀ s port, port < 6 → s.sys.portsDown.contains port = false → ∃ t, exec (.portDown port) s = .next t ∧ t.sys.portsDown.contains port = true ∧
    (t.reg rHintst).getLsbD 2 = true ∧ t.g = s.g ∧ ∀ g, g < 64 → s.grpState g = 1 → s.ringUses g port = true → ended g t) ∧
  (∀ s ch q, first s ch q → q.kind = 9 → ∃ t, exec (.timeSyncMessage ch (some q)) s = .next t ∧ taken ch t ∧ MemoryKept s t ∧ t.g = s.g ∧
    t.gt = if s.gt ≤ q.addr then q.addr else s.gt) ∧
  (∀ s ch q, first s ch q → q.kind = 11 → s.agents = [] → s.g.id ≠ 0 → s.g.drover = false → s.gridInScope s.g.grid = true → s.g.parked = false →
    s.g.ended = false → s.g.stopping = none → s.tm.preq = false → s.stopsNow s.g s.g.standsAt = true →
    ∃ t, exec (.haltNotice ch (some q)) s = .next t ∧ taken ch t ∧ t.g.parked = true ∧ t.g.trap.cause = 0xFF32 ∧ t.g.sregs = s.g.sregs ∧
      t.g.vregs = s.g.vregs) ∧
  (∀ s ch i d, s.sys.wbDue = [(ch, i, d)] → (s.reg (rTrace 0 8)).toNat % 2 ^ 32 = 0 → ∃ t, exec (.waybillCheckpoint ch) s = .next t ∧
    t.sys.wbDue = [] ∧ t.mem = s.mem ∧
    let ctl := s.reg (rFab 0xA18)
    let refn := (s.reg (rFab 0xBA8)).toNat % 2 ^ 32
    let want := s.getVal ((s.reg (rFab 0xBA0)).toNat % 2 ^ 44 + 8 * (ch * refn + i)) 8
    ((ctl.getLsbD 2 = false ∨ refn ≤ i ∨ want = d.toNat) → t.reg (rFab 0xBB0) = s.reg (rFab 0xBB0) ∧ t.g = s.g) ∧
    (ctl.getLsbD 2 = true → i < refn → want ≠ d.toNat → ctl.getLsbD 3 = false → ctl.toNat % 4 = 0 →
      t.reg (rFab 0xBB0) = s.reg (rFab 0xBB0) + 1 ∧ (t.reg (rFab 0xA18)).getLsbD 3 = true ∧ (t.reg rHintst).getLsbD 5 = true ∧ t.g = s.g))

-- Events of a snapshot and of a restore.

/-- R138 to R153, R441, R443, R444: a cut begins and ends with its records and its cairns; a cairn starts a colour or ends the log of its
channel; captures and sweeps stage records that the packhorses write; a colour ends by notice and by release; a restore puts back what the
region's set holds.
The die of a channel's log, the fields of cairns and notices, what a restore takes from elsewhere and a granule recorded as bad are the
model's (assumptions 17, 24, 25, 69, 86 and 89). -/
def Obligations.SnapshotEvents : Prop :=
  let first := fun (s : State) (ch : Nat) (q : Packet) => SMap.get [] s.sys.inq ch = [] ∧ s.sys.restoring = none ∧ (q.kind = 6 ∨ q.phys = s.myphys)
  let taken := fun (ch : Nat) (t : State) => SMap.get [] t.sys.inq ch = []
  let same := fun (s t : State) => t.mem = s.mem ∧ t.g = s.g ∧ t.agents = s.agents
  let sent := fun (s t : State) (y : Packet → Prop) => ∃ c p, y p ∧ SMap.get [] t.sys.outq c = SMap.get [] s.sys.outq c ++ [p]
  let outcome := fun (s : State) => (s.reg (rSnap 0xB8)).toNat
  let started := fun (c : Colour) (chans : List Nat) => c.asked = true ∧ c.cutting = false ∧ c.fail = false ∧ c.chans = chans ∧
    c.st = if chans.isEmpty then .streaming else .recording
  let room := fun (s : State) (d n : Nat) => (s.die d).staged + n ≤ 8388608
  let chansOf := fun (s : State) => s.snapPorts.flatMap fun p => (List.range 4).map (4 * p + ·)
  (∀ s col, (s.colour col).asked = true → (s.colour col).cutting = false → ∃ t, exec (.localCut col) s = .next t ∧ same s t ∧
    t.colour col = { s.colour col with asked := false, cutting := true } ∧ t.colour (!col) = s.colour (!col)) ∧
  (∀ s col, (s.colour col).cutting = true → s.drained = true → s.partials = [] → (s.reg (rTrace 0 8)).toNat % 2 ^ 32 = 0 →
    (∀ d, room s d (upTo (32 + s.openBytes.length) 64 + sumNat ((s.smallRecords (tagOf col)).map (·.bytes)))) →
    ∃ t, exec (.cutDrainComplete col) s = .next t ∧ same s t ∧ (t.colour col).cutting = false ∧ (t.colour col).pend = s.scopeRanges ∧
      (t.colour col).capt = [] ∧ (t.colour col).st = (s.colour col).st ∧ t.reg (rSnap (if col then 0xC8 else 0xC0)) = s.gt ∧
      (∀ d, d < 8 → ∃ r ∈ (t.die d).staging, r.kind = 1 ∧ r.colours = tagOf col ∧ r.aux = s.gt ∧ r.data = s.openBytes) ∧
      (∀ r ∈ s.smallRecords (tagOf col), r ∈ (t.die r.die).staging) ∧
      ∀ p ∈ s.snapPorts, ∀ v, v < 4 → ∃ q ∈ SMap.get [] t.sys.outq (4 * p + v), q.kind = 6 ∧ q.tag.getLsbD 0 = col ∧ q.vc.toNat = v) ∧
  (∀ s ch q, first s ch q → q.kind = 6 → s.sys.lateCairns = [] →
    let col := q.tag.getLsbD 0
    let c := s.colour col
    ∃ t, exec (.cairnArrival ch (some q)) s = .next t ∧ same s t ∧ t.bar = s.bar ∧
      (c.st = .free → taken ch t ∧ started (t.colour col) ((chansOf s).filter (· != ch))) ∧
      (c.st = .recording → let rest := c.chans.filter (· != ch)
        taken ch t ∧ t.colour col = { c with chans := rest, st := if rest.isEmpty then .streaming else .recording }) ∧
      (c.st = .streaming → taken ch t ∧ t.colour col = c) ∧
      (c.st = .complete → SMap.get [] t.sys.inq ch = [q] ∧ t.colour col = c)) ∧
  (∀ s gr, let p0 := s.sys.c0.pending gr
    let p1 := s.sys.c1.pending gr
    let r := { granuleRec s gr with colours := BitVec.ofBool p1 ++ BitVec.ofBool p0 }
    p0 = true ∨ p1 = true → room s r.die r.bytes → ∃ t, exec (.granuleCapture gr) s = .next t ∧ same s t ∧
      (t.die r.die).staging = (s.die r.die).staging ++ [r] ∧ t.sys.c0.pending gr = false ∧ t.sys.c1.pending gr = false ∧
      t.reg (rPh r.die 0x18) = s.reg (rPh r.die 0x18) + 1) ∧
  (∀ s die gr, s.sweepNext die = some gr → s.sys.c0.pending gr = true ∨ s.sys.c1.pending gr = true →
    ∃ t, exec (.packhorseSweep die) s = .next t ∧ same s t ∧ t.sys.c0.pending gr = false ∧ t.sys.c1.pending gr = false ∧
      (∃ r ∈ (t.die (granuleRec s gr).die).staging, r.kind = (granuleRec s gr).kind ∧ r.loc = (granuleRec s gr).loc ∧
        r.data = (granuleRec s gr).data) ∧
      t.reg (rPh (granuleRec s gr).die 0x20) = s.reg (rPh (granuleRec s gr).die 0x20) + 1) ∧
  (∀ s die, let base := (s.reg (rPh die 0)).toNat
    let pos := s.reg (rPh die 0x10)
    (s.die die).staging ≠ [] →
    (s.regionOk base = true → (∀ r ∈ (s.die die).staging, pos.toNat + r.bytes ≤ (s.reg (rPh die 8)).toNat) →
      ∃ t r, r ∈ (s.die die).staging ∧ exec (.recordDurable die) s = .next t ∧ same s t ∧ (t.die die).staging = (s.die die).staging.erase r ∧
        t.reg (rPh die 0x10) = pos + BitVec.ofNat 64 (upTo (32 + r.data.length) 64) ∧
        t.sys.region = s.sys.region ++ [(s.busAddr (base + pos.toNat), recBytes r)] ∧
        (r.kind = 0x0F → ∀ col, r.colours &&& tagOf col ≠ 0 → r.die ∈ (t.colour col).closed) ∧
        (r.kind = 0x10 → ∀ col, r.colours &&& tagOf col ≠ 0 → r.die ∉ (t.colour col).aborting)) ∧
    ∃ t r, r ∈ (s.die die).staging ∧ exec (.recordWriteFail die) s = .next t ∧ same s t ∧ t.reg (rPh die 0x10) = pos ∧
      t.sys.region = s.sys.region ∧
      ∀ col, r.colours &&& tagOf col ≠ 0 → (s.colour col).st ≠ .free →
        (t.colour col).fail = true ∧ (t.colour col).pend = [] ∧ (t.colour col).st = (s.colour col).st ∧
        ∀ d, ∀ x ∈ (t.die d).staging, x.colours &&& tagOf col = 0) ∧
  (∀ s col, let c := s.colour col
    c.st = .streaming → c.asked = false → c.cutting = false → c.local_ = false → c.abort = false → c.nexts = [] →
    s.noneStaged col = true → (∀ d, room s d 64) →
    ∃ t, exec (.localCompletion col) s = .next t ∧ same s t ∧ (t.colour col).local_ = true ∧ (t.colour col).st = .streaming ∧
      (c.fail = false → ∀ d, d < 8 → ∃ r, (t.die d).staging = (s.die d).staging ++ [r] ∧ r.kind = 0x0F ∧ r.colours = tagOf col ∧
        r.aux = BitVec.ofNat 64 (SMap.get 0 c.count d) ∧ r.data = [])) ∧
  (∀ s col, let c := s.colour col
    c.st = .streaming → c.local_ = true → c.reported = false → c.abort = false → (∀ d, d < 8 → d ∈ c.closed) →
    ∃ t, exec (.completionReport col) s = .next t ∧ same s t ∧ (t.colour col).reported = true ∧
      (s.coordinator ≠ s.mylmn.toNat → t.colour col = { c with reported := true } ∧ sent s t fun y => y.kind = 10 ∧
        y.dlmn.toNat = s.coordinator ∧ y.tag.getLsbD 0 = col ∧ y.tag.getLsbD 1 = c.fail ∧ y.tag.getLsbD 2 = false) ∧
      (s.coordinator = s.mylmn.toNat → s.snapCount = 1 → (t.colour col).st = .complete ∧ (t.reg rHintst).getLsbD 4 = true)) ∧
  (∀ s ch q, first s ch q → q.kind = 10 → q.tag.getLsbD 2 = false → s.coordinator = s.mylmn.toNat →
    let col := q.tag.getLsbD 0
    let n := SMap.get 0 s.sys.notices (b01 col) + 1
    ∃ t, exec (.coordinatorNoticeArrival ch (some q)) s = .next t ∧ taken ch t ∧ same s t ∧
      (n < s.snapCount → SMap.get 0 t.sys.notices (b01 col) = n ∧ (t.colour col).st = (s.colour col).st) ∧
      (s.snapCount ≤ n → (t.reg rHintst).getLsbD 4 = true ∧ SMap.get 0 t.sys.notices (b01 col) = 0 ∧
        ((s.colour col).st ≠ .free → (s.colour col).abort = false → (t.colour col).st = .complete))) ∧
  (∀ s ch q, first s ch q → q.kind = 10 → q.tag.getLsbD 2 = true → let col := q.tag.getLsbD 0
    (s.colour col).st ≠ .free → (s.colour col).abort = false →
    ∃ t, exec (.globalCompletionNotice ch (some q)) s = .next t ∧ taken ch t ∧ same s t ∧ (t.colour col).st = .complete ∧
      (t.colour col).fail = ((s.colour col).fail || q.tag.getLsbD 1)) ∧
  (∀ s col, ∃ t, exec (.snapcmdStart col) s = .next t ∧ same s t ∧ t.colour (!col) = s.colour (!col) ∧
    let en := (s.reg (rSnap 0)).getLsbD 9
    let c := s.colour col
    (en = false → outcome t = 3 ∧ t.colour col = c) ∧
    (en = true → c.st = .free → outcome t = 0 ∧ started (t.colour col) (chansOf s)) ∧
    (en = true → c.st = .recording → outcome t = 1 ∧ t.colour col = c) ∧
    (en = true → (c.st = .streaming ∨ c.st = .complete) → outcome t = 2 ∧ t.colour col = c)) ∧
  (∀ s col, ∃ t, exec (.snapcmdRelease col) s = .next t ∧ same s t ∧ outcome t = 4 ∧ t.colour (!col) = s.colour (!col) ∧
    let c := s.colour col
    (c.st = .free → t.colour col = c) ∧ (c.st = .complete → t.colour col = Colour.free) ∧
    ((c.st = .recording ∨ c.st = .streaming) → c.abort = false → c.fail = false → (∀ d, room s d 64) →
      (t.colour col).pend = [] ∧ (t.colour col).chans = [] ∧ (t.colour col).st = c.st ∧
      (∀ h ∈ c.chans, (col, h) ∈ t.sys.lateCairns) ∧
      ∀ d, d < 8 → ∃ r, (t.die d).staging = (s.die d).staging ++ [r] ∧ r.kind = 0x10 ∧ r.colours = tagOf col ∧ r.data = [])) ∧
  (∀ s col, (s.colour col).abort = true → (s.colour col).aborting = [] →
    ∃ t, exec (.abortRecordsDurable col) s = .next t ∧ same s t ∧ t.colour col = Colour.free) ∧
  (∀ s col, s.sys.restoring = none → ∃ t, exec (.restcmdGo col) s = .next t ∧ same s t ∧
    let may := s.sys.c0.st = .free ∧ s.sys.c1.st = .free ∧ ∀ g ∈ s.grids, g.state = .running → s.inScope g.ctx = false
    (may → t.sys.restoring = some col ∧ t.reg (rSnap 0xF0) = 5) ∧ (¬may → t.sys.restoring = none ∧ t.reg (rSnap 0xF0) = 4)) ∧
  ∀ s col region, s.sys.restoring = some col → s.sys.routers = [] → ∃ t, exec (.restoreComplete region) s = .next t ∧ t.g = s.g ∧
    t.sys.restoring = none ∧
    let held := s.restoreSet col (region.take (s.reg (rSnap 0xE0)).toNat)
    let base := (s.reg (rSnap 0xD8)).toNat
    (s.regionOk base = false → t.mem = s.mem ∧ t.reg (rSnap 0xF0) = 2) ∧
    (s.regionOk base = true → ∀ n, held = .error n → t.mem = s.mem ∧ t.reg (rSnap 0xF0) = BitVec.ofNat 64 n) ∧
    (s.regionOk base = true → ∀ rs, held = .ok rs → t.reg (rSnap 0xF0) = 0 ∧
      ∀ r, rs.filter (fun x => x.kind != 1 && x.kind != 0x0F) = [r] → r.kind = 2 → r.bad = false → r.data.length = 16384 →
        let a := r.loc.toNat % 2 ^ 44
        (∀ i, i < 16384 → some (t.getByte (a + i)) = r.data[i]?) ∧ ∀ y, (y < a ∨ a + 16384 ≤ y) → t.getByte y = s.getByte y)

-- Events of grids, teams, drover programs and pre-emption.

/-- R48, R60, R154 to R162, R385, R388 to R390, R400 to R405, R415, R419 to R425, R430, R461: a launch enters its queue, is dispatched,
offered, placed, filled and started; a grid retires; a program starts, traps, ends by fault and frees its context; a team is asked to give
way, is saved and comes back.
Names of grids and teams, the dispatcher's accesses, the die scratchpad, where a team is placed, which teams are asked, what becomes of
units already offered and of a saved allocation, and when a team is freed are the model's (assumptions 8, 30, 73 to 77, 79 to 81, 83, 93). -/
def Obligations.WorkEvents : Prop :=
  let same := fun (s t : State) => t.mem = s.mem ∧ t.g = s.g ∧ t.agents = s.agents
  let exists_ := fun (s : State) (i : Nat) => s.teams.any (·.id == i) = true
  let named := fun (s : State) => (s.all.map (·.id)).Nodup ∧ (s.teams.map (·.id)).Nodup ∧ ∀ a ∈ s.agents, a.id ≠ 0
  let ends := fun (s : State) (a : Agent) => a.drover = true ∧ a.ended = true ∧ a.id ≠ 0 ∧ s.agent? a.id = some a ∧ named s
  (∀ s q v, s.sys.hostq.any HostReq.writes = true → ∃ t, exec (.hostEnqueue q v) s = .next t ∧ same s t ∧ t.queues = s.queues ∧ t.bar = s.bar ∧
    t.sys.hostq = s.sys.hostq ++ [⟨0, .enqueue q.toNat, 0, 0, [], v, 0⟩]) ∧
  (∀ s q v, s.sys.hostq.any HostReq.writes = false → ∃ t, exec (.hostEnqueue q v) s = .next t ∧ same s t ∧
    (v.extractLsb' 57 7 ≠ 0 → t.reg rLqres = 7 ∧ t.queues = s.queues) ∧
    (v.extractLsb' 57 7 = 0 → 1024 ≤ (s.queue q.toNat).length → t.reg rLqres = 1 ∧ t.queues = s.queues) ∧
    (v.extractLsb' 57 7 = 0 → (s.queue q.toNat).length < 1024 → t.reg rLqres = 0 ∧ ∃ a b, s.queue q.toNat = a ++ b ∧
      t.queue q.toNat = a ++ ⟨v &&& ~~~0xFF, v.toNat % 256, none, 0xFFFFFFFF, 0, 0, s.cyc, 0⟩ :: b ∧
      (∀ x ∈ a, x.born = s.cyc → x.rank = 0) ∧ ∀ x ∈ b.head?, x.born = s.cyc ∧ 0 < x.rank)) ∧
  (∀ s q x, (s.grids.filter (·.state == .running)).length < 256 → s.did onceDispatch = false → s.headQueue = some (q, x) →
    (x.rank ≠ 0 → x.born ≠ s.cyc) → ∃ t, exec .gridDispatch s = .next t ∧ t.g = s.g ∧
      ((s.reg (rXlat (8 * x.ctx))).getLsbD 0 = false → t.grids = s.grids ∧ t.queue q = (s.queue q).tail ∧ t.did onceDispatch = true) ∧
      ((s.reg (rXlat (8 * x.ctx))).getLsbD 0 = true →
        (∀ u, engRead (dispatchEngine x.ctx 0 0) false x.recva 256 s = (u, .error notYet) → t = u) ∧
        (∀ u b, engRead (dispatchEngine x.ctx 0 0) false x.recva 256 s = (u, .error b) → b ≠ notYet →
          t.grids = s.grids ∧ t.queue q = (s.queue q).tail) ∧
        ∀ u bs, engRead (dispatchEngine x.ctx 0 0) false x.recva 256 s = (u, .ok bs) →
          t.queue q = (s.queue q).tail ∧ t.did onceDispatch = true ∧
          (∀ c, refusal bs (parseRecord bs) (if x.parent.isNone then some q else none) = some c → t.grids = s.grids ∧
            ∃ id v e, t = writeLink (linkValue c 4 x.depth x.parentId) id false e v ∧ e.recva = x.recva ∧ e.ctx = x.ctx ∧ v.mem = u.mem) ∧
          (refusal bs (parseRecord bs) (if x.parent.isNone then some q else none) = none →
            ∃ v e g, t = writeLink (linkValue 0 1 x.depth x.parentId) g.id true e v ∧ e.recva = x.recva ∧ e.ctx = x.ctx ∧ v.mem = u.mem ∧
              v.grids = s.grids ++ [g] ∧ g.ctx = x.ctx ∧ g.recva = x.recva ∧ g.rc = parseRecord bs ∧
              g.parentId = x.parentId ∧ g.depth = x.depth ∧ g.state = .running ∧ g.next = 0 ∧ g.fault = none))) ∧
  (∀ s, ∃ t, exec .lnklogcRead s = .next t ∧ same s t ∧ t.sys.lnklog = s.sys.lnklog.drop 1 ∧ t.sys.lnkOvf = false ∧ t.bar = s.bar) ∧
  (∀ s g d, s.did onceOffer = false → s.offering = some g → s.dieFor g.rc.diemask g.rc.members = some d → s.grid g.id = g →
    ∃ t, exec .teamOffer s = .next t ∧ same s t ∧ t.lastDie = d ∧
      (s.savedUnit g.id = none → let n := g.rc.members
        ∃ ts, t.teams = s.teams ++ ts ∧ ts.length = n ∧ (t.die d).offered = (s.die d).offered ++ ts.map (·.id) ∧
          (t.grid g.id).next = g.next + n ∧
          ∀ i x, ts[i]? = some x → x.lin = g.next + i ∧ x.member = i ∧ x.grid = g.id ∧ x.state = .offered ∧ x.die = d ∧
            x.unit = ts.map (·.id)) ∧
      (∀ x, s.savedUnit g.id = some x → (t.die d).offered = (s.die d).offered ++ x.unit ∧ t.grids = s.grids)) ∧
  (∀ s die u l, s.placeable die = some (u, l) → (s.team (u.headD 0)).state = .offered → named s →
    let gid := (s.team (u.headD 0)).grid
    (l.map (·.1)).Nodup → (∀ e ∈ l, exists_ s e.1 ∧ (s.team e.1).grid = gid ∧ s.gangsOf e.1 = []) → (s.grid gid).id = gid →
    ∃ t, exec (.teamPlace die) s = .next t ∧ ∀ e ∈ l, let x := t.team e.1
      x.state = .starting ∧ x.die = e.2.1 / 64 ∧ x.core = e.2.1 % 64 ∧ x.base = e.2.2 ∧ x.size = (s.grid gid).rc.alloc ∧
      (t.gangsOf e.1).length = (s.grid gid).rc.gangs) ∧
  (∀ s die u l, s.wouldAsk die = some (u, l) → l ≠ [] → (reserveSlots l s).isSome = true → (∀ i ∈ l, exists_ s i) →
    ∃ t, exec (.unitReserving die) s = .next t ∧ same s t ∧ t.reg (rSched die 8) = s.reg (rSched die 8) + 1 ∧
      (t.die die).asks = (s.die die).asks ++ [(u, l)] ∧
      ∀ i ∈ l, (t.team i).preq = true ∧ (t.team i).slot.isSome = true ∧
        ((s.team i).preq = false → (t.team i).pdl = (s.reg (rSched die 0)).toNat / 2 ^ 32)) ∧
  (∀ s die u l, s.wouldAsk die = some (u, l) → l = [] ∨ (reserveSlots l s).isSome = false →
    ∃ t, exec (.unitReserving die) s = .next t ∧ same s t ∧ t.teams = s.teams ∧ (t.die die).tried = (s.die die).tried ++ [u] ∧
      t.wouldAsk die ≠ some (u, l)) ∧
  (∀ s team, let x := s.team team
    x.state = .starting → x.filled = false → named s → ∃ t, exec (.allocationZeroFillDone team) s = .next t ∧ (t.team team).filled = true ∧
      (∀ y, t.getByte y = if x.origin ≤ y ∧ y < x.origin + x.size then 0 else s.getByte y) ∧
      (x.unit = [team] → x.bindsLeft = 0 → (t.team team).state = .running ∧ ∀ a ∈ t.gangsOf team, ∃ p, a.paths = [p] ∧
        p.pc = offsOf (s.grid x.grid).rc.entry ∧ p.lanes = a.live ∧ p.plane = 0)) ∧
  (∀ s die n q u v, s.freeContext die = some n → s.nextBinding die = some q → s.headerDue die n q = false → q.prog.toNat % 8 = 0 →
    fetch8 none 0 die (s.grid q.grid).ctx (BitVec.ofNat 7 (64 + n / 4)) q.prog (icClear die (n / 4) (dropBind die q s)) = (u, .ok v) → v.toNat % 8 = 0 →
    ∃ t, exec (.bindingContextGrant die) s = .next t ∧ t.g = u.g ∧ t.mem = u.mem ∧ q ∉ (t.die die).binds ∧ ∃ a, t.agents = u.agents ++ [a] ∧
      a.drover = true ∧ a.idx = n ∧ a.die = die ∧ a.team = q.team ∧ a.grid = q.grid ∧ a.binding = q.binding ∧ a.trapvec = v ∧
      a.paths = [⟨0, offsOf (q.prog + 8), 1, 0, 0, false, false, [], none, []⟩] ∧ a.sget 0 = q.arg ∧
      a.sget 1 = (s.grid q.grid).rc.coords (s.team q.team).lin ∧ a.sget 2 = (match q.binding with | some b => BitVec.ofNat 64 b | none => 4) ∧
      a.ended = false) ∧
  (∀ s grid g, s.grids.find? (·.id == grid) = some g → s.gridDone g = true → s.calm = true →
    let status := if g.ended then 5 else if g.fault.isSome then 3 else 2
    let code := if g.ended then 0 else (g.fault.map (·.toNat)).getD 0
    let v := linkValue code status g.depth g.parentId
    ∃ t, exec (.gridRetire grid) s = .next t ∧ t.g = s.g ∧ (∀ x ∈ t.grids, x.id ≠ grid) ∧
      t = writeLink v g.id false ⟨true, g.recva, v, g.ctx, g.gridid⟩ { s with grids := s.grids.filter (·.id != g.id) }) ∧
  (∀ s v grid dispatch e b, engWrite (dispatchEngine e.ctx grid s.serial) false (e.recva + 0x90) (le64 v)
      { s with
        serial := s.serial + 1
        sys := { s.sys with linkDue := s.sys.linkDue ++ [⟨s.serial, v, e, grid, dispatch, false⟩] } } = b →
    (∀ x ∈ s.sys.linkDue, x.op ≠ s.serial) → (∀ o ∈ s.ops, o.eng ≠ some s.serial) → let t := writeLink v grid dispatch e s
    (b.2 = .error notYet → t = b.1) ∧
    (b.2 = .ok () → b.1.sys.linkDue = s.sys.linkDue ++ [⟨s.serial, v, e, grid, dispatch, false⟩] → b.1.engDue s.serial = [] →
      t.mem = b.1.mem ∧ t.sys.linkDue = s.sys.linkDue) ∧
    (∀ c, b.2 = .error c → c ≠ notYet → b.1.sys.linkDue = s.sys.linkDue ++ [⟨s.serial, v, e, grid, dispatch, false⟩] →
      t.mem = b.1.mem ∧ t.sys.linkDue = s.sys.linkDue ∧
      (b.1.sys.lnklog.length < 16 → t.sys.lnklog = b.1.sys.lnklog ++ [e]) ∧ (dispatch = true → ∀ g ∈ t.grids, g.id ≠ grid))) ∧
  (∀ s agent a r, s.agent? agent = some a → a.stopping = some r → s.quiet agent = true →
    (a.drover = false → ∃ t, exec (.trapEntry agent) s = .next t ∧ t = enterTrap a r s) ∧
    (a.drover = true → ∃ t, exec (.droverTrap agent) s = .next t ∧ t = enterTrap a r s)) ∧
  (∀ s agent a r, s.agent? agent = some a → a.stopping = none → a.pausing = some r → a.resuming = none → a.parked = false → s.quiet agent = true →
    (a.drover = false → ∃ t, exec (.trapEntry agent) s = .next t ∧ t = pause a r s) ∧
    (a.drover = true → ∃ t, exec (.droverTrap agent) s = .next t ∧ t = pause a r s)) ∧
  (∀ s a c, ends s a → a.endFault = some c → a.paths ≠ [] → s.grids.any (·.id == a.grid) = true →
    ∃ t, exec (.droverProgramFault a.id) s = .next t ∧ (∀ b, t.agent? a.id = some b → b.paths = [] ∧ b.ended = true) ∧
      (∀ x ∈ t.eng.xfers, x.drover = true → x.agent = a.id → x.accepted = true) ∧
      (t.grid a.grid).fault = some ((s.grid a.grid).fault.getD c) ∧
      (a.binding.isSome = true → (t.grid a.grid).noMore = true ∧ ∀ x ∈ t.teams, x.grid = a.grid → x.state ≠ .offered)) ∧
  (∀ s a tm off, ends s a → a.endFault.isSome = true → a.paths = [] → s.xfersOf a.id = [] → a.bset = [(tm, off)] → exists_ s tm →
    (s.team tm).state ≠ .saved → let at_ := (s.team tm).origin + off
    ∃ t, exec (.droverBarrierMark a.id) s = .next t ∧ (∀ b, t.agent? a.id = some b → b.bset = []) ∧ (t.barrier at_).broken = true ∧
      ((s.barrier at_).broken = false → (t.barrier at_).why = 1) ∧ ∀ y, (y < at_ ∨ at_ + 16 ≤ y) → t.getByte y = s.getByte y) ∧
  (∀ s a, ends s a → a.paths = [] → s.xfersOf a.id = [] → (a.endFault.isSome = true → a.bset = []) → a.idx < 24 → a.die < 8 →
    ∃ t, exec (.droverContextFree a.id) s = .next t ∧ t.agent? a.id = none ∧ t.mem = s.mem ∧
      t.reg (rDrv a.die (8 * a.idx)) = (a.endFault.getD 0).setWidth 64 <<< 24) ∧
  (∀ s grid, ∃ t, exec (.pregridRequest grid) s = .next t ∧ same s t ∧ (s.gridNamed grid = none → t.reg rPreres = 1) ∧
    ∀ g, s.gridNamed grid = some g → let ts := s.requestTeams g.id
      ((reserveSlots ts s).isNone = true → t.reg rPreres = 2 ∧ t.grids = s.grids) ∧
      ((reserveSlots ts s).isSome = true → t.reg rPreres = 0 ∧ (t.grid g.id).hostReq = true ∧
        ∀ i ∈ ts, (t.team i).preq = true ∧ (t.team i).reqHost = true ∧ (t.team i).slot.isSome = true)) ∧
  (∀ s grid, ∃ t, exec (.pregridWithdraw grid) s = .next t ∧ t.mem = s.mem ∧ (s.gridNamed grid = none → t.reg rPreres = 1) ∧
    ∀ g, s.gridNamed grid = some g → (g.hostReq = false → t.reg rPreres = 3 ∧ t.grids = s.grids ∧ t.teams = s.teams) ∧
      (g.hostReq = true → t.reg rPreres = 0 ∧ (t.grid g.id).hostReq = false ∧
        ∀ x ∈ s.teams, x.grid = g.id → x.reqHost = true → x.state ≠ .saved → s.team x.id = x →
          (∀ e ∈ s.dies, ∀ k ∈ e.2.asks, x.id ∉ k.2) →
          (t.team x.id).preq = false ∧ (t.team x.id).slot = none ∧ (t.team x.id).reqHost = false)) ∧
  (∀ s team, let x := s.team team
    x.state = .running → x.preq = true → x.pdl = 0 → x.pdlDone = false → exists_ s team →
    ∃ t, exec (.pdlExpire team) s = .next t ∧ same s t ∧ t.team team = { x with pdlDone := true }) ∧
  (∀ s team slot, let x := s.team team
    let gs := s.gangsOf team
    x.state = .running → x.unit = [team] → s.mayBeSaved team = true → x.slot = some slot → (∀ a ∈ gs, a.yielded = true ∧ a.id ≠ 0) → named s →
    s.calm = true → s.bad = [] → s.badL2 = [] → s.badTags = [] → s.flaws = [] → s.partials = [] →
    let u := gs.foldl (fun (s : State) a => s.setAgent a.toSave) s
    let bs := padTo 64 (u.teamRecord (u.team team))
    ∃ t, exec (.teamSave team) s = .next t ∧ (t.team team).state = .saved ∧ t.gangsOf team = [] ∧
      (t.team team).saved.map (·.id) = gs.map (·.id) ∧ t.reg (rSave 0x18) = s.reg (rSave 0x18) + 1 ∧
      (∀ i, i < bs.length → some (t.getByte (slot.1 + i)) = bs[i]?) ∧
      ∀ y, (y < slot.1 ∨ slot.1 + bs.length ≤ y) → t.getByte y = s.getByte y) ∧
  ∀ s team d core base slot, let x := s.team team
    x.state = .saved → x.slot = some slot → (List.range 8).find? (fun d => (s.die d).offered.contains team) = some d →
    s.placeable d = some ([team], [(team, core, base)]) → named s → x.saved ≠ [] →
    (∀ a ∈ x.saved, a.pend = [] ∧ a.heldFault = none ∧ a.id ≠ 0 ∧ a.team = team ∧ a.drover = false ∧ s.agent? a.id = none) →
    (x.saved.map (·.id)).Nodup → x.resume = [] → x.held = [] → s.gangsOf team = [] → (s.grid x.grid).rc.dskib = 0 →
    x.size = (s.grid x.grid).rc.alloc → s.calm = true → s.bad = [] → s.badL2 = [] → s.badTags = [] → s.flaws = [] → s.partials = [] →
    (∀ l ∈ savedLines x, s.homeWaits none l 128 = false) →
    let at_ := poolBase core + base
    ∃ t, exec (.teamResume team) s = .next t ∧ (t.team team).state = .running ∧ (t.team team).preq = false ∧ (t.team team).base = base ∧
      (t.gangsOf team).map (·.id) = x.saved.map (·.id) ∧
      (∀ i, i < x.size → t.getByte (at_ + i) = s.getByte (slot.1 + 256 + i)) ∧
      ∀ y, (y < at_ ∨ at_ + x.size ≤ y) → t.getByte y = s.getByte y

-- Events of the host, of the management controller and of the debugger.

/-- R34, R129, R449, R453 to R469: the host's accesses, its commands to gangs and grids, trials, freezes, logs, writes of registers, resets,
clocks and power.
An unaligned atomic, modified lines at a reset and the verified image at boot, what a module without clocks takes, the interrupt of a
shutdown, SRAM after a reset, the contents of RBDATA and, where power is lost, memory, MYPHYS and MYLMN are the model's (assumptions 3, 6,
9, 26 to 28, 78, 87, 88, 90 and 91). -/
def Obligations.HostEvents : Prop :=
  let same := fun (s t : State) => t.mem = s.mem ∧ t.g = s.g ∧ t.agents = s.agents
  let sound := fun (s : State) => s.bad = [] ∧ s.badL2 = [] ∧ s.badTags = [] ∧ s.flaws = [] ∧ s.partials = []
  let inside := fun (s : State) (off n : Nat) => bar2Has off n = true ∧ s.bar2Claims off n = true
  let free := fun (s : State) (q : HostReq) => s.sys.hostq = [] ∧ s.hostWaits [] q = false
  let post := fun (rid : BitVec 16) (ro : Bool) (off : Nat) (data : List Byte) => (⟨rid, .write ro, off, data.length, data, 0, 0⟩ : HostReq)
  let written := fun (s t : State) (off : Nat) (data : List Byte) => t.g = s.g ∧
    (∀ i, i < data.length → some (t.getByte (s.bar2 (off + i))) = data[i]?) ∧
    ∀ y, (∀ i, i < data.length → y ≠ s.bar2 (off + i)) → t.getByte y = s.getByte y
  let interrupts := fun (n : Nat) (t : State) => (t.reg rHintst).getLsbD n = true
  let quietTrace := fun (s : State) => ∀ d, d < 8 → (s.reg (rTrace d 8)).toNat % 2 ^ 32 = 0
  let named := fun (s : State) => (s.all.map (·.id)).Nodup ∧ (s.teams.map (·.id)).Nodup ∧ ∀ a ∈ s.agents, a.id ≠ 0
  let gone := fun (s t : State) => t.bar = [] ∧ t.grids = [] ∧ t.teams = [] ∧ t.agents = [] ∧ t.g = Agent.absent ∧ t.queues = [] ∧ t.ops = [] ∧
    t.cores = [] ∧ t.dies = [] ∧ t.frozen = none ∧ t.agenda = s.agenda
  (∀ s rid off data, sound s → inside s off data.length → free s (post rid false off data) →
    ∃ t, exec (.hostPostedWrite rid false off data) s = .next t ∧ written s t off data) ∧
  (∀ s rid off data, inside s off data.length → ∃ t, exec (.hostPostedWrite rid true off data) s = .next t ∧ same s t ∧
    t.sys.hostq = s.sys.hostq ++ [post rid true off data]) ∧
  (∀ s rid ro off data, ¬inside s off data.length → exec (.hostPostedWrite rid ro off data) s = .next s) ∧
  (∀ s rid off len, s.bar2Claims off len = false → exec (.hostRead rid off len) s = .next s) ∧
  (∀ s i rid ro off data, sound s → bar2Has off data.length = true → s.sys.hostq[i]? = some (post rid ro off data) →
    s.hostWaits (s.sys.hostq.take i) (post rid ro off data) = false →
    ∃ t, execHostServe i s = .next t ∧ t.sys.hostq = s.sys.hostq.eraseIdx i ∧ written s t off data) ∧
  (∀ s rid off len, sound s → s.bar2Claims off len = true → free s ⟨rid, .read, off, len, [], 0, 0⟩ → ∃ t, exec (.hostRead rid off len) s = .next t ∧ MemoryKept s t ∧
    t.g = s.g ∧ (bar2Has off len = true → t.sys.status = .success ∧ t.sys.reply = (List.range len).map fun i => s.getByte (s.bar2 (off + i))) ∧
    (bar2Has off len = false → t.sys.status = .unsupported ∧ t.sys.reply = [])) ∧
  (∀ s rid off wide x c, let n := if wide then 8 else 4
    sound s → inside s off n → off % n = 0 → free s ⟨rid, .atomic 0, off, n, [], x, c⟩ →
    let a := s.bar2 off
    let old := s.getVal a n
    let done := fun (new : Nat) (t : State) => t.g = s.g ∧ t.sys.reply = s.getBytes a n ∧ t.getVal a n = new % 2 ^ (8 * n) ∧
      ∀ y, (y < a ∨ a + n ≤ y) → t.getByte y = s.getByte y
    (∃ t, exec (.hostFetchadd rid off wide x) s = .next t ∧ done (old + x.toNat) t) ∧
    (∃ t, exec (.hostSwap rid off wide x) s = .next t ∧ done x.toNat t) ∧
    ∃ t, exec (.hostCas rid off wide c x) s = .next t ∧ done (if old = c.toNat % 2 ^ (8 * n) then x.toNat else old) t) ∧
  (∀ s rid off wide x, let n := if wide then 8 else 4
    s.bar2Claims off n = true → bar2Has off n = false ∨ off % n ≠ 0 →
    ∃ t, exec (.hostSwap rid off wide x) s = .next t ∧ same s t ∧ t.sys.status = .unsupported ∧ t.sys.reply = []) ∧
  (∀ s, s.sys.trial = none → (s.reg rCxctl).getLsbD 0 = true → ∃ t, exec .causalTrialStart s = .next t ∧ same s t ∧
    t.sys.trial = some ⟨s.gt, [], [], [], 0, 0⟩ ∧ t.reg (rExp 0x28) = 0 ∧ t.reg (rExp 0x30) = 0) ∧
  (∀ s x, s.sys.trial = some x → 1024 ≤ x.cycles → named s → ∃ t, exec .causalDelayPayment s = .next t ∧ same s t ∧ ∃ y, t.sys.trial = some y ∧
    y.start = x.start ∧ y.cycles = 0 ∧ y.owed = [] ∧ y.inRange = [] ∧
    ∀ a ∈ s.all, a.drover = false → SMap.get 0 y.hold a.id = SMap.get 0 x.hold a.id +
      (SMap.get 0 x.owed a.id * ((s.reg rCxctl).toNat / 2 ^ 16 % 256) / 256 - SMap.get 0 x.inRange a.id)) ∧
  (∀ s x, s.sys.trial = some x → ∃ t, exec .causalTrialEnd s = .next t ∧ same s t ∧
    ((s.gt - x.start).toNat < (s.reg (rExp 0x20)).toNat → t = s) ∧
    ((s.reg (rExp 0x20)).toNat ≤ (s.gt - x.start).toNat → t.sys.trial = none ∧ (t.reg rCxctl).getLsbD 0 = false)) ∧
  (∀ s, (∃ t, exec .freezePin s = .next t ∧ same s t ∧ t.frozen = s.frozen ∧
      t.sys.freezeIn = if s.frozen.isSome || s.sys.freezeIn.isSome then s.sys.freezeIn else some 16) ∧
    (∃ t, exec .freezeCommand s = .next t ∧ same s t ∧ t.frozen = none ∧
      t.sys.freezeIn = if s.sys.freezeIn.isSome then s.sys.freezeIn else some 16) ∧
    ∃ t, exec .frzstRearm s = .next t ∧ same s t ∧ t.frozen = none ∧ t.reg (rRb 0x10) = 0) ∧
  (∀ s, s.sys.freezeIn = some 0 → ∃ t, exec .freezeLatch s = .next t ∧ same s t ∧ t.sys.freezeIn = none ∧ t.reg (rRb 0x10) = 1 ∧
    ∃ b, t.frozen = some b ∧ b.mem = s.mem ∧ b.g = s.g ∧ b.agents = s.agents ∧ b.teams = s.teams ∧ b.bar = s.bar ∧ b.gt = s.gt) ∧
  (∀ s, let sel := (s.reg (rRb 0)).toNat
    ∃ t, exec .readbackRead s = .next t ∧ same s t ∧
      t.sys.reply = le64 (readback ((s.frozen.getD s.toBlocks).view (sel / 2 ^ 48)) (sel / 2 ^ 48) (sel % 2 ^ 48))) ∧
  (∀ s grid, (s.gridNamed grid = none → ∃ t, exec (.hgcmdEndGrid grid) s = .next t ∧ same s t ∧ t.reg rHgres = 1) ∧
    ∀ g, s.gridNamed grid = some g → s.grid g.id = g → named s → ∃ t, exec (.hgcmdEndGrid grid) s = .next t ∧ t.reg rHgres = 0 ∧
      (t.grid g.id).ended = true ∧ (∀ x ∈ t.teams, x.grid = g.id → x.state = .exited) ∧
      ∀ x ∈ s.teams, x.grid = g.id → (x.state = .running ∨ x.state = .starting) → t.gangsOf x.id = []) ∧
  (∀ s gang, let is := fun (a : Agent) => !a.drover && (s.gangid a).setWidth 36 == gang
    let both := fun (P : State → Prop) => (∃ t, exec (.hgcmdResumeComplete gang) s = .next t ∧ P t) ∧
      ∃ t, exec (.hgcmdResumeDiscard gang) s = .next t ∧ P t
    (s.all.find? is = none → (∀ x ∈ s.teams, ∀ a ∈ x.saved, is a = false) → both fun t => same s t ∧ t.reg rHgres = 1) ∧
    (∀ a, s.all.find? is = some a → a.parked = false → both fun t => same s t ∧ t.reg rHgres = 2) ∧
    (s.g.id ≠ 0 → is s.g = true → s.g.parked = true → s.g.pend = [] → s.g.hits = [] → s.g.resuming = none → both fun t => t.reg rHgres = 0 ∧ t.mem = s.mem ∧
      t.g.parked = false ∧ t.g.nonstop = false ∧ t.g.paths.map (·.pc) = s.g.paths.map (·.pc) ∧ t.g.sregs = s.g.sregs ∧
      t.g.vregs = s.g.vregs)) ∧
  (∀ s, ∃ t, exec .parklogbRead s = .next t ∧ same s t ∧ t.sys.reply = le64 s.parklogb ∧ t.sys.parklog = s.sys.parklog.drop 1 ∧
    t.sys.parkOvf = false) ∧
  (∀ s, s.power ≠ .off → (∃ t, exec .warmReset s = .next t ∧ gone s t ∧ t.power = .on ∧ t.gt = s.gt ∧
      ((∀ e ∈ s.dram, e.1 < 2 ^ 40) → ∀ y, 2 ^ 40 ≤ y → t.getByte y = 0) ∧ (s.dram = [] → ∀ y, y < 2 ^ 40 → t.getByte y = s.getByte y)) ∧
    ∃ t, exec .functionLevelReset s = .next t ∧ gone s t ∧ t.power = .on ∧ t.gt = s.gt ∧ t.sys.reply = s.sys.reply ∧
      ((∀ e ∈ s.dram, e.1 < 2 ^ 40) → ∀ y, 2 ^ 40 ≤ y → t.getByte y = 0) ∧ (s.dram = [] → ∀ y, y < 2 ^ 40 → t.getByte y = s.getByte y)) ∧
  (∀ s, s.power = .off → ∃ t, exec .powerOnBoot s = .next t ∧ same s t ∧ t.bar = s.bar ∧
    ((t.power = .on ∧ t.sys.pldm = false ∧ (t.sys.image = some 0 ∨ t.sys.image = some 1)) ∨
      (t.power = .off ∧ t.sys.pldm = true ∧ t.sys.image = none))) ∧
  (∀ s, ∃ t, exec .powerLoss s = .next t ∧ gone s t ∧ t.power = .off ∧ t.mem = [] ∧ t.gt = 0) ∧
  (∀ s req, ∃ t, exec (.spdmRequest req) s = .next t ∧ same s t ∧ t.bar = s.bar ∧ t.power = s.power) ∧
  (∀ s steps, s.power = .on → quietTrace s → let want := max 24 (min steps.toNat s.mclkTop)
    ∃ t, exec (.mclkAdjust steps) s = .next t ∧ same s t ∧ (want = s.mclkStep → t.bar = s.bar ∧ t.mclk = s.mclk) ∧
      t.pwrst.getLsbD 31 = decide (max 24 steps.toNat < s.mclkTop) ∧
      (want ≠ s.mclkStep → interrupts 6 t ∧ t.gt = s.gt ∧ t.gtFrac = s.gtFrac * t.mclk / max 1 s.mclk) ∧
      (s.mclkStep < want → t.mclk = (s.mclkStep + 1) * 12500) ∧ (want < s.mclkStep → t.mclk = (s.mclkStep - 1) * 12500)) ∧
  (∀ s die, s.power = .on → quietTrace s → ∃ t, exec (.thermalShutdown die) s = .next t ∧ same s t ∧ t.power = .shutdown ∧ interrupts 6 t) ∧
  (∀ s, ∃ t, exec .managementRequest s = .next t ∧ same s t ∧ interrupts 7 t ∧
    t.sys.msix = s.sys.msix ++ if (s.reg 0xA0).getLsbD 7 then [7] else []) ∧
  (∀ s v, s.power = .on → quietTrace s → s.mclkStep ≤ 60 → ∃ t, exec (.registerWrite false 0xD8 v) s = .next t ∧ same s t ∧
    t.reg 0xD8 = v &&& 0x3F ∧ t.gt = s.gt ∧ t.mclk = if t.mclkTop < s.mclkStep then t.mclkTop * 12500 else s.mclk) ∧
  (∀ (s : State) off, off % 8 ≠ 0 → s.readReg off = 0) ∧
  (∀ s off v, ∃ t, exec (.registerWrite true off v) s = .next t ∧
    ∀ g, lockGroup off.toNat = some g → (s.reg 0xA8).getLsbD g = true → t = s.count 0xB0 1) ∧
  (∀ s v, ∃ t, exec (.registerWrite false 0x98 v) s = .next t ∧ same s t ∧ t.reg rHintst = s.reg rHintst &&& ~~~v) ∧
  ∀ (s : State) (off : BitVec 26) (v : U64), let o := off.toNat
    o % 8 = 0 → 0x40 ≤ o →
    o ∉ [0x88, rHintst, 0xD8, 0xE8, rXlat 0x800, rXlat 0x808, rSnap 0xB0, rSnap 0xE8, rFab 0xA00, rFab 0xA18, rSave 0x30, rRb 0x10] →
    ¬(0x100000 ≤ o ∧ o < 0x900000 ∧ o % 0x100000 = 0x30010) →
    let locked := 0x100000 ≤ o ∧ o < 0x900000 ∧ o % 0x100000 = 0 ∧ (s.reg o).getLsbD 17 = true
    ∃ t, exec (.registerWrite false off v) s = .next t ∧ same s t ∧ (∀ p, p ≠ o → t.reg p = s.reg p) ∧
      (groupOpen o s = false → ¬locked → t.reg o = (s.reg o &&& ~~~writeMask o) ||| (v &&& writeMask o)) ∧
      (groupOpen o s = true ∨ locked → t = s)

-- A step, the encodings, reset, and what every step keeps.

/-- R30, R195, R407, R408: a step at which a word has been selected runs exec of the instruction that the word at the path's offset decodes
to, in the state that the fetch left, with the hits of its breakpoints; settleWord follows it. With nothing selected a step takes the next
event from outside, else one of those that are due; a scheduler selects a ready path. Without power there is no step (assumption 1); what a
fetch finds in the L1 and where a drover fetches are the model's choices (assumptions 20 and 60). -/
def Obligations.StepRunsTheSelected : Prop :=
  (∀ s q w i u, s.sel = true → s.power = .on → s.g.todo s.path = [q] → fetchWord s.g s.path.pc q s = (u, .ok w) →
    s.g.strands s.path.lanes (s.path.pc + 1) = false ∨ movesItself w = true →
    let x := { u with word := w, lanes := s.g.lanesIn s.path [q], pmask := planeMask [q] }
    x.leavesBy w = false → decodeWord (x.decCtx x.g) w = .ok i →
    let y := castShadows { x with g := { x.g with hits := x.g.hits ++ breakHits x } }
    ∃ t, exec i y = .next t ∧ step s = .next (settleWord y t)) ∧
  (∀ s q u, s.sel = true → s.power = .on → s.g.todo s.path = [q] → fetchWord s.g s.path.pc q s = (u, .error notYet) →
    step s = .next (wake (stall u))) ∧
  (∀ s, (∀ x ∈ s.path.shadows, x.left = 0) → castShadows s = s) ∧
  (∀ who d ctx no ea s u p a, xlateAll none who d ctx ⟨false, true, false⟩ ea s = (u, .ok p) →
    (icOf none no).bind (fun n => (u.die d).icLine? n (p.pa / 128)) = none → p.own = some a → u.homeWaits (some d) a 8 = false →
    u.bad = [] → u.badL2 = [] → u.badTags = [] → u.flaws = [] → u.partials = [] →
    ∃ v, fetch8 none who d ctx no ea s = (v, .ok (BitVec.ofNat 64 (u.getVal a 8)))) ∧
  (∀ who d ctx no ea s u p n bs, xlateAll none who d ctx ⟨false, true, false⟩ ea s = (u, .ok p) → icOf none no = some n →
    (u.die d).icLine? n (p.pa / 128) = some bs → ∃ v, fetch8 none who d ctx no ea s = (v, .ok (wordIn p.pa bs))) ∧
  (∀ core who d ctx no ea s u p x, xlateAll (some core) who d ctx ⟨false, true, false⟩ ea s = (u, .ok p) → p.l1nc = false →
    (u.core core).line? (p.pa / 128) = some x → ∃ v, fetch8 (some core) who d ctx no ea s = (v, .ok (wordIn p.pa x.data))) ∧
  (∀ s t a, t.agent? s.g.id = some a → (∀ p, a.path? s.cur = some p → p.stalled = false) → a.hits = [] → s.g.drover = false →
    s.sys.trial = none → s.g.lent = RegVals.none → s.word.extractLsb' 0 4 = 0 ∨ s.word.getLsbD 63 = true →
    settleWord s t = wake (t.setAgent { a with waits := false, want := none })) ∧
  (∀ s unit a p, s.sel = false → unit ∉ s.served → s.choice unit = some (a, p) → ∃ t, exec (.gangIssueSelect unit) s = .next t ∧
    t.sel = true ∧ t.cur = p.id ∧ t.g.id = a.id ∧ t.served = unit :: (if s.goesShared unit then [sharedMark unit] else []) ++ s.served ∧ t.mem = s.mem ∧ t.teams = s.teams) ∧
  (∀ off v l, (∃ i, nextEvent (.registerWrite true off v :: l) = some i) ∧
    ∀ k ∈ l, hostWrites k = some off → (nextEvent (.registerWrite true off v :: l)).map (·.1) ≠ some (.registerWrite true off v)) ∧
  (∀ s i rest, s.sel = false → nextEvent s.agenda = some (i, rest) →
    (admits s.power i = true → ∃ t, exec i { s with agenda := rest } = .next t ∧ step s = .next (wake t)) ∧
    (admits s.power i = false → step s = .next { s with agenda := rest })) ∧
  ∀ s, s.sel = false → s.agenda = [] → (s.power = .on → step s = .next (advance s)) ∧
    (s.power = .shutdown → ∃ t, step s = .next t ∧ t.mem = s.mem ∧ t.g = s.g ∧ t.agents = s.agents ∧ t.bar = s.bar) ∧
    (s.power = .off → step s = .fault .poweredOff)

/-- R177 to R187, R195, R212 to R215: the words of the manual's worked examples, and some put together field by field, decode to the
instructions that they stand for; an unassigned OP, a reserved bit, a value that is not listed, an agent that may not, and a register
that does not exist are refused with their details. -/
def Obligations.DecodesWrittenWords : Prop :=
  let gang : DecCtx := ⟨false, 32, 2⟩
  let drover : DecCtx := ⟨true, 1, 0⟩
  let plain : Hint := ⟨0, false, false, 0, 0⟩
  let full := fun (op : BitVec 9) (d a b : BitVec 8) (x : BitVec 18) (low : BitVec 12) => ((0 : BitVec 1) ++ op ++ d ++ a ++ b ++ x ++ low : U64)
  decodeWord gang 0x900420000E2FA000 = .ok (.pairWord false ⟨.vAdd, 1, 2, 0⟩ ⟨.sAddi, 5, 0x3D, 0⟩) ∧
  decodeWord gang 0x50030101CC080B83 = .ok (.ld ⟨0xB, true, false, 0, 3⟩ ⟨1, 2, 0, 0, 2, false, false⟩ 12 4 7) ∧
  decodeWord gang 0x110000C3C0007000 = .ok (.brDiv plain false 3 15 7) ∧
  decodeWord gang 0x30C0C10141940000 = .ok (.fFma plain ⟨1, false, true, false, false, false⟩ 3 4 5 6) ∧
  decodeWord gang 0x6082808300000000 = .ok (.boxLd plain false 0 0 10 2 12) ∧
  decodeWord gang 0x6280420508481000 = .ok (.mmaz plain 1 1 16 0 true 1 8 20) ∧
  decodeWord gang 0x64C0008511000000 = .ok (.collAr plain 2 true 0 2 20) ∧
  decodeWord gang 0x7001C00000010002 = .ok (.sRdsr ⟨0, false, false, 0, 2⟩ 0x010 7) ∧
  decodeWord gang (full 0x000 1 2 3 1 0xBA0) = .ok (.sAdd ⟨0xB, true, false, 2, 0⟩ true 1 2 3) ∧
  decodeWord gang (full 0x104 9 8 0 ((0 : BitVec 9) ++ (3 : BitVec 3) ++ (5 : BitVec 6)) 0) = .ok (.shflXor plain 3 5 9 8) ∧
  decodeWord gang (full 0x080 1 2 3 0 0x040) = .ok (.vAdd ⟨0, false, true, 0, 0⟩ false 1 2 3) ∧
  decodeWord gang (full 0x10E 1 2 3 0 0) = .ok (.mAnd plain 1 2 3) ∧
  decodeWord gang (full 0x146 4 5 6 ((0 : BitVec 3) ++ (2 : BitVec 2) ++ (3 : BitVec 2) ++ (4 : BitVec 3) ++ (1 : BitVec 2) ++ (0 : BitVec 2) ++
    (9 : BitVec 4)) 0) = .ok (.atom plain ⟨0, 2, 3, 4, 1, false, false⟩ 9 4 5 6) ∧
  decodeWord gang (full 0x1C2 0 0 0 ((0 : BitVec 10) ++ (200 : BitVec 8)) 0) = .ok (.trap plain 200) ∧
  decodeWord drover (full 0x1D6 0 0 0 0 0) = .ok (.dend plain) ∧
  decodeWord gang (full 0x01C 0 0 0 0 0) = .error ⟨false, 0xA0, 0⟩ ∧
  decodeWord gang (full 0x056 0 0 0 1 0) = .error ⟨false, 0xA1, 0⟩ ∧
  decodeWord gang (full 0x000 1 2 3 2 0) = .error ⟨false, 0xA2, 0⟩ ∧
  decodeWord gang (full 0x080 1 2 3 0 0x001) = .error ⟨false, 0xA3, 0⟩ ∧
  decodeWord gang (full 0x0C0 1 2 3 0 0x080) = .error ⟨false, 0xA4, 0⟩ ∧
  decodeWord drover (full 0x080 1 2 3 0 0) = .error ⟨false, 0xA5, 0⟩ ∧
  decodeWord gang (full 0x000 128 2 3 0 0) = .error ⟨false, 0xA6, 0⟩

/-- R177 to R188, R212, R214: the word of a well-formed instruction decodes to that instruction, whoever executes it. -/
def Obligations.RoundTrip : Prop := ∀ c i w, i.wf c = true → encode i = some w → decodeWord c w = .ok i

/-- R10, R37, R128, R147, R154, R164, R395, R425, R433, R443, R450, R451, R460, R465 to R468: what reset leaves: control registers at the
values of their Reset columns, no grid, no team, no agent and no packet, both colours FREE, memory with nothing listed. That GT begins at 0
that a byte nothing has written reads 0, and what MYPHYS, MYLMN and REMAP hold are the model's (assumptions 6, 3 and 4). -/
def Obligations.ResetState : Prop :=
  let s := State.reset
  s.Canonical ∧ (∀ a, s.getByte a = 0) ∧ s.power = .on ∧ s.gt = 0 ∧ s.cyc = 0 ∧ s.mclk = 48 * 12500 ∧
  s.all = [] ∧ s.grids = [] ∧ s.teams = [] ∧ s.ops = [] ∧ s.eng.xfers = [] ∧ s.eng.mats = [] ∧ s.sys.colls = [] ∧ s.sys.inq = [] ∧
  (∀ q, s.queue q = []) ∧ s.snapst = 0 ∧ s.frozen = none ∧ s.sel = false ∧
  (∀ g, g < 64 → s.grpState g = 0) ∧ s.reg rHintst = 0 ∧ s.reg 0x0D0 = 6200 ∧ s.reg 0x0D8 = 48 ∧
  (∀ d, d < 8 → s.reg (rDieMem d 0) = 0x10800 ∧ s.reg (rSched d 0) = 0x000186A000400001 ∧ s.reg (rTrace d 0x10) = 1 ∧ s.reg (rPh d 0x10) = 0) ∧
  (∀ c, c < 512 → s.reg (rCore c 0) = 0x0401 ∧ (∀ n, n < 8 → s.reg (rCore c (0x180 + 8 * n)) = 0x78000) ∧ (s.core c).l1kib = 512) ∧
  (∀ c, c < 256 → s.reg (rXlat (8 * c)) = 0) ∧ s.reg (rXlat 0x810) = Config.myPhys.setWidth 64 ∧
  s.reg (rXlat 0x818) = Config.myPhys.setWidth 64 ∧ s.remap Config.myPhys = some Config.myPhys ∧
  (∀ n, n ≠ Config.myPhys → s.remap n = none) ∧ s.reg (rSnap 0) = 0 ∧ s.reg (rSnap 0xD0) = 0x10000 ∧ s.reg (rFab 0xA08) = 10000 ∧
  s.reg (rFab 0xA18) = 0x0000040000000000 ∧ s.reg (rSave 0x28) = 0x186A0 ∧ s.reg (rExp 0x18) = 0xF000

/-- Every step keeps memory in its canonical form, so that equal memories are equal data: from any state that has it, whether a run
reaches that state or not. -/
def Obligations.StepKeepsMemoryCanonical : Prop := ∀ s t, s.Canonical → step s = .next t → t.Canonical
end

