-- ==== Sys2Proof/Laws/Maps.lean ====
section
/-!
SUPPORT. Sparse maps: what a key reads as after a write, for any list; and the canonical form, which every write keeps.
-/
namespace Sys2Proof.Machine.SMap
variable {α : Type}

@[simp] theorem get_nil (d : α) (k : Nat) : get d ([] : SMap α) k = d := rfl

theorem get_insert_self (d : α) (m : SMap α) (k : Nat) (v : α) : get d (insert m k v) k = v := by
  induction m with
  | nil => simp [insert, get]
  | cons e r ih =>
    simp only [insert]
    split
    · simp [get]
    · split
      · simp [get]
      · rename_i h1 h2; simp [get, h2, ih]

theorem get_insert_other (d : α) (m : SMap α) (k j : Nat) (v : α) (h : j ≠ k) : get d (insert m k v) j = get d m j := by
  induction m with
  | nil => simp [insert, get, Ne.symm h]
  | cons e r ih =>
    simp only [insert]
    split
    · simp [get, Ne.symm h]
    · split
      · rename_i h1 h2; subst h2; simp [get, Ne.symm h]
      · simp [get, ih]

theorem get_erase_self (d : α) (m : SMap α) (k : Nat) : get d (erase m k) k = d := by
  induction m with
  | nil => rfl
  | cons e r ih =>
    simp only [erase]
    split
    · exact ih
    · rename_i h; simp [get, h, ih]

theorem get_erase_other (d : α) (m : SMap α) (k j : Nat) (h : j ≠ k) : get d (erase m k) j = get d m j := by
  induction m with
  | nil => rfl
  | cons e r ih =>
    simp only [erase]
    split
    · rename_i h1; subst h1; simp [get, Ne.symm h, ih]
    · simp [get, ih]

@[simp] theorem get_set_self [DecidableEq α] (d : α) (m : SMap α) (k : Nat) (v : α) : get d (set d m k v) k = v := by
  unfold set
  split
  · rename_i h; rw [get_erase_self, h]
  · exact get_insert_self d m k v

theorem get_set_other [DecidableEq α] (d e : α) (m : SMap α) (k j : Nat) (v : α) (h : j ≠ k) :
    get e (set d m k v) j = get e m j := by
  unfold set
  split
  · exact get_erase_other e m k j h
  · exact get_insert_other e m k j v h

-- The canonical form.

theorem rising_mono {lo hi : Nat} {m : SMap α} (h : rising hi m = true) (l : lo ≤ hi) : rising lo m = true := by
  cases m with
  | nil => rfl
  | cons e r => simp only [rising, Bool.and_eq_true, decide_eq_true_eq] at h ⊢; exact ⟨by omega, h.2⟩

theorem rising_erase {lo : Nat} {m : SMap α} (h : rising lo m = true) (k : Nat) : rising lo (erase m k) = true := by
  induction m generalizing lo with
  | nil => rfl
  | cons e r ih =>
    simp only [rising, Bool.and_eq_true, decide_eq_true_eq] at h
    simp only [erase]
    split
    · exact ih (rising_mono h.2 (by omega))
    · simp only [rising, Bool.and_eq_true, decide_eq_true_eq]; exact ⟨h.1, ih h.2⟩

theorem rising_insert {lo : Nat} {m : SMap α} (h : rising lo m = true) (k : Nat) (v : α) (l : lo ≤ k) :
    rising lo (insert m k v) = true := by
  induction m generalizing lo with
  | nil => simp [insert, rising, l]
  | cons e r ih =>
    simp only [rising, Bool.and_eq_true, decide_eq_true_eq] at h
    simp only [insert]
    split
    · rename_i h1; simp [rising, l, h.2]; omega
    · split
      · rename_i h1 h2; subst h2; simp [rising, l, h.2]
      · simp only [rising, Bool.and_eq_true, decide_eq_true_eq]; exact ⟨h.1, ih h.2 (by omega)⟩

theorem mem_erase {m : SMap α} {k : Nat} {e : Nat × α} (h : e ∈ erase m k) : e ∈ m := by
  induction m with
  | nil => exact h
  | cons a r ih =>
    simp only [erase] at h
    split at h
    · exact List.mem_cons_of_mem _ (ih h)
    · cases List.mem_cons.mp h with
      | inl h => exact h ▸ List.mem_cons_self
      | inr h => exact List.mem_cons_of_mem _ (ih h)

theorem mem_insert {m : SMap α} {k : Nat} {v : α} {e : Nat × α} (h : e ∈ insert m k v) : e = (k, v) ∨ e ∈ m := by
  induction m with
  | nil => simpa [insert] using h
  | cons a r ih =>
    simp only [insert] at h
    split at h
    · simpa using h
    · split at h
      · cases List.mem_cons.mp h with
        | inl h => exact .inl h
        | inr h => exact .inr (List.mem_cons_of_mem _ h)
      · cases List.mem_cons.mp h with
        | inl h => exact .inr (h ▸ List.mem_cons_self)
        | inr h => exact (ih h).imp id (List.mem_cons_of_mem _)

/-- Every write keeps the canonical form. -/
theorem wf_set [DecidableEq α] (d : α) (m : SMap α) (k : Nat) (v : α) (h : wf d m = true) : wf d (set d m k v) = true := by
  simp only [wf, Bool.and_eq_true, List.all_eq_true, decide_eq_true_eq] at h ⊢
  unfold set
  split
  · exact ⟨rising_erase h.1 k, fun e he => h.2 e (mem_erase he)⟩
  · rename_i hv
    refine ⟨rising_insert h.1 k v (Nat.zero_le k), fun e he => ?_⟩
    cases mem_insert he with
    | inl x => subst x; exact hv
    | inr x => exact h.2 e x

theorem rising_filter {lo : Nat} {m : SMap α} (h : rising lo m = true) (p : Nat × α → Bool) : rising lo (m.filter p) = true := by
  induction m generalizing lo with
  | nil => rfl
  | cons e r ih =>
    simp only [rising, Bool.and_eq_true, decide_eq_true_eq] at h
    simp only [List.filter]
    split
    · simp only [rising, Bool.and_eq_true, decide_eq_true_eq]; exact ⟨h.1, ih h.2⟩
    · exact ih (rising_mono h.2 (by omega))

/-- So does taking keys away. -/
theorem wf_filter [DecidableEq α] (d : α) (m : SMap α) (p : Nat × α → Bool) (h : wf d m = true) : wf d (m.filter p) = true := by
  simp only [wf, Bool.and_eq_true, List.all_eq_true, decide_eq_true_eq] at h ⊢
  exact ⟨rising_filter h.1 p, fun e he => h.2 e (List.mem_filter.mp he).1⟩

/-- And so does a run of writes. -/
theorem wf_foldl_set [DecidableEq α] {β : Type} (d : α) (k : β → Nat) (v : β → α) (l : List β) (m : SMap α) (h : wf d m = true) :
    wf d (l.foldl (fun m b => set d m (k b) (v b)) m) = true := by
  induction l generalizing m with
  | nil => exact h
  | cons b r ih => exact ih _ (wf_set d m (k b) (v b) h)

end Sys2Proof.Machine.SMap
end

