-- ==== Sys2Proof/Laws/Frames.lean ====
section
/-!
SUPPORT. What the shared operations can do: the capture of granules, register writes, the end of a word, and the four ways in which
a word writes its result.
-/
namespace Sys2Proof.Machine

-- The capture of pending granules (R138 to R145).

/-- Nothing but the registers of BAR0, the dies, the colours and the count of free values differs. -/
def OnlyRecords (s t : State) : Prop := t = { s with bar := t.bar, dies := t.dies, sys := t.sys, fresh := t.fresh }

theorem OnlyRecords.refl (s : State) : OnlyRecords s s := rfl
theorem OnlyRecords.trans {s t u : State} (h : OnlyRecords s t) (k : OnlyRecords t u) : OnlyRecords s u := by
  unfold OnlyRecords at *; rw [k, h]

theorem setReg_only (s : State) (o : Nat) (v : U64) : OnlyRecords s (s.setReg o v) := rfl
theorem count_only (s : State) (o n : Nat) : OnlyRecords s (s.count o n) := rfl
theorem setDie_only (s : State) (d : Nat) (x : DieState) : OnlyRecords s (s.setDie d x) := rfl
theorem sys_only (s : State) (x : SystemState) : OnlyRecords s { s with sys := x } := rfl
theorem fresh_only (s : State) (n : Nat) : OnlyRecords s { s with fresh := n } := rfl
theorem dies_only (s : State) (x : SMap DieState) : OnlyRecords s { s with dies := x } := rfl
theorem setColour_only (s : State) (c : Bool) (x : Colour) : OnlyRecords s (s.setColour c x) := by
  cases c <;> rfl

theorem logError_only (d pa : Nat) (k c : BitVec 4) (n : BitVec 7) (s : State) : OnlyRecords s (logError d pa k c n s) := by
  unfold logError
  have h := count_only s (rDieMem d (if k == 0 then 0x60 else 0x68)) 1
  simp only
  generalize s.count (rDieMem d (if k == 0 then 0x60 else 0x68)) 1 = u at h ⊢
  split
  · exact h.trans (setDie_only _ _ _)
  · split
    · exact h
    · split <;> exact h.trans (setDie_only _ _ _)

theorem logOwn_only (d a : Nat) (k c : BitVec 4) (n : BitVec 7) (s : State) : OnlyRecords s (logOwn d a k c n s) := by
  unfold logOwn; split
  · exact logError_only _ _ _ _ _ _
  · exact (fresh_only s _).trans (logError_only _ _ _ _ _ _)
/-- The error log changes nothing else, however many errors it takes. -/
theorem logged_only {α : Type} (f : α → State → State) (h : ∀ x s, OnlyRecords s (f x s)) (l : List α) (s : State) :
    OnlyRecords s (l.foldl (fun s x => f x s) s) := by
  induction l generalizing s with
  | nil => exact .refl s
  | cons a r ih => exact (h a s).trans (ih _)
theorem correct_only (k : List Flaw) (a n : Nat) (no : BitVec 7) (s : State) : OnlyRecords s (correct k a n no s) :=
  logged_only _ (fun _ _ => logOwn_only _ _ _ _ _ _) _ s
theorem correctGranule_only (gr : Nat) (s : State) : OnlyRecords s (correctGranule gr s) := by
  unfold correctGranule
  simp only
  split
  · exact .refl s
  · split
    · exact correct_only _ _ _ _ _
    · exact (correct_only _ _ _ _ s).trans (logged_only _ (fun _ _ => logOwn_only _ _ _ _ _ _) _ _)

/-- Where an update of a colour is conditional. -/
theorem OnlyRecords.colourIf {s u : State} (h : OnlyRecords s u) (b : Prop) [Decidable b] (c : Bool) (x : Colour) :
    OnlyRecords s (if b then u.setColour c x else u) := by
  split
  · exact h.trans (setColour_only _ _ _)
  · exact h

theorem failColour_only (c : Bool) (s : State) : OnlyRecords s (failColour c s) := by
  unfold failColour
  simp only
  split
  · exact .refl s
  · exact (setColour_only s c _).trans (dies_only _ _)
theorem recordDone_only (r : Rec) (s : State) : OnlyRecords s (recordDone r s) := by
  have one : ∀ (c : Bool) (u : State), OnlyRecords u
      (if r.colours &&& tagOf c = 0 then u
        else if r.kind == 0x0F then u.setColour c { u.colour c with closed := r.die :: (u.colour c).closed }
        else if r.kind == 0x10 then u.setColour c { u.colour c with aborting := (u.colour c).aborting.filter (· != r.die) } else u) := by
    intro c u
    split
    · exact .refl u
    · split
      · exact setColour_only _ _ _
      · exact (OnlyRecords.refl u).colourIf _ _ _
  exact (one false s).trans (one true _)
/-- A record written, or failed, changes nothing but the records of what is staged, and the colours. -/
theorem writeRecord_only (d : Nat) (b : Bool) (s : State) : OnlyRecords s (writeRecord d b s) := by
  unfold writeRecord
  simp only
  split
  · exact .refl s
  · rename_i r _
    have h0 : ∀ x, OnlyRecords s ((s.useFree 1).setDie d x) := fun _ => rfl
    split
    · exact (((h0 _).trans (setReg_only _ _ _)).trans (sys_only _ _)).trans (recordDone_only _ _)
    · have h1 : ∀ (b : Prop) [Decidable b] (c : Bool) (u : State), OnlyRecords s u → OnlyRecords s (if b then failColour c u else u) := by
        intro b _ c u hu
        split
        · exact hu.trans (failColour_only _ _)
        · exact hu
      exact h1 _ true _ (h1 _ false _ (h0 _))
theorem makeRoom_only (k d n : Nat) (w : Bool) (s : State) : OnlyRecords s (makeRoom k d n w s) := by
  induction k generalizing s with
  | zero => exact .refl s
  | succ k ih =>
    unfold makeRoom
    simp only
    split
    · exact .refl s
    · split
      · exact ((fresh_only s _).trans (count_only _ _ _)).trans ((writeRecord_only d true _).trans (ih _))
      · exact (writeRecord_only d true _).trans (ih _)
theorem stage_only (w : Bool) (r : Rec) (s : State) : OnlyRecords s (stage w r s) := by
  unfold stage
  have h := makeRoom_only (s.die r.die).staging.length r.die r.bytes w s
  simp only
  generalize makeRoom (s.die r.die).staging.length r.die r.bytes w s = u at h ⊢
  generalize ((if u.sys.c0.fail = true then 1 else (0 : BitVec 2)) ||| (if u.sys.c1.fail = true then 2 else 0)) = m
  split
  · exact h
  · exact ((h.trans (setDie_only _ _ _)).colourIf _ _ _).colourIf _ _ _

theorem capture_only (w : Bool) (gr : Nat) (s : State) : OnlyRecords s (capture w gr s) := by
  unfold capture
  simp only
  split
  · exact .refl s
  · refine OnlyRecords.trans ?_ (count_only _ _ _)
    refine OnlyRecords.colourIf (OnlyRecords.colourIf ?_ _ _ _) _ _ _
    have h0 : ∀ (r : Rec) (d : Nat), OnlyRecords s (if w = true then stage (!w) r s
        else { stage (!w) r s with fresh := (stage (!w) r s).fresh + 1 }.count (rPh d 0x28) ((stage (!w) r s).free.toNat % 2 ^ 16)) := by
      intro r d
      split
      · exact stage_only _ _ _
      · exact ((stage_only _ _ _).trans (fresh_only _ _)).trans (count_only _ _ _)
    split
    · exact (h0 _ _).trans (correctGranule_only _ _)
    · split <;> exact (h0 _ _).trans (logOwn_only _ _ _ _ _ _)

/-- All that the capture of granules can change; with nothing pending, nothing (R138). -/
theorem touch_only (l : List Nat) (s : State) : OnlyRecords s (touch l s) ∧ (s.calm = true → touch l s = s) := by
  unfold touch
  split
  · exact ⟨.refl s, fun _ => rfl⟩
  · rename_i h
    refine ⟨?_, fun c => absurd c h⟩
    clear h
    induction l generalizing s with
    | nil => exact .refl s
    | cons a r ih => exact (capture_only false a s).trans (ih _)

@[simp] theorem touch_g (l : List Nat) (s : State) : (touch l s).g = s.g := by rw [(touch_only l s).1]
@[simp] theorem touch_mem (l : List Nat) (s : State) : (touch l s).mem = s.mem := by rw [(touch_only l s).1]
@[simp] theorem touch_cur (l : List Nat) (s : State) : (touch l s).cur = s.cur := by rw [(touch_only l s).1]
@[simp] theorem touch_lanes (l : List Nat) (s : State) : (touch l s).lanes = s.lanes := by rw [(touch_only l s).1]
@[simp] theorem touch_pmask (l : List Nat) (s : State) : (touch l s).pmask = s.pmask := by rw [(touch_only l s).1]

-- The module around an agent.

theorem ModuleKept.refl (s : State) : ModuleKept s s := ⟨rfl, fun _ => ⟨rfl, rfl, rfl, rfl⟩, fun _ => rfl⟩
/-- Whatever becomes of the agent at issue after a capture, the rest of the module is kept. -/
theorem ModuleKept.of_touch (l : List Nat) (s : State) (a : Agent) (b : Bool) :
    ModuleKept s { touch l s with g := a, sel := b } := by
  obtain ⟨h, c⟩ := touch_only l s
  refine ⟨?_, fun k => ?_, fun x => ?_⟩
  · rw [h]
  · rw [c k]; exact ⟨rfl, rfl, rfl, rfl⟩
  · simp [State.getByte]
theorem ModuleKept.of_agent (s : State) (a : Agent) (b : Bool) : ModuleKept s { s with g := a, sel := b } :=
  ⟨rfl, fun _ => ⟨rfl, rfl, rfl, rfl⟩, fun _ => rfl⟩
theorem ModuleKept.trans {s t u : State} (h : ModuleKept s t) (k : ModuleKept t u) : ModuleKept s u := by
  obtain ⟨h1, h2, h3⟩ := h
  obtain ⟨k1, k2, k3⟩ := k
  refine ⟨by rw [k1, h1], fun c => ?_, fun a => (k3 a).trans (h3 a)⟩
  obtain ⟨a, b, d, e⟩ := h2 c
  have c' : t.calm = true := by simpa [State.calm, d] using c
  obtain ⟨a', b', d', e'⟩ := k2 c'
  exact ⟨a'.trans a, b'.trans b, d'.trans d, e'.trans e⟩

-- Scalar registers (R203).

@[simp] theorem sget_sset_self (a : Agent) (n : Nat) (v : U64) : (a.sset n v).sget n = v := by
  simp [Agent.sset, Agent.sget, Agent.sDefault]
theorem sget_sset_other (a : Agent) (n m : Nat) (v : U64) (h : m ≠ n) : (a.sset n v).sget m = a.sget m := by
  simp [Agent.sset, Agent.sget, Agent.sDefault, SMap.get_set_other _ _ _ _ _ _ h]
/-- A write of scalar register d: the agent's other registers and the rest of the module are kept. -/
theorem setS_spec (d : Nat) (v : U64) (s : State) :
    setS d v s = { touch [grScalar s.g.id] s with g := s.g.sset d v } := by
  simp [setS, touchS]

-- Vector registers (R203, R205).

theorem key_inj {p q l k : Nat} (hl : l < 64) (hk : k < 64) (h : p * 64 + l = q * 64 + k) : p = q ∧ l = k := by omega
@[simp] theorem pget_pset_self (a : Agent) (p l : Nat) (v : U32) : (a.pset p l v).pget p l = v := by
  simp [Agent.pset, Agent.pget]
theorem pget_pset_other (a : Agent) (p l q k : Nat) (v : U32) (hl : l < 64) (hk : k < 64) (h : q ≠ p ∨ k ≠ l) :
    (a.pset p l v).pget q k = a.pget q k := by
  unfold Agent.pset Agent.pget
  exact SMap.get_set_other _ _ _ _ _ _ (by omega)

theorem mem_lanesOf (m : U64) (l : Nat) : l ∈ lanesOf m ↔ l < 64 ∧ m.getLsbD l = true := by simp [lanesOf]
theorem nodup_lanesOf (m : U64) : (lanesOf m).Nodup := List.Pairwise.filter _ List.nodup_range

/-- The writes of some lanes of a physical register, one after another. -/
def psets (p : Nat) (f : Nat → U32) (l : List Nat) (a : Agent) : Agent := l.foldl (fun a i => a.pset p i (f i)) a
theorem psets_agent (p : Nat) (f : Nat → U32) (l : List Nat) (a : Agent) :
    psets p f l a = { a with vregs := (psets p f l a).vregs, flawed := (psets p f l a).flawed } := by
  induction l generalizing a with
  | nil => rfl
  | cons i r ih => exact ih (a.pset p i (f i))
theorem pset_flawed (a : Agent) (p l : Nat) (v : U32) : ∀ w ∈ (a.pset p l v).flawed, w ∈ a.flawed := by
  exact fun _ h => (List.mem_filter.mp h).1
theorem psets_flawed (p : Nat) (f : Nat → U32) (l : List Nat) (a : Agent) : ∀ w ∈ (psets p f l a).flawed, w ∈ a.flawed := by
  induction l generalizing a with
  | nil => exact fun _ h => h
  | cons i r ih => exact fun w h => pset_flawed a p i (f i) w (ih _ w h)
theorem psets_other (p : Nat) (f : Nat → U32) (l : List Nat) (a : Agent) (q k : Nat) (hk : k < 64) (hl : ∀ i ∈ l, i < 64)
    (h : q ≠ p ∨ k ∉ l) : (psets p f l a).pget q k = a.pget q k := by
  induction l generalizing a with
  | nil => rfl
  | cons i r ih =>
    have := ih (a.pset p i (f i)) (fun j hj => hl j (List.mem_cons_of_mem _ hj))
      (h.imp id fun x y => x (List.mem_cons_of_mem _ y))
    refine this.trans (pget_pset_other a p i q k _ (hl i List.mem_cons_self) hk (h.imp id fun x y => x ?_))
    exact y ▸ List.mem_cons_self
theorem psets_self (p : Nat) (f : Nat → U32) (l : List Nat) (a : Agent) (k : Nat) (hl : ∀ i ∈ l, i < 64) (h : k ∈ l) (n : l.Nodup) :
    (psets p f l a).pget p k = f k := by
  induction l generalizing a with
  | nil => exact absurd h (List.not_mem_nil)
  | cons i r ih =>
    have hr : ∀ j ∈ r, j < 64 := fun j hj => hl j (List.mem_cons_of_mem _ hj)
    have hn := List.nodup_cons.mp n
    cases List.mem_cons.mp h with
    | inl e =>
      subst e
      exact (psets_other p f r _ p k (hl k List.mem_cons_self) hr (.inr hn.1)).trans (pget_pset_self _ _ _ _)
    | inr e => exact ih _ hr e hn.2

/-- The window stands where it stood. -/
theorem phys_psets (p : Nat) (f : Nat → U32) (l : List Nat) (a : Agent) (n : Nat) : (psets p f l a).phys n = a.phys n := by
  rw [psets_agent]; rfl
theorem psets_phys (d : Nat) (f : Nat → U32) (l : List Nat) (a : Agent) :
    l.foldl (fun a i => a.pset (a.phys d) i (f i)) a = psets (a.phys d) f l a := by
  induction l generalizing a with
  | nil => rfl
  | cons i r ih => simp only [List.foldl_cons]; rw [ih]; rfl

/-- A write of the lanes m of vector register d. -/
theorem setV_spec (d : Nat) (m : U64) (f : Nat → U32) (s : State) (h : m ≠ 0) :
    setV d m f s = { touch [grVec s.g.id (s.g.phys d)] s with g := psets (s.g.phys d) f (lanesOf m) s.g } := by
  rw [setV, if_neg h]
  simp [touchV, psets_phys]
theorem setV_none (d : Nat) (f : Nat → U32) (s : State) : setV d 0 f s = s := by simp [setV]

-- The end of a word (R167, R189 to R191).

@[simp] theorem ending_region (a b : Agent) : (a.ending b).region = b.region := rfl
@[simp] theorem ending_paths (a b : Agent) : (a.ending b).paths = b.paths := rfl
@[simp] theorem ending_gap (a b : Agent) : (a.ending b).gap = b.gap := rfl
@[simp] theorem ending_gw (a b : Agent) : (a.ending b).gw = b.gw := rfl
@[simp] theorem ending_walked (a b : Agent) : (a.ending b).walked = b.walked := rfl
@[simp] theorem ending_noHit (a b : Agent) : (a.ending b).noHit = b.noHit := rfl

theorem leave_only (a : Agent) : a.leave = { a with region := a.leave.region } ∧ RegionKept a a.leave := by
  unfold Agent.leave
  split
  · split
    · exact ⟨rfl, .inl rfl⟩
    · exact ⟨rfl, .inr rfl⟩
  · exact ⟨rfl, .inl rfl⟩
theorem finish_only (h : Hint) (b : Bool) (o : Offs) (s : State) : finish h b o s =
    { s with sel := false, g := s.g.ending (finish h b o s).g } ∧ RegionKept s.g (finish h b o s).g := ⟨rfl, .inl rfl⟩
/-- The path at issue then takes another plane and another place to go back to. -/
theorem updPath_only (f : Path → Path) {s t : State} (h : t = { s with sel := false, g := s.g.ending t.g } ∧ RegionKept s.g t.g) :
    t.updPath f = { s with sel := false, g := s.g.ending (t.updPath f).g } ∧ RegionKept s.g (t.updPath f).g := by
  refine ⟨?_, h.2⟩
  generalize e : t.g = a at h
  unfold State.updPath
  rw [h.1]; rfl
theorem leaveRegion_only {s t : State} (h : t = { s with sel := false, g := s.g.ending t.g } ∧ RegionKept s.g t.g) :
    leaveRegion t = { s with sel := false, g := s.g.ending (leaveRegion t).g } ∧ RegionKept s.g (leaveRegion t).g := by
  have k := leave_only t.g
  unfold leaveRegion
  refine ⟨?_, ?_⟩
  · rw [k.1, h.1]; rfl
  · rcases k.2 with e | e
    · rcases h.2 with x | x
      · exact .inl (e.trans x)
      · exact .inr (e.trans x)
    · exact .inr e
/-- All that the end of a word changes (R166, R167, R189 to R191). -/
theorem retire_only (h : Hint) (s : State) : retire h s =
    { s with sel := false, g := s.g.ending (retire h s).g } ∧ RegionKept s.g (retire h s).g := by
  unfold retire
  simp only
  split
  · exact finish_only _ _ _ _
  · exact leaveRegion_only (updPath_only _ (finish_only _ _ _ _))

-- Words that write one register.

/-- All that a scalar result does (R185, R203). -/
theorem scalarTo_spec (h : Hint) (d : Reg) (v : U64) (s : State) :
    ModuleKept s (scalarTo h d v s) ∧ GangKeptButScalar d.toNat s.g (scalarTo h d v s).g ∧
      (scalarTo h d v s).sr d = if s.act h = 0 then s.sr d else v := by
  unfold scalarTo uniform
  split
  · obtain ⟨e, k⟩ := retire_only h s
    rw [e]
    exact ⟨ModuleKept.of_agent _ _ _, ⟨rfl, k, fun _ _ => rfl⟩, rfl⟩
  · rw [setS_spec]
    obtain ⟨e, k⟩ := retire_only h { touch [grScalar s.g.id] s with g := s.g.sset d.toNat v }
    rw [e]
    refine ⟨ModuleKept.of_touch _ _ _ _, ⟨rfl, k, fun n hn => ?_⟩, ?_⟩
    · exact sget_sset_other s.g d.toNat n v hn
    · exact sget_sset_self s.g d.toNat v

/-- All that a write of vector lanes does, however the word ends. -/
theorem setV_retire (h : Hint) (d : Reg) (m : U64) (f : Nat → U32) (s : State) :
    ModuleKept s (retire h (setV d.toNat m f s)) ∧
      GangKeptButVector [s.g.phys d.toNat] m s.g (retire h (setV d.toNat m f s)).g ∧
      ∀ l, m.getLsbD l = true → (retire h (setV d.toNat m f s)).vr d l = f l := by
  by_cases hm : m = 0
  · subst hm
    rw [setV_none]
    obtain ⟨e, k⟩ := retire_only h s
    rw [e]
    exact ⟨ModuleKept.of_agent _ _ _, ⟨rfl, k, fun _ x => x, fun _ _ _ _ => rfl⟩, fun l hl => by simp at hl⟩
  · rw [setV_spec _ _ _ _ hm]
    obtain ⟨e, k⟩ := retire_only h { touch [grVec s.g.id (s.g.phys d.toNat)] s with
      g := psets (s.g.phys d.toNat) f (lanesOf m) s.g }
    rw [e]
    have hr : (psets (s.g.phys d.toNat) f (lanesOf m) s.g).region = s.g.region := by rw [psets_agent]
    have low : ∀ i ∈ lanesOf m, i < 64 := fun i hi => ((mem_lanesOf m i).mp hi).1
    refine ⟨ModuleKept.of_touch _ _ _ _, ⟨?_, ?_, psets_flawed _ _ _ _, fun p l hl hp => ?_⟩, fun l hl => ?_⟩
    · unfold Agent.ending; rw [psets_agent]
    · exact k.imp (fun x => x.trans hr) id
    · refine psets_other _ f (lanesOf m) s.g p l hl low ?_
      cases hp with
      | inl x => exact .inl (by simpa using x)
      | inr x => exact .inr fun y => by simp [((mem_lanesOf m l).mp y).2] at x
    · have hl64 : l < 64 := by
        by_cases c : l < 64
        · exact c
        · simp [BitVec.getLsbD_of_ge m l (by omega)] at hl
      have := psets_self (s.g.phys d.toNat) f (lanesOf m) s.g l low ((mem_lanesOf m l).mpr ⟨hl64, hl⟩) (nodup_lanesOf m)
      refine Eq.trans ?_ this
      have e : (psets (s.g.phys d.toNat) f (lanesOf m) s.g).phys d.toNat = s.g.phys d.toNat := phys_psets _ _ _ _ _
      exact congrArg (fun x => (psets (s.g.phys d.toNat) f (lanesOf m) s.g).pget x l) e
/-- All that a vector result does (R203, R264). -/
theorem vectorTo_spec (h : Hint) (d : Reg) (f : Nat → U32) (s : State) :
    ModuleKept s (vectorTo h d f s) ∧ GangKeptButVector [s.g.phys d.toNat] (s.act h) s.g (vectorTo h d f s).g ∧
      ∀ l, (s.act h).getLsbD l = true → (vectorTo h d f s).vr d l = f l := setV_retire h d (s.act h) f s

end Sys2Proof.Machine
end

