-- ==== Sys2Proof/Laws/State.lean ====
section
/-!
SUPPORT. What each update of State and of Agent leaves as it was, field by field; and what it reads as afterwards.
-/
namespace Sys2Proof.Machine

-- setReg

@[simp] theorem setReg_mem (s : State) (o : Nat) (v : U64) : (s.setReg o v).mem = s.mem := rfl
@[simp] theorem setReg_bad (s : State) (o : Nat) (v : U64) : (s.setReg o v).bad = s.bad := rfl
@[simp] theorem setReg_dram (s : State) (o : Nat) (v : U64) : (s.setReg o v).dram = s.dram := rfl
@[simp] theorem setReg_dirty (s : State) (o : Nat) (v : U64) : (s.setReg o v).dirty = s.dirty := rfl
@[simp] theorem setReg_badL2 (s : State) (o : Nat) (v : U64) : (s.setReg o v).badL2 = s.badL2 := rfl
@[simp] theorem setReg_badTags (s : State) (o : Nat) (v : U64) : (s.setReg o v).badTags = s.badTags := rfl
@[simp] theorem setReg_flaws (s : State) (o : Nat) (v : U64) : (s.setReg o v).flaws = s.flaws := rfl
@[simp] theorem setReg_dir (s : State) (o : Nat) (v : U64) : (s.setReg o v).dir = s.dir := rfl
@[simp] theorem setReg_partials (s : State) (o : Nat) (v : U64) : (s.setReg o v).partials = s.partials := rfl
@[simp] theorem setReg_ops (s : State) (o : Nat) (v : U64) : (s.setReg o v).ops = s.ops := rfl
@[simp] theorem setReg_cores (s : State) (o : Nat) (v : U64) : (s.setReg o v).cores = s.cores := rfl
@[simp] theorem setReg_dies (s : State) (o : Nat) (v : U64) : (s.setReg o v).dies = s.dies := rfl
@[simp] theorem setReg_grids (s : State) (o : Nat) (v : U64) : (s.setReg o v).grids = s.grids := rfl
@[simp] theorem setReg_teams (s : State) (o : Nat) (v : U64) : (s.setReg o v).teams = s.teams := rfl
@[simp] theorem setReg_queues (s : State) (o : Nat) (v : U64) : (s.setReg o v).queues = s.queues := rfl
@[simp] theorem setReg_lastDie (s : State) (o : Nat) (v : U64) : (s.setReg o v).lastDie = s.lastDie := rfl
@[simp] theorem setReg_g (s : State) (o : Nat) (v : U64) : (s.setReg o v).g = s.g := rfl
@[simp] theorem setReg_agents (s : State) (o : Nat) (v : U64) : (s.setReg o v).agents = s.agents := rfl
@[simp] theorem setReg_cur (s : State) (o : Nat) (v : U64) : (s.setReg o v).cur = s.cur := rfl
@[simp] theorem setReg_word (s : State) (o : Nat) (v : U64) : (s.setReg o v).word = s.word := rfl
@[simp] theorem setReg_lanes (s : State) (o : Nat) (v : U64) : (s.setReg o v).lanes = s.lanes := rfl
@[simp] theorem setReg_pmask (s : State) (o : Nat) (v : U64) : (s.setReg o v).pmask = s.pmask := rfl
@[simp] theorem setReg_sel (s : State) (o : Nat) (v : U64) : (s.setReg o v).sel = s.sel := rfl
@[simp] theorem setReg_served (s : State) (o : Nat) (v : U64) : (s.setReg o v).served = s.served := rfl
@[simp] theorem setReg_eng (s : State) (o : Nat) (v : U64) : (s.setReg o v).eng = s.eng := rfl
@[simp] theorem setReg_sys (s : State) (o : Nat) (v : U64) : (s.setReg o v).sys = s.sys := rfl
@[simp] theorem setReg_gt (s : State) (o : Nat) (v : U64) : (s.setReg o v).gt = s.gt := rfl
@[simp] theorem setReg_gtFrac (s : State) (o : Nat) (v : U64) : (s.setReg o v).gtFrac = s.gtFrac := rfl
@[simp] theorem setReg_cyc (s : State) (o : Nat) (v : U64) : (s.setReg o v).cyc = s.cyc := rfl
@[simp] theorem setReg_mclk (s : State) (o : Nat) (v : U64) : (s.setReg o v).mclk = s.mclk := rfl
@[simp] theorem setReg_power (s : State) (o : Nat) (v : U64) : (s.setReg o v).power = s.power := rfl
@[simp] theorem setReg_fresh (s : State) (o : Nat) (v : U64) : (s.setReg o v).fresh = s.fresh := rfl
@[simp] theorem setReg_serial (s : State) (o : Nat) (v : U64) : (s.setReg o v).serial = s.serial := rfl
@[simp] theorem setReg_frozen (s : State) (o : Nat) (v : U64) : (s.setReg o v).frozen = s.frozen := rfl
@[simp] theorem setReg_agenda (s : State) (o : Nat) (v : U64) : (s.setReg o v).agenda = s.agenda := rfl
@[simp] theorem setReg_strikes (s : State) (o : Nat) (v : U64) : (s.setReg o v).strikes = s.strikes := rfl

-- count

@[simp] theorem count_mem (s : State) (o n : Nat) : (s.count o n).mem = s.mem := rfl
@[simp] theorem count_bad (s : State) (o n : Nat) : (s.count o n).bad = s.bad := rfl
@[simp] theorem count_dram (s : State) (o n : Nat) : (s.count o n).dram = s.dram := rfl
@[simp] theorem count_dirty (s : State) (o n : Nat) : (s.count o n).dirty = s.dirty := rfl
@[simp] theorem count_badL2 (s : State) (o n : Nat) : (s.count o n).badL2 = s.badL2 := rfl
@[simp] theorem count_badTags (s : State) (o n : Nat) : (s.count o n).badTags = s.badTags := rfl
@[simp] theorem count_flaws (s : State) (o n : Nat) : (s.count o n).flaws = s.flaws := rfl
@[simp] theorem count_dir (s : State) (o n : Nat) : (s.count o n).dir = s.dir := rfl
@[simp] theorem count_partials (s : State) (o n : Nat) : (s.count o n).partials = s.partials := rfl
@[simp] theorem count_ops (s : State) (o n : Nat) : (s.count o n).ops = s.ops := rfl
@[simp] theorem count_cores (s : State) (o n : Nat) : (s.count o n).cores = s.cores := rfl
@[simp] theorem count_dies (s : State) (o n : Nat) : (s.count o n).dies = s.dies := rfl
@[simp] theorem count_grids (s : State) (o n : Nat) : (s.count o n).grids = s.grids := rfl
@[simp] theorem count_teams (s : State) (o n : Nat) : (s.count o n).teams = s.teams := rfl
@[simp] theorem count_queues (s : State) (o n : Nat) : (s.count o n).queues = s.queues := rfl
@[simp] theorem count_lastDie (s : State) (o n : Nat) : (s.count o n).lastDie = s.lastDie := rfl
@[simp] theorem count_g (s : State) (o n : Nat) : (s.count o n).g = s.g := rfl
@[simp] theorem count_agents (s : State) (o n : Nat) : (s.count o n).agents = s.agents := rfl
@[simp] theorem count_cur (s : State) (o n : Nat) : (s.count o n).cur = s.cur := rfl
@[simp] theorem count_word (s : State) (o n : Nat) : (s.count o n).word = s.word := rfl
@[simp] theorem count_lanes (s : State) (o n : Nat) : (s.count o n).lanes = s.lanes := rfl
@[simp] theorem count_pmask (s : State) (o n : Nat) : (s.count o n).pmask = s.pmask := rfl
@[simp] theorem count_sel (s : State) (o n : Nat) : (s.count o n).sel = s.sel := rfl
@[simp] theorem count_served (s : State) (o n : Nat) : (s.count o n).served = s.served := rfl
@[simp] theorem count_eng (s : State) (o n : Nat) : (s.count o n).eng = s.eng := rfl
@[simp] theorem count_sys (s : State) (o n : Nat) : (s.count o n).sys = s.sys := rfl
@[simp] theorem count_gt (s : State) (o n : Nat) : (s.count o n).gt = s.gt := rfl
@[simp] theorem count_gtFrac (s : State) (o n : Nat) : (s.count o n).gtFrac = s.gtFrac := rfl
@[simp] theorem count_cyc (s : State) (o n : Nat) : (s.count o n).cyc = s.cyc := rfl
@[simp] theorem count_mclk (s : State) (o n : Nat) : (s.count o n).mclk = s.mclk := rfl
@[simp] theorem count_power (s : State) (o n : Nat) : (s.count o n).power = s.power := rfl
@[simp] theorem count_fresh (s : State) (o n : Nat) : (s.count o n).fresh = s.fresh := rfl
@[simp] theorem count_serial (s : State) (o n : Nat) : (s.count o n).serial = s.serial := rfl
@[simp] theorem count_frozen (s : State) (o n : Nat) : (s.count o n).frozen = s.frozen := rfl
@[simp] theorem count_agenda (s : State) (o n : Nat) : (s.count o n).agenda = s.agenda := rfl
@[simp] theorem count_strikes (s : State) (o n : Nat) : (s.count o n).strikes = s.strikes := rfl

-- interrupt

@[simp] theorem interrupt_mem (s : State) (n : Nat) : (s.interrupt n).mem = s.mem := by unfold State.interrupt; dsimp only; split <;> rfl
@[simp] theorem interrupt_bad (s : State) (n : Nat) : (s.interrupt n).bad = s.bad := by unfold State.interrupt; dsimp only; split <;> rfl
@[simp] theorem interrupt_dram (s : State) (n : Nat) : (s.interrupt n).dram = s.dram := by unfold State.interrupt; dsimp only; split <;> rfl
@[simp] theorem interrupt_dirty (s : State) (n : Nat) : (s.interrupt n).dirty = s.dirty := by unfold State.interrupt; dsimp only; split <;> rfl
@[simp] theorem interrupt_badL2 (s : State) (n : Nat) : (s.interrupt n).badL2 = s.badL2 := by unfold State.interrupt; dsimp only; split <;> rfl
@[simp] theorem interrupt_badTags (s : State) (n : Nat) : (s.interrupt n).badTags = s.badTags := by unfold State.interrupt; dsimp only; split <;> rfl
@[simp] theorem interrupt_flaws (s : State) (n : Nat) : (s.interrupt n).flaws = s.flaws := by unfold State.interrupt; dsimp only; split <;> rfl
@[simp] theorem interrupt_dir (s : State) (n : Nat) : (s.interrupt n).dir = s.dir := by unfold State.interrupt; dsimp only; split <;> rfl
@[simp] theorem interrupt_partials (s : State) (n : Nat) : (s.interrupt n).partials = s.partials := by unfold State.interrupt; dsimp only; split <;> rfl
@[simp] theorem interrupt_ops (s : State) (n : Nat) : (s.interrupt n).ops = s.ops := by unfold State.interrupt; dsimp only; split <;> rfl
@[simp] theorem interrupt_cores (s : State) (n : Nat) : (s.interrupt n).cores = s.cores := by unfold State.interrupt; dsimp only; split <;> rfl
@[simp] theorem interrupt_dies (s : State) (n : Nat) : (s.interrupt n).dies = s.dies := by unfold State.interrupt; dsimp only; split <;> rfl
@[simp] theorem interrupt_grids (s : State) (n : Nat) : (s.interrupt n).grids = s.grids := by unfold State.interrupt; dsimp only; split <;> rfl
@[simp] theorem interrupt_teams (s : State) (n : Nat) : (s.interrupt n).teams = s.teams := by unfold State.interrupt; dsimp only; split <;> rfl
@[simp] theorem interrupt_queues (s : State) (n : Nat) : (s.interrupt n).queues = s.queues := by unfold State.interrupt; dsimp only; split <;> rfl
@[simp] theorem interrupt_lastDie (s : State) (n : Nat) : (s.interrupt n).lastDie = s.lastDie := by unfold State.interrupt; dsimp only; split <;> rfl
@[simp] theorem interrupt_g (s : State) (n : Nat) : (s.interrupt n).g = s.g := by unfold State.interrupt; dsimp only; split <;> rfl
@[simp] theorem interrupt_agents (s : State) (n : Nat) : (s.interrupt n).agents = s.agents := by unfold State.interrupt; dsimp only; split <;> rfl
@[simp] theorem interrupt_cur (s : State) (n : Nat) : (s.interrupt n).cur = s.cur := by unfold State.interrupt; dsimp only; split <;> rfl
@[simp] theorem interrupt_word (s : State) (n : Nat) : (s.interrupt n).word = s.word := by unfold State.interrupt; dsimp only; split <;> rfl
@[simp] theorem interrupt_lanes (s : State) (n : Nat) : (s.interrupt n).lanes = s.lanes := by unfold State.interrupt; dsimp only; split <;> rfl
@[simp] theorem interrupt_pmask (s : State) (n : Nat) : (s.interrupt n).pmask = s.pmask := by unfold State.interrupt; dsimp only; split <;> rfl
@[simp] theorem interrupt_sel (s : State) (n : Nat) : (s.interrupt n).sel = s.sel := by unfold State.interrupt; dsimp only; split <;> rfl
@[simp] theorem interrupt_served (s : State) (n : Nat) : (s.interrupt n).served = s.served := by unfold State.interrupt; dsimp only; split <;> rfl
@[simp] theorem interrupt_eng (s : State) (n : Nat) : (s.interrupt n).eng = s.eng := by unfold State.interrupt; dsimp only; split <;> rfl
@[simp] theorem interrupt_gt (s : State) (n : Nat) : (s.interrupt n).gt = s.gt := by unfold State.interrupt; dsimp only; split <;> rfl
@[simp] theorem interrupt_gtFrac (s : State) (n : Nat) : (s.interrupt n).gtFrac = s.gtFrac := by unfold State.interrupt; dsimp only; split <;> rfl
@[simp] theorem interrupt_cyc (s : State) (n : Nat) : (s.interrupt n).cyc = s.cyc := by unfold State.interrupt; dsimp only; split <;> rfl
@[simp] theorem interrupt_mclk (s : State) (n : Nat) : (s.interrupt n).mclk = s.mclk := by unfold State.interrupt; dsimp only; split <;> rfl
@[simp] theorem interrupt_power (s : State) (n : Nat) : (s.interrupt n).power = s.power := by unfold State.interrupt; dsimp only; split <;> rfl
@[simp] theorem interrupt_fresh (s : State) (n : Nat) : (s.interrupt n).fresh = s.fresh := by unfold State.interrupt; dsimp only; split <;> rfl
@[simp] theorem interrupt_serial (s : State) (n : Nat) : (s.interrupt n).serial = s.serial := by unfold State.interrupt; dsimp only; split <;> rfl
@[simp] theorem interrupt_frozen (s : State) (n : Nat) : (s.interrupt n).frozen = s.frozen := by unfold State.interrupt; dsimp only; split <;> rfl
@[simp] theorem interrupt_agenda (s : State) (n : Nat) : (s.interrupt n).agenda = s.agenda := by unfold State.interrupt; dsimp only; split <;> rfl
@[simp] theorem interrupt_strikes (s : State) (n : Nat) : (s.interrupt n).strikes = s.strikes := by unfold State.interrupt; dsimp only; split <;> rfl

-- useFree

@[simp] theorem useFree_mem (s : State) (n : Nat) : (s.useFree n).mem = s.mem := rfl
@[simp] theorem useFree_bad (s : State) (n : Nat) : (s.useFree n).bad = s.bad := rfl
@[simp] theorem useFree_dram (s : State) (n : Nat) : (s.useFree n).dram = s.dram := rfl
@[simp] theorem useFree_dirty (s : State) (n : Nat) : (s.useFree n).dirty = s.dirty := rfl
@[simp] theorem useFree_badL2 (s : State) (n : Nat) : (s.useFree n).badL2 = s.badL2 := rfl
@[simp] theorem useFree_badTags (s : State) (n : Nat) : (s.useFree n).badTags = s.badTags := rfl
@[simp] theorem useFree_flaws (s : State) (n : Nat) : (s.useFree n).flaws = s.flaws := rfl
@[simp] theorem useFree_dir (s : State) (n : Nat) : (s.useFree n).dir = s.dir := rfl
@[simp] theorem useFree_partials (s : State) (n : Nat) : (s.useFree n).partials = s.partials := rfl
@[simp] theorem useFree_ops (s : State) (n : Nat) : (s.useFree n).ops = s.ops := rfl
@[simp] theorem useFree_bar (s : State) (n : Nat) : (s.useFree n).bar = s.bar := rfl
@[simp] theorem useFree_cores (s : State) (n : Nat) : (s.useFree n).cores = s.cores := rfl
@[simp] theorem useFree_dies (s : State) (n : Nat) : (s.useFree n).dies = s.dies := rfl
@[simp] theorem useFree_grids (s : State) (n : Nat) : (s.useFree n).grids = s.grids := rfl
@[simp] theorem useFree_teams (s : State) (n : Nat) : (s.useFree n).teams = s.teams := rfl
@[simp] theorem useFree_queues (s : State) (n : Nat) : (s.useFree n).queues = s.queues := rfl
@[simp] theorem useFree_lastDie (s : State) (n : Nat) : (s.useFree n).lastDie = s.lastDie := rfl
@[simp] theorem useFree_g (s : State) (n : Nat) : (s.useFree n).g = s.g := rfl
@[simp] theorem useFree_agents (s : State) (n : Nat) : (s.useFree n).agents = s.agents := rfl
@[simp] theorem useFree_cur (s : State) (n : Nat) : (s.useFree n).cur = s.cur := rfl
@[simp] theorem useFree_word (s : State) (n : Nat) : (s.useFree n).word = s.word := rfl
@[simp] theorem useFree_lanes (s : State) (n : Nat) : (s.useFree n).lanes = s.lanes := rfl
@[simp] theorem useFree_pmask (s : State) (n : Nat) : (s.useFree n).pmask = s.pmask := rfl
@[simp] theorem useFree_sel (s : State) (n : Nat) : (s.useFree n).sel = s.sel := rfl
@[simp] theorem useFree_served (s : State) (n : Nat) : (s.useFree n).served = s.served := rfl
@[simp] theorem useFree_eng (s : State) (n : Nat) : (s.useFree n).eng = s.eng := rfl
@[simp] theorem useFree_sys (s : State) (n : Nat) : (s.useFree n).sys = s.sys := rfl
@[simp] theorem useFree_gt (s : State) (n : Nat) : (s.useFree n).gt = s.gt := rfl
@[simp] theorem useFree_gtFrac (s : State) (n : Nat) : (s.useFree n).gtFrac = s.gtFrac := rfl
@[simp] theorem useFree_cyc (s : State) (n : Nat) : (s.useFree n).cyc = s.cyc := rfl
@[simp] theorem useFree_mclk (s : State) (n : Nat) : (s.useFree n).mclk = s.mclk := rfl
@[simp] theorem useFree_power (s : State) (n : Nat) : (s.useFree n).power = s.power := rfl
@[simp] theorem useFree_serial (s : State) (n : Nat) : (s.useFree n).serial = s.serial := rfl
@[simp] theorem useFree_frozen (s : State) (n : Nat) : (s.useFree n).frozen = s.frozen := rfl
@[simp] theorem useFree_agenda (s : State) (n : Nat) : (s.useFree n).agenda = s.agenda := rfl
@[simp] theorem useFree_strikes (s : State) (n : Nat) : (s.useFree n).strikes = s.strikes := rfl

-- setCore

@[simp] theorem setCore_mem (s : State) (c : Nat) (x : CoreState) : (s.setCore c x).mem = s.mem := rfl
@[simp] theorem setCore_bad (s : State) (c : Nat) (x : CoreState) : (s.setCore c x).bad = s.bad := rfl
@[simp] theorem setCore_dram (s : State) (c : Nat) (x : CoreState) : (s.setCore c x).dram = s.dram := rfl
@[simp] theorem setCore_dirty (s : State) (c : Nat) (x : CoreState) : (s.setCore c x).dirty = s.dirty := rfl
@[simp] theorem setCore_badL2 (s : State) (c : Nat) (x : CoreState) : (s.setCore c x).badL2 = s.badL2 := rfl
@[simp] theorem setCore_badTags (s : State) (c : Nat) (x : CoreState) : (s.setCore c x).badTags = s.badTags := rfl
@[simp] theorem setCore_flaws (s : State) (c : Nat) (x : CoreState) : (s.setCore c x).flaws = s.flaws := rfl
@[simp] theorem setCore_dir (s : State) (c : Nat) (x : CoreState) : (s.setCore c x).dir = s.dir := rfl
@[simp] theorem setCore_partials (s : State) (c : Nat) (x : CoreState) : (s.setCore c x).partials = s.partials := rfl
@[simp] theorem setCore_ops (s : State) (c : Nat) (x : CoreState) : (s.setCore c x).ops = s.ops := rfl
@[simp] theorem setCore_bar (s : State) (c : Nat) (x : CoreState) : (s.setCore c x).bar = s.bar := rfl
@[simp] theorem setCore_dies (s : State) (c : Nat) (x : CoreState) : (s.setCore c x).dies = s.dies := rfl
@[simp] theorem setCore_grids (s : State) (c : Nat) (x : CoreState) : (s.setCore c x).grids = s.grids := rfl
@[simp] theorem setCore_teams (s : State) (c : Nat) (x : CoreState) : (s.setCore c x).teams = s.teams := rfl
@[simp] theorem setCore_queues (s : State) (c : Nat) (x : CoreState) : (s.setCore c x).queues = s.queues := rfl
@[simp] theorem setCore_lastDie (s : State) (c : Nat) (x : CoreState) : (s.setCore c x).lastDie = s.lastDie := rfl
@[simp] theorem setCore_g (s : State) (c : Nat) (x : CoreState) : (s.setCore c x).g = s.g := rfl
@[simp] theorem setCore_agents (s : State) (c : Nat) (x : CoreState) : (s.setCore c x).agents = s.agents := rfl
@[simp] theorem setCore_cur (s : State) (c : Nat) (x : CoreState) : (s.setCore c x).cur = s.cur := rfl
@[simp] theorem setCore_word (s : State) (c : Nat) (x : CoreState) : (s.setCore c x).word = s.word := rfl
@[simp] theorem setCore_lanes (s : State) (c : Nat) (x : CoreState) : (s.setCore c x).lanes = s.lanes := rfl
@[simp] theorem setCore_pmask (s : State) (c : Nat) (x : CoreState) : (s.setCore c x).pmask = s.pmask := rfl
@[simp] theorem setCore_sel (s : State) (c : Nat) (x : CoreState) : (s.setCore c x).sel = s.sel := rfl
@[simp] theorem setCore_served (s : State) (c : Nat) (x : CoreState) : (s.setCore c x).served = s.served := rfl
@[simp] theorem setCore_eng (s : State) (c : Nat) (x : CoreState) : (s.setCore c x).eng = s.eng := rfl
@[simp] theorem setCore_sys (s : State) (c : Nat) (x : CoreState) : (s.setCore c x).sys = s.sys := rfl
@[simp] theorem setCore_gt (s : State) (c : Nat) (x : CoreState) : (s.setCore c x).gt = s.gt := rfl
@[simp] theorem setCore_gtFrac (s : State) (c : Nat) (x : CoreState) : (s.setCore c x).gtFrac = s.gtFrac := rfl
@[simp] theorem setCore_cyc (s : State) (c : Nat) (x : CoreState) : (s.setCore c x).cyc = s.cyc := rfl
@[simp] theorem setCore_mclk (s : State) (c : Nat) (x : CoreState) : (s.setCore c x).mclk = s.mclk := rfl
@[simp] theorem setCore_power (s : State) (c : Nat) (x : CoreState) : (s.setCore c x).power = s.power := rfl
@[simp] theorem setCore_fresh (s : State) (c : Nat) (x : CoreState) : (s.setCore c x).fresh = s.fresh := rfl
@[simp] theorem setCore_serial (s : State) (c : Nat) (x : CoreState) : (s.setCore c x).serial = s.serial := rfl
@[simp] theorem setCore_frozen (s : State) (c : Nat) (x : CoreState) : (s.setCore c x).frozen = s.frozen := rfl
@[simp] theorem setCore_agenda (s : State) (c : Nat) (x : CoreState) : (s.setCore c x).agenda = s.agenda := rfl
@[simp] theorem setCore_strikes (s : State) (c : Nat) (x : CoreState) : (s.setCore c x).strikes = s.strikes := rfl

-- setDie

@[simp] theorem setDie_mem (s : State) (d : Nat) (x : DieState) : (s.setDie d x).mem = s.mem := rfl
@[simp] theorem setDie_bad (s : State) (d : Nat) (x : DieState) : (s.setDie d x).bad = s.bad := rfl
@[simp] theorem setDie_dram (s : State) (d : Nat) (x : DieState) : (s.setDie d x).dram = s.dram := rfl
@[simp] theorem setDie_dirty (s : State) (d : Nat) (x : DieState) : (s.setDie d x).dirty = s.dirty := rfl
@[simp] theorem setDie_badL2 (s : State) (d : Nat) (x : DieState) : (s.setDie d x).badL2 = s.badL2 := rfl
@[simp] theorem setDie_badTags (s : State) (d : Nat) (x : DieState) : (s.setDie d x).badTags = s.badTags := rfl
@[simp] theorem setDie_flaws (s : State) (d : Nat) (x : DieState) : (s.setDie d x).flaws = s.flaws := rfl
@[simp] theorem setDie_dir (s : State) (d : Nat) (x : DieState) : (s.setDie d x).dir = s.dir := rfl
@[simp] theorem setDie_partials (s : State) (d : Nat) (x : DieState) : (s.setDie d x).partials = s.partials := rfl
@[simp] theorem setDie_ops (s : State) (d : Nat) (x : DieState) : (s.setDie d x).ops = s.ops := rfl
@[simp] theorem setDie_bar (s : State) (d : Nat) (x : DieState) : (s.setDie d x).bar = s.bar := rfl
@[simp] theorem setDie_cores (s : State) (d : Nat) (x : DieState) : (s.setDie d x).cores = s.cores := rfl
@[simp] theorem setDie_grids (s : State) (d : Nat) (x : DieState) : (s.setDie d x).grids = s.grids := rfl
@[simp] theorem setDie_teams (s : State) (d : Nat) (x : DieState) : (s.setDie d x).teams = s.teams := rfl
@[simp] theorem setDie_queues (s : State) (d : Nat) (x : DieState) : (s.setDie d x).queues = s.queues := rfl
@[simp] theorem setDie_lastDie (s : State) (d : Nat) (x : DieState) : (s.setDie d x).lastDie = s.lastDie := rfl
@[simp] theorem setDie_g (s : State) (d : Nat) (x : DieState) : (s.setDie d x).g = s.g := rfl
@[simp] theorem setDie_agents (s : State) (d : Nat) (x : DieState) : (s.setDie d x).agents = s.agents := rfl
@[simp] theorem setDie_cur (s : State) (d : Nat) (x : DieState) : (s.setDie d x).cur = s.cur := rfl
@[simp] theorem setDie_word (s : State) (d : Nat) (x : DieState) : (s.setDie d x).word = s.word := rfl
@[simp] theorem setDie_lanes (s : State) (d : Nat) (x : DieState) : (s.setDie d x).lanes = s.lanes := rfl
@[simp] theorem setDie_pmask (s : State) (d : Nat) (x : DieState) : (s.setDie d x).pmask = s.pmask := rfl
@[simp] theorem setDie_sel (s : State) (d : Nat) (x : DieState) : (s.setDie d x).sel = s.sel := rfl
@[simp] theorem setDie_served (s : State) (d : Nat) (x : DieState) : (s.setDie d x).served = s.served := rfl
@[simp] theorem setDie_eng (s : State) (d : Nat) (x : DieState) : (s.setDie d x).eng = s.eng := rfl
@[simp] theorem setDie_sys (s : State) (d : Nat) (x : DieState) : (s.setDie d x).sys = s.sys := rfl
@[simp] theorem setDie_gt (s : State) (d : Nat) (x : DieState) : (s.setDie d x).gt = s.gt := rfl
@[simp] theorem setDie_gtFrac (s : State) (d : Nat) (x : DieState) : (s.setDie d x).gtFrac = s.gtFrac := rfl
@[simp] theorem setDie_cyc (s : State) (d : Nat) (x : DieState) : (s.setDie d x).cyc = s.cyc := rfl
@[simp] theorem setDie_mclk (s : State) (d : Nat) (x : DieState) : (s.setDie d x).mclk = s.mclk := rfl
@[simp] theorem setDie_power (s : State) (d : Nat) (x : DieState) : (s.setDie d x).power = s.power := rfl
@[simp] theorem setDie_fresh (s : State) (d : Nat) (x : DieState) : (s.setDie d x).fresh = s.fresh := rfl
@[simp] theorem setDie_serial (s : State) (d : Nat) (x : DieState) : (s.setDie d x).serial = s.serial := rfl
@[simp] theorem setDie_frozen (s : State) (d : Nat) (x : DieState) : (s.setDie d x).frozen = s.frozen := rfl
@[simp] theorem setDie_agenda (s : State) (d : Nat) (x : DieState) : (s.setDie d x).agenda = s.agenda := rfl
@[simp] theorem setDie_strikes (s : State) (d : Nat) (x : DieState) : (s.setDie d x).strikes = s.strikes := rfl

-- setTeam

@[simp] theorem setTeam_mem (s : State) (x : Team) : (s.setTeam x).mem = s.mem := rfl
@[simp] theorem setTeam_bad (s : State) (x : Team) : (s.setTeam x).bad = s.bad := rfl
@[simp] theorem setTeam_dram (s : State) (x : Team) : (s.setTeam x).dram = s.dram := rfl
@[simp] theorem setTeam_dirty (s : State) (x : Team) : (s.setTeam x).dirty = s.dirty := rfl
@[simp] theorem setTeam_badL2 (s : State) (x : Team) : (s.setTeam x).badL2 = s.badL2 := rfl
@[simp] theorem setTeam_badTags (s : State) (x : Team) : (s.setTeam x).badTags = s.badTags := rfl
@[simp] theorem setTeam_flaws (s : State) (x : Team) : (s.setTeam x).flaws = s.flaws := rfl
@[simp] theorem setTeam_dir (s : State) (x : Team) : (s.setTeam x).dir = s.dir := rfl
@[simp] theorem setTeam_partials (s : State) (x : Team) : (s.setTeam x).partials = s.partials := rfl
@[simp] theorem setTeam_ops (s : State) (x : Team) : (s.setTeam x).ops = s.ops := rfl
@[simp] theorem setTeam_bar (s : State) (x : Team) : (s.setTeam x).bar = s.bar := rfl
@[simp] theorem setTeam_cores (s : State) (x : Team) : (s.setTeam x).cores = s.cores := rfl
@[simp] theorem setTeam_dies (s : State) (x : Team) : (s.setTeam x).dies = s.dies := rfl
@[simp] theorem setTeam_grids (s : State) (x : Team) : (s.setTeam x).grids = s.grids := rfl
@[simp] theorem setTeam_queues (s : State) (x : Team) : (s.setTeam x).queues = s.queues := rfl
@[simp] theorem setTeam_lastDie (s : State) (x : Team) : (s.setTeam x).lastDie = s.lastDie := rfl
@[simp] theorem setTeam_g (s : State) (x : Team) : (s.setTeam x).g = s.g := rfl
@[simp] theorem setTeam_agents (s : State) (x : Team) : (s.setTeam x).agents = s.agents := rfl
@[simp] theorem setTeam_cur (s : State) (x : Team) : (s.setTeam x).cur = s.cur := rfl
@[simp] theorem setTeam_word (s : State) (x : Team) : (s.setTeam x).word = s.word := rfl
@[simp] theorem setTeam_lanes (s : State) (x : Team) : (s.setTeam x).lanes = s.lanes := rfl
@[simp] theorem setTeam_pmask (s : State) (x : Team) : (s.setTeam x).pmask = s.pmask := rfl
@[simp] theorem setTeam_sel (s : State) (x : Team) : (s.setTeam x).sel = s.sel := rfl
@[simp] theorem setTeam_served (s : State) (x : Team) : (s.setTeam x).served = s.served := rfl
@[simp] theorem setTeam_eng (s : State) (x : Team) : (s.setTeam x).eng = s.eng := rfl
@[simp] theorem setTeam_sys (s : State) (x : Team) : (s.setTeam x).sys = s.sys := rfl
@[simp] theorem setTeam_gt (s : State) (x : Team) : (s.setTeam x).gt = s.gt := rfl
@[simp] theorem setTeam_gtFrac (s : State) (x : Team) : (s.setTeam x).gtFrac = s.gtFrac := rfl
@[simp] theorem setTeam_cyc (s : State) (x : Team) : (s.setTeam x).cyc = s.cyc := rfl
@[simp] theorem setTeam_mclk (s : State) (x : Team) : (s.setTeam x).mclk = s.mclk := rfl
@[simp] theorem setTeam_power (s : State) (x : Team) : (s.setTeam x).power = s.power := rfl
@[simp] theorem setTeam_fresh (s : State) (x : Team) : (s.setTeam x).fresh = s.fresh := rfl
@[simp] theorem setTeam_serial (s : State) (x : Team) : (s.setTeam x).serial = s.serial := rfl
@[simp] theorem setTeam_frozen (s : State) (x : Team) : (s.setTeam x).frozen = s.frozen := rfl
@[simp] theorem setTeam_agenda (s : State) (x : Team) : (s.setTeam x).agenda = s.agenda := rfl
@[simp] theorem setTeam_strikes (s : State) (x : Team) : (s.setTeam x).strikes = s.strikes := rfl

-- setGrid

@[simp] theorem setGrid_mem (s : State) (x : Grid) : (s.setGrid x).mem = s.mem := rfl
@[simp] theorem setGrid_bad (s : State) (x : Grid) : (s.setGrid x).bad = s.bad := rfl
@[simp] theorem setGrid_dram (s : State) (x : Grid) : (s.setGrid x).dram = s.dram := rfl
@[simp] theorem setGrid_dirty (s : State) (x : Grid) : (s.setGrid x).dirty = s.dirty := rfl
@[simp] theorem setGrid_badL2 (s : State) (x : Grid) : (s.setGrid x).badL2 = s.badL2 := rfl
@[simp] theorem setGrid_badTags (s : State) (x : Grid) : (s.setGrid x).badTags = s.badTags := rfl
@[simp] theorem setGrid_flaws (s : State) (x : Grid) : (s.setGrid x).flaws = s.flaws := rfl
@[simp] theorem setGrid_dir (s : State) (x : Grid) : (s.setGrid x).dir = s.dir := rfl
@[simp] theorem setGrid_partials (s : State) (x : Grid) : (s.setGrid x).partials = s.partials := rfl
@[simp] theorem setGrid_ops (s : State) (x : Grid) : (s.setGrid x).ops = s.ops := rfl
@[simp] theorem setGrid_bar (s : State) (x : Grid) : (s.setGrid x).bar = s.bar := rfl
@[simp] theorem setGrid_cores (s : State) (x : Grid) : (s.setGrid x).cores = s.cores := rfl
@[simp] theorem setGrid_dies (s : State) (x : Grid) : (s.setGrid x).dies = s.dies := rfl
@[simp] theorem setGrid_teams (s : State) (x : Grid) : (s.setGrid x).teams = s.teams := rfl
@[simp] theorem setGrid_queues (s : State) (x : Grid) : (s.setGrid x).queues = s.queues := rfl
@[simp] theorem setGrid_lastDie (s : State) (x : Grid) : (s.setGrid x).lastDie = s.lastDie := rfl
@[simp] theorem setGrid_g (s : State) (x : Grid) : (s.setGrid x).g = s.g := rfl
@[simp] theorem setGrid_agents (s : State) (x : Grid) : (s.setGrid x).agents = s.agents := rfl
@[simp] theorem setGrid_cur (s : State) (x : Grid) : (s.setGrid x).cur = s.cur := rfl
@[simp] theorem setGrid_word (s : State) (x : Grid) : (s.setGrid x).word = s.word := rfl
@[simp] theorem setGrid_lanes (s : State) (x : Grid) : (s.setGrid x).lanes = s.lanes := rfl
@[simp] theorem setGrid_pmask (s : State) (x : Grid) : (s.setGrid x).pmask = s.pmask := rfl
@[simp] theorem setGrid_sel (s : State) (x : Grid) : (s.setGrid x).sel = s.sel := rfl
@[simp] theorem setGrid_served (s : State) (x : Grid) : (s.setGrid x).served = s.served := rfl
@[simp] theorem setGrid_eng (s : State) (x : Grid) : (s.setGrid x).eng = s.eng := rfl
@[simp] theorem setGrid_sys (s : State) (x : Grid) : (s.setGrid x).sys = s.sys := rfl
@[simp] theorem setGrid_gt (s : State) (x : Grid) : (s.setGrid x).gt = s.gt := rfl
@[simp] theorem setGrid_gtFrac (s : State) (x : Grid) : (s.setGrid x).gtFrac = s.gtFrac := rfl
@[simp] theorem setGrid_cyc (s : State) (x : Grid) : (s.setGrid x).cyc = s.cyc := rfl
@[simp] theorem setGrid_mclk (s : State) (x : Grid) : (s.setGrid x).mclk = s.mclk := rfl
@[simp] theorem setGrid_power (s : State) (x : Grid) : (s.setGrid x).power = s.power := rfl
@[simp] theorem setGrid_fresh (s : State) (x : Grid) : (s.setGrid x).fresh = s.fresh := rfl
@[simp] theorem setGrid_serial (s : State) (x : Grid) : (s.setGrid x).serial = s.serial := rfl
@[simp] theorem setGrid_frozen (s : State) (x : Grid) : (s.setGrid x).frozen = s.frozen := rfl
@[simp] theorem setGrid_agenda (s : State) (x : Grid) : (s.setGrid x).agenda = s.agenda := rfl
@[simp] theorem setGrid_strikes (s : State) (x : Grid) : (s.setGrid x).strikes = s.strikes := rfl

-- updPath

@[simp] theorem updPath_mem (s : State) (f : Path → Path) : (s.updPath f).mem = s.mem := rfl
@[simp] theorem updPath_bad (s : State) (f : Path → Path) : (s.updPath f).bad = s.bad := rfl
@[simp] theorem updPath_dram (s : State) (f : Path → Path) : (s.updPath f).dram = s.dram := rfl
@[simp] theorem updPath_dirty (s : State) (f : Path → Path) : (s.updPath f).dirty = s.dirty := rfl
@[simp] theorem updPath_badL2 (s : State) (f : Path → Path) : (s.updPath f).badL2 = s.badL2 := rfl
@[simp] theorem updPath_badTags (s : State) (f : Path → Path) : (s.updPath f).badTags = s.badTags := rfl
@[simp] theorem updPath_flaws (s : State) (f : Path → Path) : (s.updPath f).flaws = s.flaws := rfl
@[simp] theorem updPath_dir (s : State) (f : Path → Path) : (s.updPath f).dir = s.dir := rfl
@[simp] theorem updPath_partials (s : State) (f : Path → Path) : (s.updPath f).partials = s.partials := rfl
@[simp] theorem updPath_ops (s : State) (f : Path → Path) : (s.updPath f).ops = s.ops := rfl
@[simp] theorem updPath_bar (s : State) (f : Path → Path) : (s.updPath f).bar = s.bar := rfl
@[simp] theorem updPath_cores (s : State) (f : Path → Path) : (s.updPath f).cores = s.cores := rfl
@[simp] theorem updPath_dies (s : State) (f : Path → Path) : (s.updPath f).dies = s.dies := rfl
@[simp] theorem updPath_grids (s : State) (f : Path → Path) : (s.updPath f).grids = s.grids := rfl
@[simp] theorem updPath_teams (s : State) (f : Path → Path) : (s.updPath f).teams = s.teams := rfl
@[simp] theorem updPath_queues (s : State) (f : Path → Path) : (s.updPath f).queues = s.queues := rfl
@[simp] theorem updPath_lastDie (s : State) (f : Path → Path) : (s.updPath f).lastDie = s.lastDie := rfl
@[simp] theorem updPath_agents (s : State) (f : Path → Path) : (s.updPath f).agents = s.agents := rfl
@[simp] theorem updPath_cur (s : State) (f : Path → Path) : (s.updPath f).cur = s.cur := rfl
@[simp] theorem updPath_word (s : State) (f : Path → Path) : (s.updPath f).word = s.word := rfl
@[simp] theorem updPath_lanes (s : State) (f : Path → Path) : (s.updPath f).lanes = s.lanes := rfl
@[simp] theorem updPath_pmask (s : State) (f : Path → Path) : (s.updPath f).pmask = s.pmask := rfl
@[simp] theorem updPath_sel (s : State) (f : Path → Path) : (s.updPath f).sel = s.sel := rfl
@[simp] theorem updPath_served (s : State) (f : Path → Path) : (s.updPath f).served = s.served := rfl
@[simp] theorem updPath_eng (s : State) (f : Path → Path) : (s.updPath f).eng = s.eng := rfl
@[simp] theorem updPath_sys (s : State) (f : Path → Path) : (s.updPath f).sys = s.sys := rfl
@[simp] theorem updPath_gt (s : State) (f : Path → Path) : (s.updPath f).gt = s.gt := rfl
@[simp] theorem updPath_gtFrac (s : State) (f : Path → Path) : (s.updPath f).gtFrac = s.gtFrac := rfl
@[simp] theorem updPath_cyc (s : State) (f : Path → Path) : (s.updPath f).cyc = s.cyc := rfl
@[simp] theorem updPath_mclk (s : State) (f : Path → Path) : (s.updPath f).mclk = s.mclk := rfl
@[simp] theorem updPath_power (s : State) (f : Path → Path) : (s.updPath f).power = s.power := rfl
@[simp] theorem updPath_fresh (s : State) (f : Path → Path) : (s.updPath f).fresh = s.fresh := rfl
@[simp] theorem updPath_serial (s : State) (f : Path → Path) : (s.updPath f).serial = s.serial := rfl
@[simp] theorem updPath_frozen (s : State) (f : Path → Path) : (s.updPath f).frozen = s.frozen := rfl
@[simp] theorem updPath_agenda (s : State) (f : Path → Path) : (s.updPath f).agenda = s.agenda := rfl
@[simp] theorem updPath_strikes (s : State) (f : Path → Path) : (s.updPath f).strikes = s.strikes := rfl

-- setM

@[simp] theorem setM_mem (s : State) (d : Nat) (m v : U64) : (setM d m v s).mem = s.mem := rfl
@[simp] theorem setM_bad (s : State) (d : Nat) (m v : U64) : (setM d m v s).bad = s.bad := rfl
@[simp] theorem setM_dram (s : State) (d : Nat) (m v : U64) : (setM d m v s).dram = s.dram := rfl
@[simp] theorem setM_dirty (s : State) (d : Nat) (m v : U64) : (setM d m v s).dirty = s.dirty := rfl
@[simp] theorem setM_badL2 (s : State) (d : Nat) (m v : U64) : (setM d m v s).badL2 = s.badL2 := rfl
@[simp] theorem setM_badTags (s : State) (d : Nat) (m v : U64) : (setM d m v s).badTags = s.badTags := rfl
@[simp] theorem setM_flaws (s : State) (d : Nat) (m v : U64) : (setM d m v s).flaws = s.flaws := rfl
@[simp] theorem setM_dir (s : State) (d : Nat) (m v : U64) : (setM d m v s).dir = s.dir := rfl
@[simp] theorem setM_partials (s : State) (d : Nat) (m v : U64) : (setM d m v s).partials = s.partials := rfl
@[simp] theorem setM_ops (s : State) (d : Nat) (m v : U64) : (setM d m v s).ops = s.ops := rfl
@[simp] theorem setM_bar (s : State) (d : Nat) (m v : U64) : (setM d m v s).bar = s.bar := rfl
@[simp] theorem setM_cores (s : State) (d : Nat) (m v : U64) : (setM d m v s).cores = s.cores := rfl
@[simp] theorem setM_dies (s : State) (d : Nat) (m v : U64) : (setM d m v s).dies = s.dies := rfl
@[simp] theorem setM_grids (s : State) (d : Nat) (m v : U64) : (setM d m v s).grids = s.grids := rfl
@[simp] theorem setM_teams (s : State) (d : Nat) (m v : U64) : (setM d m v s).teams = s.teams := rfl
@[simp] theorem setM_queues (s : State) (d : Nat) (m v : U64) : (setM d m v s).queues = s.queues := rfl
@[simp] theorem setM_lastDie (s : State) (d : Nat) (m v : U64) : (setM d m v s).lastDie = s.lastDie := rfl
@[simp] theorem setM_agents (s : State) (d : Nat) (m v : U64) : (setM d m v s).agents = s.agents := rfl
@[simp] theorem setM_cur (s : State) (d : Nat) (m v : U64) : (setM d m v s).cur = s.cur := rfl
@[simp] theorem setM_word (s : State) (d : Nat) (m v : U64) : (setM d m v s).word = s.word := rfl
@[simp] theorem setM_lanes (s : State) (d : Nat) (m v : U64) : (setM d m v s).lanes = s.lanes := rfl
@[simp] theorem setM_pmask (s : State) (d : Nat) (m v : U64) : (setM d m v s).pmask = s.pmask := rfl
@[simp] theorem setM_sel (s : State) (d : Nat) (m v : U64) : (setM d m v s).sel = s.sel := rfl
@[simp] theorem setM_served (s : State) (d : Nat) (m v : U64) : (setM d m v s).served = s.served := rfl
@[simp] theorem setM_eng (s : State) (d : Nat) (m v : U64) : (setM d m v s).eng = s.eng := rfl
@[simp] theorem setM_sys (s : State) (d : Nat) (m v : U64) : (setM d m v s).sys = s.sys := rfl
@[simp] theorem setM_gt (s : State) (d : Nat) (m v : U64) : (setM d m v s).gt = s.gt := rfl
@[simp] theorem setM_gtFrac (s : State) (d : Nat) (m v : U64) : (setM d m v s).gtFrac = s.gtFrac := rfl
@[simp] theorem setM_cyc (s : State) (d : Nat) (m v : U64) : (setM d m v s).cyc = s.cyc := rfl
@[simp] theorem setM_mclk (s : State) (d : Nat) (m v : U64) : (setM d m v s).mclk = s.mclk := rfl
@[simp] theorem setM_power (s : State) (d : Nat) (m v : U64) : (setM d m v s).power = s.power := rfl
@[simp] theorem setM_fresh (s : State) (d : Nat) (m v : U64) : (setM d m v s).fresh = s.fresh := rfl
@[simp] theorem setM_serial (s : State) (d : Nat) (m v : U64) : (setM d m v s).serial = s.serial := rfl
@[simp] theorem setM_frozen (s : State) (d : Nat) (m v : U64) : (setM d m v s).frozen = s.frozen := rfl
@[simp] theorem setM_agenda (s : State) (d : Nat) (m v : U64) : (setM d m v s).agenda = s.agenda := rfl
@[simp] theorem setM_strikes (s : State) (d : Nat) (m v : U64) : (setM d m v s).strikes = s.strikes := rfl

-- setX

@[simp] theorem setX_mem (s : State) (m v : U64) : (setX m v s).mem = s.mem := rfl
@[simp] theorem setX_bad (s : State) (m v : U64) : (setX m v s).bad = s.bad := rfl
@[simp] theorem setX_dram (s : State) (m v : U64) : (setX m v s).dram = s.dram := rfl
@[simp] theorem setX_dirty (s : State) (m v : U64) : (setX m v s).dirty = s.dirty := rfl
@[simp] theorem setX_badL2 (s : State) (m v : U64) : (setX m v s).badL2 = s.badL2 := rfl
@[simp] theorem setX_badTags (s : State) (m v : U64) : (setX m v s).badTags = s.badTags := rfl
@[simp] theorem setX_flaws (s : State) (m v : U64) : (setX m v s).flaws = s.flaws := rfl
@[simp] theorem setX_dir (s : State) (m v : U64) : (setX m v s).dir = s.dir := rfl
@[simp] theorem setX_partials (s : State) (m v : U64) : (setX m v s).partials = s.partials := rfl
@[simp] theorem setX_ops (s : State) (m v : U64) : (setX m v s).ops = s.ops := rfl
@[simp] theorem setX_bar (s : State) (m v : U64) : (setX m v s).bar = s.bar := rfl
@[simp] theorem setX_cores (s : State) (m v : U64) : (setX m v s).cores = s.cores := rfl
@[simp] theorem setX_dies (s : State) (m v : U64) : (setX m v s).dies = s.dies := rfl
@[simp] theorem setX_grids (s : State) (m v : U64) : (setX m v s).grids = s.grids := rfl
@[simp] theorem setX_teams (s : State) (m v : U64) : (setX m v s).teams = s.teams := rfl
@[simp] theorem setX_queues (s : State) (m v : U64) : (setX m v s).queues = s.queues := rfl
@[simp] theorem setX_lastDie (s : State) (m v : U64) : (setX m v s).lastDie = s.lastDie := rfl
@[simp] theorem setX_agents (s : State) (m v : U64) : (setX m v s).agents = s.agents := rfl
@[simp] theorem setX_cur (s : State) (m v : U64) : (setX m v s).cur = s.cur := rfl
@[simp] theorem setX_word (s : State) (m v : U64) : (setX m v s).word = s.word := rfl
@[simp] theorem setX_lanes (s : State) (m v : U64) : (setX m v s).lanes = s.lanes := rfl
@[simp] theorem setX_pmask (s : State) (m v : U64) : (setX m v s).pmask = s.pmask := rfl
@[simp] theorem setX_sel (s : State) (m v : U64) : (setX m v s).sel = s.sel := rfl
@[simp] theorem setX_served (s : State) (m v : U64) : (setX m v s).served = s.served := rfl
@[simp] theorem setX_eng (s : State) (m v : U64) : (setX m v s).eng = s.eng := rfl
@[simp] theorem setX_sys (s : State) (m v : U64) : (setX m v s).sys = s.sys := rfl
@[simp] theorem setX_gt (s : State) (m v : U64) : (setX m v s).gt = s.gt := rfl
@[simp] theorem setX_gtFrac (s : State) (m v : U64) : (setX m v s).gtFrac = s.gtFrac := rfl
@[simp] theorem setX_cyc (s : State) (m v : U64) : (setX m v s).cyc = s.cyc := rfl
@[simp] theorem setX_mclk (s : State) (m v : U64) : (setX m v s).mclk = s.mclk := rfl
@[simp] theorem setX_power (s : State) (m v : U64) : (setX m v s).power = s.power := rfl
@[simp] theorem setX_fresh (s : State) (m v : U64) : (setX m v s).fresh = s.fresh := rfl
@[simp] theorem setX_serial (s : State) (m v : U64) : (setX m v s).serial = s.serial := rfl
@[simp] theorem setX_frozen (s : State) (m v : U64) : (setX m v s).frozen = s.frozen := rfl
@[simp] theorem setX_agenda (s : State) (m v : U64) : (setX m v s).agenda = s.agenda := rfl
@[simp] theorem setX_strikes (s : State) (m v : U64) : (setX m v s).strikes = s.strikes := rfl

-- raiseFlags

@[simp] theorem raiseFlags_mem (s : State) (f : BitVec 5) : (raiseFlags f s).mem = s.mem := rfl
@[simp] theorem raiseFlags_bad (s : State) (f : BitVec 5) : (raiseFlags f s).bad = s.bad := rfl
@[simp] theorem raiseFlags_dram (s : State) (f : BitVec 5) : (raiseFlags f s).dram = s.dram := rfl
@[simp] theorem raiseFlags_dirty (s : State) (f : BitVec 5) : (raiseFlags f s).dirty = s.dirty := rfl
@[simp] theorem raiseFlags_badL2 (s : State) (f : BitVec 5) : (raiseFlags f s).badL2 = s.badL2 := rfl
@[simp] theorem raiseFlags_badTags (s : State) (f : BitVec 5) : (raiseFlags f s).badTags = s.badTags := rfl
@[simp] theorem raiseFlags_flaws (s : State) (f : BitVec 5) : (raiseFlags f s).flaws = s.flaws := rfl
@[simp] theorem raiseFlags_dir (s : State) (f : BitVec 5) : (raiseFlags f s).dir = s.dir := rfl
@[simp] theorem raiseFlags_partials (s : State) (f : BitVec 5) : (raiseFlags f s).partials = s.partials := rfl
@[simp] theorem raiseFlags_ops (s : State) (f : BitVec 5) : (raiseFlags f s).ops = s.ops := rfl
@[simp] theorem raiseFlags_bar (s : State) (f : BitVec 5) : (raiseFlags f s).bar = s.bar := rfl
@[simp] theorem raiseFlags_cores (s : State) (f : BitVec 5) : (raiseFlags f s).cores = s.cores := rfl
@[simp] theorem raiseFlags_dies (s : State) (f : BitVec 5) : (raiseFlags f s).dies = s.dies := rfl
@[simp] theorem raiseFlags_grids (s : State) (f : BitVec 5) : (raiseFlags f s).grids = s.grids := rfl
@[simp] theorem raiseFlags_teams (s : State) (f : BitVec 5) : (raiseFlags f s).teams = s.teams := rfl
@[simp] theorem raiseFlags_queues (s : State) (f : BitVec 5) : (raiseFlags f s).queues = s.queues := rfl
@[simp] theorem raiseFlags_lastDie (s : State) (f : BitVec 5) : (raiseFlags f s).lastDie = s.lastDie := rfl
@[simp] theorem raiseFlags_agents (s : State) (f : BitVec 5) : (raiseFlags f s).agents = s.agents := rfl
@[simp] theorem raiseFlags_cur (s : State) (f : BitVec 5) : (raiseFlags f s).cur = s.cur := rfl
@[simp] theorem raiseFlags_word (s : State) (f : BitVec 5) : (raiseFlags f s).word = s.word := rfl
@[simp] theorem raiseFlags_lanes (s : State) (f : BitVec 5) : (raiseFlags f s).lanes = s.lanes := rfl
@[simp] theorem raiseFlags_pmask (s : State) (f : BitVec 5) : (raiseFlags f s).pmask = s.pmask := rfl
@[simp] theorem raiseFlags_sel (s : State) (f : BitVec 5) : (raiseFlags f s).sel = s.sel := rfl
@[simp] theorem raiseFlags_served (s : State) (f : BitVec 5) : (raiseFlags f s).served = s.served := rfl
@[simp] theorem raiseFlags_eng (s : State) (f : BitVec 5) : (raiseFlags f s).eng = s.eng := rfl
@[simp] theorem raiseFlags_sys (s : State) (f : BitVec 5) : (raiseFlags f s).sys = s.sys := rfl
@[simp] theorem raiseFlags_gt (s : State) (f : BitVec 5) : (raiseFlags f s).gt = s.gt := rfl
@[simp] theorem raiseFlags_gtFrac (s : State) (f : BitVec 5) : (raiseFlags f s).gtFrac = s.gtFrac := rfl
@[simp] theorem raiseFlags_cyc (s : State) (f : BitVec 5) : (raiseFlags f s).cyc = s.cyc := rfl
@[simp] theorem raiseFlags_mclk (s : State) (f : BitVec 5) : (raiseFlags f s).mclk = s.mclk := rfl
@[simp] theorem raiseFlags_power (s : State) (f : BitVec 5) : (raiseFlags f s).power = s.power := rfl
@[simp] theorem raiseFlags_fresh (s : State) (f : BitVec 5) : (raiseFlags f s).fresh = s.fresh := rfl
@[simp] theorem raiseFlags_serial (s : State) (f : BitVec 5) : (raiseFlags f s).serial = s.serial := rfl
@[simp] theorem raiseFlags_frozen (s : State) (f : BitVec 5) : (raiseFlags f s).frozen = s.frozen := rfl
@[simp] theorem raiseFlags_agenda (s : State) (f : BitVec 5) : (raiseFlags f s).agenda = s.agenda := rfl
@[simp] theorem raiseFlags_strikes (s : State) (f : BitVec 5) : (raiseFlags f s).strikes = s.strikes := rfl

-- stall

@[simp] theorem stall_mem (s : State) : (stall s).mem = s.mem := rfl
@[simp] theorem stall_bad (s : State) : (stall s).bad = s.bad := rfl
@[simp] theorem stall_dram (s : State) : (stall s).dram = s.dram := rfl
@[simp] theorem stall_dirty (s : State) : (stall s).dirty = s.dirty := rfl
@[simp] theorem stall_badL2 (s : State) : (stall s).badL2 = s.badL2 := rfl
@[simp] theorem stall_badTags (s : State) : (stall s).badTags = s.badTags := rfl
@[simp] theorem stall_flaws (s : State) : (stall s).flaws = s.flaws := rfl
@[simp] theorem stall_dir (s : State) : (stall s).dir = s.dir := rfl
@[simp] theorem stall_partials (s : State) : (stall s).partials = s.partials := rfl
@[simp] theorem stall_ops (s : State) : (stall s).ops = s.ops := rfl
@[simp] theorem stall_bar (s : State) : (stall s).bar = s.bar := rfl
@[simp] theorem stall_cores (s : State) : (stall s).cores = s.cores := rfl
@[simp] theorem stall_dies (s : State) : (stall s).dies = s.dies := rfl
@[simp] theorem stall_grids (s : State) : (stall s).grids = s.grids := rfl
@[simp] theorem stall_teams (s : State) : (stall s).teams = s.teams := rfl
@[simp] theorem stall_queues (s : State) : (stall s).queues = s.queues := rfl
@[simp] theorem stall_lastDie (s : State) : (stall s).lastDie = s.lastDie := rfl
@[simp] theorem stall_agents (s : State) : (stall s).agents = s.agents := rfl
@[simp] theorem stall_cur (s : State) : (stall s).cur = s.cur := rfl
@[simp] theorem stall_word (s : State) : (stall s).word = s.word := rfl
@[simp] theorem stall_lanes (s : State) : (stall s).lanes = s.lanes := rfl
@[simp] theorem stall_pmask (s : State) : (stall s).pmask = s.pmask := rfl
@[simp] theorem stall_served (s : State) : (stall s).served = s.served := rfl
@[simp] theorem stall_eng (s : State) : (stall s).eng = s.eng := rfl
@[simp] theorem stall_sys (s : State) : (stall s).sys = s.sys := rfl
@[simp] theorem stall_gt (s : State) : (stall s).gt = s.gt := rfl
@[simp] theorem stall_gtFrac (s : State) : (stall s).gtFrac = s.gtFrac := rfl
@[simp] theorem stall_cyc (s : State) : (stall s).cyc = s.cyc := rfl
@[simp] theorem stall_mclk (s : State) : (stall s).mclk = s.mclk := rfl
@[simp] theorem stall_power (s : State) : (stall s).power = s.power := rfl
@[simp] theorem stall_fresh (s : State) : (stall s).fresh = s.fresh := rfl
@[simp] theorem stall_serial (s : State) : (stall s).serial = s.serial := rfl
@[simp] theorem stall_frozen (s : State) : (stall s).frozen = s.frozen := rfl
@[simp] theorem stall_agenda (s : State) : (stall s).agenda = s.agenda := rfl
@[simp] theorem stall_strikes (s : State) : (stall s).strikes = s.strikes := rfl

-- setDir

@[simp] theorem setDir_mem (s : State) (l : Nat) (x : DirState) : (s.setDir l x).mem = s.mem := rfl
@[simp] theorem setDir_bad (s : State) (l : Nat) (x : DirState) : (s.setDir l x).bad = s.bad := rfl
@[simp] theorem setDir_dram (s : State) (l : Nat) (x : DirState) : (s.setDir l x).dram = s.dram := rfl
@[simp] theorem setDir_dirty (s : State) (l : Nat) (x : DirState) : (s.setDir l x).dirty = s.dirty := rfl
@[simp] theorem setDir_badL2 (s : State) (l : Nat) (x : DirState) : (s.setDir l x).badL2 = s.badL2 := rfl
@[simp] theorem setDir_badTags (s : State) (l : Nat) (x : DirState) : (s.setDir l x).badTags = s.badTags := rfl
@[simp] theorem setDir_flaws (s : State) (l : Nat) (x : DirState) : (s.setDir l x).flaws = s.flaws := rfl
@[simp] theorem setDir_partials (s : State) (l : Nat) (x : DirState) : (s.setDir l x).partials = s.partials := rfl
@[simp] theorem setDir_ops (s : State) (l : Nat) (x : DirState) : (s.setDir l x).ops = s.ops := rfl
@[simp] theorem setDir_bar (s : State) (l : Nat) (x : DirState) : (s.setDir l x).bar = s.bar := rfl
@[simp] theorem setDir_cores (s : State) (l : Nat) (x : DirState) : (s.setDir l x).cores = s.cores := rfl
@[simp] theorem setDir_dies (s : State) (l : Nat) (x : DirState) : (s.setDir l x).dies = s.dies := rfl
@[simp] theorem setDir_grids (s : State) (l : Nat) (x : DirState) : (s.setDir l x).grids = s.grids := rfl
@[simp] theorem setDir_teams (s : State) (l : Nat) (x : DirState) : (s.setDir l x).teams = s.teams := rfl
@[simp] theorem setDir_queues (s : State) (l : Nat) (x : DirState) : (s.setDir l x).queues = s.queues := rfl
@[simp] theorem setDir_lastDie (s : State) (l : Nat) (x : DirState) : (s.setDir l x).lastDie = s.lastDie := rfl
@[simp] theorem setDir_g (s : State) (l : Nat) (x : DirState) : (s.setDir l x).g = s.g := rfl
@[simp] theorem setDir_agents (s : State) (l : Nat) (x : DirState) : (s.setDir l x).agents = s.agents := rfl
@[simp] theorem setDir_cur (s : State) (l : Nat) (x : DirState) : (s.setDir l x).cur = s.cur := rfl
@[simp] theorem setDir_word (s : State) (l : Nat) (x : DirState) : (s.setDir l x).word = s.word := rfl
@[simp] theorem setDir_lanes (s : State) (l : Nat) (x : DirState) : (s.setDir l x).lanes = s.lanes := rfl
@[simp] theorem setDir_pmask (s : State) (l : Nat) (x : DirState) : (s.setDir l x).pmask = s.pmask := rfl
@[simp] theorem setDir_sel (s : State) (l : Nat) (x : DirState) : (s.setDir l x).sel = s.sel := rfl
@[simp] theorem setDir_served (s : State) (l : Nat) (x : DirState) : (s.setDir l x).served = s.served := rfl
@[simp] theorem setDir_eng (s : State) (l : Nat) (x : DirState) : (s.setDir l x).eng = s.eng := rfl
@[simp] theorem setDir_sys (s : State) (l : Nat) (x : DirState) : (s.setDir l x).sys = s.sys := rfl
@[simp] theorem setDir_gt (s : State) (l : Nat) (x : DirState) : (s.setDir l x).gt = s.gt := rfl
@[simp] theorem setDir_gtFrac (s : State) (l : Nat) (x : DirState) : (s.setDir l x).gtFrac = s.gtFrac := rfl
@[simp] theorem setDir_cyc (s : State) (l : Nat) (x : DirState) : (s.setDir l x).cyc = s.cyc := rfl
@[simp] theorem setDir_mclk (s : State) (l : Nat) (x : DirState) : (s.setDir l x).mclk = s.mclk := rfl
@[simp] theorem setDir_power (s : State) (l : Nat) (x : DirState) : (s.setDir l x).power = s.power := rfl
@[simp] theorem setDir_fresh (s : State) (l : Nat) (x : DirState) : (s.setDir l x).fresh = s.fresh := rfl
@[simp] theorem setDir_serial (s : State) (l : Nat) (x : DirState) : (s.setDir l x).serial = s.serial := rfl
@[simp] theorem setDir_frozen (s : State) (l : Nat) (x : DirState) : (s.setDir l x).frozen = s.frozen := rfl
@[simp] theorem setDir_agenda (s : State) (l : Nat) (x : DirState) : (s.setDir l x).agenda = s.agenda := rfl
@[simp] theorem setDir_strikes (s : State) (l : Nat) (x : DirState) : (s.setDir l x).strikes = s.strikes := rfl

-- sset

@[simp] theorem sset_id (a : Agent) (n : Nat) (v : U64) : (a.sset n v).id = a.id := rfl
@[simp] theorem sset_drover (a : Agent) (n : Nat) (v : U64) : (a.sset n v).drover = a.drover := rfl
@[simp] theorem sset_team (a : Agent) (n : Nat) (v : U64) : (a.sset n v).team = a.team := rfl
@[simp] theorem sset_grid (a : Agent) (n : Nat) (v : U64) : (a.sset n v).grid = a.grid := rfl
@[simp] theorem sset_idx (a : Agent) (n : Nat) (v : U64) : (a.sset n v).idx = a.idx := rfl
@[simp] theorem sset_die (a : Agent) (n : Nat) (v : U64) : (a.sset n v).die = a.die := rfl
@[simp] theorem sset_core (a : Agent) (n : Nat) (v : U64) : (a.sset n v).core = a.core := rfl
@[simp] theorem sset_sched (a : Agent) (n : Nat) (v : U64) : (a.sset n v).sched = a.sched := rfl
@[simp] theorem sset_slot (a : Agent) (n : Nat) (v : U64) : (a.sset n v).slot = a.slot := rfl
@[simp] theorem sset_width (a : Agent) (n : Nat) (v : U64) : (a.sset n v).width = a.width := rfl
@[simp] theorem sset_q (a : Agent) (n : Nat) (v : U64) : (a.sset n v).q = a.q := rfl
@[simp] theorem sset_vregs (a : Agent) (n : Nat) (v : U64) : (a.sset n v).vregs = a.vregs := rfl
@[simp] theorem sset_flawed (a : Agent) (n : Nat) (v : U64) : (a.sset n v).flawed = a.flawed := rfl
@[simp] theorem sset_mregs (a : Agent) (n : Nat) (v : U64) : (a.sset n v).mregs = a.mregs := rfl
@[simp] theorem sset_kregs (a : Agent) (n : Nat) (v : U64) : (a.sset n v).kregs = a.kregs := rfl
@[simp] theorem sset_exec (a : Agent) (n : Nat) (v : U64) : (a.sset n v).exec = a.exec := rfl
@[simp] theorem sset_live (a : Agent) (n : Nat) (v : U64) : (a.sset n v).live = a.live := rfl
@[simp] theorem sset_planes (a : Agent) (n : Nat) (v : U64) : (a.sset n v).planes = a.planes := rfl
@[simp] theorem sset_region (a : Agent) (n : Nat) (v : U64) : (a.sset n v).region = a.region := rfl
@[simp] theorem sset_save (a : Agent) (n : Nat) (v : U64) : (a.sset n v).save = a.save := rfl
@[simp] theorem sset_paths (a : Agent) (n : Nat) (v : U64) : (a.sset n v).paths = a.paths := rfl
@[simp] theorem sset_nextPath (a : Agent) (n : Nat) (v : U64) : (a.sset n v).nextPath = a.nextPath := rfl
@[simp] theorem sset_gap (a : Agent) (n : Nat) (v : U64) : (a.sset n v).gap = a.gap := rfl
@[simp] theorem sset_gw (a : Agent) (n : Nat) (v : U64) : (a.sset n v).gw = a.gw := rfl
@[simp] theorem sset_lent (a : Agent) (n : Nat) (v : U64) : (a.sset n v).lent = a.lent := rfl
@[simp] theorem sset_divs (a : Agent) (n : Nat) (v : U64) : (a.sset n v).divs = a.divs := rfl
@[simp] theorem sset_calls (a : Agent) (n : Nat) (v : U64) : (a.sset n v).calls = a.calls := rfl
@[simp] theorem sset_frames (a : Agent) (n : Nat) (v : U64) : (a.sset n v).frames = a.frames := rfl
@[simp] theorem sset_wb (a : Agent) (n : Nat) (v : U64) : (a.sset n v).wb = a.wb := rfl
@[simp] theorem sset_rb (a : Agent) (n : Nat) (v : U64) : (a.sset n v).rb = a.rb := rfl
@[simp] theorem sset_spill (a : Agent) (n : Nat) (v : U64) : (a.sset n v).spill = a.spill := rfl
@[simp] theorem sset_fp (a : Agent) (n : Nat) (v : U64) : (a.sset n v).fp = a.fp := rfl
@[simp] theorem sset_prog (a : Agent) (n : Nat) (v : U64) : (a.sset n v).prog = a.prog := rfl
@[simp] theorem sset_mbatch (a : Agent) (n : Nat) (v : U64) : (a.sset n v).mbatch = a.mbatch := rfl
@[simp] theorem sset_cbatch (a : Agent) (n : Nat) (v : U64) : (a.sset n v).cbatch = a.cbatch := rfl
@[simp] theorem sset_trap (a : Agent) (n : Nat) (v : U64) : (a.sset n v).trap = a.trap := rfl
@[simp] theorem sset_trapvec (a : Agent) (n : Nat) (v : U64) : (a.sset n v).trapvec = a.trapvec := rfl
@[simp] theorem sset_pend (a : Agent) (n : Nat) (v : U64) : (a.sset n v).pend = a.pend := rfl
@[simp] theorem sset_resuming (a : Agent) (n : Nat) (v : U64) : (a.sset n v).resuming = a.resuming := rfl
@[simp] theorem sset_handler (a : Agent) (n : Nat) (v : U64) : (a.sset n v).handler = a.handler := rfl
@[simp] theorem sset_stopping (a : Agent) (n : Nat) (v : U64) : (a.sset n v).stopping = a.stopping := rfl
@[simp] theorem sset_pausing (a : Agent) (n : Nat) (v : U64) : (a.sset n v).pausing = a.pausing := rfl
@[simp] theorem sset_heldFault (a : Agent) (n : Nat) (v : U64) : (a.sset n v).heldFault = a.heldFault := rfl
@[simp] theorem sset_hits (a : Agent) (n : Nat) (v : U64) : (a.sset n v).hits = a.hits := rfl
@[simp] theorem sset_noHit (a : Agent) (n : Nat) (v : U64) : (a.sset n v).noHit = a.noHit := rfl
@[simp] theorem sset_parked (a : Agent) (n : Nat) (v : U64) : (a.sset n v).parked = a.parked := rfl
@[simp] theorem sset_nonstop (a : Agent) (n : Nat) (v : U64) : (a.sset n v).nonstop = a.nonstop := rfl
@[simp] theorem sset_yielded (a : Agent) (n : Nat) (v : U64) : (a.sset n v).yielded = a.yielded := rfl
@[simp] theorem sset_forced (a : Agent) (n : Nat) (v : U64) : (a.sset n v).forced = a.forced := rfl
@[simp] theorem sset_atBarT (a : Agent) (n : Nat) (v : U64) : (a.sset n v).atBarT = a.atBarT := rfl
@[simp] theorem sset_atBarC (a : Agent) (n : Nat) (v : U64) : (a.sset n v).atBarC = a.atBarC := rfl
@[simp] theorem sset_dropped (a : Agent) (n : Nat) (v : U64) : (a.sset n v).dropped = a.dropped := rfl
@[simp] theorem sset_engFaults (a : Agent) (n : Nat) (v : U64) : (a.sset n v).engFaults = a.engFaults := rfl
@[simp] theorem sset_latch (a : Agent) (n : Nat) (v : U64) : (a.sset n v).latch = a.latch := rfl
@[simp] theorem sset_walked (a : Agent) (n : Nat) (v : U64) : (a.sset n v).walked = a.walked := rfl
@[simp] theorem sset_seq (a : Agent) (n : Nat) (v : U64) : (a.sset n v).seq = a.seq := rfl
@[simp] theorem sset_bset (a : Agent) (n : Nat) (v : U64) : (a.sset n v).bset = a.bset := rfl
@[simp] theorem sset_ixbuf (a : Agent) (n : Nat) (v : U64) : (a.sset n v).ixbuf = a.ixbuf := rfl
@[simp] theorem sset_binding (a : Agent) (n : Nat) (v : U64) : (a.sset n v).binding = a.binding := rfl
@[simp] theorem sset_recorded (a : Agent) (n : Nat) (v : U64) : (a.sset n v).recorded = a.recorded := rfl
@[simp] theorem sset_deadline (a : Agent) (n : Nat) (v : U64) : (a.sset n v).deadline = a.deadline := rfl
@[simp] theorem sset_waits (a : Agent) (n : Nat) (v : U64) : (a.sset n v).waits = a.waits := rfl
@[simp] theorem sset_want (a : Agent) (n : Nat) (v : U64) : (a.sset n v).want = a.want := rfl
@[simp] theorem sset_ended (a : Agent) (n : Nat) (v : U64) : (a.sset n v).ended = a.ended := rfl
@[simp] theorem sset_endFault (a : Agent) (n : Nat) (v : U64) : (a.sset n v).endFault = a.endFault := rfl

-- pset

@[simp] theorem pset_id (a : Agent) (p l : Nat) (v : U32) : (a.pset p l v).id = a.id := rfl
@[simp] theorem pset_drover (a : Agent) (p l : Nat) (v : U32) : (a.pset p l v).drover = a.drover := rfl
@[simp] theorem pset_team (a : Agent) (p l : Nat) (v : U32) : (a.pset p l v).team = a.team := rfl
@[simp] theorem pset_grid (a : Agent) (p l : Nat) (v : U32) : (a.pset p l v).grid = a.grid := rfl
@[simp] theorem pset_idx (a : Agent) (p l : Nat) (v : U32) : (a.pset p l v).idx = a.idx := rfl
@[simp] theorem pset_die (a : Agent) (p l : Nat) (v : U32) : (a.pset p l v).die = a.die := rfl
@[simp] theorem pset_core (a : Agent) (p l : Nat) (v : U32) : (a.pset p l v).core = a.core := rfl
@[simp] theorem pset_sched (a : Agent) (p l : Nat) (v : U32) : (a.pset p l v).sched = a.sched := rfl
@[simp] theorem pset_slot (a : Agent) (p l : Nat) (v : U32) : (a.pset p l v).slot = a.slot := rfl
@[simp] theorem pset_width (a : Agent) (p l : Nat) (v : U32) : (a.pset p l v).width = a.width := rfl
@[simp] theorem pset_q (a : Agent) (p l : Nat) (v : U32) : (a.pset p l v).q = a.q := rfl
@[simp] theorem pset_sregs (a : Agent) (p l : Nat) (v : U32) : (a.pset p l v).sregs = a.sregs := rfl
@[simp] theorem pset_mregs (a : Agent) (p l : Nat) (v : U32) : (a.pset p l v).mregs = a.mregs := rfl
@[simp] theorem pset_kregs (a : Agent) (p l : Nat) (v : U32) : (a.pset p l v).kregs = a.kregs := rfl
@[simp] theorem pset_exec (a : Agent) (p l : Nat) (v : U32) : (a.pset p l v).exec = a.exec := rfl
@[simp] theorem pset_live (a : Agent) (p l : Nat) (v : U32) : (a.pset p l v).live = a.live := rfl
@[simp] theorem pset_planes (a : Agent) (p l : Nat) (v : U32) : (a.pset p l v).planes = a.planes := rfl
@[simp] theorem pset_region (a : Agent) (p l : Nat) (v : U32) : (a.pset p l v).region = a.region := rfl
@[simp] theorem pset_save (a : Agent) (p l : Nat) (v : U32) : (a.pset p l v).save = a.save := rfl
@[simp] theorem pset_paths (a : Agent) (p l : Nat) (v : U32) : (a.pset p l v).paths = a.paths := rfl
@[simp] theorem pset_nextPath (a : Agent) (p l : Nat) (v : U32) : (a.pset p l v).nextPath = a.nextPath := rfl
@[simp] theorem pset_gap (a : Agent) (p l : Nat) (v : U32) : (a.pset p l v).gap = a.gap := rfl
@[simp] theorem pset_gw (a : Agent) (p l : Nat) (v : U32) : (a.pset p l v).gw = a.gw := rfl
@[simp] theorem pset_lent (a : Agent) (p l : Nat) (v : U32) : (a.pset p l v).lent = a.lent := rfl
@[simp] theorem pset_divs (a : Agent) (p l : Nat) (v : U32) : (a.pset p l v).divs = a.divs := rfl
@[simp] theorem pset_calls (a : Agent) (p l : Nat) (v : U32) : (a.pset p l v).calls = a.calls := rfl
@[simp] theorem pset_frames (a : Agent) (p l : Nat) (v : U32) : (a.pset p l v).frames = a.frames := rfl
@[simp] theorem pset_wb (a : Agent) (p l : Nat) (v : U32) : (a.pset p l v).wb = a.wb := rfl
@[simp] theorem pset_rb (a : Agent) (p l : Nat) (v : U32) : (a.pset p l v).rb = a.rb := rfl
@[simp] theorem pset_spill (a : Agent) (p l : Nat) (v : U32) : (a.pset p l v).spill = a.spill := rfl
@[simp] theorem pset_fp (a : Agent) (p l : Nat) (v : U32) : (a.pset p l v).fp = a.fp := rfl
@[simp] theorem pset_prog (a : Agent) (p l : Nat) (v : U32) : (a.pset p l v).prog = a.prog := rfl
@[simp] theorem pset_mbatch (a : Agent) (p l : Nat) (v : U32) : (a.pset p l v).mbatch = a.mbatch := rfl
@[simp] theorem pset_cbatch (a : Agent) (p l : Nat) (v : U32) : (a.pset p l v).cbatch = a.cbatch := rfl
@[simp] theorem pset_trap (a : Agent) (p l : Nat) (v : U32) : (a.pset p l v).trap = a.trap := rfl
@[simp] theorem pset_trapvec (a : Agent) (p l : Nat) (v : U32) : (a.pset p l v).trapvec = a.trapvec := rfl
@[simp] theorem pset_pend (a : Agent) (p l : Nat) (v : U32) : (a.pset p l v).pend = a.pend := rfl
@[simp] theorem pset_resuming (a : Agent) (p l : Nat) (v : U32) : (a.pset p l v).resuming = a.resuming := rfl
@[simp] theorem pset_handler (a : Agent) (p l : Nat) (v : U32) : (a.pset p l v).handler = a.handler := rfl
@[simp] theorem pset_stopping (a : Agent) (p l : Nat) (v : U32) : (a.pset p l v).stopping = a.stopping := rfl
@[simp] theorem pset_pausing (a : Agent) (p l : Nat) (v : U32) : (a.pset p l v).pausing = a.pausing := rfl
@[simp] theorem pset_heldFault (a : Agent) (p l : Nat) (v : U32) : (a.pset p l v).heldFault = a.heldFault := rfl
@[simp] theorem pset_hits (a : Agent) (p l : Nat) (v : U32) : (a.pset p l v).hits = a.hits := rfl
@[simp] theorem pset_noHit (a : Agent) (p l : Nat) (v : U32) : (a.pset p l v).noHit = a.noHit := rfl
@[simp] theorem pset_parked (a : Agent) (p l : Nat) (v : U32) : (a.pset p l v).parked = a.parked := rfl
@[simp] theorem pset_nonstop (a : Agent) (p l : Nat) (v : U32) : (a.pset p l v).nonstop = a.nonstop := rfl
@[simp] theorem pset_yielded (a : Agent) (p l : Nat) (v : U32) : (a.pset p l v).yielded = a.yielded := rfl
@[simp] theorem pset_forced (a : Agent) (p l : Nat) (v : U32) : (a.pset p l v).forced = a.forced := rfl
@[simp] theorem pset_atBarT (a : Agent) (p l : Nat) (v : U32) : (a.pset p l v).atBarT = a.atBarT := rfl
@[simp] theorem pset_atBarC (a : Agent) (p l : Nat) (v : U32) : (a.pset p l v).atBarC = a.atBarC := rfl
@[simp] theorem pset_dropped (a : Agent) (p l : Nat) (v : U32) : (a.pset p l v).dropped = a.dropped := rfl
@[simp] theorem pset_engFaults (a : Agent) (p l : Nat) (v : U32) : (a.pset p l v).engFaults = a.engFaults := rfl
@[simp] theorem pset_latch (a : Agent) (p l : Nat) (v : U32) : (a.pset p l v).latch = a.latch := rfl
@[simp] theorem pset_walked (a : Agent) (p l : Nat) (v : U32) : (a.pset p l v).walked = a.walked := rfl
@[simp] theorem pset_seq (a : Agent) (p l : Nat) (v : U32) : (a.pset p l v).seq = a.seq := rfl
@[simp] theorem pset_bset (a : Agent) (p l : Nat) (v : U32) : (a.pset p l v).bset = a.bset := rfl
@[simp] theorem pset_ixbuf (a : Agent) (p l : Nat) (v : U32) : (a.pset p l v).ixbuf = a.ixbuf := rfl
@[simp] theorem pset_binding (a : Agent) (p l : Nat) (v : U32) : (a.pset p l v).binding = a.binding := rfl
@[simp] theorem pset_recorded (a : Agent) (p l : Nat) (v : U32) : (a.pset p l v).recorded = a.recorded := rfl
@[simp] theorem pset_deadline (a : Agent) (p l : Nat) (v : U32) : (a.pset p l v).deadline = a.deadline := rfl
@[simp] theorem pset_waits (a : Agent) (p l : Nat) (v : U32) : (a.pset p l v).waits = a.waits := rfl
@[simp] theorem pset_want (a : Agent) (p l : Nat) (v : U32) : (a.pset p l v).want = a.want := rfl
@[simp] theorem pset_ended (a : Agent) (p l : Nat) (v : U32) : (a.pset p l v).ended = a.ended := rfl
@[simp] theorem pset_endFault (a : Agent) (p l : Nat) (v : U32) : (a.pset p l v).endFault = a.endFault := rfl

-- kset

@[simp] theorem kset_id (a : Agent) (n : Nat) (v : BitVec 512) : (a.kset n v).id = a.id := rfl
@[simp] theorem kset_drover (a : Agent) (n : Nat) (v : BitVec 512) : (a.kset n v).drover = a.drover := rfl
@[simp] theorem kset_team (a : Agent) (n : Nat) (v : BitVec 512) : (a.kset n v).team = a.team := rfl
@[simp] theorem kset_grid (a : Agent) (n : Nat) (v : BitVec 512) : (a.kset n v).grid = a.grid := rfl
@[simp] theorem kset_idx (a : Agent) (n : Nat) (v : BitVec 512) : (a.kset n v).idx = a.idx := rfl
@[simp] theorem kset_die (a : Agent) (n : Nat) (v : BitVec 512) : (a.kset n v).die = a.die := rfl
@[simp] theorem kset_core (a : Agent) (n : Nat) (v : BitVec 512) : (a.kset n v).core = a.core := rfl
@[simp] theorem kset_sched (a : Agent) (n : Nat) (v : BitVec 512) : (a.kset n v).sched = a.sched := rfl
@[simp] theorem kset_slot (a : Agent) (n : Nat) (v : BitVec 512) : (a.kset n v).slot = a.slot := rfl
@[simp] theorem kset_width (a : Agent) (n : Nat) (v : BitVec 512) : (a.kset n v).width = a.width := rfl
@[simp] theorem kset_q (a : Agent) (n : Nat) (v : BitVec 512) : (a.kset n v).q = a.q := rfl
@[simp] theorem kset_sregs (a : Agent) (n : Nat) (v : BitVec 512) : (a.kset n v).sregs = a.sregs := rfl
@[simp] theorem kset_vregs (a : Agent) (n : Nat) (v : BitVec 512) : (a.kset n v).vregs = a.vregs := rfl
@[simp] theorem kset_flawed (a : Agent) (n : Nat) (v : BitVec 512) : (a.kset n v).flawed = a.flawed := rfl
@[simp] theorem kset_mregs (a : Agent) (n : Nat) (v : BitVec 512) : (a.kset n v).mregs = a.mregs := rfl
@[simp] theorem kset_exec (a : Agent) (n : Nat) (v : BitVec 512) : (a.kset n v).exec = a.exec := rfl
@[simp] theorem kset_live (a : Agent) (n : Nat) (v : BitVec 512) : (a.kset n v).live = a.live := rfl
@[simp] theorem kset_planes (a : Agent) (n : Nat) (v : BitVec 512) : (a.kset n v).planes = a.planes := rfl
@[simp] theorem kset_region (a : Agent) (n : Nat) (v : BitVec 512) : (a.kset n v).region = a.region := rfl
@[simp] theorem kset_save (a : Agent) (n : Nat) (v : BitVec 512) : (a.kset n v).save = a.save := rfl
@[simp] theorem kset_paths (a : Agent) (n : Nat) (v : BitVec 512) : (a.kset n v).paths = a.paths := rfl
@[simp] theorem kset_nextPath (a : Agent) (n : Nat) (v : BitVec 512) : (a.kset n v).nextPath = a.nextPath := rfl
@[simp] theorem kset_gap (a : Agent) (n : Nat) (v : BitVec 512) : (a.kset n v).gap = a.gap := rfl
@[simp] theorem kset_gw (a : Agent) (n : Nat) (v : BitVec 512) : (a.kset n v).gw = a.gw := rfl
@[simp] theorem kset_lent (a : Agent) (n : Nat) (v : BitVec 512) : (a.kset n v).lent = a.lent := rfl
@[simp] theorem kset_divs (a : Agent) (n : Nat) (v : BitVec 512) : (a.kset n v).divs = a.divs := rfl
@[simp] theorem kset_calls (a : Agent) (n : Nat) (v : BitVec 512) : (a.kset n v).calls = a.calls := rfl
@[simp] theorem kset_frames (a : Agent) (n : Nat) (v : BitVec 512) : (a.kset n v).frames = a.frames := rfl
@[simp] theorem kset_wb (a : Agent) (n : Nat) (v : BitVec 512) : (a.kset n v).wb = a.wb := rfl
@[simp] theorem kset_rb (a : Agent) (n : Nat) (v : BitVec 512) : (a.kset n v).rb = a.rb := rfl
@[simp] theorem kset_spill (a : Agent) (n : Nat) (v : BitVec 512) : (a.kset n v).spill = a.spill := rfl
@[simp] theorem kset_fp (a : Agent) (n : Nat) (v : BitVec 512) : (a.kset n v).fp = a.fp := rfl
@[simp] theorem kset_prog (a : Agent) (n : Nat) (v : BitVec 512) : (a.kset n v).prog = a.prog := rfl
@[simp] theorem kset_mbatch (a : Agent) (n : Nat) (v : BitVec 512) : (a.kset n v).mbatch = a.mbatch := rfl
@[simp] theorem kset_cbatch (a : Agent) (n : Nat) (v : BitVec 512) : (a.kset n v).cbatch = a.cbatch := rfl
@[simp] theorem kset_trap (a : Agent) (n : Nat) (v : BitVec 512) : (a.kset n v).trap = a.trap := rfl
@[simp] theorem kset_trapvec (a : Agent) (n : Nat) (v : BitVec 512) : (a.kset n v).trapvec = a.trapvec := rfl
@[simp] theorem kset_pend (a : Agent) (n : Nat) (v : BitVec 512) : (a.kset n v).pend = a.pend := rfl
@[simp] theorem kset_resuming (a : Agent) (n : Nat) (v : BitVec 512) : (a.kset n v).resuming = a.resuming := rfl
@[simp] theorem kset_handler (a : Agent) (n : Nat) (v : BitVec 512) : (a.kset n v).handler = a.handler := rfl
@[simp] theorem kset_stopping (a : Agent) (n : Nat) (v : BitVec 512) : (a.kset n v).stopping = a.stopping := rfl
@[simp] theorem kset_pausing (a : Agent) (n : Nat) (v : BitVec 512) : (a.kset n v).pausing = a.pausing := rfl
@[simp] theorem kset_heldFault (a : Agent) (n : Nat) (v : BitVec 512) : (a.kset n v).heldFault = a.heldFault := rfl
@[simp] theorem kset_hits (a : Agent) (n : Nat) (v : BitVec 512) : (a.kset n v).hits = a.hits := rfl
@[simp] theorem kset_noHit (a : Agent) (n : Nat) (v : BitVec 512) : (a.kset n v).noHit = a.noHit := rfl
@[simp] theorem kset_parked (a : Agent) (n : Nat) (v : BitVec 512) : (a.kset n v).parked = a.parked := rfl
@[simp] theorem kset_nonstop (a : Agent) (n : Nat) (v : BitVec 512) : (a.kset n v).nonstop = a.nonstop := rfl
@[simp] theorem kset_yielded (a : Agent) (n : Nat) (v : BitVec 512) : (a.kset n v).yielded = a.yielded := rfl
@[simp] theorem kset_forced (a : Agent) (n : Nat) (v : BitVec 512) : (a.kset n v).forced = a.forced := rfl
@[simp] theorem kset_atBarT (a : Agent) (n : Nat) (v : BitVec 512) : (a.kset n v).atBarT = a.atBarT := rfl
@[simp] theorem kset_atBarC (a : Agent) (n : Nat) (v : BitVec 512) : (a.kset n v).atBarC = a.atBarC := rfl
@[simp] theorem kset_dropped (a : Agent) (n : Nat) (v : BitVec 512) : (a.kset n v).dropped = a.dropped := rfl
@[simp] theorem kset_engFaults (a : Agent) (n : Nat) (v : BitVec 512) : (a.kset n v).engFaults = a.engFaults := rfl
@[simp] theorem kset_latch (a : Agent) (n : Nat) (v : BitVec 512) : (a.kset n v).latch = a.latch := rfl
@[simp] theorem kset_walked (a : Agent) (n : Nat) (v : BitVec 512) : (a.kset n v).walked = a.walked := rfl
@[simp] theorem kset_seq (a : Agent) (n : Nat) (v : BitVec 512) : (a.kset n v).seq = a.seq := rfl
@[simp] theorem kset_bset (a : Agent) (n : Nat) (v : BitVec 512) : (a.kset n v).bset = a.bset := rfl
@[simp] theorem kset_ixbuf (a : Agent) (n : Nat) (v : BitVec 512) : (a.kset n v).ixbuf = a.ixbuf := rfl
@[simp] theorem kset_binding (a : Agent) (n : Nat) (v : BitVec 512) : (a.kset n v).binding = a.binding := rfl
@[simp] theorem kset_recorded (a : Agent) (n : Nat) (v : BitVec 512) : (a.kset n v).recorded = a.recorded := rfl
@[simp] theorem kset_deadline (a : Agent) (n : Nat) (v : BitVec 512) : (a.kset n v).deadline = a.deadline := rfl
@[simp] theorem kset_waits (a : Agent) (n : Nat) (v : BitVec 512) : (a.kset n v).waits = a.waits := rfl
@[simp] theorem kset_want (a : Agent) (n : Nat) (v : BitVec 512) : (a.kset n v).want = a.want := rfl
@[simp] theorem kset_ended (a : Agent) (n : Nat) (v : BitVec 512) : (a.kset n v).ended = a.ended := rfl
@[simp] theorem kset_endFault (a : Agent) (n : Nat) (v : BitVec 512) : (a.kset n v).endFault = a.endFault := rfl

-- mset: m0 is never written

@[simp] theorem mset_id (a : Agent) (n : Nat) (m v : U64) : (a.mset n m v).id = a.id := by unfold Agent.mset; split <;> rfl
@[simp] theorem mset_drover (a : Agent) (n : Nat) (m v : U64) : (a.mset n m v).drover = a.drover := by unfold Agent.mset; split <;> rfl
@[simp] theorem mset_team (a : Agent) (n : Nat) (m v : U64) : (a.mset n m v).team = a.team := by unfold Agent.mset; split <;> rfl
@[simp] theorem mset_grid (a : Agent) (n : Nat) (m v : U64) : (a.mset n m v).grid = a.grid := by unfold Agent.mset; split <;> rfl
@[simp] theorem mset_idx (a : Agent) (n : Nat) (m v : U64) : (a.mset n m v).idx = a.idx := by unfold Agent.mset; split <;> rfl
@[simp] theorem mset_die (a : Agent) (n : Nat) (m v : U64) : (a.mset n m v).die = a.die := by unfold Agent.mset; split <;> rfl
@[simp] theorem mset_core (a : Agent) (n : Nat) (m v : U64) : (a.mset n m v).core = a.core := by unfold Agent.mset; split <;> rfl
@[simp] theorem mset_sched (a : Agent) (n : Nat) (m v : U64) : (a.mset n m v).sched = a.sched := by unfold Agent.mset; split <;> rfl
@[simp] theorem mset_slot (a : Agent) (n : Nat) (m v : U64) : (a.mset n m v).slot = a.slot := by unfold Agent.mset; split <;> rfl
@[simp] theorem mset_width (a : Agent) (n : Nat) (m v : U64) : (a.mset n m v).width = a.width := by unfold Agent.mset; split <;> rfl
@[simp] theorem mset_q (a : Agent) (n : Nat) (m v : U64) : (a.mset n m v).q = a.q := by unfold Agent.mset; split <;> rfl
@[simp] theorem mset_sregs (a : Agent) (n : Nat) (m v : U64) : (a.mset n m v).sregs = a.sregs := by unfold Agent.mset; split <;> rfl
@[simp] theorem mset_vregs (a : Agent) (n : Nat) (m v : U64) : (a.mset n m v).vregs = a.vregs := by unfold Agent.mset; split <;> rfl
@[simp] theorem mset_flawed (a : Agent) (n : Nat) (m v : U64) : (a.mset n m v).flawed = a.flawed := by unfold Agent.mset; split <;> rfl
@[simp] theorem mset_kregs (a : Agent) (n : Nat) (m v : U64) : (a.mset n m v).kregs = a.kregs := by unfold Agent.mset; split <;> rfl
@[simp] theorem mset_exec (a : Agent) (n : Nat) (m v : U64) : (a.mset n m v).exec = a.exec := by unfold Agent.mset; split <;> rfl
@[simp] theorem mset_live (a : Agent) (n : Nat) (m v : U64) : (a.mset n m v).live = a.live := by unfold Agent.mset; split <;> rfl
@[simp] theorem mset_planes (a : Agent) (n : Nat) (m v : U64) : (a.mset n m v).planes = a.planes := by unfold Agent.mset; split <;> rfl
@[simp] theorem mset_region (a : Agent) (n : Nat) (m v : U64) : (a.mset n m v).region = a.region := by unfold Agent.mset; split <;> rfl
@[simp] theorem mset_save (a : Agent) (n : Nat) (m v : U64) : (a.mset n m v).save = a.save := by unfold Agent.mset; split <;> rfl
@[simp] theorem mset_paths (a : Agent) (n : Nat) (m v : U64) : (a.mset n m v).paths = a.paths := by unfold Agent.mset; split <;> rfl
@[simp] theorem mset_nextPath (a : Agent) (n : Nat) (m v : U64) : (a.mset n m v).nextPath = a.nextPath := by unfold Agent.mset; split <;> rfl
@[simp] theorem mset_gap (a : Agent) (n : Nat) (m v : U64) : (a.mset n m v).gap = a.gap := by unfold Agent.mset; split <;> rfl
@[simp] theorem mset_gw (a : Agent) (n : Nat) (m v : U64) : (a.mset n m v).gw = a.gw := by unfold Agent.mset; split <;> rfl
@[simp] theorem mset_lent (a : Agent) (n : Nat) (m v : U64) : (a.mset n m v).lent = a.lent := by unfold Agent.mset; split <;> rfl
@[simp] theorem mset_divs (a : Agent) (n : Nat) (m v : U64) : (a.mset n m v).divs = a.divs := by unfold Agent.mset; split <;> rfl
@[simp] theorem mset_calls (a : Agent) (n : Nat) (m v : U64) : (a.mset n m v).calls = a.calls := by unfold Agent.mset; split <;> rfl
@[simp] theorem mset_frames (a : Agent) (n : Nat) (m v : U64) : (a.mset n m v).frames = a.frames := by unfold Agent.mset; split <;> rfl
@[simp] theorem mset_wb (a : Agent) (n : Nat) (m v : U64) : (a.mset n m v).wb = a.wb := by unfold Agent.mset; split <;> rfl
@[simp] theorem mset_rb (a : Agent) (n : Nat) (m v : U64) : (a.mset n m v).rb = a.rb := by unfold Agent.mset; split <;> rfl
@[simp] theorem mset_spill (a : Agent) (n : Nat) (m v : U64) : (a.mset n m v).spill = a.spill := by unfold Agent.mset; split <;> rfl
@[simp] theorem mset_fp (a : Agent) (n : Nat) (m v : U64) : (a.mset n m v).fp = a.fp := by unfold Agent.mset; split <;> rfl
@[simp] theorem mset_prog (a : Agent) (n : Nat) (m v : U64) : (a.mset n m v).prog = a.prog := by unfold Agent.mset; split <;> rfl
@[simp] theorem mset_mbatch (a : Agent) (n : Nat) (m v : U64) : (a.mset n m v).mbatch = a.mbatch := by unfold Agent.mset; split <;> rfl
@[simp] theorem mset_cbatch (a : Agent) (n : Nat) (m v : U64) : (a.mset n m v).cbatch = a.cbatch := by unfold Agent.mset; split <;> rfl
@[simp] theorem mset_trap (a : Agent) (n : Nat) (m v : U64) : (a.mset n m v).trap = a.trap := by unfold Agent.mset; split <;> rfl
@[simp] theorem mset_trapvec (a : Agent) (n : Nat) (m v : U64) : (a.mset n m v).trapvec = a.trapvec := by unfold Agent.mset; split <;> rfl
@[simp] theorem mset_pend (a : Agent) (n : Nat) (m v : U64) : (a.mset n m v).pend = a.pend := by unfold Agent.mset; split <;> rfl
@[simp] theorem mset_resuming (a : Agent) (n : Nat) (m v : U64) : (a.mset n m v).resuming = a.resuming := by unfold Agent.mset; split <;> rfl
@[simp] theorem mset_handler (a : Agent) (n : Nat) (m v : U64) : (a.mset n m v).handler = a.handler := by unfold Agent.mset; split <;> rfl
@[simp] theorem mset_stopping (a : Agent) (n : Nat) (m v : U64) : (a.mset n m v).stopping = a.stopping := by unfold Agent.mset; split <;> rfl
@[simp] theorem mset_pausing (a : Agent) (n : Nat) (m v : U64) : (a.mset n m v).pausing = a.pausing := by unfold Agent.mset; split <;> rfl
@[simp] theorem mset_heldFault (a : Agent) (n : Nat) (m v : U64) : (a.mset n m v).heldFault = a.heldFault := by unfold Agent.mset; split <;> rfl
@[simp] theorem mset_hits (a : Agent) (n : Nat) (m v : U64) : (a.mset n m v).hits = a.hits := by unfold Agent.mset; split <;> rfl
@[simp] theorem mset_noHit (a : Agent) (n : Nat) (m v : U64) : (a.mset n m v).noHit = a.noHit := by unfold Agent.mset; split <;> rfl
@[simp] theorem mset_parked (a : Agent) (n : Nat) (m v : U64) : (a.mset n m v).parked = a.parked := by unfold Agent.mset; split <;> rfl
@[simp] theorem mset_nonstop (a : Agent) (n : Nat) (m v : U64) : (a.mset n m v).nonstop = a.nonstop := by unfold Agent.mset; split <;> rfl
@[simp] theorem mset_yielded (a : Agent) (n : Nat) (m v : U64) : (a.mset n m v).yielded = a.yielded := by unfold Agent.mset; split <;> rfl
@[simp] theorem mset_forced (a : Agent) (n : Nat) (m v : U64) : (a.mset n m v).forced = a.forced := by unfold Agent.mset; split <;> rfl
@[simp] theorem mset_atBarT (a : Agent) (n : Nat) (m v : U64) : (a.mset n m v).atBarT = a.atBarT := by unfold Agent.mset; split <;> rfl
@[simp] theorem mset_atBarC (a : Agent) (n : Nat) (m v : U64) : (a.mset n m v).atBarC = a.atBarC := by unfold Agent.mset; split <;> rfl
@[simp] theorem mset_dropped (a : Agent) (n : Nat) (m v : U64) : (a.mset n m v).dropped = a.dropped := by unfold Agent.mset; split <;> rfl
@[simp] theorem mset_engFaults (a : Agent) (n : Nat) (m v : U64) : (a.mset n m v).engFaults = a.engFaults := by unfold Agent.mset; split <;> rfl
@[simp] theorem mset_latch (a : Agent) (n : Nat) (m v : U64) : (a.mset n m v).latch = a.latch := by unfold Agent.mset; split <;> rfl
@[simp] theorem mset_walked (a : Agent) (n : Nat) (m v : U64) : (a.mset n m v).walked = a.walked := by unfold Agent.mset; split <;> rfl
@[simp] theorem mset_seq (a : Agent) (n : Nat) (m v : U64) : (a.mset n m v).seq = a.seq := by unfold Agent.mset; split <;> rfl
@[simp] theorem mset_bset (a : Agent) (n : Nat) (m v : U64) : (a.mset n m v).bset = a.bset := by unfold Agent.mset; split <;> rfl
@[simp] theorem mset_ixbuf (a : Agent) (n : Nat) (m v : U64) : (a.mset n m v).ixbuf = a.ixbuf := by unfold Agent.mset; split <;> rfl
@[simp] theorem mset_binding (a : Agent) (n : Nat) (m v : U64) : (a.mset n m v).binding = a.binding := by unfold Agent.mset; split <;> rfl
@[simp] theorem mset_recorded (a : Agent) (n : Nat) (m v : U64) : (a.mset n m v).recorded = a.recorded := by unfold Agent.mset; split <;> rfl
@[simp] theorem mset_deadline (a : Agent) (n : Nat) (m v : U64) : (a.mset n m v).deadline = a.deadline := by unfold Agent.mset; split <;> rfl
@[simp] theorem mset_waits (a : Agent) (n : Nat) (m v : U64) : (a.mset n m v).waits = a.waits := by unfold Agent.mset; split <;> rfl
@[simp] theorem mset_want (a : Agent) (n : Nat) (m v : U64) : (a.mset n m v).want = a.want := by unfold Agent.mset; split <;> rfl
@[simp] theorem mset_ended (a : Agent) (n : Nat) (m v : U64) : (a.mset n m v).ended = a.ended := by unfold Agent.mset; split <;> rfl
@[simp] theorem mset_endFault (a : Agent) (n : Nat) (m v : U64) : (a.mset n m v).endFault = a.endFault := by unfold Agent.mset; split <;> rfl

-- What reads as written.

@[simp] theorem reg_setReg_self (s : State) (o : Nat) (v : U64) : (s.setReg o v).reg o = v := SMap.get_set_self _ _ _ _
theorem reg_setReg_other (s : State) (o p : Nat) (v : U64) (h : p ≠ o) : (s.setReg o v).reg p = s.reg p := SMap.get_set_other _ _ _ _ _ _ h
@[simp] theorem reg_count_self (s : State) (o n : Nat) : (s.count o n).reg o = s.reg o + BitVec.ofNat 64 n := reg_setReg_self _ _ _
theorem reg_count_other (s : State) (o n p : Nat) (h : p ≠ o) : (s.count o n).reg p = s.reg p := reg_setReg_other _ _ _ _ h
@[simp] theorem core_setCore_self (s : State) (c : Nat) (x : CoreState) : (s.setCore c x).core c = x := SMap.get_set_self _ _ _ _
theorem core_setCore_other (s : State) (c e : Nat) (x : CoreState) (h : e ≠ c) : (s.setCore c x).core e = s.core e := SMap.get_set_other _ _ _ _ _ _ h
@[simp] theorem die_setDie_self (s : State) (d : Nat) (x : DieState) : (s.setDie d x).die d = x := SMap.get_set_self _ _ _ _
theorem die_setDie_other (s : State) (d e : Nat) (x : DieState) (h : e ≠ d) : (s.setDie d x).die e = s.die e := SMap.get_set_other _ _ _ _ _ _ h
@[simp] theorem kget_kset_self (a : Agent) (n : Nat) (v : BitVec 512) : (a.kset n v).kget n = v := SMap.get_set_self _ _ _ _
theorem kget_kset_other (a : Agent) (n m : Nat) (v : BitVec 512) (h : m ≠ n) : (a.kset n v).kget m = a.kget m := SMap.get_set_other _ _ _ _ _ _ h
/-- m0 reads all ones, whatever is written (R204). -/
@[simp] theorem mget_zero (a : Agent) : a.mget 0 = BitVec.allOnes 64 := rfl
theorem mget_mset_self (a : Agent) (n : Nat) (m v : U64) (h : n ≠ 0) :
    (a.mset n m v).mget n = ((a.mget n &&& ~~~m) ||| (v &&& m)) &&& lowMask a.width := by
  unfold Agent.mset Agent.mget; simp [h]
theorem mget_mset_other (a : Agent) (n k : Nat) (m v : U64) (h : k ≠ n) : (a.mset n m v).mget k = a.mget k := by
  unfold Agent.mset
  split
  · rfl
  · unfold Agent.mget; split
    · rfl
    · exact SMap.get_set_other _ _ _ _ _ _ h

-- Teams, grids and agents are found by their names.

theorem find_updFirst_self {α : Type} (p : α → Bool) (f : α → α) (l : List α) (x : α) (h : l.find? p = some x) (k : p (f x) = true) :
    (updFirst p f l).find? p = some (f x) := by
  induction l with
  | nil => cases h
  | cons y r ih =>
    by_cases hy : p y = true
    · have : y = x := by simpa [List.find?, hy] using h
      subst this; simp [updFirst, hy, k]
    · have hr : r.find? p = some x := by simpa [List.find?, hy] using h
      simp [updFirst, hy, ih hr]
theorem find_updFirst_other {α : Type} (p q : α → Bool) (f : α → α) (l : List α) (h : ∀ x, p x = true → q x = false ∧ q (f x) = false) :
    (updFirst p f l).find? q = l.find? q := by
  induction l with
  | nil => rfl
  | cons y r ih =>
    by_cases hy : p y = true
    · have := h y hy; simp [updFirst, hy, this.1, this.2]
    · simp [updFirst, hy, List.find?, ih]
theorem team_setTeam_self (s : State) (x : Team) (h : s.teams.any (·.id == x.id) = true) : (s.setTeam x).team x.id = x := by
  obtain ⟨y, hy⟩ := Option.isSome_iff_exists.mp (by simpa using h : (s.teams.find? (·.id == x.id)).isSome = true)
  unfold State.team State.setTeam
  rw [find_updFirst_self _ _ _ y hy (by simp)]; rfl
theorem team_setTeam_other (s : State) (x : Team) (i : Nat) (h : i ≠ x.id) : (s.setTeam x).team i = s.team i := by
  unfold State.team State.setTeam
  rw [find_updFirst_other]
  intro y hy
  have : y.id = x.id := by simpa using hy
  simp [this, Ne.symm h]
theorem grid_setGrid_self (s : State) (x : Grid) (h : s.grids.any (·.id == x.id) = true) : (s.setGrid x).grid x.id = x := by
  obtain ⟨y, hy⟩ := Option.isSome_iff_exists.mp (by simpa using h : (s.grids.find? (·.id == x.id)).isSome = true)
  unfold State.grid State.setGrid
  rw [find_updFirst_self _ _ _ y hy (by simp)]; rfl
theorem grid_setGrid_other (s : State) (x : Grid) (i : Nat) (h : i ≠ x.id) : (s.setGrid x).grid i = s.grid i := by
  unfold State.grid State.setGrid
  rw [find_updFirst_other]
  intro y hy
  have : y.id = x.id := by simpa using hy
  simp [this, Ne.symm h]

/-- An interrupt sets its bit of HINTST, and of the rest of the system it can only queue an MSI-X message (R463). -/
theorem interrupt_bar (s : State) (n : Nat) : (s.interrupt n).bar = (s.setReg rHintst (s.reg rHintst ||| lane n)).bar := by
  unfold State.interrupt; dsimp only; split <;> rfl
theorem interrupt_sys (s : State) (n : Nat) : (s.interrupt n).sys = { s.sys with msix := (s.interrupt n).sys.msix } := by
  unfold State.interrupt; dsimp only; split <;> rfl

end Sys2Proof.Machine
end

