-- ==== Sys2Proof/Laws/Memory.lean ====
section
/-!
SUPPORT. Memory: what a byte reads as after each operation that writes, and the canonical form, which every one of them keeps and which
the state after reset has.
-/
namespace Sys2Proof.Machine

-- Bytes put into a map.

theorem putBytes_wf (bs : List Byte) (a : Nat) (m : SMap Byte) (h : Memory.wf m = true) : Memory.wf (putBytes a bs m) = true := by
  induction bs generalizing a m with
  | nil => exact h
  | cons b r ih => exact ih _ _ (SMap.wf_set 0 m a b h)
theorem get_putBytes_other (bs : List Byte) (a y : Nat) (m : SMap Byte) (h : y < a ∨ a + bs.length ≤ y) :
    SMap.get 0 (putBytes a bs m) y = SMap.get 0 m y := by
  induction bs generalizing a m with
  | nil => rfl
  | cons b r ih =>
    simp only [List.length_cons] at h
    rw [putBytes, ih _ _ (by omega), SMap.get_set_other]
    omega
theorem get_putBytes_self (bs : List Byte) (a i : Nat) (m : SMap Byte) (h : i < bs.length) :
    SMap.get 0 (putBytes a bs m) (a + i) = bs[i] := by
  induction bs generalizing a i m with
  | nil => simp at h
  | cons b r ih =>
    cases i with
    | zero => rw [putBytes, get_putBytes_other _ _ _ _ (by omega)]; simp
    | succ i =>
      rw [putBytes, show a + (i + 1) = a + 1 + i by omega, ih (a + 1) i _ (by simpa using h)]; simp

-- Writes of the module's memory.

@[simp] theorem keepDram_mem (a n : Nat) (s : State) : (keepDram a n s).mem = s.mem := rfl
@[simp] theorem keepDram_g (a n : Nat) (s : State) : (keepDram a n s).g = s.g := rfl
theorem writeMem_mem (s : State) (a : Nat) (bs : List Byte) : (s.writeMem a bs).mem = putBytes a bs s.mem := by
  unfold State.writeMem
  split
  · rename_i h; rw [List.isEmpty_iff.mp h]; rfl
  · simp only; split <;> simp
@[simp] theorem writeMem_g (s : State) (a : Nat) (bs : List Byte) : (s.writeMem a bs).g = s.g := by
  unfold State.writeMem
  split
  · rfl
  · simp only; split <;> simp
theorem writeMem_wf (s : State) (a : Nat) (bs : List Byte) (h : s.Canonical) : (s.writeMem a bs).Canonical := by
  unfold State.Canonical at *; rw [writeMem_mem]; exact putBytes_wf _ _ _ h
/-- A byte that a write covers reads as written. -/
theorem getByte_writeMem_self (s : State) (a i : Nat) (bs : List Byte) (h : i < bs.length) : (s.writeMem a bs).getByte (a + i) = bs[i] := by
  unfold State.getByte; rw [writeMem_mem]; exact get_putBytes_self _ _ _ _ h
/-- Every other byte reads as before. -/
theorem getByte_writeMem_other (s : State) (a y : Nat) (bs : List Byte) (h : y < a ∨ a + bs.length ≤ y) :
    (s.writeMem a bs).getByte y = s.getByte y := by
  unfold State.getByte; rw [writeMem_mem]; exact get_putBytes_other _ _ _ _ h

theorem logError_mem (d pa : Nat) (k c : BitVec 4) (n : BitVec 7) (s : State) : (logError d pa k c n s).mem = s.mem := by
  rw [logError_only d pa k c n s]
theorem logOwn_mem (d a : Nat) (k c : BitVec 4) (n : BitVec 7) (s : State) : (logOwn d a k c n s).mem = s.mem := by
  rw [logOwn_only d a k c n s]
/-- A committed write is performed, or dropped with memory as it was. -/
theorem commit_mem (a : Nat) (bs : List Byte) (n : BitVec 7) (s : State) :
    ((commit a bs n s).2 = true ∧ (commit a bs n s).1.mem = s.mem) ∨
    ((commit a bs n s).2 = false ∧ (commit a bs n s).1.mem = putBytes a bs s.mem) := by
  unfold commit
  simp only
  split
  · exact .inl ⟨rfl, logOwn_mem _ _ _ _ _ _⟩
  · exact .inr ⟨rfl, writeMem_mem _ _ _⟩
theorem commit_wf (a : Nat) (bs : List Byte) (n : BitVec 7) (s : State) (h : s.Canonical) : (commit a bs n s).1.Canonical := by
  unfold State.Canonical at *
  cases commit_mem a bs n s with
  | inl x => rw [x.2]; exact h
  | inr x => rw [x.2]; exact putBytes_wf _ _ _ h
theorem zeroFill_wf (a n : Nat) (s : State) (h : s.Canonical) : (zeroFill a n s).Canonical := by
  unfold State.Canonical zeroFill Memory.wf at *
  simp only [touch_mem]
  exact SMap.wf_filter 0 _ _ h
theorem get_filter_keep (p : Nat → Bool) (m : SMap Byte) (y : Nat) :
    SMap.get 0 (m.filter fun e => p e.1) y = if p y then SMap.get 0 m y else 0 := by
  induction m with
  | nil => simp [SMap.get]
  | cons e r ih =>
    obtain ⟨k, v⟩ := e
    by_cases hk : p k = true
    · rw [List.filter_cons_of_pos (by simpa using hk)]
      by_cases hy : k = y
      · subst hy; simp [SMap.get, hk]
      · simpa [SMap.get, hy] using ih
    · rw [List.filter_cons_of_neg (by simpa using hk), ih]
      by_cases hy : k = y
      · subst hy; simp [hk]
      · simp [SMap.get, hy]
/-- Filled bytes read 0, and every other byte as before. -/
theorem getByte_zeroFill (a n y : Nat) (s : State) :
    (zeroFill a n s).getByte y = if a ≤ y ∧ y < a + n then 0 else s.getByte y := by
  unfold State.getByte zeroFill
  simp only [touch_mem]
  rw [get_filter_keep (fun k => !(decide (a ≤ k) && decide (k < a + n)))]
  by_cases h : a ≤ y ∧ y < a + n
  · simp [h]
  · have k : (!(decide (a ≤ y) && decide (y < a + n))) = true := by
      by_cases h1 : a ≤ y <;> by_cases h2 : y < a + n <;> simp_all
    rw [if_neg h, k, if_pos rfl]

-- The rest of what writes memory: a write-back that is lost, a reset, a loaded word.

theorem dramBack_wf (l : SMap Byte) (s : State) (h : s.Canonical) : (dramBack l s).Canonical := by
  unfold dramBack
  induction l generalizing s with
  | nil => exact h
  | cons e r ih =>
    refine ih _ ?_
    unfold State.Canonical Memory.wf at *
    simp only [touch_mem]
    exact SMap.wf_set 0 _ _ _ h
theorem foldl_mem {α : Type} (f : State → α → State) (h : ∀ s x, (f s x).mem = s.mem) (l : List α) (s : State) :
    (l.foldl f s).mem = s.mem := by
  induction l generalizing s with
  | nil => rfl
  | cons a r ih => exact (ih _).trans (h _ _)
theorem correct_mem (k : List Flaw) (a n : Nat) (no : BitVec 7) (s : State) : (correct k a n no s).mem = s.mem := by
  rw [correct_only k a n no s]
theorem lineLeaves_mem (d : Nat) (b : Bool) (u : Option (Nat × Nat × BitVec 4)) (s : State) : (lineLeaves d b u s).mem = s.mem := by
  unfold lineLeaves
  split
  · rfl
  · split
    · rw [logOwn_mem]; exact interrupt_mem s 1
    · exact logOwn_mem _ _ _ _ _ _
theorem writeBack_wf (sb : Nat) (s : State) (h : s.Canonical) : (writeBack sb s).Canonical := by
  unfold writeBack
  extract_lets d x s1 wasDirty s2 units lines mods unitIn lost kept s3 shown s4 s5
  have h2 : s2.Canonical := by
    unfold s2 State.Canonical
    split
    · rw [correct_mem]; exact h
    · exact h
  have h3 : s3.Canonical := dramBack_wf _ _ h2
  have h5 : s5.Canonical := (congrArg Memory.wf (foldl_mem _ (fun s _ => lineLeaves_mem _ _ _ s) _ _)).trans h3
  have k : ∀ (a : Nat) (u : State), (activate a u).mem = u.mem := fun _ _ => rfl
  have l : ∀ (a b c n : Nat) (u : State), ((u.count a n).addSectors b c).mem = u.mem := fun _ _ _ _ _ => rfl
  split
  · exact h5
  · unfold State.Canonical
    rw [k, l]
    exact h5
theorem writeBacks_wf (l : List Nat) (s : State) (h : s.Canonical) : (l.foldl (fun s sb => writeBack sb s) s).Canonical := by
  induction l generalizing s with
  | nil => exact h
  | cons e r ih => exact ih _ (writeBack_wf e s h)
theorem warm_wf (s : State) (h : s.Canonical) : (warm_ s).Canonical := by
  have k : ∀ t : State, t.Canonical → Memory.wf (t.mem.filter (·.1 < 2 ^ 40)) = true := fun _ x => SMap.wf_filter 0 _ _ x
  unfold State.Canonical warm_
  refine k _ ?_
  split
  · exact writeBacks_wf _ _ h
  · exact dramBack_wf _ _ h
theorem loadWord_wf (w : U64) (s : State) (h : s.Canonical) : (loadWord w s).Canonical := by
  have k : ∀ (c : Option Nat) (d : Nat) (e : TlbEntry) (u : State), (install c d e u).mem = u.mem := by
    intro c d e u; unfold install; cases c <;> simp only <;> split <;> (try split) <;> rfl
  unfold State.Canonical loadWord
  simp only [k]
  exact putBytes_wf _ _ _ h
theorem reset_wf : State.reset.Canonical := rfl
theorem getByte_reset (a : Nat) : State.reset.getByte a = 0 := rfl

end Sys2Proof.Machine
end

