-- ==== Sys2Proof/Laws/Ops.lean ====
section
/-!
SUPPORT. What the shared operations of words can do: masks, rounded results, scalar results of lane-level words, waits, traps, checks.
-/
namespace Sys2Proof.Machine

-- Words that write one register.

/-- All that a scalar result of a lane-level word does (R264). -/
theorem reduceTo_spec (h : Hint) (d : Reg) (v : U64) (s : State) :
    ModuleKept s (reduceTo h d v s) ∧ GangKeptButScalar d.toNat s.g (reduceTo h d v s).g ∧
      (reduceTo h d v s).sr d = if s.act h = 0 then s.sr d else v := scalarTo_spec h d v s
/-- All that a mask result does: m0 discards it (R204, R264). -/
theorem maskTo_spec (h : Hint) (d : BitVec 4) (f : Nat → Bool) (s : State) :
    ModuleKept s (maskTo h d f s) ∧
      (maskTo h d f s).g = { s.g.ending (maskTo h d f s).g with
        mregs := (s.g.mset d.toNat (s.act h) (laneSet s.g.width f)).mregs } ∧ RegionKept s.g (maskTo h d f s).g := by
  unfold maskTo setM
  obtain ⟨e, k⟩ := retire_only h { s with g := s.g.mset d.toNat (s.act h) (laneSet s.g.width f) }
  rw [e]
  refine ⟨ModuleKept.of_agent _ _ _, ?_, ?_⟩
  · simp only [Agent.mset]
    split <;> rfl
  · simpa [RegionKept] using k
/-- All that a rounded result does: a vector register, and the flags of every lane beside those held (R211, R264). -/
theorem floatTo_spec (h : Hint) (d : Reg) (f : Nat → Nat × BitVec 5) (s : State) :
    ModuleKept s (floatTo h d f s) ∧
      GangKeptButVector [s.g.phys d.toNat] (s.act h) { s.g with fp := (floatTo h d f s).g.fp } (floatTo h d f s).g ∧
      (∀ l, (s.act h).getLsbD l = true → (floatTo h d f s).vr d l = BitVec.ofNat 32 (f l).1) ∧
      (floatTo h d f s).g.fp = s.g.fp ||| flagsOf (s.act h) f := by
  obtain ⟨a, b, c⟩ := setV_retire h d (s.act h) (fun l => BitVec.ofNat 32 (f l).1) s
  have q : ∀ (w : BitVec 5) (u : State), retire h (raiseFlags w u) = { retire h u with g := { (retire h u).g with fp := u.g.fp ||| w } } := by
    intro w u
    have o : (raiseFlags w u).owed = u.owed := rfl
    have g : (raiseFlags w u).goesOn = u.goesOn := rfl
    have p : (raiseFlags w u).path = u.path := rfl
    unfold retire
    simp only [o, g, p]
    split
    · rfl
    · have l : ∀ a : Agent, { a with fp := u.g.fp ||| w }.leave = { a.leave with fp := u.g.fp ||| w } := by
        intro a
        unfold Agent.leave Agent.within Agent.waiting Agent.plane
        simp only
        split
        · split <;> rfl
        · rfl
      unfold leaveRegion
      let v := (finish h false u.goesOn.1 u).updPath fun p => { p with plane := u.goesOn.2, back := u.path.back.drop 1 }
      exact congrArg (fun g => { v with g := g }) (l v.g)
  have fp : (setV d.toNat (s.act h) (fun l => BitVec.ofNat 32 (f l).1) s).g.fp = s.g.fp := by
    by_cases hm : s.act h = 0
    · rw [hm, setV_none]
    · rw [setV_spec _ _ _ _ hm, psets_agent]
  unfold floatTo
  rw [q, fp]
  refine ⟨?_, ⟨?_, b.2⟩, c, rfl⟩
  · refine ModuleKept.trans a ?_
    exact ⟨rfl, fun _ => ⟨rfl, rfl, rfl, rfl⟩, fun _ => rfl⟩
  · exact congrArg (fun g : Agent => { g with fp := s.g.fp ||| flagsOf (s.act h) f }) b.1

-- Waits and traps.

/-- A word that waits changes nothing but the stall of its path (R175). -/
theorem stall_spec (s : State) : Waits s (stall s) := rfl
/-- All that a trap of a word that has taken no effect does (R361). -/
theorem raise_spec (r : TrapRegs) (s : State) :
    StopsAt ⟨{ r with pc := s.trapPc }, s.path.pc, lowPlane s.pmask, s.cur, []⟩ s (raise r s) := rfl
/-- The same by cause and detail (R26, R27). -/
theorem raise_rep_spec (c d : Nat) (m a reg : U64) (s : State) (hc : c < 256) (hd : d < 256) : TrapsWith c d m a reg s (raise (rep c d m a reg) s) := by
  have : rep c d m a reg = ⟨BitVec.ofNat 64 (c + 256 * d), 0, m, a, reg⟩ := by
    unfold rep; rw [Nat.mod_eq_of_lt hc, Nat.mod_eq_of_lt hd, Nat.mul_comm]
  unfold TrapsWith
  rw [this]
  rfl
/-- ILLEGAL (R195). -/
theorem illegal_spec (d : Nat) (s : State) (h : d < 256) : TrapsWith 0x01 d (s.lanes &&& s.g.live) 0 0 s (illegal d s) :=
  raise_rep_spec 0x01 d _ 0 0 s (by decide) h
/-- PLANE, for a region left with a lane outside plane 0 (R167). -/
theorem stranded_spec (s : State) : TrapsWith 0x05 0xD0 (s.lanes &&& s.g.live) 0 0 s (stranded s) :=
  raise_rep_spec 0x05 0xD0 _ 0 0 s (by decide) (by decide)
/-- All that a trap of a word that has done its work does (R361). -/
theorem raiseAfter_spec (c d : Nat) (m a reg : U64) (es : List PendEntry) (s : State) (hc : c < 256) (hd : d < 256) :
    StopsAfter c d m a reg es s (raiseAfter (rep c d m a reg) es s) := by
  have : rep c d m a reg = ⟨BitVec.ofNat 64 (c + 256 * d), 0, m, a, reg⟩ := by
    unfold rep; rw [Nat.mod_eq_of_lt hc, Nat.mod_eq_of_lt hd, Nat.mul_comm]
  unfold raiseAfter StopsAfter stop
  rw [this]
  simp only [State.trapPc]
  cases s.owed <;> rfl
/-- A word that needs a whole gang runs in one, and traps with CONVERGE in another (R173). -/
theorem whole_spec (f : State → State) (s : State) :
    (s.g.whole = true → whole f s = f s) ∧ (s.g.whole = false → TrapsWith 0x04 0 (s.lanes &&& s.g.live) 0 0 s (whole f s)) := by
  refine ⟨fun h => by simp [whole, h], fun h => ?_⟩
  have : whole f s = raise (rep cConverge 0 (s.lanes &&& s.g.live) 0 0) s := by simp [whole, h]
  rw [this]
  exact raise_rep_spec 0x04 0 _ 0 0 s (by decide) (by decide)
/-- A uniform effect takes place once, where some active lane passes the guard (R185). -/
theorem uniform_spec (h : Hint) (f : State → State) (s : State) :
    (s.act h = 0 → uniform h f s = s) ∧ (s.act h ≠ 0 → uniform h f s = f s) :=
  ⟨fun k => by simp [uniform, k], fun k => by rw [uniform, if_neg k]⟩
/-- With no marker among the words of the lanes the operation runs (R165). -/
theorem unlessMarked_clean (m : U64) (words : Nat → List U32) (f : State → State) (s : State)
    (h : laneSet 64 (fun l => bit m l && (words l).any fun x => (marker x).isSome) = 0) : unlessMarked m words f s = f s := by
  unfold unlessMarked; simp [h]
/-- A move of the path that would leave the region with a lane outside plane 0 traps instead (R167). -/
theorem goTo_stranded (h : Hint) (o : Offs) (s : State) (k : s.g.strands s.path.lanes o = true) :
    TrapsWith 0x05 0xD0 (s.lanes &&& s.g.live) 0 0 s (goTo h o s) := by
  unfold goTo; rw [if_pos k]; exact stranded_spec s

-- Fields that an issue keeps.

@[simp] theorem retire_mem (h : Hint) (s : State) : (retire h s).mem = s.mem := by rw [(retire_only h s).1]
@[simp] theorem retire_sregs (h : Hint) (s : State) : (retire h s).g.sregs = s.g.sregs := by rw [(retire_only h s).1]; rfl
@[simp] theorem retire_vregs (h : Hint) (s : State) : (retire h s).g.vregs = s.g.vregs := by rw [(retire_only h s).1]; rfl
@[simp] theorem retire_mregs (h : Hint) (s : State) : (retire h s).g.mregs = s.g.mregs := by rw [(retire_only h s).1]; rfl
@[simp] theorem retire_kregs (h : Hint) (s : State) : (retire h s).g.kregs = s.g.kregs := by rw [(retire_only h s).1]; rfl
@[simp] theorem retire_exec (h : Hint) (s : State) : (retire h s).g.exec = s.g.exec := by rw [(retire_only h s).1]; rfl
@[simp] theorem retire_sel (h : Hint) (s : State) : (retire h s).sel = false := by rw [(retire_only h s).1]
@[simp] theorem setS_mem (d : Nat) (v : U64) (s : State) : (setS d v s).mem = s.mem := by rw [setS_spec]; simp
@[simp] theorem setV_mem (d : Nat) (m : U64) (f : Nat → U32) (s : State) : (setV d m f s).mem = s.mem := by
  by_cases h : m = 0
  · subst h; rw [setV_none]
  · rw [setV_spec _ _ _ _ h]; simp

end Sys2Proof.Machine
end

