-- ==== Sys2Proof/Laws/Records.lean ====
section
/-!
SUPPORT. The records of a region are read back as they were written: the fields of a record at their places, one record at the head of some
bytes, and a whole set.
-/
namespace Sys2Proof.Machine
theorem bytesOf_length (n x : Nat) : (bytesOf n x).length = n := by
  induction n generalizing x with
  | zero => rfl
  | succ n ih => simp [bytesOf, ih]
theorem ofBytes_bytesOf (n x : Nat) : ofBytes (bytesOf n x) = x % 2 ^ (8 * n) := by
  induction n generalizing x with
  | zero => simp [bytesOf, ofBytes, Nat.mod_one]
  | succ n ih =>
    have h : (2 : Nat) ^ (8 * (n + 1)) = 256 * 2 ^ (8 * n) := by rw [Nat.mul_add, Nat.pow_add]; omega
    simp only [bytesOf, ofBytes, ih, BitVec.toNat_ofNat, h, Nat.mod_mul]
    try omega
/-- A field of a record at the place at which its bytes stand. -/
theorem recField_at {bs a : List Byte} {off n x : Nat} {b : List Byte} (h : bs = a ++ bytesOf n x ++ b) (l : a.length = off) :
    recField bs off n = x % 2 ^ (8 * n) := by
  subst h l
  simp [recField, bytesOf_length, ofBytes_bytesOf, List.append_assoc]
/-- A CRC is a number of 32 bits. -/
theorem crcBits_lt (n c : Nat) (h : c < 2 ^ 32) : crcBits n c < 2 ^ 32 := by
  induction n generalizing c with
  | zero => simpa [crcBits]
  | succ n ih =>
    unfold crcBits
    apply ih
    split
    · exact Nat.xor_lt_two_pow (by omega) (by decide)
    · omega
theorem crc32c_lt (bs : List Byte) : crc32c bs < 2 ^ 32 := by
  have h : ∀ (bs : List Byte) (c : Nat), c < 2 ^ 32 → crcRun c bs < 2 ^ 32 := by
    intro bs
    induction bs with
    | nil => exact fun c h => h
    | cons b bs ih => exact fun c h => ih _ (crcBits_lt _ _ (Nat.xor_lt_two_pow h (Nat.lt_of_lt_of_le b.isLt (by decide))))
  exact Nat.xor_lt_two_pow (h bs _ (by decide)) (by decide)
/-- A record at the head of some bytes is read back as it was written. -/
theorem parseRecs_recBytes (r : Rec) (n : Nat) (rest : List Byte) (hk : r.kind.toNat ≠ 0) (hk' : r.kind.toNat ≤ 0x10) (hd : r.die < 8)
    (hc : r.core < 256) (hl : r.data.length < 2 ^ 32) :
    parseRecs (n + 1) (recBytes r ++ rest) = (r, true) :: parseRecs n rest := by
  obtain ⟨kind, colours, die, core, bad, loc, aux, data⟩ := r
  simp only at hk hk' hd hc hl
  generalize hw : data.length * 2 ^ 32 + core % 256 * 2 ^ 24 + die * 2 ^ 16 + b01 bad * 2 ^ 10 + colours.toNat * 2 ^ 8 + kind.toNat = w
  generalize hh : w64 w ++ le64 loc ++ le64 aux = h
  have hlen : h.length = 24 := by simp [← hh, w64, le64, bytesOf_length]
  generalize hz : zeros (upTo (32 + data.length) 64 - (32 + data.length)) = z
  have hzl : z.length = upTo (32 + data.length) 64 - (32 + data.length) := by simp [← hz, zeros]
  have hup : 32 + data.length ≤ upTo (32 + data.length) 64 := by unfold upTo; omega
  have hb : recBytes ⟨kind, colours, die, core, bad, loc, aux, data⟩ = h ++ w64 (crc32c (h ++ data)) ++ data ++ z := by
    simp only [recBytes, padTo, hw, hh]
    rw [show (h ++ w64 (crc32c (h ++ data)) ++ data).length = 32 + data.length by simp [w64, bytesOf_length, hlen]; omega, hz]
  have hcrc : crc32c (h ++ data) < 2 ^ 32 := by
    exact crc32c_lt _
  generalize hcc : crc32c (h ++ data) = c at hb hcrc
  rw [hb]
  have hkl := kind.isLt
  have hcl := colours.isLt
  have hbl : b01 bad < 2 := by unfold b01; split <;> omega
  have hbb : b01 bad = bad.toNat := by cases bad <;> rfl
  have hw64 : w < 2 ^ 64 := by omega
  have f0 : recField (h ++ w64 c ++ data ++ z ++ rest) 0 8 = w := by
    rw [recField_at (a := []) (off := 0) (n := 8) (x := w) (b := le64 loc ++ le64 aux ++ w64 c ++ data ++ z ++ rest) (by simp [← hh, w64, List.append_assoc]) rfl]
    exact Nat.mod_eq_of_lt hw64
  have f1 : recField (h ++ w64 c ++ data ++ z ++ rest) 8 8 = loc.toNat := by
    rw [recField_at (a := w64 w) (x := loc.toNat) (b := le64 aux ++ w64 c ++ data ++ z ++ rest) (by simp [← hh, w64, le64, List.append_assoc])
      (by simp [w64, bytesOf_length])]
    exact Nat.mod_eq_of_lt loc.isLt
  have f2 : recField (h ++ w64 c ++ data ++ z ++ rest) 16 8 = aux.toNat := by
    rw [recField_at (a := w64 w ++ le64 loc) (x := aux.toNat) (b := w64 c ++ data ++ z ++ rest) (by simp [← hh, w64, le64, List.append_assoc])
      (by simp [w64, le64, bytesOf_length])]
    exact Nat.mod_eq_of_lt aux.isLt
  have f3 : recField (h ++ w64 c ++ data ++ z ++ rest) 24 4 = c := by
    rw [recField_at (a := h) (x := c) (b := bytesOf 4 (c / 256 / 256 / 256 / 256) ++ data ++ z ++ rest) (by simp [w64, bytesOf, List.append_assoc]) hlen]
    exact Nat.mod_eq_of_lt hcrc
  have ht : (h ++ w64 c ++ data ++ z ++ rest).take 24 = h := by simp [List.append_assoc, hlen]
  have hdat : ((h ++ w64 c ++ data ++ z ++ rest).drop 32).take data.length = data := by
    have : h ++ w64 c ++ data ++ z ++ rest = (h ++ w64 c) ++ (data ++ (z ++ rest)) := by simp [List.append_assoc]
    rw [this, List.drop_left' (by simp [w64, bytesOf_length, hlen])]
    simp
  have hrest : (h ++ w64 c ++ data ++ z ++ rest).drop (upTo (32 + data.length) 64) = rest := by
    apply List.drop_left'
    simp [w64, bytesOf_length, hlen, hzl]; omega
  have hlong : ¬(h ++ w64 c ++ data ++ z ++ rest).length < 32 + data.length := by simp [w64, bytesOf_length, hlen]; omega
  have e1 : w / 2 ^ 32 = data.length := by omega
  have e2 : w % 256 = kind.toNat := by omega
  have e3 : w / 256 % 4 = colours.toNat := by omega
  have e4 : w / 2 ^ 16 % 8 = die := by omega
  have e5 : w / 2 ^ 24 % 256 = core := by omega
  have e6 : w.testBit 10 = bad := by
    rw [Nat.testBit_eq_decide_div_mod_eq]
    have : w / 2 ^ 10 % 2 = b01 bad := by omega
    rw [this, hbb]; cases bad <;> rfl
  have e7 : BitVec.ofNat 2 (w / 256) = colours := by
    apply BitVec.eq_of_toNat_eq; simp only [BitVec.toNat_ofNat]; exact e3
  simp only [parseRecs, f0, f1, f2, f3, e1, e2, e4, e5, e6, e7, ht, hdat, hrest, hcc, BitVec.ofNat_toNat, BitVec.setWidth_eq, beq_self_eq_true]
  rw [if_neg (by simp only [hlong, hk, decide_false, Bool.or_false, Bool.false_or, decide_eq_true_eq]; omega)]
/-- A record whose fields its header can hold. -/
def Rec.fits (r : Rec) : Prop := r.kind.toNat ≠ 0 ∧ r.kind.toNat ≤ 0x10 ∧ r.die < 8 ∧ r.core < 256 ∧ r.data.length < 2 ^ 32
theorem parseRecs_nil (n : Nat) : parseRecs n [] = [] := by cases n <;> rfl
theorem recBytes_length (r : Rec) : (recBytes r).length = upTo (32 + r.data.length) 64 := by
  have : 32 + r.data.length ≤ upTo (32 + r.data.length) 64 := by unfold upTo; omega
  simp only [recBytes, padTo, zeros, w64, le64, List.length_append, List.length_replicate, bytesOf_length]
  rw [show 8 + 8 + 8 + 8 + r.data.length = 32 + r.data.length from rfl]
  omega
/-- The records of a region are read back as they were written. -/
theorem parseRecs_flatMap (rs : List Rec) (h : ∀ r ∈ rs, r.fits) (n : Nat) (hn : rs.length ≤ n) :
    parseRecs n (rs.flatMap recBytes) = rs.map fun r => (r, true) := by
  induction rs generalizing n with
  | nil => exact parseRecs_nil n
  | cons r rs ih =>
    obtain ⟨n, rfl⟩ : ∃ m, n = m + 1 := ⟨n - 1, by simp at hn; omega⟩
    obtain ⟨a, b, c, d, e⟩ := h r (by simp)
    rw [List.flatMap_cons, parseRecs_recBytes r n _ a b c d e, ih (fun x hx => h x (by simp [hx])) n (by simp at hn; omega)]
    rfl
theorem restoreSet_flatMap (s : State) (col : Bool) (rs : List Rec) (h : ∀ r ∈ rs, r.fits) (hc : ∀ r ∈ rs, (r.colours &&& tagOf col != 0) = true)
    (hw : wholeSet rs = true) (h1 : ∀ r ∈ rs, (r.kind == 1) = false) : s.restoreSet col (rs.flatMap recBytes) = .ok rs := by
  have hl : ∀ (l : List Rec), l.length * 64 ≤ (l.flatMap recBytes).length := by
    intro l
    induction l with
    | nil => simp
    | cons r l ih =>
      have : 64 ≤ upTo (32 + r.data.length) 64 := by unfold upTo; omega
      rw [List.flatMap_cons, List.length_append, recBytes_length, List.length_cons]; omega
  have hp := parseRecs_flatMap rs h ((rs.flatMap recBytes).length / 64 + 1) (by have := hl rs; omega)
  have ht : ((rs.map fun r => (r, true)).takeWhile (·.2)).map (·.1) = rs := by
    clear hp hl hw h1 hc h; induction rs with
    | nil => rfl
    | cons r rs ih => simp [ih]
  have hf : rs.filter (fun r => r.colours &&& tagOf col != 0) = rs := List.filter_eq_self.mpr hc
  have hf1 : rs.filter (·.kind == 1) = [] := List.filter_eq_nil_iff.mpr fun r hr => by rw [h1 r hr]; decide
  simp only [State.restoreSet, hp, ht, hf, hw, hf1, List.all_nil, if_true]
end Sys2Proof.Machine
end

