-- ==== Sys2Proof/Tests/Slice0.lean ====
section
/-!
SUPPORT. Tests: what the checks of a word refuse, words written out from the manual's encodings, single steps, and for every statement with
hypotheses a state that meets them.
-/
namespace Sys2Proof.Tests
set_option Elab.async false
open Sys2Proof Sys2Proof.Machine

-- What the checks refuse (R179 to R195), each beside a term that they accept.

def onGang : DecCtx := ⟨false, 32, 2⟩
def onDrover : DecCtx := ⟨true, 1, 0⟩
def plain : Hint := ⟨0, false, false, 0, 0⟩
def noMod : FMod := ⟨0, false, false, false, false, false⟩
def word32 : MemX := ⟨1, 2, 0, 0, 0, false, false⟩

theorem test_wf_hints : (Instr.nop plain).wf onGang = true ∧ (Instr.nop { plain with guard := 8 }).wf onGang = false ∧
    (Instr.nop { plain with guard := 1 }).wf onDrover = false ∧ (Instr.join { plain with guard := 1 }).wf onGang = false ∧
    (Instr.nop { plain with look := 1 }).wf onGang = false ∧ (Instr.nop { plain with as := true }).wf onGang = false ∧
    (Instr.sDiv { plain with look := 1 } false 1 2 3).wf onGang = true := by decide
theorem test_wf_registers : (Instr.sAdd plain false 127 0 0).wf onGang = true ∧ (Instr.sAdd plain false 128 0 0).wf onGang = false ∧
    (Instr.sAdd plain false 32 0 0).wf onDrover = false ∧ (Instr.kmod plain 0 7 0).wf onDrover = true ∧
    (Instr.kmod plain 0 8 0).wf onDrover = false ∧ (Instr.drvStart plain 0 1 2 127).wf onGang = false ∧
    (Instr.bxiLd plain 1 1 0 30).wf onDrover = false := by decide
theorem test_wf_tiles : (Instr.mmaz plain 0 0 0 3 false 15 0 0).wf onGang = true ∧
    (Instr.mmaz plain 0 0 0 3 false 15 0 0).wf ⟨false, 32, 1⟩ = false ∧ (Instr.mldN plain 0 2 0 0 0).wf ⟨false, 32, 1⟩ = false ∧
    (Instr.mmaz plain 0 31 97 0 false 0 0 0).wf onGang = false ∧ (Instr.mmaz plain 0 31 96 0 false 0 193 0).wf onGang = false ∧
    (Instr.epi plain 0 1 127 0 0 0).wf onGang = false := by decide
theorem test_wf_segments : (Instr.shflXor plain 5 31 0 0).wf onGang = true ∧ (Instr.shflXor plain 6 0 0 0).wf onGang = false ∧
    (Instr.shflIdx plain 7 0 0 0).wf ⟨false, 64, 2⟩ = false ∧ (Instr.shflXor plain 3 8 0 0).wf onGang = false ∧
    (Instr.v2s plain false 32 0 0).wf onGang = false := by decide
theorem test_wf_fields : (Instr.sBfx plain false false 63 0 0 0).wf onGang = true ∧ (Instr.sBfx plain false false 63 1 0 0).wf onGang = false ∧
    (Instr.sBfi plain true 31 1 0 0).wf onGang = false ∧ (Instr.vBfx plain false 31 1 0 0).wf onGang = false ∧
    (Instr.sCmp plain false 12 0 0 0).wf onGang = false ∧ (Instr.vCmp plain 12 0 0 0).wf onGang = false ∧
    (Instr.call plain 4 0).wf onGang = false ∧ (Instr.call plain 8 0).wf onDrover = false ∧ (Instr.plane plain 3 0 0 3).wf onGang = false ∧
    (Instr.planeI plain 0 0 0 0).wf onGang = false := by decide
theorem test_wf_floats : (Instr.fAdd plain ⟨3, true, true, false, true, true⟩ 0 0 0).wf onGang = true ∧
    (Instr.fAdd plain { noMod with negC := true } 0 0 0).wf onGang = false ∧ (Instr.fMin plain { noMod with rm := 1 } 0 0 0).wf onGang = false ∧
    (Instr.fSqrt plain { noMod with absB := true } 0 0).wf onGang = false ∧ (Instr.fCvt plain 0 0 6 false 0 0 0 0).wf onGang = false ∧
    (Instr.fCvt plain 0 0 0 false 1 0 0 0).wf onGang = false ∧ (Instr.fCvt plain 0 0 0 false 0 1 0 0).wf onGang = false ∧
    (Instr.fUnpk plain 1 0 1 0).wf onGang = false ∧ (Instr.rdxAdd plain 3 0 0).wf onGang = false ∧
    (Instr.rand plain 3 0 0 0).wf onGang = false ∧ (Instr.rand plain 1 1 0 0).wf onGang = false := by decide
theorem test_wf_memory : (Instr.ld plain word32 0 0 0).wf onGang = true ∧ (Instr.ld plain { word32 with space := 5 } 0 0 0).wf onGang = false ∧
    (Instr.ld plain { word32 with scope := 6 } 0 0 0).wf onGang = false ∧ (Instr.ld plain { word32 with ord := 2 } 0 0 0).wf onGang = false ∧
    (Instr.st plain { word32 with ord := 1 } 0 0 0).wf onGang = false ∧ (Instr.st plain { word32 with sx := true } 0 0 0).wf onGang = false ∧
    (Instr.ld plain { word32 with size := 3 } 1 0 0).wf onGang = false ∧ (Instr.ldg plain { word32 with scale := 1 } 0 0).wf onGang = false ∧
    (Instr.atom plain word32 13 0 0 0).wf onGang = false ∧ (Instr.atom plain { word32 with size := 1 } 0 0 0 0).wf onGang = false ∧
    (Instr.rstore plain word32 5 0 0 0).wf onGang = false ∧ (Instr.atom plain word32 9 1 0 0).wf onGang = false ∧
    (Instr.fence plain 0 0).wf onGang = false ∧ (Instr.kset plain 2 0 0).wf onGang = false := by decide
theorem test_wf_agents : (Instr.vAdd plain false 0 0 0).wf onDrover = false ∧ (Instr.dend plain).wf onGang = false ∧
    (Instr.sRdsr plain 0x016 0).wf onGang = false ∧ (Instr.sRdsr plain 0x008 0).wf onDrover = false ∧ (Instr.sWrsr plain 0x010 0).wf onGang = false ∧
    (Instr.trap plain 255).wf onGang = false ∧ (Instr.boxLd plain false 1 0 0 0 0).wf onGang = false ∧
    (Instr.collAr plain 0 true 1 0 0).wf onGang = false ∧ (Instr.cpwait plain 0 true 1).wf onGang = false := by decide
theorem test_wf_pairs : (Instr.pairWord false ⟨.vAdd, 1, 2, 0⟩ ⟨.sAddi, 5, 61, 0⟩).wf onGang = true ∧
    (Instr.pairWord false ⟨.vAdd, 1, 2, 0⟩ ⟨.vMov, 1, 3, 0⟩).wf onGang = false ∧
    (Instr.pairWord false ⟨.vAdd, 0, 4, 0⟩ ⟨.vMov, 8, 1, 0⟩).wf onGang = false ∧
    (Instr.pairWord true ⟨.fAdd, 1, 2, 0⟩ ⟨.hnop, 0, 0, 0⟩).wf onGang = false ∧
    (Instr.pairWord false ⟨.hnop, 1, 0, 0⟩ ⟨.sMov, 1, 2, 0⟩).wf onGang = false ∧
    (Instr.pairWord false ⟨.hnop, 0, 0, 0⟩ ⟨.hnop, 0, 0, 0⟩).wf onGang = false ∧
    (Instr.pairWord false ⟨.sMov, 1, 2, 8⟩ ⟨.hnop, 0, 0, 0⟩).wf onGang = false ∧
    (Instr.pairWord false ⟨.mMov, 16, 1, 0⟩ ⟨.hnop, 0, 0, 0⟩).wf onGang = false := by decide

-- Words put together from the encodings of R177 to R187 and the opcodes of R212 and R214.

/-- A full-form word: F, OP, D, A, B, X and the hint bits (R177). -/
def full (op : BitVec 9) (d a b : BitVec 8) (x : BitVec 18) (low : BitVec 12) : U64 := (0 : BitVec 1) ++ op ++ d ++ a ++ b ++ x ++ low
/-- The decoder answers this instruction; it refuses the word with this detail. -/
def reads (c : DecCtx) (w : U64) (i : Instr) : Bool := match decodeWord c w with | .ok j => i = j | .error _ => false
def refuses (c : DecCtx) (w : U64) (detail : Nat) : Bool := match decodeWord c w with | .ok _ => false | .error e => e.detail = detail
theorem test_decode_scalar : reads onGang (full 0x001 1 2 3 1 0x100) (.sSub { plain with guard := 1 } true 1 2 3) ∧
    reads onDrover (full 0x018 31 30 29 0 0) (.sMad plain false 31 30 29 0) := by decide
theorem test_decode_pair : reads onGang 0x900420000E2FA000 (.pairWord false ⟨.vAdd, 1, 2, 0⟩ ⟨.sAddi, 5, 0x3D, 0⟩) := by decide
theorem test_decode_memory : reads onGang 0x50030101CC080B83 (.ld ⟨0xB, true, false, 0, 3⟩ ⟨1, 2, 0, 0, 2, false, false⟩ 12 4 7) := by decide
theorem test_decode_float : reads onGang 0x30C0C10141940000 (.fFma plain ⟨1, false, true, false, false, false⟩ 3 4 5 6) := by decide
theorem test_decode_control : reads onGang 0x110000C3C0007000 (.brDiv plain false 3 15 7) := by decide
theorem test_decode_async : reads onGang 0x6082808300000000 (.boxLd plain false 0 0 10 2 12) ∧
    reads onGang 0x6280420508481000 (.mmaz plain 1 1 16 0 true 1 8 20) ∧ reads onGang 0x64C0008511000000 (.collAr plain 2 true 0 2 20) := by decide
theorem test_decode_system : reads onGang 0x7001C00000010002 (.sRdsr ⟨0, false, false, 0, 2⟩ 0x010 7) := by decide
theorem test_decode_vector : reads onGang (full 0x086 9 8 7 0 0xF80) (.vAnd ⟨0xF, true, false, 0, 0⟩ 9 8 7) := by decide
theorem test_decode_lanes : reads onGang (full 0x104 9 8 0 ((0 : BitVec 9) ++ (3 : BitVec 3) ++ (5 : BitVec 6)) 0) (.shflXor plain 3 5 9 8) := by
  decide
theorem test_decode_drover : reads onDrover (full 0x1D6 0 0 0 0 0) (.dend plain) ∧ refuses onGang (full 0x1D6 0 0 0 0 0) 0xA5 := by decide
theorem test_decode_unassigned : refuses onGang (full 0x01C 0 0 0 0 0) 0xA0 ∧ refuses onGang (full 0x056 0 0 0 1 0) 0xA1 := by decide

-- Small states.

/-- A word at issue in the one gang of a team of 32 lanes, 256 registers and 2 arrays (a drover's word: in the one context of a die), its agent
changed by f. -/
def at_ (f : Agent → Agent) (word : U64 := 0) : State :=
  let s := loadWord word State.reset
  { s with word := word, lanes := s.g.live, pmask := 1, g := f s.g }
/-- A drover at its word. -/
def onDrv (f : Agent → Agent) : State := at_ f (full 0x1D6 0 0 0 0 0)
/-- The record of the grid and the team changed. -/
def ofGrid (f : LaunchRec → LaunchRec) (s : State) : State := { s with grids := s.grids.map fun g => { g with rc := f g.rc } }
def ofTeam (f : Team → Team) (s : State) : State := { s with teams := s.teams.map f }
def ofPath (f : Path → Path) (a : Agent) : Agent := { a with paths := a.paths.map f }
/-- A gang with two numbers in s1 and s2, and two lanes of v1 and v2. -/
def demo : State := at_ fun a => ((((((a.sset 1 5).sset 2 3).pset 1 0 0x3F800000).pset 2 0 0x40000000).pset 1 1 0x40400000).pset 2 1 0x3F000000).mset 1 3 1
def one (l : Nat) : State := at_ fun a => { ((a.pset 1 l 0x3F800000).pset 2 l 0x40000000) with exec := lane l }
/-- What exec answers. -/
def ran (i : Instr) (s : State) : State := match exec i s with | .next t => t | _ => s

-- Single steps, with results worked out by hand from the rules named.

/-- R239: 5 - 3, and 5 / 0 as the rule gives it. -/
theorem test_scalar : (ran (.sSub plain false 3 1 2) demo).sr 3 = 2 ∧ (ran (.sDiv plain false 3 1 4) (at_ fun a => (a.sset 1 5).sset 4 0)).sr 3 = BitVec.allOnes 64 ∧
    (ran (.sAdd plain true 3 1 2) (at_ fun a => (a.sset 1 0x7FFFFFFF).sset 2 1)).sr 3 = 0xFFFFFFFF80000000 := by decide
/-- R270: a shift by 32 gives 0; halves do not carry into each other. -/
theorem test_vector : (ran (.vShli plain 3 1 32) demo).vr 3 0 = 0 ∧
    (ran (.vAdd plain true 3 1 1) (at_ fun a => a.pset 1 0 0x0001FFFF)).vr 3 0 = 0x0002FFFE := by decide
/-- R273: 1 + 2 = 3, 3 * 0.5 = 1.5. -/
theorem test_float : (ran (.fAdd plain noMod 3 1 2) { demo with lanes := 3 }).vr 3 0 = 0x40400000 ∧
    (ran (.fMul plain noMod 3 1 2) { demo with lanes := 3 }).vr 3 1 = 0x3FC00000 := by decide
/-- R184, R264: a guarded word writes the lanes that pass. -/
theorem test_guard : (ran (.vMovi { plain with guard := 1 } 3 7) demo).vr 3 0 = 7 ∧ (ran (.vMovi { plain with guard := 1 } 3 7) demo).vr 3 1 = demo.vr 3 1 := by
  decide
/-- R465; assumption 1: without power there is no step. -/
theorem test_power_off : step { State.reset with power := .off } = .fault .poweredOff := rfl
/-- The step after a word is placed runs it (S.MOVI s1, 9). -/
theorem test_runs : (match step (State.reset.withFetchWord 64 (full 0x028 1 0 0 9 0).toNat) with | .next t => t.sr 1 | _ => 0) = (9 : U64) := by decide

/-- One operation in flight: of an agent of core 0, with the accesses of its lanes. -/
def opBy (agent : Nat) (kind : MemKind) (size : Nat) (dest : Dest) (off : Offs) (parts : List Part) : MemOp :=
  ⟨9, agent, 0, kind, 0, false, size, false, dest, false, 0, [], false, parts, 0, off, 0, 9, [], some 0, 0, 0, 1, 1, false, false, none⟩
/-- No lane below 64 that is active reads a marker, so none does. -/
theorem unmarked_of {s : State} {h : Hint} {words : Nat → List U32}
    (k : ((List.range 64).all fun l => !(s.act h).getLsbD l || (words l).all fun x => (marker x).isNone) = true) : Unmarked s h words := by
  intro l hl x hx
  have hm := List.all_eq_true.mp k l (List.mem_range.mpr (BitVec.lt_of_getLsbD hl))
  simp only [hl, Bool.not_true, Bool.false_or, List.all_eq_true, Option.isNone_iff_eq_none] at hm
  exact hm x hx

-- For every statement with hypotheses, states and operands that meet them, a line for each clause in the statement's order.

theorem witness_ScalarCompareAndFields : (11 : BitVec 4).toNat < 12 ∧ demo.act plain ≠ 0 ∧ (at_ fun a => { a with exec := 0 }).act plain = 0 ∧
    (63 : BitVec 6).toNat + ((0 : BitVec 6).toNat + 1) ≤ (if false then 32 else 64) ∧
    (0 : BitVec 6).toNat + ((31 : BitVec 6).toNat + 1) ≤ (if true then 32 else 64) := by decide +kernel
theorem witness_VectorCompareSelectFields : (11 : BitVec 4).toNat < 12 ∧ (15 : BitVec 4) ≠ 0 ∧ 31 < demo.g.width ∧
    (demo.act plain).getLsbD 31 = true ∧ (31 : BitVec 6).toNat + ((0 : BitVec 6).toNat + 1) ≤ 32 := by decide +kernel
theorem witness_FloatArithmeticResults : ((one 31).act plain).getLsbD 31 = true ∧ Unmarked (one 31) plain (fun l => [(one 31).vr 1 l, (one 31).vr 2 l]) :=
  ⟨by decide +kernel, unmarked_of (by decide +kernel)⟩
theorem witness_SpecialFunctionResults : ((one 0).act plain).getLsbD 0 = true ∧ Unmarked (one 0) plain (fun l => [(one 0).vr 1 l]) :=
  ⟨by decide +kernel, unmarked_of (by decide +kernel)⟩
theorem witness_FloatCompareAndClass : Unmarked (one 5) plain (fun l => [(one 5).vr 1 l, (one 5).vr 2 l]) ∧ (1 : BitVec 4) ≠ 0 ∧
    5 < (one 5).g.width ∧ ((one 5).act plain).getLsbD 5 = true := ⟨unmarked_of (by decide +kernel), by decide +kernel⟩
theorem witness_PackedAndConversionResults : Unmarked (one 5) plain (fun l => [(one 5).vr 1 l, (one 5).vr 2 l]) ∧
    Unmarked (one 5) plain (fun l => if isIntFmt 0x34 then [] else [(one 5).vr 1 l]) ∧ Unmarked demo plain (fun _ => []) ∧ 1 < (one 5).g.q ∧
    ((one 5).act plain).getLsbD 5 = true := ⟨unmarked_of (by decide +kernel), unmarked_of (by decide +kernel), unmarked_of (by decide +kernel), by decide +kernel⟩
theorem witness_RoundingKeepsValues : (f32 (BitVec.ofNat 32 (toF32 .rne (f32 0x7F812345)).1)).isNan = true ∧ (f32 0x3F800001).isNan = false ∧
    (f32 0x80000001).isNan = false ∧ (f32 0xFF800000).isNan = false := by decide +kernel
/-- Lanes 0 and 1 hold numbers; lane 2 reads the marker of a register that nothing has written. -/
theorem witness_MarkerStopsFloat : (∀ k, k < 2 → (demo.act plain).getLsbD k = true → marker (demo.vr 1 k) = none ∧ marker (demo.vr 2 k) = none) ∧
    2 < 64 ∧ (demo.act plain).getLsbD 2 = true ∧ marker (demo.vr 1 2) = some (1, 1) := by decide +kernel
theorem witness_LaneAndVoteResults : demo.act plain ≠ 0 ∧ 31 < demo.g.width ∧ (demo.act plain).getLsbD (31 : BitVec 6).toNat = true := by decide +kernel
theorem witness_ReductionAndScanResults : Unmarked (one 9) plain (fun l => if (2 : BitVec 2) = 2 then [(one 9).vr 1 l] else []) ∧
    Unmarked demo plain (fun l => if (1 : BitVec 2) = 2 then [demo.vr 1 l] else []) ∧ ((one 9).act plain).getLsbD 9 = true :=
  ⟨unmarked_of (by decide +kernel), unmarked_of (by decide +kernel), by decide +kernel⟩
theorem witness_MaskAndExecResults : 31 < demo.g.width ∧ 31 < 64 ∧ (demo.lanes &&& demo.g.live &&& demo.g.passing 0).getLsbD 31 = true ∧
    (demo.lanes &&& demo.g.live &&& demo.g.passing 1).getLsbD 1 = false := by decide +kernel
theorem witness_ActiveLanes : (demo.act { plain with guard := 1 }).getLsbD 0 = true ∧ (demo.act { plain with guard := 9 }).getLsbD 1 = true ∧
    (7 : Nat) ≠ 0 ∧ demo.g.width ≤ 32 := by decide +kernel
/-- The half forms of the first clause: a lane of numbers under F.ADD, and a scalar half, which reads no floating-point data. -/
theorem witness_PairReadsBeforeWrites : ((one 4).halfAct ⟨.fAdd, 1, 2, 0⟩).getLsbD 4 = true ∧
    (∀ l, l < 64 → ((one 4).halfAct ⟨.fAdd, 1, 2, 0⟩).getLsbD l = true →
      ((one 4).halfFloats ⟨.fAdd, 1, 2, 0⟩ l).all fun w => (marker w).isNone) ∧
    (∀ l, l < 64 → (one 4).halfFloats ⟨.sAdd, 1, 2, 0⟩ l = []) ∧
    (3 : BitVec 6) ≠ 4 ∧ demo.before &&& demo.g.passing 0 ≠ 0 ∧ demo.before &&& demo.g.passing 1 ≠ 0 ∧ 256 ≤ demo.g.q ∧
    demo.before &&& demo.g.passing 0 = demo.before := by decide +kernel

/-- A gang in a plane region of which lane 1 runs plane 1. -/
def inRegion : State := at_ fun a => { a with region := some ⟨0x2000, 2, 4⟩, planes := [(1, 1)] }
/-- A gang whose second path has the upper lanes, and one whose one path has one divergence entry joined where it stands. -/
def twoPaths : State := { (at_ fun a => { a with
  paths := [Path.start 0 0x2000 0xFFFF false [], Path.start 1 0x2008 0xFFFF0000 false []], nextPath := 2 }) with lanes := 0xFFFF }
def split (join : Offs) (todo : List Arm) (running : List Nat) : DivEntry := ⟨.split, 0, join, 0xFFFFFFFF, todo, running, 0, false, none⟩
def joining (todo : List Arm) (running : List Nat) : State := at_ fun a => { a with divs := [split 0x2000 todo running] }
/-- A store in flight of an agent. -/
def storeBy (agent : Nat) : MemOp :=
  opBy agent .store 4 .none 0 [⟨0, 0, 0x40000, 0, 7, 0, .waiting, false⟩]
def stored : Dropped := ⟨0x40000, 1, 0x83⟩
/-- A vector load of the gang is in flight. -/
def loading : State := { demo with ops := [opBy demo.g.id .load 4 (.vector 8 9) 0 [⟨0, 0, 0x40000, 0, 0, 0, .waiting, false⟩]] }

theorem witness_UniformBranches : demo.g.strands demo.path.lanes 0x1000 = false ∧ inRegion.g.strands inRegion.path.lanes 0x2004 = true ∧
    inRegion.g.strands inRegion.path.lanes 0x2003 = false ∧ demo.g.region = none ∧ demo.owed = false := by decide +kernel
theorem witness_LoopCountsDown : demo.act plain ≠ 0 ∧ demo.sr 1 - 1 ≠ 0 ∧ demo.g.strands demo.path.lanes 0x1FFF = false ∧
    (at_ fun a => a.sset 1 1).sr 1 - 1 = 0 ∧ demo.TraceOff 2 := by
  unfold State.TraceOff; decide +kernel
/-- A split of one path; one that finds the stack full without a spill region. -/
theorem witness_BranchDivergeSplits : demo.act plain ≠ 0 ∧ demo.g.strands 1 0x2008 = false ∧ demo.g.strands 0xFFFFFFFE 0x2001 = false ∧ divFails demo = none ∧
    demo.path.lanes &&& demo.g.live &&& demo.g.exec &&& demo.g.mget 1 = 1 ∧
    (divFails (at_ fun a => { a with divs := List.replicate 32 (split 0x2010 [] [0]) })).isSome = true ∧ (one 0).g.exec = 1 ∧
    (demo.g.paths.filter fun p => p.lanes &&& demo.g.live != 0).length = 1 ∧ twoPaths.act plain ≠ 0 ∧ divFails twoPaths = none ∧
    (twoPaths.g.paths.filter fun p => p.lanes &&& twoPaths.g.live != 0).length = 2 ∧ twoPaths.g.region = none ∧
    inRegion.g.strands 0xFFFFFFFF 0x3000 = true := by decide +kernel
/-- No entry; one that would leave a region; the last arm; an arm that waits for another, and one after which the next starts. -/
theorem witness_JoinArrives : demo.g.cover demo.cur = none ∧
    (let s := { joining [] [0] with g := { (joining [] [0]).g with region := some ⟨0x1FFE, 2, 3⟩, planes := [(1, 1)] } };
      s.g.cover 0 = some (split 0x2000 [] [0]) ∧ s.g.hasCalls 0 = false ∧ s.g.strands 0xFFFFFFFF (s.g.after 0x2000) = true) ∧
    (joining [] [0]).g.cover 0 = some (split 0x2000 [] [0]) ∧ (joining [] [0]).g.strands 0xFFFFFFFF 0x2001 = false ∧
    (joining [] [0, 1]).g.cover 0 = some (split 0x2000 [] [0, 1]) ∧ [0, 1].filter (· != 0) ≠ [] ∧
    (joining [⟨1, 0x3000⟩] [0]).g.cover 0 = some (split 0x2000 [⟨1, 0x3000⟩] [0]) ∧ (joining [] [0]).path.pc = 0x2000 ∧
    (joining [⟨1, 0x3000⟩] [0]).g.live.getLsbD 0 = true ∧ (joining [] [0]).g.hasCalls 0 = false ∧
    (0xFFFFFFFF : U64) &&& (joining [] [0]).g.live ≠ 0 := by decide +kernel
/-- A call that fits in a window of 512 registers; one whose spill passes offset 0 of a slice of no bytes; a drover's seventeenth. -/
theorem witness_CallOpensFrame : demo.act plain ≠ 0 ∧ demo.g.strands demo.path.lanes 0x2010 = false ∧
    (demo.g.drover && callOver demo.g) = false ∧ callFails 8 (at_ fun a => { a with q := 512 }) = none ∧ demo.vectorsDue = false ∧
    loading.vectorsDue = true ∧ loading.act plain ≠ 0 ∧
    (let s := at_ fun a => { a with calls := List.replicate 16 ⟨0, 0, 0, 1, false, none⟩ };
      (s.g.drover && callOver s.g) = false ∧ (callFails 8 s).isSome = true) ∧
    (let s := onDrv fun a => { a with calls := List.replicate 16 ⟨0, 0, 0, 1, false, none⟩ };
      s.g.drover = true ∧ callOver s.g = true ∧ s.act plain ≠ 0) := by decide +kernel
theorem witness_ReturnClosesFrame : (∀ e ∈ demo.g.calls, e.owner ≠ demo.cur) ∧
    (let s := at_ fun a => { a with calls := [⟨0x3000, 8, 0, 0xFFFFFFFF, false, none⟩], frames := [⟨0, 8, none⟩], wb := 8 };
      s.g.calls.find? (·.owner == s.cur) = some ⟨0x3000, 8, 0, 0xFFFFFFFF, false, none⟩ ∧ s.g.frames = [⟨0, 8, none⟩] ∧
      s.g.strands s.path.lanes 0x3000 = false ∧ s.vectorsDue = false) ∧
    (at_ fun a => { a with calls := [⟨0x3000, 0, 0, 0xFFFFFFFF, false, none⟩] }).g.calls.find? (·.owner == 0) =
      some ⟨0x3000, 0, 0, 0xFFFFFFFF, false, none⟩ := by decide +kernel
/-- An index at TBLLEN, and a table of one entry whose read has come back. -/
def tabled : State :=
  let s := ofGrid (fun r => { r with tblbase := 0x40000, tbllen := 1 }) (at_ fun a => { a.sset 1 0 with q := 512 })
  { s with ops := [opBy s.g.id .load 8 .none 0x2000 ((List.range 32).map fun l => ⟨l, 0x40000, 0x40000, 0, 0x3000, 0, .done, false⟩)] }
theorem witness_TableDispatch : tabled.act plain ≠ 0 ∧
    (let s := ofGrid (fun r => { r with tbllen := 5 }) demo;
      (s.act plain).getLsbD 0 = true ∧ s.rc.tbllen ≤ (s.sr 1).toNat) ∧
    (∀ l, l < 64 → (tabled.act plain).getLsbD l = true → (tabled.sr 1).toNat < tabled.rc.tbllen) ∧
    (∃ o, tabled.readBack o (lanesOf (tabled.act plain)) ∧ (o.parts.all fun p => p.data &&& 0xFE00000000000007 = 0) = true ∧
      groupsOf (o.parts.map fun p => (p.lane, tabled.sr 1, p.data)) = [⟨0xFFFFFFFF, 0x600⟩] ∧ divFails (tabled.taken o) = none ∧
      (tabled.taken o).vectorsDue = false ∧ callFails 8 (tabled.taken o) = none ∧ tableCallFails 8 (tabled.taken o) = none) ∧
    tabled.g.strands 0xFFFFFFFF 0x600 = false ∧ tabled.g.strands tabled.path.lanes 0x600 = false ∧ tabled.g.drover = false := by
  refine ⟨by decide +kernel, by decide +kernel, by decide +kernel, ⟨opBy tabled.g.id .load 8 .none 0x2000
    ((List.range 32).map fun l => ⟨l, 0x40000, 0x40000, 0, 0x3000, 0, .done, false⟩), ?_, ?_⟩, by decide +kernel⟩
  · unfold State.readBack; decide +kernel
  · decide +kernel
/-- The groups that the entries of two lanes make, and an entry that is malformed. -/
theorem witness_TableDispatch_groups : groupsOf [(0, 0, 0x3000), (1, 1, 0x4000)] = [⟨1, 0x600⟩, ⟨2, 0x800⟩] ∧
    (3 : U64) &&& 0xFE00000000000007 ≠ 0 := by decide +kernel
/-- The table lies in the page that the TLBs hold: the read goes out. -/
theorem witness_TableDispatch_sends : let s := ofGrid (fun r => { r with tblbase := 0x10000, tbllen := 1 }) (at_ fun a => a.sset 1 0)
    s.ownRead = none ∧ (∀ q ∈ s.ops, q.id < s.serial) ∧ lanesOf (s.act plain) ≠ [] ∧
    ((lanesOf (s.act plain)).all fun l => match s.place s.g ⟨.load, 0, 8, false, false, 0, false, false, 0, false, .none, true⟩ ⟨l, 0x10000, 0, 0⟩ with
      | .glob _ => true | _ => false) = true := by decide +kernel

/-- A gang with another gang of its team beside it. -/
def beside (f : Agent → Agent) (s : State) : State := { s with agents := [f { s.g with id := s.g.id + 1, idx := 1, slot := 1 }] }
/-- No store in flight; a store in flight; a dropped store; a region that the lanes which stay would leave. -/
theorem witness_ExitEndsLanes : demo.act plain ≠ 0 ∧ demo.mayRelease demo.g.id 3 = true ∧ demo.g.frames = [] ∧ demo.g.dropped = [] ∧
    loading.vectorsDue = true ∧ loading.mayRelease demo.g.id 3 = false ∧
    demo.g.strands (demo.path.lanes &&& demo.g.live &&& ~~~(demo.act { plain with guard := 1 })) (demo.g.after demo.path.pc) = false ∧
    demo.g.live &&& ~~~(demo.act { plain with guard := 1 }) ≠ 0 ∧ demo.act { plain with guard := 1 } ≠ 0 ∧
    demo.g.live &&& ~~~(demo.act plain) = 0 ∧ demo.g.id ≠ 0 ∧ (∀ a ∈ (beside id demo).agents, a.id ≠ (beside id demo).g.id ∧ a.id ≠ 0) ∧
    { demo with ops := [storeBy demo.g.id] }.mayRelease demo.g.id 3 = false ∧ (at_ fun a => { a with dropped := [stored] }).g.dropped = [stored] := by
  decide +kernel
/-- A PLANE.I at position 0 of a region of two planes and three words: no region yet; the same region; another; a plane number that is too high. -/
theorem witness_PlaneSetsPlanes : demo.act plain ≠ 0 ∧ (demo.g.path? demo.cur).isSome = true ∧ (∀ x, demo.g.region = some x → x = ⟨0x2000, 2, 3⟩) ∧
    (1 : BitVec 2).toNat < 2 ∧ 0 + 1 < (3 : BitVec 24).toNat ∧
    (at_ fun a => { a with region := some ⟨0x2000, 2, 3⟩ }).g.region = some ⟨0x2000 - BitVec.ofNat 54 0, (1 : BitVec 2).toNat + 1, 3⟩ ∧
    (at_ fun a => { a with region := some ⟨0x2000, 3, 3⟩ }).g.region = some ⟨0x2000, 3, 3⟩ ∧ (⟨0x2000, 3, 3⟩ : Region) ≠ ⟨0x2000, 2, 3⟩ ∧
    2 ≤ (2 : BitVec 2).toNat ∧ (demo.act plain).getLsbD 31 = true := by
  refine ⟨by decide +kernel, by decide +kernel, fun x h => ?_, ?_⟩
  · exact absurd h (by rw [show demo.g.region = none by decide +kernel]; simp)
  · decide +kernel
theorem witness_AllBeginAllEnd : twoPaths.g.united = false ∧ demo.g.united = true ∧ demo.g.save = none ∧
    demo.g.strands demo.path.lanes (demo.g.after demo.path.pc) = false ∧ (at_ fun a => { a with save := some 3 }).g.united = true ∧
    (at_ fun a => { a with save := some 3 }).g.save = some 3 ∧ 31 < demo.g.width := by decide +kernel
/-- Two paths; a gang that waits for another, and one whose other gang has arrived. -/
theorem witness_BarriersGather : twoPaths.act plain ≠ 0 ∧ 1 < twoPaths.g.livePaths.length ∧
    (∀ s ∈ [beside id demo, beside (fun a => { a with atBarT := true }) demo, beside (fun a => { a with atBarC := true }) demo],
      s.act plain ≠ 0 ∧ s.g.livePaths.length ≤ 1 ∧ s.mayRelease s.g.id 1 = true ∧ s.mayRelease s.g.id 2 = true ∧ s.g.dropped = [] ∧ s.g.id ≠ 0 ∧
      s.g.drover = false ∧ (∀ a ∈ s.agents, a.id ≠ s.g.id ∧ a.id ≠ 0) ∧ (s.agents.map (·.id)).Nodup ∧ s.g.atBarT = false ∧ s.g.atBarC = false ∧
      s.g.team ∈ s.tm.unit ∧ (∀ a ∈ s.agents, a.atBarT = false ∨ a.atBarC = false)) ∧
    (∃ a ∈ ((beside id demo).agents.filter fun a => !a.drover && a.team == demo.g.team), a.atBarT = false) ∧
    (∃ a ∈ ((beside id demo).agents.filter fun a => !a.drover && demo.tm.unit.contains a.team), a.atBarC = false) ∧
    (∀ a ∈ ((beside (fun a => { a with atBarT := true }) demo).agents.filter fun a => !a.drover && a.team == demo.g.team), a.atBarT = true) ∧
    (∀ a ∈ ((beside (fun a => { a with atBarC := true }) demo).agents.filter fun a => !a.drover && demo.tm.unit.contains a.team),
      a.atBarC = true) := by decide +kernel
theorem witness_WaitCountersAndYield : demo.act plain ≠ 0 ∧ (0 : BitVec 16).toNat < { demo with ops := [storeBy demo.g.id] }.inFlight demo.g.id true ∧
    { demo with ops := [storeBy demo.g.id] }.inFlight demo.g.id true ≤ (1 : BitVec 16).toNat ∧ (1 : BitVec 16) ≠ 0 ∧ demo.owed = false ∧
    demo.inFlight demo.g.id true ≤ (0 : BitVec 16).toNat ∧ demo.g.dropped = [] ∧ (at_ fun a => { a with dropped := [stored] }).g.dropped = [stored] ∧
    (at_ fun a => { a with dropped := [stored] }).inFlight demo.g.id true ≤ (0 : BitVec 16).toNat ∧ demo.tm.preq = false ∧
    demo.g.strands demo.path.lanes (demo.g.after demo.path.pc) = false ∧ demo.mayRelease demo.g.id 5 = true ∧
    (ofTeam (fun t => { t with preq := true }) demo).tm.preq = true := by decide +kernel
/-- A gang whose read of the PRIO byte has come back: PRIO 3, with its queue empty, or full. -/
def prioRead (s : State) : MemOp := opBy s.g.id .load 1 .none 0x2000 [⟨0, 0x40025, 0x40025, 0, 3, 0, .done, false⟩]
def launching (queued : Nat) : State :=
  let s := at_ fun a => a.sset 1 0x40000
  { s with
    queues := [(3, List.replicate queued ⟨0x80000, 0, none, 0xFFFFFFFF, 0, 0, 0, 0⟩)]
    ops := [prioRead s] }
def child : U64 × Option Nat × Nat := (0x40000, none, 0)
theorem witness_LaunchAndChildWait : demo.act plain ≠ 0 ∧ (at_ fun a => { a with idx := 1 }).g.idx ≠ 0 ∧ demo.g.idx = 0 ∧
    10 ≤ ({ demo with grids := demo.grids.map fun g => { g with depth := 10 } } : State).gr.depth ∧ demo.gr.depth < 10 ∧
    (∀ s ∈ [launching 0, launching 1024], s.act plain ≠ 0 ∧ s.g.idx = 0 ∧ s.gr.depth < 10 ∧ s.mayRelease s.g.id 3 = true ∧ s.g.dropped = [] ∧
      s.ownRead = some (prioRead s) ∧ (∀ p ∈ (prioRead s).parts, p.st = .done) ∧ (prioRead s).parts.map (·.lane) = [lowest s.before] ∧
      (prioRead s).parts.map (·.data) = [3] ∧ (s.taken (prioRead s)).g.strands s.path.lanes (s.g.after s.path.pc) = false) ∧
    (launching 0).queue 3 = [] ∧ 1024 ≤ ((launching 1024).queue 3).length ∧ (∃ x ∈ (launching 0).teams, x.id = (launching 0).g.team) ∧
    (let s := ofTeam (fun t => { t with children := [child] }) demo; s.sr 4 ≠ 0 ∧ s.tm.children = [child] ∧ s.childDone child = false) ∧
    (∀ c ∈ demo.tm.children, demo.childDone c = true) := by decide +kernel

/-- A gang with 4096 bytes of scratchpad and 16 of slice; lanes 0 and 31 are in EXEC, with the offsets 64 and 4092 in v1 and numbers in v2 to v5; the
addresses of LDG and STG stand in v6 and v7. -/
def pad : State :=
  ofTeam (fun t => { t with size := 4096 + 2048, spad := 4096 }) (ofGrid (fun r => { r with scratch := 4096, lpriv := 16 }) (at_ fun a =>
    let b := (a.sset 1 0).sset 2 4092
    let b := [(1, 0, 64), (1, 31, 4092), (2, 0, 9), (2, 31, 8), (3, 0, 7), (3, 31, 6), (4, 0, 0), (4, 31, 12), (6, 0, 64), (6, 31, 4092), (7, 0, 0),
      (7, 31, 0)].foldl (fun (b : Agent) (e : Nat × Nat × Nat) => b.pset e.1 e.2.1 (BitVec.ofNat 32 e.2.2)) b
    { b with exec := 0x80000001 }))
/-- The bytes of an access of four bytes: of lane l, at offset 64 or 4092 of the scratchpad; of the last word of a slice. -/
def padBytes (l : Nat) : List Nat := (List.range 4).map (poolBase 0 + (if l = 0 then 64 else 4092) + ·)
def sliceBytes (l : Nat) : List Nat := (List.range 4).map (pad.sliceAddr pad.g l (if l = 0 then 0 else 12) + ·)
def zeros : Nat → U64 := fun _ => 0
/-- What the statements about local accesses ask, of a form whose lanes go to these bytes. -/
def fits (s : State) (f : Form) (rs : List Req) (bs : Nat → List Nat) : Prop := rs ≠ [] ∧ s.mayAccess f ∧ s.lanesAt f rs bs ∧ s.apart f rs bs
def slice32 : MemX := { word32 with space := 4 }
theorem witness_LocalLoads : pad.g.id ≠ 0 ∧ 1 < pad.g.q ∧ pad.act plain ≠ 0 ∧
    fits pad (formOf .load word32 0 (pad.g.vdest 8) false) (pad.reqs plain (pad.laneEa 0 1 1) zeros zeros) padBytes ∧
    fits pad (formOf .load slice32 0 (pad.g.vdest 8) false) (pad.reqs plain (pad.laneEa 0 1 4) zeros zeros) sliceBytes ∧
    fits pad (formOf .load word32 0 (pad.g.vdest 8) false) (pad.reqs plain (pad.vr2 6) zeros zeros) padBytes ∧
    fits pad (formOf .load word32 0 (.scalar 3) true) (pad.uniReq plain (pad.scalarEa 0 2 0) 0 0) (fun _ => padBytes 31) := by
  unfold fits State.mayAccess State.lanesAt State.apart; and_intros <;> decide +kernel
theorem witness_LocalStores :
    fits pad (formOf .store word32 0 .none false) (pad.reqs plain (pad.laneEa 0 1 1) (pad.laneData 2 2) zeros) padBytes ∧
    fits pad (formOf .store slice32 0 .none false) (pad.reqs plain (pad.laneEa 0 1 4) (pad.laneData 2 2) zeros) sliceBytes ∧
    fits pad (formOf .store word32 0 .none false) (pad.reqs plain (pad.vr2 6) (pad.laneData 2 2) zeros) padBytes ∧
    fits pad (formOf .store word32 0 .none true) (pad.uniReq plain (pad.scalarEa 0 2 0) 5 0) (fun _ => padBytes 31) := by
  unfold fits State.mayAccess State.lanesAt State.apart; and_intros <;> decide +kernel
/-- A compare-and-swap, an FP32 add of numbers, a reduce-store, a scalar exchange. -/
theorem witness_LocalAtomics :
    fits pad (formOf .atomic word32 9 (pad.g.vdest 2) false) (pad.reqs plain (pad.laneEa 0 1 1) (pad.laneData 2 3) (pad.laneData 2 2)) padBytes ∧
    fits pad (formOf .atomic word32 10 (pad.g.vdest 2) false) (pad.reqs plain (pad.laneEa 0 1 1) (pad.laneData 2 2) zeros) padBytes ∧
    Unmarked pad plain (fun l => [pad.vr 2 l]) ∧
    fits pad (formOf .reduce word32 4 .none false) (pad.reqs plain (pad.laneEa 0 1 1) (pad.laneData 2 2) zeros) padBytes ∧
    fits pad (formOf .atomic word32 8 (.scalar 3) true) (pad.uniReq plain (pad.scalarEa 0 2 0) 5 0) (fun _ => padBytes 31) ∧
    marker (lo32 (pad.sr 2)) = none ∧ (2 ^ 16 - 1 < 2 ^ 16 ∧ 0 < 16) := by
  refine ⟨?_, ?_, unmarked_of (by decide +kernel), ?_⟩ <;> (unfold fits State.mayAccess State.lanesAt State.apart; and_intros <;> decide +kernel)
/-- Addresses 0x10000 and 0x1FFFC of the page that the TLBs hold. -/
def paged : State := at_ fun a =>
  let b := [(1, 0, 0), (1, 31, 0xFFFC), (2, 0, 9), (2, 31, 8), (3, 0, 7), (3, 31, 6), (6, 0, 0x10000), (6, 31, 0x1FFFC), (7, 0, 0), (7, 31, 0)].foldl
    (fun (b : Agent) (e : Nat × Nat × Nat) => b.pset e.1 e.2.1 (BitVec.ofNat 32 e.2.2)) (a.sset 1 0x10000)
  { b with exec := 0x80000001 }
def global32 : MemX := { word32 with space := 0 }
/-- What the statement about global accesses asks of a form. -/
def sendable (s : State) (f : Form) (rs : List Req) : Prop := rs ≠ [] ∧ s.mayAccess f ∧ f.space = 0 ∧ (∀ q ∈ s.ops, q.id < s.serial) ∧
  (rs.all fun r => match s.place s.g f r with | .glob _ => true | _ => false) = true
theorem witness_GlobalAccessesLeave :
    sendable paged (formOf .load global32 0 (paged.g.vdest 8) false) (paged.reqs plain (paged.laneEa 0 1 1) zeros zeros) ∧
    sendable paged (formOf .store global32 0 .none false) (paged.reqs plain (paged.laneEa 0 1 1) (paged.laneData 2 2) zeros) ∧
    sendable paged (formOf .load global32 0 (.scalar 3) true) (paged.uniReq plain (paged.scalarEa 0 1 0) 0 0) ∧
    sendable paged (formOf .store global32 0 .none true) (paged.uniReq plain (paged.scalarEa 0 1 0) 5 0) ∧
    sendable paged (formOf .load global32 0 (paged.g.vdest 8) false) (paged.reqs plain (paged.vr2 6) zeros zeros) ∧
    sendable paged (formOf .store global32 0 .none false) (paged.reqs plain (paged.vr2 6) (paged.laneData 2 2) zeros) ∧
    sendable paged (formOf .atomic global32 9 (paged.g.vdest 2) false) (paged.reqs plain (paged.laneEa 0 1 1) (paged.laneData 2 3) (paged.laneData 2 2)) ∧
    sendable paged (formOf .atomic global32 8 (.scalar 3) true) (paged.uniReq plain (paged.scalarEa 0 1 0) 5 0) ∧
    sendable paged (formOf .reduce global32 12 .none false) (paged.reqs plain (paged.laneEa 0 1 1) (paged.laneData 2 2) zeros) ∧
    Unmarked paged plain (fun l => [paged.vr 2 l]) ∧ marker (lo32 (paged.sr 1)) = none := by
  refine ⟨?_, ?_, ?_, ?_, ?_, ?_, ?_, ?_, ?_, unmarked_of (by decide +kernel), by decide +kernel⟩ <;>
    (unfold sendable State.mayAccess; decide +kernel)
/-- Lane 0 at offset 64, lane 31 at 4091, under a handler. -/
def skew : State := { pad with g := { (pad.g.pset 1 31 4091) with trapvec := 0x800 } }
theorem witness_MisalignedAccessTraps : (word32.space ≠ 0 ∧ pad.act plain ≠ 0 ∧ word32.ord = 0 ∧
      pad.countersFull (formOf .load word32 0 (.scalar 3) true) = false ∧
      ({ pad with g := pad.g.sset 2 4091 } : State).scalarEa 0 2 0 = 4091 ∧ (4091 : U64).toNat % 2 ^ (2 : BitVec 2).toNat ≠ 0) ∧
    (skew.g.id ≠ 0 ∧ skew.g.drover = false ∧ skew.g.handler = none ∧ skew.g.trapvec >>> 3 ≠ 0 ∧ skew.quiet skew.g.id = true ∧
      skew.countersFull (formOf .load word32 0 (skew.g.vdest 8) false) = false ∧ (skew.act plain).getLsbD 31 = true ∧
      (skew.laneEa 0 1 1 31).toNat % 4 ≠ 0 ∧ (skew.laneEa 0 1 1 0).toNat % 4 = 0 ∧ skew.act plain = 0x80000001 ∧
      skew.place skew.g (formOf .load word32 0 (skew.g.vdest 8) false) ⟨0, skew.laneEa 0 1 1 0, 0, 0⟩ = .own (padBytes 0)) := by decide +kernel
/-- What the statement about misaligned accesses asks of a form some of whose lanes are not aligned. -/
def astray (s : State) (f : Form) (rs : List Req) : Prop := s.g.id ≠ 0 ∧ s.mayAccess f ∧ (∃ r ∈ rs, r.misaligned f) ∧
  (rs.all fun r => r.ea.toNat % f.n != 0 || match s.place s.g f r with | .own _ => true | .glob _ => true | _ => false) = true
/-- Lane 31 at 0x1FFFB of the page that the TLBs hold, by v1 and by v6 and v7. -/
def pagedSkew : State := { paged with g := (paged.g.pset 1 31 0xFFFB).pset 6 31 0x1FFFB }
theorem witness_MisalignedAccessTraps_lanes :
    astray skew (formOf .load word32 0 (skew.g.vdest 8) false) (skew.reqs plain (skew.laneEa 0 1 1) zeros zeros) ∧
    astray pagedSkew (formOf .load global32 0 (pagedSkew.g.vdest 8) false) (pagedSkew.reqs plain (pagedSkew.laneEa 0 1 1) zeros zeros) ∧
    astray pagedSkew (formOf .store global32 0 .none false) (pagedSkew.reqs plain (pagedSkew.laneEa 0 1 1) (pagedSkew.laneData 2 2) zeros) ∧
    astray pagedSkew (formOf .load global32 0 (pagedSkew.g.vdest 8) false) (pagedSkew.reqs plain (pagedSkew.vr2 6) zeros zeros) ∧
    astray pagedSkew (formOf .store global32 0 .none false) (pagedSkew.reqs plain (pagedSkew.vr2 6) (pagedSkew.laneData 2 2) zeros) ∧
    astray skew (formOf .atomic word32 9 (skew.g.vdest 2) false) (skew.reqs plain (skew.laneEa 0 1 1) (skew.laneData 2 3) (skew.laneData 2 2)) ∧
    astray skew (formOf .reduce word32 12 .none false) (skew.reqs plain (skew.laneEa 0 1 1) (skew.laneData 2 2) zeros) ∧
    Unmarked skew plain (fun l => [skew.vr 2 l]) ∧ skew.stopsNow skew.g skew.trapPc = true := by
  refine ⟨?_, ?_, ?_, ?_, ?_, ?_, ?_, unmarked_of (by decide +kernel), by decide +kernel⟩ <;>
    (unfold astray State.mayAccess Req.misaligned; decide +kernel)
/-- s2 holds an address that is not aligned. -/
def offWord : State := { pad with g := pad.g.sset 2 4091 }
theorem witness_MisalignedAccessTraps_uniform : (∀ f ∈ [formOf .load word32 0 (.scalar 3) true, formOf .store global32 0 .none true,
      formOf .atomic word32 8 (.scalar 3) true], offWord.mayAccess f ∧ ∃ r ∈ offWord.uniReq plain (offWord.scalarEa 0 2 0) 5 0, r.misaligned f) ∧
    marker (lo32 (offWord.sr 2)) = none := by
  unfold State.mayAccess Req.misaligned; decide +kernel
theorem witness_InactiveWordsDoNothing : (at_ fun a => { a with exec := 0 }).act plain = 0 ∧ demo.act { plain with guard := 1 } ≠ 0 ∧
    (at_ id).act { plain with guard := 1 } = 0 ∧ (at_ id).g.whole = true := by decide +kernel

/-- A whole gang with 64 KiB of scratchpad and a descriptor k in k1 and k2, coordinates of 0 in s4 to s9. -/
def boxed (k : BitVec 512) : State :=
  ofGrid (fun r => { r with scratch := 65536 }) (ofTeam (fun t => { t with size := 65536, spad := 65536 }) (at_ fun a =>
    (List.range 12).foldl (fun (b : Agent) i => b.sset i 0) ((a.kset 1 k).kset 2 k)))
/-- A row of eight FP32 elements at 0x40000. -/
def row8 : BitVec 512 := BitVec.ofNat 512 (0x40000 + 7 * 2 ^ 344 + 2 ^ 384)
theorem witness_FencesInvalidationsPrefetch : demo.act plain ≠ 0 ∧ demo.loadsBack demo.g.id = true ∧ demo.inFlight demo.g.id true = 0 ∧
    (∀ k ∈ demo.ops, k.readers.contains demo.g.id = false) ∧ demo.g.dropped = [] ∧ (1 : BitVec 2).getLsbD 0 = true ∧ 2 ≤ (2 : BitVec 3).toNat ∧
    demo.g.drover = false ∧ { demo with ops := [storeBy demo.g.id] }.inFlight demo.g.id true ≠ 0 ∧
    { demo with ops := [{ storeBy demo.g.id with kind := .load, dest := .scalar 1 }] }.loadsBack demo.g.id = false ∧
    2 ^ 21 < (2 ^ 21 + 1 : U64).toNat ∧ (paged.sr 1).toNat ≤ 2 ^ 21 ∧ pagesOf 0x10000 0x10000 = [1] ∧
    (match paged.find paged.g ⟨false, false, false⟩ 0x10000 with | .ok q => decide (q.pa = 0x10000) | _ => false) = true ∧
    paged.act plain ≠ 0 ∧ ((paged.reqs plain (paged.laneEa 0 1 1) zeros zeros).all fun r =>
      match paged.place paged.g ⟨.fill, 0, 4, false, false, 0, false, false, 0, false, .none, false⟩ r with | .glob _ => true | _ => false) = true := by
  decide +kernel
/-- A KSET whose 64 bytes have come back; the descriptor of KMOD; one that fails; an address that is not aligned. -/
def kread : State :=
  let s := at_ fun a => (a.sset 1 0x40000).sset 2 0x40020
  let w := fun (i : Nat) => BitVec.ofNat 64 (row8.toNat / 2 ^ (64 * i) % 2 ^ 64)
  { s with ops := [opBy s.g.id .load 8 .none 0x2000
    ((List.range 8).map fun i => ⟨i, 0x40000 + BitVec.ofNat 64 (8 * i), 0x40000 + 8 * i, 0, w i, 0, .done, false⟩)] }
theorem witness_DescriptorRegisters : kread.act plain ≠ 0 ∧ (kread.sr 1).toNat % 64 = 0 ∧ (kread.sr 2).toNat % 64 ≠ 0 ∧
    (match (inlineRead 0 8 ((List.range 8).map fun i => (i, kread.sr 1 + BitVec.ofNat 64 (8 * i))) kread).1 with
      | .ok vs => decide (vs = (List.range 8).map fun i => (i, BitVec.ofNat 64 (row8.toNat / 2 ^ (64 * i) % 2 ^ 64)))
      | _ => false) = true ∧
    kread.countersFull (plainForm .load) = false ∧ descFails row8 = [] ∧ descFails (row8 + 1) = [0] := by decide +kernel
/-- What the statement about box copies asks in each of its clauses, of a transfer. -/
def copies (s : State) (x : Xfer) : Prop := s.g.whole = true ∧ s.act plain ≠ 0 ∧ copyIllegal x = none ∧ (∀ o ∈ x.offsets, o % 16 = 0) ∧
  (x.mc = true → x.mask ≠ 0 ∧ x.mask.toNat < 2 ^ s.rc.members) ∧ x.outside s.rc.scratch = none ∧ s.mayRelease s.g.id 1 = true ∧ s.g.dropped = [] ∧
  (s.eng.xfers.filter fun y => y.agent == s.g.id && !y.drover).length < 32 ∧ (s.core x.core).queue.length < 64 ∧
  s.lockRoom ((s.xferTeams x).flatMap x.lockOf) = true
def loads (s : State) (k : BitVec 512) (off : Nat) : Xfer := s.newXfer .ld s.g.team s.g.coreNo k 0 off [0, 0, 0] []
theorem witness_BoxCopiesIssue : copies (boxed row8) (loads (boxed row8) row8 65504) ∧
    copies (boxed row8) { loads (boxed row8) row8 0 with mc := true, mask := 1 } ∧
    copies (boxed row8) { (boxed row8).newXfer .st (boxed row8).g.team 0 row8 0 0 [0, 0, 0] [] with rop := 1 } ∧
    copies (boxed row8) ((boxed row8).newXfer .cp (boxed row8).g.team 0 row8 row8 0 [0, 0, 0] [0, 0, 0]) ∧
    twoPaths.g.whole = false ∧ copyIllegal (loads (boxed 0) 0 0) = some 0xAC ∧ (loads (boxed row8) row8 8).offsets.find? (fun o => o % 16 != 0) = some 8 ∧
    (boxed row8).rc.members = 1 ∧ (2 : U64).toNat ≥ 2 ^ 1 ∧ (loads (boxed row8) row8 65520).outside 65536 = some 65520 := by
  unfold copies; and_intros <;> decide +kernel
/-- A format block of BF16 by BF16; an epilogue descriptor of FP32 rows of 512 bytes at offset 0 of the scratchpad. -/
def bf16 : U64 := BitVec.ofNat 64 (2 ^ 58 + 2 ^ 44)
def rows512 : BitVec 512 := BitVec.ofNat 512 (512 * 2 ^ 96)
def matrixes : State :=
  let s := boxed row8
  { s with g := (s.g.sset 3 bf16).sset 1 1024, mem := putBytes (poolBase 0 + 12) (bytesOf 4 512) s.mem }
/-- The buffer 0 of a team with this record, and with the latch holding rows of v8. -/
def recorded (f : U64) : State := ofTeam (fun t => { t with bufs := [(0, { Buffer.empty with fmt := some (fbRecord f) })] }) matrixes
def latched : State := { recorded bf16 with g := { matrixes.g with latch := ⟨true, 2, 8, [(0, 7)]⟩ } }
def mayStart (s : State) (ls : List (Nat × Lock)) : Prop := s.g.whole = true ∧ s.act plain ≠ 0 ∧ s.mayRelease s.g.id 1 = true ∧ s.g.dropped = [] ∧
  (s.eng.mats.filter fun y => y.agent == s.g.id).length < 32 ∧ s.lockRoom ls = true
theorem witness_MatrixWordsIssue :
    mayStart matrixes (spanLock matrixes.serial false matrixes.tm (mldSpans 0 0 bf16)) ∧ fbValid bf16 = true ∧ fbAsoff bf16 % 16 = 0 ∧
    (∀ r ∈ mldSpans 0 0 bf16, r.1 + r.2 ≤ matrixes.rc.scratch) ∧ fmtWidth (fbBfmt bf16) = 16 ∧ fbBsp bf16 = false ∧ fbBsfmt bf16 = 0 ∧
    matrixes.teams.any (·.id == matrixes.g.team) = true ∧ (15 : BitVec 4).toNat / 8 ≠ (0 : BitVec 2).toNat / 2 ∧
    (7 : BitVec 4).toNat / 8 = (1 : BitVec 2).toNat / 2 ∧ mayStart latched (spanLock latched.serial false latched.tm (scaleSpans bf16 2)) ∧
    (SMap.get Buffer.empty latched.tm.bufs 0).fmt = some (fbRecord bf16) ∧ latched.g.latch = ⟨true, 2, latched.g.phys 8, [(0, 7)]⟩ ∧
    (SMap.get Buffer.empty (recorded (bf16 + 2 ^ 44)).tm.bufs 0).fmt = some (fbRecord (bf16 + 2 ^ 44)) ∧
    recordKey (fbRecord (bf16 + 2 ^ 44)) ≠ recordKey (fbRecord bf16) ∧ (recorded (bf16 + 2 ^ 44)).g.whole = true := by
  unfold mayStart; and_intros <;> decide +kernel
/-- EPI and EPI.RS of two rows, with the descriptor at offset 0 and the output at offset 1024. -/
theorem witness_MatrixWordsIssue_epilogues : (matrixes.sr 0).toNat % 64 = 0 ∧ (matrixes.sr 1).toNat % 16 = 0 ∧ (matrixes.sr 0).toNat + 64 ≤ matrixes.rc.scratch ∧
    matrixes.ops = [] ∧ (match sideRead matrixes.tm 0 0 64 matrixes with | .ok bs => decide (BitVec.ofNat 512 (ofBytes bs) = rows512) | _ => false) = true ∧
    epiFails false rows512 = [] ∧ epiFails true rows512 = [] ∧ epiSources rows512 = [] ∧
    (let w := widenTo (swzSpan (edOswz rows512)) 1024 (edStride rows512 + rowBytes rows512); w.1 + (w.2 - w.1) ≤ matrixes.rc.scratch) ∧
    mayStart matrixes (spanLock matrixes.serial true matrixes.tm [(1024, 512), (1536, 512)]) := by
  unfold mayStart; and_intros <;> decide +kernel
/-- A copy and a matrix operation of the gang, in the batch b. -/
def copying (b : Option U32) (s : State) : State := { s with eng := { s.eng with xfers := [{ loads s row8 0 with batch := b }] } }
def mmaing (b : Option U32) (s : State) : State := { s with eng := { s.eng with mats := [{ s.newMat .mma 0 0 0 1 0 bf16 0 with batch := b }] } }
def engFault (mat : Bool) : EngFault := ⟨mat, some 1, 3, 0, 7, 0x40000, 2⟩
theorem witness_BatchesAndWaits : (boxed row8).act plain ≠ 0 ∧
    (∃ x ∈ (copying (some 0) (boxed row8)).eng.xfers, x.agent = (boxed row8).g.id ∧ x.drover = false ∧ covered 0 x.batch = true) ∧
    (∀ x ∈ (copying none (boxed row8)).eng.xfers, covered 0 x.batch = false) ∧
    (∃ x ∈ (mmaing (some 0) (boxed row8)).eng.mats, x.agent = (boxed row8).g.id ∧ covered 0 x.batch = true) ∧
    (∀ x ∈ (mmaing none (boxed row8)).eng.mats, covered 0 x.batch = false) ∧ (boxed row8).eng.xfers = [] ∧ (boxed row8).eng.mats = [] ∧
    (boxed row8).g.engFaults = [] ∧ (1 : BitVec 3).toNat < 2 ∧ covered 1 (engFault false).batch = true ∧ (engFault false).mat = false ∧
    covered 1 (engFault true).batch = true ∧ (engFault true).mat = true ∧ (onDrv id).act plain ≠ 0 ∧ (onDrv id).g.drover = true ∧ (onDrv id).eng.xfers = [] ∧
    ([engFault false, { engFault false with order := 1 }].filter fun f => !f.mat && covered 1 f.batch).length = 2 ∧
    (∃ x ∈ ({ onDrv id with eng := { xfers := [{ loads (onDrv id) row8 0 with drover := true, seq := 1 }], mats := [] } } : State).eng.xfers,
      x.agent = (onDrv id).g.id ∧ x.drover = true ∧ covered 1 (some x.seq) = true) := by
  and_intros <;> decide +kernel

/-- A gang with a counted barrier of two arrivals at offset 1024 of its scratchpad; s1 holds the offset. -/
def barred (b : Barrier) : State := let s := putBarrier (poolBase 0 + 1024) b (boxed row8); { s with g := (s.g.sset 1 1024).sset 2 1 }
def fresh2 : Barrier := ⟨2, 1, false, false, 0, 0⟩
/-- A drover at its word, whose team has 64 KiB on core 0. -/
def drv (f : Agent → Agent) : State := ofGrid (fun r => { r with scratch := 65536 }) (ofTeam (fun t => { t with size := 65536, spad := 65536 }) (onDrv f))
def drvBarred (b : Barrier) : State := putBarrier (poolBase 0 + 1024) b (drv fun a => (a.sset 1 1024).sset 2 1)
theorem witness_CountedBarriers :
    (∀ s ∈ [barred fresh2, barred ⟨2, 1, true, true, 1, 0⟩], s.act plain ≠ 0 ∧ s.mayRelease s.g.id 2 = true ∧ s.g.dropped = [] ∧ s.tm.aborts = [] ∧
      s.badUnits (poolBase 0 + 1024) 16 = [] ∧ s.countersFull (plainForm .store) = false ∧
      ∀ w f : Bool, s.barrierAt 1 w f (s.sr 1) (poolBase 0 + 1024)) ∧
    (barred fresh2).barrier (poolBase 0 + 1024) = fresh2 ∧ ((barred fresh2).sr 2).toNat % 2 ^ 32 ≠ 0 ∧ ((barred fresh2).sr 10).toNat % 2 ^ 32 = 0 ∧
    fresh2.phase = (0 : U64).getLsbD 0 ∧ fresh2.phase ≠ (1 : U64).getLsbD 0 ∧ ((barred ⟨2, 1, true, true, 1, 0⟩).barrier (poolBase 0 + 1024)).broken = true ∧
    (let s := drvBarred fresh2; s.act plain ≠ 0 ∧ (∀ w : Bool, s.barrierAt 1 w false (s.sr 1) (poolBase 0 + 1024)) ∧
      s.mayRelease s.g.id 2 = true ∧ s.g.dropped = [] ∧ s.owed = false ∧ s.barrier (poolBase 0 + 1024) = fresh2) := by
  unfold State.barrierAt; and_intros <;> decide +kernel
/-- A member team of two gangs of group 0, in the state st of R434, with a buffer of 64 FP32 elements in k1, and offset 1024 in s1. -/
def row64 : BitVec 512 := BitVec.ofNat 512 (0x10000 + 63 * 2 ^ 104 + 2 ^ 384)
def grouped (st : Nat) : State :=
  let s := ofGrid (fun r => { r with gangs := 2 }) (boxed row64)
  let s := { s with g := (s.g.sset 1 (BitVec.ofNat 64 (1024 * 2 ^ 32))).sset 2 2 }
  (s.setReg (rFab 0) (BitVec.ofNat 64 (st * 2 ^ 61))).setReg (rFab 0x400) 1
theorem witness_CollectivesIssue : (∀ s ∈ [grouped 0, grouped 1, grouped 2], s.g.whole = true ∧ s.act plain ≠ 0 ∧ s.sr 1 &&& 0xF000FFC0 = 0 ∧
      s.g.kget 1 ≠ 0 ∧ collShape 0 true row64 0 (s.grpSize 0) = true ∧ collShape 1 false row64 row64 (s.grpSize 0) = true ∧ s.g.kget 1 = row64 ∧
      (namesHere row64 s).2 = some true ∧ (namesHere row64 (namesHere row64 s).1).2 = some true ∧ (s.sr 1 >>> 32).toNat = 1024 ∧
      1024 + 16 ≤ (namesHere row64 s).1.rc.scratch) ∧
    (let u := (namesHere row64 (grouped 1)).1;
      u.grpState 0 = 1 ∧ u.isMember 0 u.tm = true ∧ u.mayRelease u.g.id 2 = true ∧ u.g.dropped = [] ∧ 1 < u.rc.gangs ∧ u.sys.colls = []) ∧
    (grouped 0).grpState 0 = 0 ∧ (grouped 2).grpState 0 = 2 ∧ (grouped 2).isMember 0 (grouped 2).tm = true ∧ 1 < ((grouped 1).sr 2).toNat ∧
    ((grouped 1).sr 4).toNat ≤ 1 := by decide +kernel
theorem witness_DroverStart : demo.act plain ≠ 0 ∧ (demo.sr 1).toNat % 8 ≠ 0 ∧
    (let s := at_ fun a => a.sset 1 0x10000; (s.sr 1).toNat % 8 = 0 ∧ s.mayRelease s.g.id 2 = true ∧ s.g.dropped = [] ∧ (s.die s.g.die).binds = [] ∧
      (s.die s.g.die).restored = [] ∧ s.freeContext s.g.die = some 0 ∧
      s.headerDue s.g.die 0 ⟨s.g.team, s.g.grid, none, s.g.id, s.path.pc, s.gt, s.sr 1, s.sr 2, s.sr 3, s.serial⟩ = false ∧
      ({ s with agents := (List.range 24).map fun n => { s.g with id := 100 + n, drover := true, idx := n } } : State).freeContext 0 = none) := by
  decide +kernel
/-- A drover with a descriptor in k1 and k2; s8 names the offset 1024 of core 0, s16 to s18 coordinates on core 1. -/
def boxer : State := drv fun a => (((a.kset 1 (row8 - 0x30000)).kset 2 row8).sset 8 1024).sset 18 (BitVec.ofNat 64 (2 ^ 56))
theorem witness_DroverWords : boxer.act plain ≠ 0 ∧ copyIllegal (boxer.newBxi .ld 8 0 1 12) = none ∧ copyIllegal (boxer.newBxi .st 8 1 1 12) = none ∧
    (∀ o ∈ (boxer.newBxi .ld 8 0 1 12).offsets, o % 16 = 0) ∧ boxer.aim boxer.g (boxer.sr 8) = .at_ 2 1024 ∧ (boxer.newBxi .ld 8 0 1 12).barrier = none ∧
    (let y := { boxer.newBxi .ld 8 0 1 12 with off := 1024, team := 2, target := 2, core := 0, die := 0 };
      y.outside (boxer.team 2).size = none ∧ boxer.bxiWaits y = false ∧ (boxer.team 2).die * 64 + (boxer.team 2).core = 0) ∧ boxer.eng.xfers = [] ∧ boxer.mayRelease boxer.g.id 2 = true ∧ boxer.g.dropped = [] ∧
    (let x := { boxer.newXfer .cp 0 0 (boxer.g.kget 1) (boxer.g.kget 2) 0 (boxer.triple 16) (boxer.triple 12) with rop := 0 };
      copyIllegal x = none ∧ x.offsets = [] ∧ x.barrier = none ∧ kRecen x.desc = false ∧
      boxer.bxiWaits { x with off := 0, team := 0, target := 0, core := 1, die := 0 } = false) ∧ ((boxer.sr 18).extractLsb' 56 6).toNat = 1 ∧
    boxer.coreFor boxer.g 1 = some 1 ∧ boxer.teamFor boxer.g 1 = none ∧ boxer.inFlight boxer.g.id true = 0 ∧ boxer.g.kget 1 ≠ 0 ∧
    (boxer.sr 8).toNat + (boxCount (boxer.g.kget 1) * fmtWidth (kTfmt (boxer.g.kget 1)) + 7) / 8 ≤ 16384 ∧
    (match (packBox ⟨0, none, 0, boxer.g.grid, boxer.g.logNo, 0, boxer.g.id, false⟩ (boxer.g.kget 1) (boxer.triple 12) (List.range 8) 0 0 boxer).2 with | .ok _ => true | .error _ => false) = true ∧
    (boxer.sr 8).toNat % 4 = 0 ∧ (boxer.sr 8).toNat + 4 ≤ 16384 ∧ (16380 : Nat) + 4 ≤ 16384 ∧ 16384 < (16384 : U64).toNat + 4 ∧ (2 : U64).toNat % 4 ≠ 0 ∧
    (boxer.sr 8).toNat % 16 = 0 ∧ (boxer.sr 0).toNat < 64 ∧ boxer.coreFor boxer.g (boxer.sr 0).toNat = some 0 ∧ boxer.g.engFaults = [] ∧
    boxer.g.binding = none ∧ ({ boxer with eng := { xfers := [{ loads boxer row8 0 with drover := true }], mats := [] } } : State).eng.xfers ≠ [] := by
  and_intros <;> decide +kernel

theorem witness_SpecialRegisters : demo.act plain ≠ 0 ∧ covered 3 (some (0 : U32)) = true ∧ 63 < 64 ∧ (15 : Nat) < 16 := by decide +kernel
/-- A gang under a handler, in its trap handler with control set `c`; entries of the lanes of an LD (the word of test_decode_memory): one that passes, one of which lane 31 is not aligned. -/
def ctl (f : Agent → Agent) : ControlSet := (f (at_ id).g).control
def entry : PendEntry := ⟨5, 0, true, 1, 0x2000, 0x80000001, 0x50030101CC080B83, [(0, 64), (31, 4092)], []⟩
def handling (e : List PendEntry) (s : State) : State := { s with g := { s.g with handler := some (ctl id), trapvec := 0x800, pend := e } }
def failing : PendEntry := { entry with addr := [(0, 64), (31, 4094)] }
def aTrap : Stopping := ⟨⟨0x0732, 0x2000, 1, 0, 0⟩, 0x2001, 0, 0, []⟩
theorem witness_TrapsAndReturns : demo.act plain ≠ 0 ∧
    ([entry, { entry with order := 6 }].Pairwise fun x y => x.order ≤ y.order) ∧
    (let s := at_ fun a => { a with trapvec := 0x800 }; s.g.drover = false ∧ s.g.handler = none ∧ s.g.trapvec >>> 3 ≠ 0 ∧ aTrap.regs.cause ≠ 0xFF32 ∧
      (s.g.path? aTrap.path).isSome = true) ∧
    (handling [] demo).g.handler.isSome = true ∧ demo.g.trapvec >>> 3 = 0 ∧ demo.g.drover = false ∧ demo.sys.parklog.length < 64 ∧ demo.g.handler = none ∧
    (handling [entry] demo).g.pend ≠ [] ∧ (handling [] loading).vectorsDue = true ∧
    (let s := handling [] demo; s.g.handler = some (ctl id) ∧ s.g.pend = [] ∧ s.g.hits = [] ∧ (ctl id).frames = [] ∧ (ctl id).divs = [] ∧ s.vectorsDue = false ∧
      (∀ p ∈ (ctl id).paths, p.lanes &&& s.g.live ≠ 0) ∧ (∀ k ∈ (ctl id).calls, k.lanes &&& s.g.live ≠ 0)) := by
  and_intros <;> decide +kernel
theorem witness_TrapsAndReturns_resume :
    (∀ e ∈ [entry, failing], let s := handling [e] pad; let f := (s.entryForm e).1;
      s.g.handler.isSome = true ∧ s.g.resuming = none ∧ s.settlesDue = false ∧ s.g.pend = [e] ∧ s.g.id ≠ 0 ∧ (s.entryForm e).2 ≠ [] ∧ f.kind = .load ∧ f.uni = false ∧ f.rel = false ∧ f.space ≠ 0 ∧
      f.n ≠ 8 ∧ f.dest = .vector 12 13 ∧ s.countersFull f = false) ∧
    (let s := handling [entry] pad; ∀ r ∈ (s.entryForm entry).2, s.place s.g (s.entryForm entry).1 r = .own (padBytes r.lane)) ∧
    (let s := handling [failing] pad; let f := (s.entryForm failing).1;
      s.place s.g f ⟨31, 4094, 0, 0⟩ = .bad (0x12, 0x50) ∧ s.place s.g f ⟨0, 64, 0, 0⟩ = .own (padBytes 0) ∧
      (s.entryForm failing).2 = [⟨0, 64, 0, 0⟩, ⟨31, 4094, 0, 0⟩]) ∧ (demo.sr 1).getLsbD 0 = true := by
  and_intros <;> decide +kernel
/-- Snapshots enabled, with colour 0 in a state, and with ports. -/
def snapped (ctl : U64) (st : ColState) : State :=
  let s := demo.setReg (rSnap 0) ctl
  { s with sys := { s.sys with c0 := { Colour.free with st := st } } }
/-- Records of the user kind on, with segments of 4 KiB and the stream of the core at position 128 in order. -/
def traced : State :=
  let s := ((demo.setReg (rTrace 0 8) 4096).setReg (rTrace 0 0x10) (BitVec.ofNat 64 (2 ^ 36 + 1))).setReg (rTrace 0 0x18) 128
  { s with sys := { s.sys with trSync := [(0, true)], trGt := [(0, 0)] } }
theorem witness_SystemWords : demo.act plain ≠ 0 ∧ (demo.reg (rSnap 0)).getLsbD 9 = false ∧
    (∀ st ∈ [ColState.free, .recording, .streaming, .complete], ∀ b ∈ [false, true], let s := snapped (if b then 0x201 else 0x200) st;
      s.act plain ≠ 0 ∧ (s.reg (rSnap 0)).getLsbD 9 = true ∧ (s.colour false).st = st ∧ (s.colour true).pend = []) ∧
    (∀ p, p < 6 → ((snapped 0x200 .free).reg (rSnap 0)).getLsbD p = false) ∧ ((snapped 0x201 .free).reg (rSnap 0)).getLsbD 0 = true ∧
    demo.TraceOff 4 ∧ traced.g.core < 64 ∧ (traced.reg (rTrace 0 8)).toNat % 2 ^ 32 ≠ 0 ∧ (traced.reg (rTrace 0 0x10)).getLsbD 36 = true ∧
    (traced.reg (rTrace 0 0x18)).toNat + 64 ≤ (traced.reg (rTrace 0 8)).toNat % 2 ^ 32 ∧ SMap.get 0 traced.sys.trLost 0 = 0 ∧
    SMap.get false traced.sys.trSync 0 = true ∧ traced.gt.toNat ≤ (SMap.get 0 traced.sys.trGt 0).toNat + 65535 ∧ (2 : BitVec 2).toNat < 3 ∧ 4 ≤ demo.g.q ∧
    (grouped 1).sr 4 &&& 0x7FFFFFFFFFFFFFC0 = 0 ∧ ((grouped 1).sr 4).getLsbD 63 = false ∧ (grouped 1).grpState 0 = 1 ∧ (grouped 0).grpState 0 ≠ 1 ∧
    (0x8000000000000000 : U64) &&& 0x7FFFFFFFFFFFFFC0 = 0 ∧ (64 : U64) &&& 0x7FFFFFFFFFFFFFC0 ≠ 0 := by
  unfold State.TraceOff; and_intros <;> decide +kernel

/-- One operation of four bytes at pa, in the module alone. -/
def opOf (kind : MemKind) (pa : Nat) (st : PartState) : MemOp :=
  opBy 3 kind 4 (.scalar 5) 0 [⟨0, 0x40000, pa, 0, 7, 0, st, false⟩]
def flying (o : MemOp) : State := { demo with ops := [o] }
def partOf (o : MemOp) : Part := (o.parts.head?).getD ⟨0, 0, 0, 0, 0, 0, .done, false⟩
def shared (v : BitVec 8) (s : State) : State := s.setDir (0x4007C / 128) (.s v)
/-- Bytes 0x4007C to 0x4007F, the last of a line; in the DRAM of this module, in the pool of core 0, and in another region. -/
theorem witness_MemoryOperationsComplete :
    (∀ k ∈ [MemKind.load, .fill, .store, .atomic, .reduce], let o := opOf k 0x4007C .waiting; let s := flying o; let p := partOf o;
      s.ops = [o] ∧ o.parts = [p] ∧ p.st = .waiting ∧ o.held = false ∧ s.bad = [] ∧ s.badL2 = [] ∧ s.badTags = [] ∧ s.partials = [] ∧ p.pa < 2 ^ 40 ∧
      p.phys = s.myphys ∧ s.rowHeld p.pa = false ∧ s.dirOf (p.pa / 128) = .i ∧ p.pa % 128 + o.size ≤ 128 ∧ 0 < o.size ∧ o.size ≤ 8 ∧ o.core = some 0) ∧
    (shared 0x81 (flying (opOf .store 0x4007C .waiting))).dirOf (0x4007C / 128) = .s 0x81 ∧
    (shared (BitVec.ofNat 8 (2 ^ 7)) (flying (opOf .store 0x4007C .invalidating))).dirOf (0x4007C / 128) = .s (BitVec.ofNat 8 (2 ^ 7)) ∧
    ({ opOf .reduce 0x4007C .waiting with core := none } : MemOp).core = none ∧ (demo.reg (rDieMem 0 0x80)).getLsbD 0 = false ∧
    (let o := opOf .load (2 ^ 60 + 2 ^ 44) .waiting; (flying o).ops = [o] ∧ (partOf o).pa = 2 ^ 60 + 2 ^ 44) ∧
    2 ≤ regionOf (partOf (opOf .load (2 * 2 ^ 40) .waiting)).pa ∧ (partOf (opOf .load (2 * 2 ^ 40) .waiting)).pa < 2 ^ 60 ∧
    (let o := opOf .load 0x4007C .done; let s := flying o; s.ops.find? (·.id == 9) = some o ∧ o.eng = none ∧ (∀ p ∈ o.parts, p.st = .done ∧ p.lane < 64) ∧
      (o.parts.map (·.lane)).Nodup ∧ o.agent = s.g.id ∧ s.g.id ≠ 0 ∧ o.dest ≠ .none ∧ s.g.live.getLsbD 0 = true) := by
  and_intros <;> decide +kernel
def aWalk : Walk := ⟨0, 1, [(some 0, 3)], false⟩
def dieWith (f : DieState → DieState) : State := demo.setDie 0 (f (demo.die 0))
/-- A table of context 0 at address 0 that maps the lowest page of level 2. -/
def tables : State := { demo with mem := putBytes 0 (bytesOf 8 0x1001) (putBytes 0x1000 (bytesOf 8 0x2001) (putBytes 0x2000 (bytesOf 8 0xF) demo.mem)) }
theorem witness_MemoryMaintenance :
    (dieWith fun d => { d with walkQ := [aWalk] }).die 0 = { demo.die 0 with walkQ := [aWalk] } ∧ (demo.die 0).walking.length < 64 ∧
    ((dieWith fun d => { d with walking := [aWalk] }).die 0).walking = [aWalk] ∧ aWalk.restart = false ∧
    (match (walkPage 0 0 65536 127 tables).2 with | .ok _ => true | .error _ => false) = true ∧
    (match (walkPage 0 0 (2 * 65536) 127 demo).2 with | .ok _ => false | .error b => decide (b ≠ notYet)) = true ∧
    aWalk.asks.map (·.2) = [demo.g.id] ∧ demo.g.id ≠ 0 ∧ demo.badTags = [] ∧ demo.partials = [] ∧
    demo.sys.tlbq.length < 16 ∧ ({ demo with sys := { demo.sys with tlbq := List.replicate 16 0x200 } } : State).sys.tlbq.length = 16 ∧
    ({ demo with dirty := [5] } : State).dirty.contains 5 = true ∧ demo.badL2 = [] ∧ demo.rowHeld (5 * 512) = false ∧
    demo.rowLimit 0 ≤ SMap.get 0 ((dieWith fun d => { d with rows := [(3, 65536)] }).die 0).rows 3 ∧ (demo.die 0).heldRows.contains 3 = false ∧
    ((dieWith fun d => { d with heldRows := [3] }).die 0).heldRows.contains 3 = true ∧
    ({ demo with bad := [64] } : State).bad.contains (1 % 2 ^ 33 * 64) = true ∧ (demo.die (dieOf 64)).errlog.length < 16 ∧
    demo.cyc.toNat % 65536 ≠ 65535 ∧ ({ demo with cyc := 65535 } : State).cyc.toNat % 65536 = 65535 ∧ demo.did (onceInterval 0) = false ∧ (demo.core 0).reclaimed = false ∧ (demo.coreRange (demo.residents 0)).1 ≠ (demo.coreRange (demo.residents 0)).2 ∧
    (demo.coreRange (demo.residents 0)).1 ≤ (demo.core 0).l1kib ∧ (demo.core 0).l1kib ≤ (demo.coreRange (demo.residents 0)).2 ∧
    (demo.reg (rCore 0 0)).getLsbD 0 = true ∧ ((demo.setReg (rCore 0 0) 0).reg (rCore 0 0)).getLsbD 0 = false ∧
    ((demo.setCore 0 { demo.core 0 with reclaimed := true }).core 0).reclaimed = true := by
  and_intros <;> decide +kernel
/-- A transfer of a row at 0x10000 in the queue of core 0, running, waiting there as a drover's; a table for slot 3. -/
def rowAt : BitVec 512 := row8 - 0x30000
def queued (x : Xfer) : State :=
  let s := boxed rowAt
  let s := { s with eng := { s.eng with xfers := [x] } }
  s.setCore 0 { s.core 0 with queue := [x.id] }
def running (x : Xfer) : State :=
  let s := queued x
  s.setCore 0 { s.core 0 with queue := [], running := some x.id }
def theCopy : Xfer := { loads (boxed rowAt) rowAt 0 with id := 77, accepted := true, locked := true }
def drvCopy : Xfer := { theCopy with drover := true, accepted := false, locked := false }
def aTable : Xfer := { theCopy with kind := .table, slot := 3, space := 0, coord := [0x10000] }
def recCopy : Xfer := { theCopy with desc := rowAt + BitVec.ofNat 512 (2 ^ 420 + 1024 * 2 ^ 480) }
def barCopy : Xfer := { theCopy with coord := [0, 0, BitVec.ofNat 64 (2 ^ 63 + 1024 * 2 ^ 32)] }
def badCopy : Xfer := { theCopy with desc := rowAt + BitVec.ofNat 512 (2 ^ 60) }
/-- The transfer that runs on core 0, and what going on from where it stands makes of it: its elements done, and whether it stops. -/
def ends (n : Nat) (halted : Bool) (s : State) : Bool :=
  match s.running? 0 with
  | some x => let m := moveOn (s.mayMove x) x s; m.halt.isSome == halted && m.before.isNone && m.p.n == n
  | none => false
theorem witness_EngineEvents : (demo.core 0).running = none ∧ ((queued theCopy).core 0).queue = [77] ∧ (queued theCopy).xfer? 77 = some theCopy ∧
    theCopy.locked = true ∧ (queued theCopy).cutting theCopy.grid = false ∧ theCopy.core = 0 ∧
    (let s := { boxed rowAt with eng := { xfers := [drvCopy], mats := [] } }; (s.core 0).queue = [] ∧ s.eng.xfers = [drvCopy] ∧ s.waitingBxi 0 = [drvCopy]) ∧
    (let s := { boxed rowAt with eng := { xfers := [aTable], mats := [] } }; (s.core 0).slots[3]? = some ⟨false, List.replicate 16 0⟩ ∧
      (match tableBytes aTable s with | some (_, .ok bs) => bs.length == 16 | _ => false) = true) ∧
    ends 8 false (running theCopy) = true ∧ ends 8 false (running recCopy) = true ∧ ends 8 false (running barCopy) = true ∧
    ends 0 true (running badCopy) = true ∧ boxCount rowAt = 8 ∧
    ends 0 false { running theCopy with ops := [{ storeBy 0 with eng := some 77 }] } = true ∧
    (running theCopy).gt ≤ theCopy.deadline ∧ (∀ y ∈ (running theCopy).teams, y.state ≠ .exited) ∧ (running theCopy).bad = [] ∧ (running theCopy).badTags = [] ∧
    (running theCopy).teams.any (·.id == theCopy.target) = true ∧ ((running theCopy).team theCopy.target).state ≠ .saved ∧ theCopy.mc = false ∧
    kRecen theCopy.desc = false ∧ theCopy.barrier = none ∧ kRecen recCopy.desc = true ∧ recCopy.barrier = none ∧ kRecen barCopy.desc = false ∧
    barCopy.barrier = some 1024 ∧ badCopy.agent = (running badCopy).g.id ∧ (running badCopy).g.id ≠ 0 := by
  and_intros <;> decide +kernel
/-- A matrix operation in flight on a team whose buffer 0 is full and whose tile 0 holds zeros in row 0. -/
def matRun (k : MatKind) : MatOp := { matrixes.newMat k 0 0 0 1 0 bf16 0 with desc := rows512 }
def inMat (k : MatKind) : State :=
  ofTeam (fun t => { t with bufs := [(0, { Buffer.empty with full := true })], tiles := (List.range 128).map fun c => (c, (0 : U32)) })
    { matrixes with eng := { xfers := [], mats := [matRun k] } }
theorem witness_EngineEvents_matrix :
    (∀ k ∈ [MatKind.mldN, .mldW, .mma, .mmaz, .epi, .epiRs], let s := inMat k; let x := matRun k;
      s.eng.mats = [x] ∧ s.gt ≤ x.deadline ∧ (∀ y ∈ s.teams, y.state ≠ .exited) ∧ s.bad = [] ∧ s.badL2 = [] ∧ s.badTags = [] ∧ s.teams.any (·.id == x.team) = true ∧
      (s.team x.team).state ≠ .saved ∧ x.agent = s.g.id ∧ s.g.id ≠ 0) ∧ fbBsp bf16 = false ∧ fbBsfmt bf16 = 0 ∧ fbAsfmt bf16 = 0 ∧
    (SMap.get Buffer.empty ((inMat .mma).team (matRun .mma).team).bufs 0).full = true ∧ (matRun .mma).nrows = 1 ∧ (matRun .mma).rowMarker 0 = none ∧
    (∀ j, j < 128 → tileMarker (((inMat .mma).team (matRun .mma).team).tileAt 0 0 j) = none) ∧ epiFails false rows512 = [] ∧ edOswz rows512 = 0 ∧
    edScen rows512 = false ∧ edBien rows512 = false ∧ 8 ≤ fmtWidth (edOfmt rows512) ∧
    (matRun .mma).lost = [] ∧ ((inMat .mma).team (matRun .mma).team).flawed = [] ∧
    (SMap.get Buffer.empty ((inMat .mma).team (matRun .mma).team).bufs 0).flawed = false ∧
    (runMat { matRun .mma with rows := [(0, 0x7F810001)] } (inMat .mma)).halt.isSome = true ∧
    (let r := runEpiRs { matRun .epiRs with s2 := 0x10000 } (inMat .epiRs); r.halt = none ∧ r.wait = false) := by
  and_intros <;> decide +kernel

/-- A packet of a kind for this module. -/
def packet (kind : BitVec 4) (tag : BitVec 24) (addr : U64) (payload : List Byte) : Packet := ⟨0, 1, kind, 0, tag, addr, payload, 0⟩
/-- An operation of group 0, an open ring of three members of which this module is the second: a sum, or a vote. -/
def collOf (op : Nat) (own : List Byte) (started : Bool) : Coll where
  id := 50
  grp := 0
  op := op
  seq := 0
  agent := 3
  team := 2
  grid := 1
  die := 0
  core := 0
  src := row64
  dst := 0
  ctl0 := BitVec.ofNat 64 (1024 * 2 ^ 32)
  ctl1 := 0
  inpl := true
  tfmt := 0
  n := 64
  root := 0
  vote := true
  deadline := 1000
  gtIssue := 0
  issuer := 0
  writes := []
  issued := [3]
  started := started
  held := [(0, own)]
  doneChunks := []
  result := none
def ring (st : Nat) (cs : List Coll) : State :=
  let s := (boxed row64).setReg (rFab 0) (BitVec.ofNat 64 (st * 2 ^ 61 + 2 * 2 ^ 32))
  { s with bar := SMap.insert s.bar (rXlat 0x810) 1, sys := { s.sys with colls := cs } }
def own256 : List Byte := List.replicate 256 1
def aSum (started : Bool) : Coll := collOf 0 own256 started
def aVote : Coll := { collOf 4 [1] true with id := 51 }
/-- The module stands as member 1 of a ring of three. -/
theorem witness_FabricEvents_ring : SMap.get [] (ring 1 []).sys.inq 4 = [] ∧ (ring 1 []).sys.restoring = none ∧ (ring 1 []).mylmn.toNat = 1 ∧
    (ring 0 []).fit false 0 0 = .wait ∧ (ring 1 []).fit false 0 0 = .hold ∧ (ring 1 [aSum false]).fit false 0 ((aSum true).msgAddr 0 0 []) = .hold ∧
    (ring 1 []).routerRoom 1 = true ∧ (ring 1 [aVote]).fit false 0 0 = .wrong ∧ (ring 1 [aVote]).sys.routers = [] ∧
    (let s := ring 1 [aSum true]; s.fit false 0 ((aSum true).msgAddr 0 0 []) = .take 50 ∧ s.coll? 50 = some (aSum true) ∧ (aSum true).op < 2 ∧
      (aSum true).wide = false ∧ own256.length = 256 ∧ ((aSum true).at_ (inKey 0 0)).length = 256 ∧ (aSum true).at_ (seenKey 0 0) = [] ∧
      ringPos (s.grpExt 0) (s.grpSelf 0) 0 = 1 ∧ ringLen (s.grpExt 0) 0 = 3) ∧
    (ring 2 []).fit true 0 0 = .drop ∧ (ring 1 [aVote]).fit true 0 1 = .take 51 ∧ aVote.at_ (inKey 0 0) = [1] ∧ aVote.at_ (seenKey 0 0) = [] := by
  and_intros <;> decide +kernel
/-- R431: X before Y before Z, the shorter way round, + at a tie. -/
theorem test_route : portOut 0 0x110 = some 2 ∧ portOut 0 0x00F = some 1 ∧ portOut 0 8 = some 0 ∧ portOut 0x300 0 = some 5 ∧ portOut 5 5 = none := by decide
/-- A message of group 0 has used port 0. -/
def routed : State := { ring 1 [] with sys := { (ring 1 []).sys with ringPorts := [(0, [0])] } }
theorem witness_FabricEvents : (let c := { aVote with doneChunks := [0] }; let s := ring 1 [c]; s.sys.colls = [c] ∧ c.started = true ∧
      c.doneChunks.length = c.total (s.grpSize c.grp) ∧ s.gt ≤ c.deadline ∧ (∀ y ∈ s.teams, y.state ≠ .exited) ∧
      s.teams.any (·.id == c.team) = true ∧ (s.team c.team).state ≠ .saved ∧ c.writes = [] ∧ s.engDue c.id = []) ∧
    (ring 1 []).grpState 0 = 1 ∧ (ring 2 []).grpState 0 = 2 ∧ (ring 0 []).grpState 0 = 0 ∧ (packet 7 0 0 []).kind = 7 ∧ (packet 8 0 5 []).kind = 8 ∧
    (∀ m, m < (ring 2 []).grpSize 0 → m < 3) ∧ SMap.get 0 (ring 2 []).sys.agreeBy 0 ≤ (ring 2 []).gt ∧
    ((ring 0 []).grpBase 0 ≤ (ring 0 []).mylmn.toNat ∧ (ring 0 []).mylmn.toNat < (ring 0 []).grpBase 0 + (ring 0 []).grpSize 0) ∧
    ¬((ring 0 []).setReg (rFab 0) (BitVec.ofNat 64 (2 * 2 ^ 20))).grpBase 0 ≤ 1 ∧ demo.bad = [] ∧ demo.badL2 = [] ∧ demo.badTags = [] ∧ demo.flaws = [] ∧ demo.partials = [] ∧
    demo.homeWaits none 0x40000 8 = false ∧ (3 : U64) < 3 + 8 ∧ (3 : U64) < ({ demo with gt := 20 } : State).gt ∧
    (packet 0 0 0x40000 []).kind = 0 ∧ (packet 1 0 0x40000 [1, 2, 3, 4, 5, 6, 7, 8]).kind = 1 ∧ (packet 2 0 0x40000 (List.replicate 16 1)).kind = 2 ∧
    (let o := opOf .load (2 ^ 44) .away; let q := packet 3 (9 * 64) 0 (List.replicate 4 1); (flying o).ops = [o] ∧ o.id = q.tag.toNat / 64 ∧
      (partOf o).lane = q.tag.toNat % 64 ∧ (partOf o).st = .away ∧ q.payload.length ≠ 128) ∧
    12 ≤ (packet 12 0 0 []).kind.toNat ∧ demo.sys.portsDown.contains 5 = false ∧ routed.ringUses 0 0 = true ∧
    demo.agents = [] ∧ demo.g.id ≠ 0 ∧ ((demo.setReg (rSnap 8) 1).gridInScope demo.g.grid) = true ∧ demo.g.parked = false ∧ demo.g.ended = false ∧
    demo.g.stopping = none ∧ demo.tm.preq = false ∧ demo.quiet demo.g.id = true := by
  and_intros <;> decide +kernel
/-- A checkpoint that is due on channel 4, with and without a reference that it differs from. -/
def checked (ctl : U64) : State :=
  let s := (demo.setReg (rFab 0xA18) ctl).setReg (rFab 0xBA8) 1
  { s with sys := { s.sys with wbDue := [(4, 0, 5)] } }
theorem witness_FabricEvents_waybill : (checked 4).sys.wbDue = [(4, 0, 5)] ∧ ((checked 4).reg (rTrace 0 8)).toNat % 2 ^ 32 = 0 ∧
    ((checked 4).reg (rFab 0xA18)).getLsbD 2 = true ∧ 0 < ((checked 4).reg (rFab 0xBA8)).toNat % 2 ^ 32 ∧
    (checked 4).getVal (((checked 4).reg (rFab 0xBA0)).toNat % 2 ^ 44 + 8 * (4 * 1 + 0)) 8 ≠ (5 : U64).toNat ∧
    ((checked 4).reg (rFab 0xA18)).getLsbD 3 = false ∧ ((checked 4).reg (rFab 0xA18)).toNat % 4 = 0 ∧
    ((checked 0).reg (rFab 0xA18)).getLsbD 2 = false := by decide +kernel

/-- Colour 0 changed; the coordinator and count register set. -/
def coloured (f : Colour → Colour) (s : State) : State := { s with sys := { s.sys with c0 := f s.sys.c0 } }
def isSt (st : ColState) (c : Colour) : Colour := { c with st := st }
def staged (r : Rec) (s : State) : State := s.setDie 0 { s.die 0 with staging := [r] }
def aRec : Rec := ⟨0x0F, 1, 0, 255, false, 0, 0, []⟩
theorem witness_SnapshotEvents : ((coloured (fun c => { c with asked := true }) demo).colour false).asked = true ∧
    ((coloured (fun c => { c with asked := true }) demo).colour false).cutting = false ∧
    (let s := coloured (fun c => { isSt .recording c with cutting := true }) demo; (s.colour false).cutting = true ∧ s.drained = true ∧ s.partials = [] ∧
      (s.reg (rTrace 0 8)).toNat % 2 ^ 32 = 0) ∧
    (∀ st ∈ [ColState.free, .recording, .streaming, .complete], let s := coloured (isSt st) demo; (s.colour false).st = st ∧ SMap.get [] s.sys.inq 4 = [] ∧
      s.sys.restoring = none ∧ s.sys.lateCairns = [] ∧ (s.colour false).abort = false ∧ (s.colour false).fail = false) ∧
    (packet 6 0 0 []).kind = 6 ∧ (packet 6 0 0 []).tag.getLsbD 0 = false ∧
    (let s := coloured (fun c => { isSt .streaming c with pend := [(3, 4)] }) demo; s.sys.c0.pending 3 = true ∧ s.sys.c0.pending 4 = true ∧
      s.sys.c1.pending 3 = false ∧ s.sweepNext 0 = some 3) ∧
    (let s := (staged aRec (coloured (isSt .streaming) demo)).setReg (rPh 0 8) 4096; let s := s.setReg (rPh 0 0) (2 * 2 ^ 40);
      (s.die 0).staging = [aRec] ∧ s.regionOk (s.reg (rPh 0 0)).toNat = true ∧ (s.reg (rPh 0 0x10)).toNat + 64 ≤ (s.reg (rPh 0 8)).toNat ∧
      aRec.colours &&& tagOf false ≠ 0 ∧ (s.colour false).st ≠ .free) ∧
    (let c := isSt .streaming Colour.free; let s := coloured (fun _ => c) demo; c.asked = false ∧ c.cutting = false ∧ c.local_ = false ∧ c.nexts = [] ∧
      s.noneStaged false = true) ∧
    (let c := { isSt .streaming Colour.free with local_ := true, closed := List.range 8 }; c.reported = false ∧ (∀ d, d < 8 → d ∈ c.closed)) ∧
    demo.coordinator = demo.mylmn.toNat ∧ demo.snapCount = 1 ∧ (demo.setReg (rSnap 0xD0) 0x30005).coordinator ≠ demo.mylmn.toNat ∧
    (packet 10 0 0 []).tag.getLsbD 2 = false ∧ (packet 10 4 0 []).tag.getLsbD 2 = true ∧ 0 + 1 < (demo.setReg (rSnap 0xD0) 0x30000).snapCount := by
  and_intros <;> decide +kernel
theorem witness_SnapshotEvents_room (d n : Nat) (h : n ≤ 8388608) : (demo.die d).staged + n ≤ 8388608 := by
  have k : demo.dies.all (fun e => e.2.staged == 0) = true := by decide +kernel
  have z : (demo.die d).staged = 0 := by
    unfold State.die
    generalize demo.dies = l at k
    induction l with
    | nil => rfl
    | cons e l ih =>
      simp only [List.all_cons, Bool.and_eq_true, beq_iff_eq] at k
      rw [SMap.get]
      split
      · exact k.1
      · exact ih k.2
  omega
theorem witness_SnapshotEvents_commands : (demo.reg (rSnap 0)).getLsbD 9 = false ∧ ((snapped 0x201 .free).reg (rSnap 0)).getLsbD 9 = true ∧
    ((coloured (fun c => { c with abort := true }) demo).colour false).abort = true ∧
    ((coloured (fun c => { c with abort := true }) demo).colour false).aborting = [] ∧ demo.sys.restoring = none ∧
    (demo.sys.c0.st = .free ∧ demo.sys.c1.st = .free ∧ ∀ g ∈ demo.grids, g.state = .running → demo.inScope g.ctx = false) ∧
    (snapped 0x201 .recording).sys.c0.st ≠ .free ∧
    (let s := { demo with sys := { demo.sys with restoring := some false } }; s.sys.restoring = some false ∧ s.sys.routers = []) ∧
    demo.regionOk (demo.reg (rSnap 0xD8)).toNat = false ∧ (demo.setReg (rSnap 0xD8) (2 * 2 ^ 40)).regionOk (2 * 2 ^ 40) = true ∧
    (match demo.restoreSet false [] with | .error 2 => true | _ => false) = true ∧
    (match demo.restoreSet false ((List.range 8).flatMap fun d => recBytes { aRec with die := d }) with | .ok rs => rs.length == 8 | _ => false) = true := by
  and_intros <;> decide +kernel
/-- A set of one granule and its CLOSE records. -/
def granule : Rec := ⟨2, 1, 0, 0, false, 0x4000, 0, List.replicate 16384 7⟩
def closes : List Rec := (List.range 8).map fun d => ⟨0x0F, 1, d, 255, false, 0, if d = 0 then 1 else 0, []⟩
theorem witness_SnapshotEvents_set (s : State) : s.restoreSet false ((granule :: closes).flatMap recBytes) = .ok (granule :: closes) := by
  apply restoreSet_flatMap
  · intro r hr
    rcases List.mem_cons.mp hr with rfl | hr
    · refine ⟨by decide, by decide, by decide, by decide, ?_⟩
      show (List.replicate 16384 (7 : Byte)).length < _
      rw [List.length_replicate]; decide
    · have : ∀ r ∈ closes, (r.kind.toNat ≠ 0 ∧ r.kind.toNat ≤ 0x10 ∧ r.die < 8 ∧ r.core < 256 ∧ r.data.length < 2 ^ 32) := by decide
      exact this r hr
  · intro r hr
    rcases List.mem_cons.mp hr with rfl | hr
    · rfl
    · revert r hr; decide
  · decide
  · intro r hr
    rcases List.mem_cons.mp hr with rfl | hr
    · rfl
    · revert r hr; decide
theorem witness_SnapshotEvents_region : ((granule :: closes).flatMap recBytes).take 65536 = (granule :: closes).flatMap recBytes := by
  apply List.take_of_length_le
  have : (closes.flatMap recBytes).length = 512 := by rw [List.length_flatMap]; simp only [recBytes_length]; rfl
  rw [List.flatMap_cons, List.length_append, this, recBytes_length]
  rw [show granule.data.length = 16384 from List.length_replicate ..]; simp only [upTo]; omega
theorem witness_SnapshotEvents_granule : granule.kind = 2 ∧ granule.bad = false ∧ (granule :: closes).filter (fun x => x.kind != 1 && x.kind != 0x0F) = [granule] ∧ granule.data.length = 16384 :=
  ⟨rfl, rfl, rfl, List.length_replicate ..⟩
/-- A grid of its own with one team of PRIO 1 that wants two arrays; the team is offered to die 0, and has waited. -/
def offeredTeam : Team := { Team.absent with id := 10, grid := 20, state := .offered, unit := [10], waited := 65536 }
def offeredGrid : Grid :=
  { Grid.absent with id := 20, gridid := 20, rc := { LaunchRec.absent with arrays := 2, prio := 1, gx := 2 }, state := .running, next := 1 }
def offering (f : State → State) : State :=
  let s := f demo
  { s.setDie 0 { s.die 0 with offered := [10] } with teams := s.teams ++ [offeredTeam], grids := s.grids ++ [offeredGrid] }
def saveRoom (s : State) : State := (s.setReg (rSave 0) 0x100000).setReg (rSave 8) 4096
/-- A record of a grid of one team of one gang, at 0x10000. -/
def launchBytes : List Byte :=
  (List.range 256).map fun i => BitVec.ofNat 8 (match i with | 1 => 1 | 2 => 1 | 8 => 1 | 12 => 1 | 16 => 1 | 20 => 1 | 0x16 => 1 | 0x17 => 32 | 0x22 => 64 | _ => 0)
/-- The record at 0x10000 is read. -/
def launched (f : List Byte → Bool) (s : State) : Bool :=
  match engRead (dispatchEngine 0 0 0) false 0x10000 256 s with
  | (_, .ok bs) => f bs
  | _ => false
/-- A LINK write of a grid of context 0: of the record at 0x10000, or at an address that no page maps. -/
def linkOf (recva : U64) : LinkEntry := ⟨true, recva, 5, 0, 1⟩
def linking (s : State) : State := { s with serial := 101, sys := { s.sys with linkDue := s.sys.linkDue ++ [⟨100, 5, linkOf 0x10000, 4, false, false⟩] } }
theorem witness_WorkEvents_launch : (0x40000 : U64).extractLsb' 57 7 = 0 ∧ (0x8000000000040000 : U64).extractLsb' 57 7 ≠ 0 ∧
    (demo.queue 0).length < 1024 ∧ 1024 ≤ ((launching 1024).queue 3).length ∧ (demo.grids.filter (·.state == .running)).length < 256 ∧
    (launching 1).headQueue = some (3, ⟨0x80000, 0, none, 0xFFFFFFFF, 0, 0, 0, 0⟩) ∧ (launching 1).did onceDispatch = false ∧
    ((launching 1).reg (rXlat 0)).getLsbD 0 = true ∧
    ((launching 1).setReg (rXlat 0) 0).headQueue = some (3, ⟨0x80000, 0, none, 0xFFFFFFFF, 0, 0, 0, 0⟩) ∧
    (((launching 1).setReg (rXlat 0) 0).reg (rXlat 0)).getLsbD 0 = false ∧
    launched (fun bs => (refusal bs (parseRecord bs) (some 0)).isSome) demo = true ∧
    launched (fun bs => (refusal bs (parseRecord bs) (some 0)).isNone) { demo with mem := putBytes 0x10000 launchBytes demo.mem } = true ∧
    (match (engRead (dispatchEngine 0 0 0) false (2 ^ 60) 256 demo).2 with | .error b => decide (b ≠ notYet) | .ok _ => false) = true ∧
    (match (engRead (dispatchEngine 0 0 0) false 0x10000 256 { demo with ops := [{ opBy 0 .store 4 .none 0 [⟨0, 0, 0x10000, 0, 0, 0, .invalidating, false⟩] with eng := some 3 }] }).2 with
      | .error b => decide (b = notYet) | .ok _ => false) = true := by
  and_intros <;> decide +kernel
theorem witness_WorkEvents_link : (match engWrite (dispatchEngine 0 4 100) false 0x10090 (le64 5) (linking demo) with
      | (u, .ok _) => u.sys.linkDue == (linking demo).sys.linkDue && (u.engDue 100).isEmpty | _ => false) = true ∧
    (match engWrite (dispatchEngine 0 4 100) false (2 ^ 60 + 0x90) (le64 5) (linking demo) with
      | (u, .error b) => u.sys.linkDue == (linking demo).sys.linkDue && b != notYet && decide (u.sys.lnklog.length < 16) | _ => false) = true ∧
    demo.sys.linkDue = [] ∧ (∀ o ∈ demo.ops, o.eng ≠ some 100) := by
  and_intros <;> decide +kernel
theorem witness_WorkEvents_placement : (offering id).offering = some offeredGrid ∧ (offering id).did onceOffer = false ∧ (offering id).dieFor 0 1 = some 0 ∧ offeredGrid.rc.members = 1 ∧
    (offering id).grid 20 = offeredGrid ∧ (offering id).savedUnit 20 = none ∧
    ({ offering id with teams := [{ offeredTeam with id := 11, state := .saved }] } : State).savedUnit 20 = some { offeredTeam with id := 11, state := .saved } ∧
    (offering id).placeable 0 = some ([10], [(10, 1, 0)]) ∧ ((offering id).team 10).state = .offered ∧ (offering id).gangsOf 10 = [] ∧
    ((offering id).all.map (·.id)).Nodup ∧ ((offering id).teams.map (·.id)).Nodup ∧ (∀ a ∈ (offering id).agents, a.id ≠ 0) ∧
    (offering saveRoom).wouldAsk 0 = some (10, [2]) ∧ (reserveSlots [2] (offering saveRoom)).isSome = true ∧
    (offering saveRoom).teams.any (·.id == 2) = true ∧ ((offering saveRoom).team 2).preq = false ∧
    (reserveSlots [2] (offering id)).isNone = true ∧ (offering id).wouldAsk 0 = some (10, [2]) ∧
    (let s := ofTeam (fun t => { t with state := .starting, filled := false, bindsLeft := 0 }) demo; let x := s.team 2; x.state = .starting ∧ x.filled = false ∧
      x.unit = [2] ∧ x.bindsLeft = 0 ∧ (s.gangsOf 2).length = 1) := by
  and_intros <;> decide +kernel
/-- A program whose header word is at 0x10000, with its binding at the head of die 0. -/
def aBind : BindReq := ⟨2, 1, some 0, 0, 0, 0, 0x10000, 5, 0, 0⟩
def binding : State := { demo.setDie 0 { demo.die 0 with binds := [aBind] } with mem := putBytes 0x10000 (bytesOf 8 0x10008) demo.mem }
/-- A drover context that has ended, by fault or not. -/
def ended (f : Agent → Agent) : State := onDrv fun a => f { a with ended := true }
theorem witness_WorkEvents_programs : binding.freeContext 0 = some 0 ∧ binding.nextBinding 0 = some aBind ∧ aBind.prog.toNat % 8 = 0 ∧ binding.headerDue 0 0 aBind = false ∧
    (match fetch8 none 0 0 0 64 aBind.prog (dropBind 0 aBind binding) with | (_, .ok v) => v == 0x10008 | _ => false) = true ∧
    (let s := ({ demo with grids := demo.grids.map (fun (g : Grid) => { g with next := 1 }), teams := [], agents := [], g := Agent.absent } : State);
      (match s.grids.find? (·.id == 1) with | some g => s.gridDone g | none => false) = true ∧ s.calm = true ∧ s.sys.lnklog.length < 16) ∧
    (let s := at_ fun a => { a with stopping := some aTrap }; s.agent? s.g.id = some s.g ∧ s.g.stopping = some aTrap ∧ s.quiet s.g.id = true ∧
      s.g.drover = false) ∧ (onDrv fun a => { a with stopping := some aTrap }).g.drover = true ∧
    (let s := at_ fun a => { a with pausing := some (.hit aTrap.regs) }; s.g.stopping = none ∧ s.g.pausing = some (.hit aTrap.regs) ∧ s.g.resuming = none ∧ s.g.parked = false ∧
      s.quiet s.g.id = true) ∧
    (let s := ended fun a => { a with endFault := some 5, binding := some 0 }; s.g.drover = true ∧ s.g.ended = true ∧ s.g.id ≠ 0 ∧
      s.agent? s.g.id = some s.g ∧ s.g.endFault = some 5 ∧ s.g.paths ≠ [] ∧ s.grids.any (·.id == s.g.grid) = true ∧ s.g.binding.isSome = true ∧
      (s.all.map (·.id)).Nodup ∧ (s.teams.map (·.id)).Nodup) ∧
    (let s := ended fun a => { a with endFault := some 5, paths := [], bset := [(2, 1024)] }; s.g.paths = [] ∧ s.xfersOf s.g.id = [] ∧
      s.g.bset = [(2, 1024)] ∧ s.teams.any (·.id == 2) = true ∧ (s.team 2).state ≠ .saved ∧ (s.barrier ((s.team 2).origin + 1024)).broken = false) ∧
    (let s := ended fun a => { a with paths := [] }; s.g.endFault = none ∧ s.xfersOf s.g.id = [] ∧ s.g.idx < 24 ∧ s.g.die < 8) := by
  and_intros <;> decide +kernel
theorem witness_WorkEvents_preemption : demo.gridNamed 7 = none ∧ (demo.gridNamed 1).isSome = true ∧ demo.requestTeams 1 = [2] ∧
    (reserveSlots [2] demo).isNone = true ∧ (reserveSlots [2] (saveRoom demo)).isSome = true ∧
    (let s := ofTeam (fun t => { t with preq := true, reqHost := true, slot := some (0x100000, 65536) })
        { demo with grids := demo.grids.map fun g => { g with hostReq := true } };
      ((s.gridNamed 1).map (·.hostReq)) = some true ∧ (s.team 2).reqHost = true ∧ (s.team 2).state ≠ .saved ∧ s.dies.all (fun e => e.2.asks.isEmpty) = true ∧
      (s.team 2).state = .running ∧ (s.team 2).preq = true ∧ (s.team 2).pdl = 0 ∧ (s.team 2).pdlDone = false) ∧
    ((demo.gridNamed 1).map (·.hostReq)) = some false ∧
    (let s := ofTeam (fun t => { t with preq := true, slot := some (0x100000, 65536) }) (at_ fun a => { a with yielded := true });
      (s.team 2).state = .running ∧ (s.team 2).unit = [2] ∧ s.mayBeSaved 2 = true ∧ (∀ a ∈ s.gangsOf 2, a.yielded = true ∧ a.id ≠ 0) ∧ s.gangsOf 2 ≠ [] ∧
      s.calm = true ∧ s.bad = [] ∧ s.badL2 = [] ∧ s.badTags = [] ∧ s.flaws = [] ∧ s.partials = []) := by
  and_intros <;> decide +kernel
/-- A saved team of one gang on no core, held by the distributor of die 0. -/
def saved : State :=
  let s := at_ fun a => { a with yielded := true }
  let t := { s.tm with state := .saved, saved := [{ s.g with paths := s.g.paths }], slot := some (0x100000, 65536), preq := true, arrays := [] }
  { s.setDie 0 { s.die 0 with offered := [2] } with teams := [t], g := Agent.absent }
theorem witness_WorkEvents_resume : (saved.team 2).state = .saved ∧ (saved.team 2).slot = some (0x100000, 65536) ∧
    (List.range 8).find? (fun d => (saved.die d).offered.contains 2) = some 0 ∧ saved.placeable 0 = some ([2], [(2, 0, 0)]) ∧
    (saved.all.map (·.id)).Nodup ∧ (saved.team 2).saved ≠ [] ∧
    (∀ a ∈ (saved.team 2).saved, a.pend = [] ∧ a.heldFault = none ∧ a.id ≠ 0 ∧ a.team = 2 ∧ a.drover = false ∧ saved.agent? a.id = none) ∧
    ((saved.team 2).saved.map (·.id)).Nodup ∧ (saved.team 2).resume = [] ∧ (saved.team 2).held = [] ∧ saved.gangsOf 2 = [] ∧
    (saved.grid (saved.team 2).grid).rc.dskib = 0 ∧ (saved.team 2).size = (saved.grid (saved.team 2).grid).rc.alloc ∧ saved.calm = true := by
  and_intros <;> decide +kernel

-- HostEvents.

/-- A posted write of eight bytes at 8, and one that waits in the queue. -/
def postOf (ro : Bool) : HostReq := ⟨1, .write ro, 8, 8, le64 7, 0, 0⟩
theorem witness_HostEvents_requests : demo.sys.hostq = [] ∧ demo.hostWaits [] (postOf false) = false ∧ demo.hostWaits [] ⟨1, .read, 8, 8, [], 0, 0⟩ = false ∧
    demo.hostWaits [] ⟨1, .atomic 0, 8, 8, [], 3, 4⟩ = false ∧
    (let s := ({ demo with sys := { demo.sys with hostq := [postOf true] } } : State);
      s.sys.hostq[0]? = some (postOf true) ∧ s.hostWaits (s.sys.hostq.take 0) (postOf true) = false) := by
  and_intros <;> decide +kernel
theorem witness_HostEvents_memory : demo.bad = [] ∧ demo.badL2 = [] ∧ demo.badTags = [] ∧ demo.flaws = [] ∧ demo.partials = [] ∧ bar2Has 8 8 = true ∧ bar2Has (2 ^ 39 - 4) 8 = false ∧ 8 % 8 = 0 ∧
    demo.sys.trial = none ∧ ((demo.setReg rCxctl 1).reg rCxctl).getLsbD 0 = true ∧ (demo.setReg rCxctl 1).sys.trial = none ∧ demo.power ≠ .off ∧
    (∀ e ∈ demo.dram, e.1 < 2 ^ 40) ∧ demo.dram = [] ∧ ({ demo with power := .off } : State).power = .off ∧ demo.power = .on ∧
    (∀ d, d < 8 → (demo.reg (rTrace d 8)).toNat % 2 ^ 32 = 0) := by
  and_intros <;> decide +kernel
def trying (x : Trial) : State := let s := demo.setReg (rExp 0x20) 100; { s with sys := { s.sys with trial := some x }, gt := 200 }
def freezing (n : Nat) : State := { demo with sys := { demo.sys with freezeIn := some n } }
theorem witness_HostEvents_debug : (trying ⟨0, [], [(1, 7)], [], 0, 1024⟩).sys.trial = some ⟨0, [], [(1, 7)], [], 0, 1024⟩ ∧
    (demo.all.map (·.id)).Nodup ∧ (demo.teams.map (·.id)).Nodup ∧ (∀ a ∈ demo.agents, a.id ≠ 0) ∧ demo.g ∈ demo.all ∧ demo.g.drover = false ∧
    demo.g.parked = false ∧ (((trying ⟨0, [], [], [], 0, 0⟩).reg (rExp 0x20)).toNat ≤ ((trying ⟨0, [], [], [], 0, 0⟩).gt - 0).toNat) ∧
    (((trying ⟨150, [], [], [], 0, 0⟩).gt - 150).toNat < ((trying ⟨150, [], [], [], 0, 0⟩).reg (rExp 0x20)).toNat) ∧
    (freezing 0).sys.freezeIn = some 0 ∧ demo.gridNamed 7 = none ∧ (demo.gridNamed 1).map (fun g => demo.grid g.id == g) = some true ∧
    (∀ x ∈ demo.teams, x.grid = 1 ∧ x.state = .running) ∧ demo.gangsOf 2 ≠ [] := by
  and_intros <;> decide +kernel
def isGang (s : State) (gang : BitVec 36) (a : Agent) : Bool := !a.drover && (s.gangid a).setWidth 36 == gang
theorem witness_HostEvents_resume : (let s := demo; s.all.find? (isGang s 0xFFFFFFFFF) = none ∧ ∀ x ∈ s.teams, x.saved = []) ∧
    (let s := demo; s.all.find? (isGang s ((s.gangid s.g).setWidth 36)) = some s.g ∧ s.g.parked = false) ∧
    (let s := at_ fun a => { a with parked := true }; s.g.id ≠ 0 ∧ isGang s ((s.gangid s.g).setWidth 36) s.g = true ∧ s.g.parked = true ∧
      s.g.pend = [] ∧ s.g.hits = [] ∧ s.g.resuming = none) := by
  and_intros <;> decide +kernel
theorem witness_HostEvents_registers : lockGroup 0x0D0 = some 4 ∧ ((demo.setReg 0xA8 16).reg 0xA8).getLsbD 4 = true ∧ lockGroup (rExp 0) = some 3 ∧
    ((demo.setReg 0xA8 8).reg 0xA8).getLsbD 3 = true ∧ 0xA0 % 8 = 0 ∧
    0xA0 ∉ [0x88, rHintst, 0xE8, rXlat 0x800, rXlat 0x808, rSnap 0xB0, rSnap 0xE8, rFab 0xA00, rFab 0xA18, rSave 0x30, rRb 0x10] ∧
    groupOpen 0xA0 demo = false ∧ groupOpen (rFab 0) (setGrpState 0 1 demo) = true ∧ rFab 0 % 8 = 0 ∧
    rFab 0 ∉ [0x88, rHintst, 0xE8, rXlat 0x800, rXlat 0x808, rSnap 0xB0, rSnap 0xE8, rFab 0xA00, rFab 0xA18, rSave 0x30, rRb 0x10] ∧
    ¬(0x100000 ≤ rFab 0 ∧ rFab 0 < 0x900000 ∧ rFab 0 % 0x100000 = 0x30010) ∧
    (let o := 0x100000; o % 8 = 0 ∧ groupOpen o demo = false ∧ (demo.reg o).getLsbD 17 = false ∧ ((demo.setReg o 0x20000).reg o).getLsbD 17 = true) ∧
    demo.mclkStep = 48 ∧ max 24 (min 50 demo.mclkTop) = demo.mclkStep ∧ demo.mclkStep < max 24 (min 60 (demo.setReg 0xD8 60).mclkTop) ∧
    max 24 (min 10 demo.mclkTop) < demo.mclkStep := by
  and_intros <;> decide +kernel

-- A step.

/-- S.MOVI s1, 9 selected, at the position after the header of its region. -/
def movi : State := State.reset.withFetchWord 64 (full 0x028 1 0 0 9 0).toNat
theorem witness_StepRunsTheSelected : movi.sel = true ∧ movi.power = .on ∧ movi.g.todo movi.path = [0] ∧
    ((fetchWord movi.g movi.path.pc 0 movi).2.toOption = some (full 0x028 1 0 0 9 0)) ∧
    movi.g.strands movi.path.lanes (movi.path.pc + 1) = false ∧ (∀ x ∈ movi.path.shadows, x.left = 0) ∧ movi.g.lent = RegVals.none ∧
    movi.word.extractLsb' 0 4 = 0 ∧
    (let x := { movi with word := full 0x028 1 0 0 9 0, lanes := movi.g.lanesIn movi.path [0], pmask := planeMask [0] };
      x.leavesBy (full 0x028 1 0 0 9 0) = false) ∧ movi.g.hits = [] ∧ movi.g.drover = false ∧ movi.sys.trial = none ∧
    movi.agent? movi.g.id = some movi.g ∧ (movi.g.path? movi.cur).map (·.stalled) = some false ∧
    reads (movi.decCtx movi.g) (full 0x028 1 0 0 9 0) (.sMovi plain 1 9) = true ∧
    (let s := { movi with sel := false }; (s.choice 0).isSome = true ∧ 0 ∉ s.served) ∧
    (let s := { demo with sel := false, agenda := [.lnklogcRead, .nop plain] }; admits s.power .lnklogcRead = true ∧ admits s.power (.nop plain) = false) ∧
    State.reset.sel = false ∧ State.reset.agenda = [] ∧ State.reset.power = .on := by
  and_intros <;> decide +kernel
/-- Of a drover: from the home, and where the line is being written not yet; of a gang: from the L1. -/
theorem witness_StepRunsTheSelected_fetch : (match xlateAll none 0 0 0 ⟨false, true, false⟩ 0x10000 movi with
    | (u, .ok p) => p.own == some 0x10000 && !u.homeWaits (some 0) 0x10000 8 && u.bad.isEmpty && u.badL2.isEmpty && u.badTags.isEmpty &&
        u.flaws.isEmpty && u.partials.isEmpty
    | _ => false) = true ∧
    (match xlateAll (some 0) 0 0 0 ⟨false, true, false⟩ 0x10000 (movi.setCore 0 { movi.core 0 with l1 := [⟨512, List.replicate 128 9⟩] }) with
    | (u, .ok p) => !p.l1nc && ((u.core 0).line? (p.pa / 128)).isSome
    | _ => false) = true ∧
    (let s := { movi with ops := [opBy 0 .store 4 .none 0 [⟨0, 0, 0x10000, 0, 0, 0, .invalidating, false⟩]] };
      (match (fetchWord s.g s.path.pc 0 s).2 with | .error b => b == notYet | .ok _ => false) = true) := by
  and_intros <;> decide +kernel
theorem witness_RoundTrip : (Instr.sAdd plain false 127 0 0).wf onGang = true ∧ (encode (.sAdd plain false 127 0 0)).isSome = true := by decide
theorem witness_StepKeepsMemoryCanonical : Memory.wf movi.mem = true ∧ (match step movi with | .next _ => true | _ => false) = true := by
  and_intros <;> decide +kernel
end Sys2Proof.Tests
end

section
/-!
PROOFS. What stands at the head of a channel is delivered, what a chunk does that a sum sends on, and what reset leaves (R10, R431, R435,
R438).
-/
namespace Sys2Proof.Machine

-- What changes nothing but queues of packets (R431, R435, R438, R445).

/-- Nothing differs but the input channels, the waybills, the ports that messages have passed, the chunks that wait for a port, and the
count of free values; no register below the waybills of the channels does. -/
def OnlyQueues (s t : State) : Prop :=
  t = { s with
    bar := t.bar
    fresh := t.fresh
    sys := { s.sys with inq := t.sys.inq, wbDue := t.sys.wbDue, ringPorts := t.sys.ringPorts, inject := t.sys.inject } } ∧
  ∀ r, r < rFab 0xA20 → t.reg r = s.reg r

theorem OnlyQueues.refl (s : State) : OnlyQueues s s := ⟨rfl, fun _ _ => rfl⟩
theorem OnlyQueues.trans {s t u : State} (h : OnlyQueues s t) (k : OnlyQueues t u) : OnlyQueues s u := by
  obtain ⟨h, hr⟩ := h
  obtain ⟨k, kr⟩ := k
  refine ⟨?_, fun r hlt => (kr r hlt).trans (hr r hlt)⟩
  rw [k, h]

section
variable {s t : State} (h : OnlyQueues s t)
include h

theorem OnlyQueues.outq : t.sys.outq = s.sys.outq := by rw [h.1]
theorem OnlyQueues.routers : t.sys.routers = s.sys.routers := by rw [h.1]
theorem OnlyQueues.coll? (id : Nat) : t.coll? id = s.coll? id := by rw [h.1]; rfl
theorem OnlyQueues.grpReg {g : Nat} (hg : g < 64) : t.reg (rFab (8 * g)) = s.reg (rFab (8 * g)) :=
  h.2 _ (by unfold rFab; omega)
theorem OnlyQueues.grpExt {g : Nat} (hg : g < 64) : t.grpExt g = s.grpExt g := by
  unfold State.grpExt; rw [h.grpReg hg]
theorem OnlyQueues.grpSelf {g : Nat} (hg : g < 64) : t.grpSelf g = s.grpSelf g := by
  unfold State.grpSelf State.grpBase State.mylmn
  rw [h.grpReg hg, h.2 (rXlat 0x810) (by decide)]
/-- What becomes of a message does not depend on the queues. -/
theorem OnlyQueues.fit (vote : Bool) (tag : Nat) (addr : U64) : t.fit vote tag addr = s.fit vote tag addr := by
  have hst : t.grpState (tag % 64) = s.grpState (tag % 64) := by
    unfold State.grpState; rw [h.grpReg (Nat.mod_lt _ (by decide))]
  have hcolls : t.sys.colls = s.sys.colls := by rw [h.1]
  have hseqs : t.sys.seqs = s.sys.seqs := by rw [h.1]
  have hgrps : t.sys.restoredGrps = s.sys.restoredGrps := by rw [h.1]
  unfold State.fit
  simp only [hst, hcolls, hseqs, hgrps]

end

theorem pushPacket_onlyQueues (ch : Nat) (p : Option Packet) (s : State) : OnlyQueues s (pushPacket ch p s) := by
  cases p <;> exact ⟨rfl, fun _ _ => rfl⟩
theorem popPacket_onlyQueues (ch : Nat) (s : State) : OnlyQueues s (popPacket ch s) := ⟨rfl, fun _ _ => rfl⟩
theorem notePort_onlyQueues (g port : Nat) (s : State) : OnlyQueues s (notePort g port s) := by
  unfold notePort; dsimp only; split
  · exact .refl s
  · exact ⟨rfl, fun _ _ => rfl⟩

/-- A waybill and its count lie above the registers of the groups (R445, R469). -/
theorem setReg_onlyQueues {o : Nat} (ho : rFab 0xA20 ≤ o) (v : U64) (s : State) : OnlyQueues s (s.setReg o v) :=
  ⟨rfl, fun r hr => reg_setReg_other s o r v (by omega)⟩
theorem waybill_onlyQueues (ch : Nat) (p : Packet) (s : State) : OnlyQueues s (waybill ch p s) := by
  have hset : ∀ v w, OnlyQueues s ((s.setReg (rWbdig ch) v).setReg (rWbcnt ch) w) := fun v w =>
    (setReg_onlyQueues (by unfold rWbdig rFab; omega) v s).trans (setReg_onlyQueues (by unfold rWbcnt rFab; omega) w _)
  unfold waybill; dsimp only; split
  · exact hset _ _
  · exact (hset _ _).trans ⟨rfl, fun _ _ => rfl⟩

/-- A packet of a channel that no colour logs is taken off its channel and enters the waybill, and that is all (R441, R445). -/
theorem delivered_onlyQueues {ch : Nat} {s : State} (hlog : ∀ col, s.logs col ch = false) (p : Packet) : OnlyQueues s (delivered ch p s) := by
  have hpop : ∀ col, (popPacket ch s).logs col ch = false := hlog
  have hlogged : logPacket ch p (popPacket ch s) = popPacket ch s := by simp [logPacket, hpop]
  unfold delivered
  rw [hlogged]
  exact (popPacket_onlyQueues ch s).trans (waybill_onlyQueues ch p _)

/-- A packet for this module that comes on an empty channel of a module that restores nothing is delivered at once, where it may be
(R431, R444). -/
theorem onHead_first {ch : Nat} {q : Packet} {s : State} (hq : SMap.get [] s.sys.inq ch = []) (hr : s.sys.restoring = none)
    (hp : q.phys = s.myphys) (may : Packet → State → Bool) (f : Packet → State → State) :
    onHead ch (some q) may f s =
      let u := pushPacket ch (some q) s
      if may q u then f q (delivered ch q u) else u := by
  have hhead : (pushPacket ch (some q) s).headPacket ch = some q := by simp [pushPacket, State.headPacket, hq]
  have hstays : (pushPacket ch (some q) s).passesOn q = false := by
    have hphys : (pushPacket ch (some q) s).myphys = s.myphys := rfl
    simp [State.passesOn, hphys, hp]
  have hres : (pushPacket ch (some q) s).sys.restoring.isSome = false := by simp [pushPacket, hr]
  simp [onHead, hres, hhead, hstays]

-- A chunk of a sum waits for its output port (R410, R435, R438).

theorem offerChunk_onlyQueues (deadline gt0 : U64) (die : Nat) (p : Packet) (s : State) : OnlyQueues s (offerChunk deadline gt0 die p s) := by
  have huse : OnlyQueues s (s.useFree 1) := ⟨rfl, fun _ _ => rfl⟩
  exact (huse.trans (notePort_onlyQueues _ _ _)).trans ⟨rfl, fun _ _ => rfl⟩
/-- No chunk of a sum or a copy is on an output channel when it has been sent: each waits at its port for its turn. -/
theorem sendValue_onlyQueues {c : Coll} (hop : c.op ≠ 4) (p i m : Nat) (bs : List Byte) (s : State) :
    OnlyQueues s (sendValue c p i m bs s) := by
  unfold sendValue
  simp only [hop, if_false]
  generalize List.range (bs.length / c.piece) = js
  induction js generalizing s with
  | nil => exact .refl s
  | cons j js ih => exact (offerChunk_onlyQueues _ _ _ _ s).trans (ih _)

@[simp] theorem halves_pos (c : Coll) : 0 < c.halves := by unfold Coll.halves; split <;> decide
/-- The first partial of a phase, at a member between the first and the last of its ring, is combined with the member's own value and
goes to the next one (R435). -/
theorem receiveSum_forwards {c : Coll} {p i : Nat} {s : State} (hseen : c.at_ (seenKey p i) = [])
    (hpos : ringPos (s.grpExt c.grp) (s.grpSelf c.grp) p ≠ 0)
    (hlast : ringPos (s.grpExt c.grp) (s.grpSelf c.grp) p + 1 ≠ ringLen (s.grpExt c.grp) p) (b : List Byte) :
    let c' := c.put (seenKey p i) [1]
    receiveSum c p i b s = sendValue c' p i (ringNext (s.grpExt c.grp) (s.grpSelf c.grp) p)
      (joinPartial c' b ((c'.at_ (inKey p i)).take c'.piece)) (putColl c' s) := by
  simp [receiveSum, hseen, hpos, hlast]

theorem settleRouters_none {s : State} (h : s.sys.routers = []) : settleRouters s = s := by
  simp [settleRouters, h, drainRouters]

/-- A message that its sum takes is a partial or a result of the chunk that its ADDR names (R432, R435). -/
theorem takeMessage_sum {tag id : Nat} {addr : U64} {c : Coll} {s : State} (hfit : s.fit false tag addr = .take id)
    (hc : s.coll? id = some c) (hop : c.op < 2) (b : List Byte) :
    takeMessage false tag addr b s = receiveSum c (addr.toNat / 2 ^ 32 % 4) (addr.toNat % 2 ^ 32) b s := by
  simp [takeMessage, hfit, hc, hop]

/-- A message is the first partial that the sum c takes in phase p of chunk i, and the member stands between the first and the last of
its ring. -/
structure TakesPartial (s : State) (q : Packet) (c : Coll) (p i : Nat) : Prop where
  phase : q.addr.toNat / 2 ^ 32 % 4 = p
  chunk : q.addr.toNat % 2 ^ 32 = i
  fit : s.fit false q.tag.toNat q.addr = .take c.id
  found : s.coll? c.id = some c
  sum : c.op < 2
  group : c.grp < 64
  unseen : c.at_ (seenKey p i) = []
  notFirst : ringPos (s.grpExt c.grp) (s.grpSelf c.grp) p ≠ 0
  notLast : ringPos (s.grpExt c.grp) (s.grpSelf c.grp) p + 1 ≠ ringLen (s.grpExt c.grp) p

theorem TakesPartial.of_queues {s t : State} {q : Packet} {c : Coll} {p i : Nat} (k : TakesPartial s q c p i) (h : OnlyQueues s t) :
    TakesPartial t q c p i where
  phase := k.phase
  chunk := k.chunk
  fit := (h.fit _ _ _).trans k.fit
  found := (h.coll? _).trans k.found
  sum := k.sum
  group := k.group
  unseen := k.unseen
  notFirst := by rw [h.grpExt k.group, h.grpSelf k.group]; exact k.notFirst
  notLast := by rw [h.grpExt k.group, h.grpSelf k.group]; exact k.notLast

/-- Such a partial is combined, and the combined value waits for its port. -/
theorem TakesPartial.settles {s : State} {q : Packet} {c : Coll} {p i : Nat} (k : TakesPartial s q c p i) (hrouters : s.sys.routers = []) :
    (settleRouters (takeMessage false q.tag.toNat q.addr q.payload s)).sys.outq = s.sys.outq := by
  have hop : (c.put (seenKey p i) [1]).op ≠ 4 := fun h => absurd k.sum (by rw [show c.op = 4 from h]; decide)
  have hsent := sendValue_onlyQueues hop
  rw [takeMessage_sum k.fit k.found k.sum, k.phase, k.chunk, receiveSum_forwards k.unseen k.notFirst k.notLast, settleRouters_none]
  · exact (hsent _ _ _ _ _).outq
  · exact (hsent _ _ _ _ _).routers.trans hrouters

/-- A partial sum that comes to a member inside the ring leaves every output channel as it was: what is sent on waits for its port
among the chunks (R410, R438), from where another event takes it. -/
theorem chunkArrival_outq {ch p i : Nat} {q : Packet} {c : Coll} {s : State} (hq : SMap.get [] s.sys.inq ch = [])
    (hr : s.sys.restoring = none) (hp : q.phys = s.myphys) (hkind : q.kind = 4) (hlog : ∀ col, s.logs col ch = false)
    (hrouters : s.sys.routers = []) (k : TakesPartial s q c p i) :
    (arriveMessage false ch (some q) s).sys.outq = s.sys.outq := by
  have hpush := pushPacket_onlyQueues ch (some q) s
  have hdel := hpush.trans (delivered_onlyQueues (s := pushPacket ch (some q) s) hlog q)
  have hnote := hdel.trans (notePort_onlyQueues (q.tag.toNat % 64) (ch / 4) _)
  unfold arriveMessage
  rw [onHead_first hq hr hp]
  simp only [hkind, (k.of_queues hpush).fit, (k.of_queues hdel).fit, Bool.false_eq_true, if_false, beq_self_eq_true, Bool.true_and, if_true]
  exact ((k.of_queues hnote).settles (hnote.routers.trans hrouters)).trans hnote.outq

/-- A chunk of FP32 zeros. -/
def zeroChunk : List Byte := List.replicate 256 0
theorem zeroChunk_length : zeroChunk.length = 256 := List.length_replicate
/-- A sum of group 0 that has started and holds this member's value of chunk 0. -/
def waitingSum : Coll where
  id := 50
  grp := 0
  op := 0
  seq := 0
  agent := 3
  team := 2
  grid := 1
  die := 0
  core := 0
  src := 0
  dst := 0
  ctl0 := 0
  ctl1 := 0
  inpl := true
  tfmt := 0
  n := 64
  root := 0
  vote := false
  deadline := 1000
  gtIssue := 0
  issuer := 0
  issued := [3]
  started := true
  held := [(inKey 0 0, zeroChunk)]
  doneChunks := []
  result := none
  writes := []
theorem waitingSum_own : (waitingSum.at_ (inKey 0 0)).length = 256 := by
  simp [waitingSum, Coll.at_, SMap.get, zeroChunk_length]
/-- The module is member 1 of group 0, an open ring of three, and has that sum. -/
def insideRing : State :=
  { State.reset with
    bar := [(rXlat 0x810, 1), (rFab 0, 0x2000000200000000)]
    sys := { SystemState.reset with colls := [waitingSum] } }
/-- The partial of chunk 0 that member 0 sends. -/
def partialOfChunk0 : Packet where
  dlmn := 1
  slmn := 0
  kind := 4
  vc := 2
  tag := 0
  addr := 0
  payload := zeroChunk
  phys := insideRing.myphys

/-- The sum takes that partial. -/
theorem insideRing_fit : insideRing.fit false partialOfChunk0.tag.toNat partialOfChunk0.addr = .take 50 := by decide +kernel
theorem insideRing_takes : TakesPartial insideRing partialOfChunk0 waitingSum 0 0 :=
  ⟨rfl, rfl, insideRing_fit, rfl, by decide, by decide, by decide, by decide, by decide⟩
theorem insideRing_outq : (arriveMessage false 4 (some partialOfChunk0) insideRing).sys.outq = [] :=
  chunkArrival_outq rfl rfl rfl rfl (by decide) rfl insideRing_takes

theorem exec_collectiveChunkArrival (ch : Nat) (p : Option Packet) (s : State) :
    exec (.collectiveChunkArrival ch p) s = .next (arriveMessage false ch p s) := rfl

/-- Refutes O52, at what it says of a partial sum: it is combined, but no packet of it is on an output channel after the event. The model
keeps the chunk among those that wait for an output port, as R410 and R438 have it; the vote of the next clause goes out at once. -/
theorem not_fabricEvents : ¬ Obligations.FabricEvents := by
  unfold Obligations.FabricEvents
  intro h
  obtain ⟨hchunk, -⟩ := h
  obtain ⟨t, ht, -, -, -, -, htake⟩ := hchunk insideRing 4 partialOfChunk0 ⟨rfl, rfl, rfl⟩ rfl
  rw [exec_collectiveChunkArrival] at ht
  obtain rfl := Host.Outcome.next.inj ht
  obtain ⟨-, -, c, p, -, hsent⟩ :=
    htake 50 waitingSum insideRing_fit rfl (by decide) rfl rfl zeroChunk_length waitingSum_own insideRing_takes.unseen
      insideRing_takes.notFirst insideRing_takes.notLast
  rw [insideRing_outq] at hsent
  simp [insideRing, SystemState.reset] at hsent

-- What reset leaves.

/-- No register holds a value of its own. -/
@[simp] theorem reg_reset (off : Nat) : State.reset.reg off = regReset off := rfl

/-- The registers of a die are those of the block of R459 that holds it. -/
theorem regReset_dieMem {d r : Nat} (hd : d < 8) (hr : r < 0x100000) : regReset (rDieMem d r) =
    if r = 0 then 0x10800 else if r = 0x10000 then 0x000186A000400001 else if r = 0x30010 then 1 else 0 := by
  have hoff : rDieMem d r % 0x100000 = r := by unfold rDieMem; omega
  have hlo : 0x100000 ≤ rDieMem d r := by unfold rDieMem; omega
  have hhi : rDieMem d r < 0x900000 := by unfold rDieMem; omega
  have hnot : rDieMem d r ≠ 0x0D0 ∧ rDieMem d r ≠ 0x0D8 := by omega
  simp [regReset, hoff, hlo, hhi, hnot]
theorem rSched_eq (d off : Nat) : rSched d off = rDieMem d (0x10000 + off) := by unfold rSched rDieMem; omega
theorem rTrace_eq (d off : Nat) : rTrace d off = rDieMem d (0x30000 + off) := by unfold rTrace rDieMem; omega
theorem rPh_eq (d off : Nat) : rPh d off = rDieMem d (0x40000 + off) := by unfold rPh rDieMem; omega
/-- The registers of a core are those of its block. -/
theorem regReset_core {c r : Nat} (hc : c < 512) (hr : r < 0x10000) : regReset (rCore c r) =
    if r = 0 then 0x0401 else if 0x180 ≤ r ∧ r < 0x1C0 then 0x78000 else 0 := by
  have hoff : rCore c r % 0x10000 = r := by unfold rCore; omega
  have hlo : 0x1000000 ≤ rCore c r := by unfold rCore; omega
  have hhi : rCore c r < 0x3000000 := by unfold rCore; omega
  have hnot : rCore c r ≠ 0x0D0 ∧ rCore c r ≠ 0x0D8 ∧ ¬rCore c r < 0x900000 := by omega
  simp [regReset, hoff, hlo, hhi, hnot]
/-- Above the registers of the cores and outside the remap table all but these eight are 0. -/
theorem regReset_zero {off : Nat} (hlo : 0x3000000 ≤ off) (hremap : off < 0x3010000 ∨ 0x3018000 ≤ off)
    (hnamed : off ∉ [rXlat 0x810, rXlat 0x818, rXlat 0x820, rSnap 0xD0, rFab 0xA08, rFab 0xA18, rSave 0x28, rExp 0x18]) :
    regReset off = 0 := by
  simp only [List.mem_cons, List.not_mem_nil, or_false, not_or] at hnamed
  have hnot : off ≠ 0x0D0 ∧ off ≠ 0x0D8 ∧ ¬off < 0x900000 ∧ ¬off < 0x3000000 ∧ ¬(0x3010000 ≤ off ∧ off < 0x3018000) := by omega
  simp [regReset, hnot, hnamed]
/-- No context has a valid page table. -/
theorem regReset_xlat {r : Nat} (hr : r < 0x800) : regReset (rXlat r) = 0 :=
  regReset_zero (by unfold rXlat; omega) (by unfold rXlat; omega) (by
    simp only [List.mem_cons, List.not_mem_nil, or_false, rXlat, rSnap, rFab, rSave, rExp]; omega)
theorem regReset_group {g : Nat} (hg : g < 64) : regReset (rFab (8 * g)) = 0 :=
  regReset_zero (by unfold rFab; omega) (by unfold rFab; omega) (by
    simp only [List.mem_cons, List.not_mem_nil, or_false, rXlat, rSnap, rFab, rSave, rExp]; omega)
/-- Of the remap table only the module's own entry is valid (R21). -/
theorem regReset_remap (n : BitVec 12) :
    regReset (rRemap n.toNat) = if n = Config.myPhys then 0x80000000 ||| Config.myPhys.setWidth 64 else 0 := by
  have hn := n.isLt
  have hinj : rRemap n.toNat = rRemap Config.myPhys.toNat ↔ n = Config.myPhys := by
    rw [← BitVec.toNat_inj]; unfold rRemap; omega
  have hlo : 0x3010000 ≤ rRemap n.toNat := by unfold rRemap; omega
  have hhi : rRemap n.toNat < 0x3018000 := by unfold rRemap; omega
  have hnot : rRemap n.toNat ≠ 0x0D0 ∧ rRemap n.toNat ≠ 0x0D8 ∧ ¬rRemap n.toNat < 0x900000 ∧ ¬rRemap n.toNat < 0x3000000 ∧
      rRemap n.toNat ≠ rXlat 0x810 ∧ rRemap n.toNat ≠ rXlat 0x818 ∧ rRemap n.toNat ≠ rXlat 0x820 := by
    unfold rXlat; omega
  simp [regReset, hlo, hhi, hnot, hinj]

theorem remap_reset (n : BitVec 12) : State.reset.remap n = if n = Config.myPhys then some Config.myPhys else none := by
  unfold State.remap
  rw [reg_reset, regReset_remap]
  by_cases h : n = Config.myPhys
  · have hvalid : (0x80000000 ||| Config.myPhys.setWidth 64 : U64).getLsbD 31 = true := by simp
    have hphys : (0x80000000 ||| Config.myPhys.setWidth 64 : U64).extractLsb' 0 12 = Config.myPhys := by
      have hlow : (0x80000000 : U64).extractLsb' 0 12 = 0 := by decide
      have hext : (Config.myPhys.setWidth 64 : U64).extractLsb' 0 12 = Config.myPhys := by
        ext i hi
        simp [hi, show i < 64 by omega]
      rw [BitVec.extractLsb'_or, hlow, hext]
      exact BitVec.zero_or
    simp only [h, if_true, hvalid, hphys]
  · simp [h]

/-- Settles O59: each part is read off the state after reset, and each register off its Reset column. -/
theorem resetState : Obligations.ResetState := by
  unfold Obligations.ResetState
  have hdie : ∀ d, d < 8 → State.reset.reg (rDieMem d 0) = 0x10800 ∧ State.reset.reg (rSched d 0) = 0x000186A000400001 ∧
      State.reset.reg (rTrace d 0x10) = 1 ∧ State.reset.reg (rPh d 0x10) = 0 := fun d hd =>
    ⟨by rw [reg_reset, regReset_dieMem hd (by omega)]; rfl, by rw [reg_reset, rSched_eq, regReset_dieMem hd (by omega)]; rfl,
      by rw [reg_reset, rTrace_eq, regReset_dieMem hd (by omega)]; rfl, by rw [reg_reset, rPh_eq, regReset_dieMem hd (by omega)]; rfl⟩
  have hcore : ∀ c, c < 512 → State.reset.reg (rCore c 0) = 0x0401 ∧
      (∀ n, n < 8 → State.reset.reg (rCore c (0x180 + 8 * n)) = 0x78000) ∧ (State.reset.core c).l1kib = 512 := fun c hc =>
    ⟨regReset_core (r := 0) hc (by decide),
      fun n hn => by rw [reg_reset, regReset_core hc (by omega), if_neg (by omega), if_pos (by omega)], rfl⟩
  have hxlat : ∀ c, c < 256 → State.reset.reg (rXlat (8 * c)) = 0 := fun c hc => regReset_xlat (by omega)
  have hown : State.reset.remap Config.myPhys = some Config.myPhys := by rw [remap_reset, if_pos rfl]
  have hother : ∀ n, n ≠ Config.myPhys → State.reset.remap n = none := fun n hn => by rw [remap_reset, if_neg hn]
  have hgroup : ∀ g, g < 64 → State.reset.grpState g = 0 := fun g hg => by
    unfold State.grpState; rw [reg_reset, regReset_group hg]; rfl
  exact ⟨reset_wf, getByte_reset, rfl, rfl, rfl, rfl, rfl, rfl, rfl, rfl, rfl, rfl, rfl, rfl, fun _ => rfl, rfl, rfl, rfl, hgroup, rfl, rfl,
    rfl, hdie, hcore, hxlat, rfl, rfl, hown, hother, rfl, rfl, rfl, rfl, rfl, rfl⟩

end Sys2Proof.Machine
end

section
/-!
PROOFS. A fetch from a line whose read copy in the die's L2 cannot be corrected (R30, R41), and the reserved bits of MCLKSET (R466).
-/
namespace Sys2Proof.Machine

-- A fetch that its die's L2 answers (R30, R37, R41).

/-- Die 1 holds a read copy of the line at 0x10000 of die 0, of which one word cannot be corrected; its shared TLB maps the page of the
fetch, and the line at its home is whole. -/
def flawedCopy : State :=
  { State.reset with
    bar := [(rXlat 0x810, 0), (rRemap 0, 0x80000000)]
    dir := [(512, .s 2)]
    dies := [(1, { DieState.reset with tlb := [⟨0, 1, 0, loadLeaf⟩], l2 := [⟨128, 1, 1⟩], copyFlaws := [(0x10000, 1, true)] })] }
/-- What the page maps the address of the fetch to. -/
def flawedPlace : Phys := ⟨0x10000, 0, false⟩

theorem flawedCopy_xlate :
    xlateAll none 0 1 0 ⟨false, true, false⟩ 0x10000 flawedCopy = (flawedCopy, .ok flawedPlace) := by decide +kernel
/-- The die's own copy answers, and it answers MEMERR. -/
theorem flawedCopy_fetch : (fetch8 none 0 1 0 0 0x10000 flawedCopy).2 = .error (cMemerr, 0x81) := by decide +kernel
theorem flawedCopy_homeWaits : flawedCopy.homeWaits (some 1) 0x10000 8 = false := by decide +kernel

/-- Refutes O56: a fetch that no instruction cache holds may be answered by its die's L2, and a word of the read copy there that cannot be
corrected (`copyFlaws`, R41) gives MEMERR, though the fourth clause asks only for a line that is whole at its home. -/
theorem not_stepRunsTheSelected : ¬ Obligations.StepRunsTheSelected := by
  unfold Obligations.StepRunsTheSelected
  rintro ⟨-, -, -, hfetch, -⟩
  obtain ⟨v, hv⟩ := hfetch 0 1 0 0 0x10000 flawedCopy flawedCopy flawedPlace 0x10000 flawedCopy_xlate rfl rfl flawedCopy_homeWaits
    rfl rfl rfl rfl rfl
  have herr := flawedCopy_fetch
  rw [hv] at herr
  cases herr

-- A write of MCLKSET (R466).

/-- MCLKSET holds a bit above its field STEPS. -/
def reservedMclkset : State := { State.reset with bar := [(0xD8, 0x40)] }

/-- The write keeps the bit that its field does not cover. -/
theorem reservedMclkset_written : (writeReg 0xD8 60 reservedMclkset).reg 0xD8 = 0x7C := by decide +kernel

/-- Refutes O55: a write of MCLKSET changes the bits of its field and keeps the rest of the register, so that MCLKSET reads `v &&& 0x3F`
only where the bits above the field were clear, which the clause on MCLKSET does not ask for. -/
theorem not_hostEvents : ¬ Obligations.HostEvents := by
  unfold Obligations.HostEvents
  rintro ⟨-, -, -, -, -, -, -, -, -, -, -, -, -, -, -, -, -, -, -, -, -, -, -, -, hmclkset, -⟩
  have hquiet : ∀ d, d < 8 → (reservedMclkset.reg (rTrace d 8)).toNat % 2 ^ 32 = 0 := by decide +kernel
  obtain ⟨t, hexec, -, hreg, -⟩ := hmclkset reservedMclkset 60 rfl hquiet (by decide +kernel)
  have ht : writeReg 0xD8 60 reservedMclkset = t := by injection hexec
  rw [← ht, reservedMclkset_written] at hreg
  exact absurd hreg (by decide)
end Sys2Proof.Machine
end

section
/-!
PROOFS. What an entry that is settled awaits, where the serials of the operations are not bounded (R363).
-/
namespace Sys2Proof.Machine

/-- The pending entry of an LD of two lanes from the team's scratchpad. -/
def loadEntry : PendEntry := ⟨1, 0, false, 1, 0x2000, 3, 0x50030101CC080B83, [(0, 0), (1, 4)], []⟩
/-- A load of the same gang that is in flight and belongs to no entry; its number is not below the next one. -/
def strayLoad : MemOp :=
  ⟨9, 1, 0, .load, 0, false, 4, false, .vector 20 20, false, 0, [], false, [], 0, 0, 0, 9, [], none, 0, 0, 1, 3, false, false, none⟩
/-- A gang of two lanes in its handler, with the entry pending and the load in flight. -/
def strayLoading : State :=
  { State.reset with
    serial := 0
    ops := [strayLoad]
    grids := [{ Grid.absent with id := 1, rc := { LaunchRec.absent with scratch := 64 } }]
    g := { Agent.absent with id := 1, grid := 1, exec := 3, live := 3, handler := some Agent.absent.control, pend := [loadEntry] } }
/-- The bytes of lane l. -/
def loadedBytes (l : Nat) : List Nat := (List.range 4).map (poolBase 0 + 4 * l + ·)

theorem strayLoading_entry : (strayLoading.entryForm loadEntry).1 = ⟨.load, 1, 4, false, false, 0, false, false, 0, false, .vector 12 13, false⟩ ∧
    (strayLoading.entryForm loadEntry).2 = [⟨0, 0, 0, 0⟩, ⟨1, 4, 0, 0⟩] := by decide +kernel
theorem strayLoading_places : strayLoading.lanesAt (strayLoading.entryForm loadEntry).1 (strayLoading.entryForm loadEntry).2 loadedBytes := by
  unfold State.lanesAt
  decide +kernel
/-- The settlement takes the load for one that the entry has sent, and waits. -/
theorem strayLoading_waits : (resume ⟨0, false, false, 0, 0⟩ (fun _ => true) 3 strayLoading).g.pend ≠ [] := by decide +kernel

/-- Refutes O47: a settlement awaits the loads that the entry sent, which the model knows by their numbers (`stampOps`: not below the next
number at the entry's turn). The last clause does not ask that the operations in flight have numbers below it, and a load in flight that has
not makes RESUME wait, with the entry still pending. -/
theorem not_trapsAndReturns : ¬ Obligations.TrapsAndReturns := by
  unfold Obligations.TrapsAndReturns
  rintro ⟨-, -, -, -, -, -, -, hresume⟩
  obtain ⟨hform, hreqs⟩ := strayLoading_entry
  obtain ⟨hcomplete, -⟩ := hresume ⟨0, false, false, 0, 0⟩ 3 0 strayLoading _ loadEntry loadedBytes 12 13 (.inl rfl) rfl rfl
    (by decide +kernel) rfl (by decide) (by rw [hreqs]; simp) (by rw [hform]) (by rw [hform]) (by rw [hform]) (by rw [hform]; decide)
    (by rw [hform]; decide) (by rw [hform]) (by decide +kernel)
  obtain ⟨t, hexec, hpend, -⟩ := hcomplete strayLoading_places
  have ht : resume ⟨0, false, false, 0, 0⟩ (fun _ => true) 3 strayLoading = t := by injection hexec
  exact strayLoading_waits (ht ▸ hpend)
end Sys2Proof.Machine
end

section
/-!
PROOFS. An access to global memory leaves as one operation: what its launch changes, the order of its lanes, and its checks (R25, R295, R296,
R299, R301, R305).
-/
namespace Sys2Proof.Machine

-- What of an operation stays while it is under way.

/-- What a lane has asked for: all of its part but how far it has come, and the value that a load has met. -/
def Part.asked (k : MemKind) (p : Part) : Part := { p with st := .waiting, data := if k = .load then 0 else p.data }
/-- What a word has asked for. -/
def MemOp.asked (o : MemOp) : MemOp := { o with parts := o.parts.map (·.asked o.kind), fills := [], readers := [] }

/-- Nothing of memory or of the agent differs, nor any operation. -/
def OpsKept (s t : State) : Prop := t.mem = s.mem ∧ t.g = s.g ∧ t.ops = s.ops
/-- Nothing of memory or of the agent differs, and the operations under way ask for the same. -/
def SameAsked (s t : State) : Prop := t.mem = s.mem ∧ t.g = s.g ∧ t.ops.map (·.asked) = s.ops.map (·.asked)

theorem OpsKept.refl (s : State) : OpsKept s s := ⟨rfl, rfl, rfl⟩
theorem OpsKept.trans {s t u : State} (h : OpsKept s t) (k : OpsKept t u) : OpsKept s u :=
  ⟨k.1.trans h.1, k.2.1.trans h.2.1, k.2.2.trans h.2.2⟩
theorem OpsKept.foldl {α : Type} (f : State → α → State) (l : List α) (h : ∀ t a, OpsKept t (f t a)) (s : State) :
    OpsKept s (l.foldl f s) := by
  induction l generalizing s with
  | nil => exact .refl s
  | cons a r ih => exact (h s a).trans (ih _)
theorem OpsKept.sameAsked {s t : State} (h : OpsKept s t) : SameAsked s t := ⟨h.1, h.2.1, by rw [h.2.2]⟩

theorem SameAsked.refl (s : State) : SameAsked s s := ⟨rfl, rfl, rfl⟩
theorem SameAsked.trans {s t u : State} (h : SameAsked s t) (k : SameAsked t u) : SameAsked s u :=
  ⟨k.1.trans h.1, k.2.1.trans h.2.1, k.2.2.trans h.2.2⟩
/-- What keeps what was asked at every turn of a fold, where P holds, keeps it. -/
theorem SameAsked.foldl {α : Type} (P : State → Prop) (hP : ∀ {t u}, SameAsked t u → P t → P u) (f : State → α → State) (l : List α)
    (h : ∀ t a, P t → SameAsked t (f t a)) (s : State) (hs : P s) : SameAsked s (l.foldl f s) := by
  induction l generalizing s with
  | nil => exact .refl s
  | cons a r ih => exact (h s a hs).trans (ih _ (hP (h s a hs) hs))

theorem map_updFirst {α β : Type} (e : α → β) (p : α → Bool) (f : α → α) (l : List α)
    (h : ∀ a, l.find? p = some a → e (f a) = e a) : (updFirst p f l).map e = l.map e := by
  induction l with
  | nil => rfl
  | cons a r ih =>
    by_cases hp : p a = true
    · simp [updFirst, hp, h a (by simp [hp])]
    · simp only [updFirst, if_neg hp, List.map_cons, ih fun b hb => h b (by simp [hp, hb])]

/-- A part that goes on asks for the same. -/
theorem updPart_sameAsked {s : State} {id : Nat} {o : MemOp} (hfind : s.ops.find? (·.id == id) = some o) (l : Nat) (f : Part → Part)
    (hf : ∀ p, (f p).asked o.kind = p.asked o.kind) : SameAsked s (updPart o l f s) := by
  have hid : o.id = id := by simpa using List.find?_some hfind
  refine ⟨rfl, rfl, map_updFirst _ _ _ _ fun a ha => ?_⟩
  rw [hid, hfind] at ha
  obtain rfl := Option.some.inj ha
  simp only [MemOp.asked, map_updFirst (Part.asked o.kind) _ f o.parts fun p _ => hf p]

-- The L1 and the channels.

theorem setCore_opsKept (c : Nat) (x : CoreState) (s : State) : OpsKept s (s.setCore c x) := ⟨rfl, rfl, rfl⟩
theorem l1Count_opsKept (core line : Nat) (hit : Bool) (s : State) : OpsKept s (l1Count core line hit s) := by
  unfold l1Count; dsimp only
  split <;> exact ⟨rfl, rfl, rfl⟩
theorem sendTo_opsKept (m : Option (BitVec 12)) (p : Packet) (s : State) : OpsKept s (sendTo m p s) := by
  unfold sendTo notePort; dsimp only
  split
  · split <;> exact ⟨rfl, rfl, rfl⟩
  · exact ⟨rfl, rfl, rfl⟩

theorem storeL1_opsKept (core : Nat) (o : MemOp) (s : State) : OpsKept s (storeL1 core o s) := by
  unfold storeL1
  refine (OpsKept.foldl _ _ (fun t p => l1Count_opsKept _ _ _ t) s).trans (.foldl _ _ (fun t e => ?_) _)
  dsimp only
  split
  · exact setCore_opsKept _ _ t
  · split
    · exact setCore_opsKept _ _ t
    · exact .refl t
theorem mapOps_sameAsked (f : MemOp → MemOp) (s : State) (hf : ∀ o, (f o).asked = o.asked) : SameAsked s { s with ops := s.ops.map f } := by
  refine ⟨rfl, rfl, ?_⟩
  show (s.ops.map f).map _ = _
  rw [List.map_map]
  exact List.map_congr_left fun o _ => hf o
theorem l1Drop_sameAsked (core : Nat) (p : Nat → Bool) (s : State) : SameAsked s (l1Drop core p s) := by
  refine (setCore_opsKept _ _ s).sameAsked.trans (mapOps_sameAsked _ _ fun o => ?_)
  split <;> rfl

-- An operation comes to its core (R66, R67).

theorem sendParts_sameAsked (id : Nat) (s : State) : SameAsked s (sendParts id s) := by
  unfold sendParts
  split
  · exact .refl s
  · refine .foldl (fun _ => True) (fun _ _ => trivial) _ _ (fun t p _ => ?_) s trivial
    split
    · split
      · rename_i o hfind
        have hsend := sendTo_opsKept (some p.phys) (requestPacket t o p) t
        exact hsend.sameAsked.trans (updPart_sameAsked ((congrArg _ hsend.2.2).trans hfind) _ _ fun _ => rfl)
      · exact .refl t
    · exact .refl t

/-- The operations of this name are of this kind. -/
def State.kindOf (s : State) (id : Nat) (k : MemKind) : Prop := ∀ o ∈ s.ops, o.id = id → o.kind = k
theorem SameAsked.kindOf {s t : State} (h : SameAsked s t) {id : Nat} {k : MemKind} (hk : s.kindOf id k) : t.kindOf id k := by
  intro o ho hid
  have hmem : o.asked ∈ s.ops.map (·.asked) := h.2.2 ▸ List.mem_map_of_mem ho
  obtain ⟨q, hq, hqo⟩ := List.mem_map.mp hmem
  exact (congrArg MemOp.kind hqo).symm.trans (hk q hq ((congrArg MemOp.id hqo).trans hid))

theorem serveLocal_sameAsked (core id l : Nat) (s : State) (hload : s.kindOf id .load) : SameAsked s (serveLocal core id l s) := by
  unfold serveLocal
  split
  · exact .refl s
  next o hfind =>
  have hkind : o.kind = .load := hload o (List.mem_of_find?_eq_some hfind) (by simpa using List.find?_some hfind)
  split
  · exact .refl s
  next p _ =>
  extract_lets split blind u
  have hu : OpsKept s u := by
    show OpsKept s (if split then s.useFree 1 else s)
    cases split <;> exact ⟨rfl, rfl, rfl⟩
  split
  · exact (hu.trans (l1Count_opsKept _ _ _ u)).sameAsked
  next v ids hit _ =>
  extract_lets w x
  have hw : OpsKept u w := by
    show OpsKept u (if hit = true then _ else u)
    split
    · refine (l1Count_opsKept core (p.pa / 128) true u).trans ?_
      split
      · exact setCore_opsKept _ _ _
      · exact .refl _
    · exact .refl u
  have hx : SameAsked w x :=
    updPart_sameAsked ((congrArg _ (hu.trans hw).2.2).trans hfind) _ _ fun _ => by simp [Part.asked, hkind]
  refine ((hu.trans hw).sameAsked.trans hx).trans (mapOps_sameAsked _ x fun q => ?_)
  split <;> rfl

theorem openOp_sameAsked (id : Nat) (k : MemKind) (s : State) (hk : s.kindOf id k) : SameAsked s (openOp id s) := by
  unfold openOp
  split
  · exact .refl s
  next o hfind =>
  have hkind : o.kind = k := hk o (List.mem_of_find?_eq_some hfind) (by simpa using List.find?_some hfind)
  refine SameAsked.trans ?_ (sendParts_sameAsked id _)
  split
  · exact .refl s
  next c _ =>
  split
  next hload =>
    refine .foldl (·.kindOf id .load) (fun h => h.kindOf) _ _ (fun t p ht => ?_) s (by rw [← hload, hkind]; exact hk)
    split
    · exact serveLocal_sameAsked _ _ _ t ht
    · exact .refl t
  · exact (storeL1_opsKept c o s).sameAsked
  · exact .refl s
  · exact l1Drop_sameAsked _ _ s

-- The operation of an access, and the order of its lanes (R83, R295, R296, R305).

/-- A launch that nothing holds back. -/
theorem launchOp_leaves (f : Form) (ps : List (Req × Nat × Option Phys)) (s : State) (hne : ps ≠ [])
    (hid : ∀ q ∈ s.ops, q.id < s.serial) :
    (launchOp f false ps s).mem = s.mem ∧ (∃ l, (launchOp f false ps s).g = { s.g with paths := l }) ∧
    (∀ q ∈ s.ops, ∃ k ∈ (launchOp f false ps s).ops, k.asked = q.asked) ∧
    ∃ o ∈ (launchOp f false ps s).ops, o.id = s.serial ∧ o.agent = s.g.id ∧ o.kind = f.kind ∧ o.aop = BitVec.ofNat 4 f.aop ∧ o.size = f.n ∧
      o.dest = f.dest ∧ o.acq = f.acq ∧ o.parts.map (·.asked f.kind) = ps.map fun e =>
        Part.asked f.kind ⟨e.1.lane, e.1.ea, e.2.1, (e.2.2.map (·.phys)).getD s.myphys, e.1.data, e.1.cmp, .waiting, (e.2.2.map (·.l1nc)).getD false⟩ := by
  unfold launchOp
  rw [if_neg (by simpa using hne)]
  extract_lets parts reads o s1 s2
  have hkind : s2.kindOf o.id f.kind := by
    intro q hq hqid
    rcases List.mem_append.mp hq with hold | hnew
    · exact absurd hqid (Nat.ne_of_lt (hid q hold))
    · rw [List.mem_singleton.mp hnew]
  obtain ⟨hmem, hg, hops⟩ := openOp_sameAsked o.id f.kind s2 hkind
  have hall : ∀ q ∈ s2.ops, ∃ k ∈ (openOp o.id s2).ops, k.asked = q.asked := fun q hq => by
    have hq' : q.asked ∈ (openOp o.id s2).ops.map (·.asked) := hops ▸ List.mem_map_of_mem hq
    simpa using hq'
  obtain ⟨k, hk, hko⟩ := hall o (List.mem_append_right _ (List.mem_singleton_self o))
  have hkk : k.kind = f.kind := (congrArg MemOp.kind hko).trans rfl
  have hparts := congrArg MemOp.parts hko
  refine ⟨hmem, ⟨_, hg⟩, fun q hq => hall q (List.mem_append_left _ hq), k, hk, (congrArg MemOp.id hko).trans rfl,
    (congrArg MemOp.agent hko).trans rfl, hkk, (congrArg MemOp.aop hko).trans rfl, (congrArg MemOp.size hko).trans rfl,
    (congrArg MemOp.dest hko).trans rfl, (congrArg MemOp.acq hko).trans rfl, ?_⟩
  simp only [MemOp.asked, hkk] at hparts
  rw [hparts]
  exact List.map_map

theorem insertBy_perm (k : Nat → Nat) (r : Req) (l : List Req) : (insertBy k r l).Perm (r :: l) := by
  induction l with
  | nil => exact .refl _
  | cons x t ih =>
    unfold insertBy
    split
    · exact .refl _
    · exact (ih.cons x).trans (.swap r x t)
theorem laneOrder_perm (f : Form) (rs : List Req) (s : State) : (laneOrder f rs s).Perm rs := by
  have hfold : ∀ (k : Nat → Nat) (l acc : List Req), (l.foldl (fun l r => insertBy k r l) acc).Perm (l ++ acc) := by
    intro k l
    induction l with
    | nil => exact fun acc => .refl _
    | cons r t ih => exact fun acc => (ih _).trans (((insertBy_perm k r acc).append_left t).trans List.perm_middle)
  unfold laneOrder
  dsimp only
  split
  · exact .refl _
  · simpa using hfold _ rs []

-- The lanes of an access that goes to memory (R25, R28).

/-- Nothing differs but caches, and the count of free values. -/
def OnlyCaches (s t : State) : Prop := t = { s with cores := t.cores, dies := t.dies, fresh := t.fresh }
theorem OnlyCaches.trans {s t u : State} (h : OnlyCaches s t) (k : OnlyCaches t u) : OnlyCaches s u := by
  unfold OnlyCaches at *; rw [k, h]

theorem install_onlyCaches (core : Option Nat) (d : Nat) (e : TlbEntry) (s : State) : OnlyCaches s (install core d e s) := by
  unfold install
  extract_lets x t
  have ht : OnlyCaches s t := by
    show OnlyCaches s (if _ then _ else _)
    split <;> rfl
  clear_value t
  cases core with
  | none => exact ht
  | some c =>
    refine ht.trans ?_
    dsimp only
    split <;> rfl
theorem fillTlb_onlyCaches (a : Agent) (va : Nat) (s : State) : OnlyCaches s (fillTlb a va s) := by
  unfold fillTlb
  split
  · exact install_onlyCaches _ _ _ s
  · rfl
theorem fillTlbs_onlyCaches (rs : List Req) (s : State) : OnlyCaches s (rs.foldl (fun s r => fillTlb s.g r.ea.toNat s) s) := by
  induction rs generalizing s with
  | nil => rfl
  | cons r t ih => exact (fillTlb_onlyCaches _ _ s).trans (ih _)

/-- What a lane sends, where it goes to memory. -/
def sentOf (g : Req → Spot) (r : Req) : Req × Nat × Option Phys :=
  match g r with
  | .glob p => (r, p.pa, some p)
  | _ => (r, 0, none)

/-- Of lanes that all go to memory, each finds its own place again. -/
theorem find_placed (rs : List Req) (g : Req → Spot) (hnd : (rs.map (·.lane)).Nodup) {r : Req} (hr : r ∈ rs) :
    (rs.map fun r => (r, g r)).find? (·.1.lane == r.lane) = some (r, g r) := by
  induction rs with
  | nil => simp at hr
  | cons x t ih =>
    rw [List.map_cons, List.nodup_cons] at hnd
    rcases List.mem_cons.mp hr with rfl | hmem
    · simp
    · have hne : x.lane ≠ r.lane := fun h => hnd.1 (h ▸ List.mem_map_of_mem hmem)
      simpa [hne] using ih hnd.2 hmem

theorem foldl_fixed_of_mem {α β : Type} (f : β → α → β) (l : List α) {b : β} (h : ∀ a ∈ l, f b a = b) : l.foldl f b = b := by
  induction l with
  | nil => rfl
  | cons a t ih => rw [List.foldl_cons, h a List.mem_cons_self, ih fun x hx => h x (List.mem_cons_of_mem _ hx)]

/-- Lanes that all go to memory leave as one operation, in some order. -/
theorem performLanes_glob (f : Form) (rs : List Req) (g : Req → Spot) (s : State) (hspace : f.space = 0)
    (hrel : f.rel = true → s.mayRelease s.g.id f.scope = true) (hnd : (rs.map (·.lane)).Nodup) (hne : rs ≠ [])
    (hglob : ∀ r ∈ rs, ∃ p, g r = .glob p) :
    ∃ (order : List Req) (u : State), order.Perm rs ∧ OnlyCaches s u ∧
      performLanes f (rs.map fun r => (r, g r)) s = launchOp f false (order.map (sentOf g)) u := by
  unfold performLanes
  extract_lets order u1 free held u2 spot words cores u3 u4 far u5
  have hperm : order.Perm rs := by simpa [order, Function.comp_def] using laneOrder_perm f _ s
  have hspot : ∀ r ∈ order, ∃ p, spot r = .glob p ∧ g r = .glob p := fun r hr => by
    obtain ⟨p, hp⟩ := hglob r (hperm.mem_iff.mp hr)
    refine ⟨p, ?_, hp⟩
    simp only [spot, find_placed rs g hnd (hperm.mem_iff.mp hr), Option.map_some, Option.getD_some, hp]
  have hu1 : OnlyCaches s u1 := by
    show OnlyCaches s (if _ then _ else _)
    split <;> rfl
  have hfree : free = false := by simp [free, hspace]
  have hu1held : u1.loadsBack u1.g.id = s.loadsBack s.g.id ∧ u1.holds u1.g.id = s.holds s.g.id := by rw [hu1]; exact ⟨rfl, rfl⟩
  have hheld : held = false := by
    simp only [held, hfree, hu1held, Bool.false_and, Bool.or_false]
    by_cases hr : f.rel = true
    · have hm := hrel hr
      simp only [State.mayRelease, Bool.and_eq_true, Bool.not_eq_true'] at hm
      simp [hm.1.1, hm.1.2]
    · simp [hr]
  have hu3 : u3 = u1 := by simp [u3, u2, hfree, hspace]
  have hu4 : u4 = u1 := by
    simp only [u4, hheld, Bool.false_eq_true, if_false, hu3]
    refine foldl_fixed_of_mem _ _ fun r hr => ?_
    obtain ⟨p, hp, -⟩ := hspot r hr
    rw [hp]
  have hfar : far = order.map (sentOf g) := by
    rw [← List.filterMap_eq_map]
    refine List.filterMap_congr fun r hr => ?_
    obtain ⟨p, hp, hg⟩ := hspot r hr
    simp [sentOf, hp, hg]
  have hfull : far.isEmpty = false := by
    have : order ≠ [] := fun h => hne (List.perm_nil.mp (h ▸ hperm).symm)
    simpa [hfar] using this
  refine ⟨order, u1, hperm, hu1, ?_⟩
  rw [if_neg (by simp [hfull])]
  simp only [u5, hheld, hu4, hfar]

/-- Lanes that all pass their checks and go to memory leave as one operation. -/
theorem accessLanes_glob (f : Form) (rs : List Req) (s : State) (hspace : f.space = 0)
    (hrel : f.rel = true → s.mayRelease s.g.id f.scope = true) (hnd : (rs.map (·.lane)).Nodup) (hne : rs ≠ [])
    (hglob : ∀ r ∈ rs, ∃ p, s.place s.g f r = .glob p) :
    ∃ (order : List Req) (u : State), order.Perm rs ∧ OnlyCaches s u ∧
      accessLanes f rs s = (some [], launchOp f false (order.map (sentOf (s.place s.g f))) u) := by
  have hspots : ∀ e ∈ rs.map (fun r => (r, s.place s.g f r)), ∃ p, e.2 = .glob p := by simpa using hglob
  unfold accessLanes
  extract_lets spots misses bad good u1 u2
  have hmiss : misses = [] := List.filterMap_eq_nil_iff.mpr fun e he => by obtain ⟨p, hp⟩ := hspots e he; rw [hp]
  have hbad : bad = [] := List.filterMap_eq_nil_iff.mpr fun e he => by obtain ⟨p, hp⟩ := hspots e he; rw [hp]
  have hgood : good = spots := List.filter_eq_self.mpr fun e he => by obtain ⟨p, hp⟩ := hspots e he; rw [hp]
  have hwait : spots.any (fun e => e.2 == .wait) = false := List.any_eq_false.mpr fun e he => by
    obtain ⟨p, hp⟩ := hspots e he; simp [hp]
  have hu1 : OnlyCaches s u1 := by
    show OnlyCaches s (if f.space = 0 then _ else _)
    rw [if_pos hspace]
    exact fillTlbs_onlyCaches _ s
  have hu2 : u2 = u1 := by simp [u2, hbad]
  have hrel1 : f.rel = true → u1.mayRelease u1.g.id f.scope = true := by rw [hu1]; exact hrel
  obtain ⟨order, u, hperm, hu, hperf⟩ := performLanes_glob f rs (s.place s.g f) u1 hspace hrel1 hnd hne hglob
  refine ⟨order, u, hperm, hu1.trans hu, ?_⟩
  simp [hmiss, hwait, hbad, hgood, hu2, spots, hperf]

/-- A release that nothing holds back goes on (R101, R53). -/
theorem released_free (scope : Nat) (f : State → State) (s : State) (hmay : s.mayRelease s.g.id scope = true) (hdrop : s.g.dropped = []) :
    released scope f s = f s := by
  simp only [State.mayRelease, Bool.and_eq_true, Bool.not_eq_true', Bool.or_eq_true, decide_eq_true_eq] at hmay
  obtain ⟨⟨hback, hheld⟩, hwide⟩ := hmay
  unfold released whenDrained dropReport
  rw [if_neg (by simp [hback, hheld])]
  split
  · rfl
  · obtain ⟨hflight, hreaders⟩ := hwide.resolve_left (by assumption)
    have hnone : ¬(s.ops.any fun o => o.readers.contains s.g.id) = true := by
      simpa [List.all_eq_true] using hreaders
    rw [if_neg hnone, if_neg (not_not_intro hflight), hdrop]

/-- The access issues, and its word goes on. -/
theorem memory_glob (h : Hint) (f : Form) (rs : List Req) (s : State) (hnd : (rs.map (·.lane)).Nodup) (hne : rs ≠ [])
    (hmay : s.mayAccess f) (hspace : f.space = 0) (hglob : ∀ r ∈ rs, ∃ p, s.place s.g f r = .glob p) :
    ∃ (order : List Req) (u : State), order.Perm rs ∧ OnlyCaches s u ∧
      let t := launchOp f false (order.map (sentOf (s.place s.g f))) u
      memory h f rs s = retire h { t with g := { t.g with hits := t.g.hits ++ (watchHits f rs t).take 1 } } := by
  obtain ⟨hcount, hrel⟩ := hmay
  obtain ⟨order, u, hperm, hu, hlanes⟩ := accessLanes_glob f rs s hspace (fun hr => (hrel hr).1) hnd hne hglob
  refine ⟨order, u, hperm, hu, ?_⟩
  unfold memory
  rw [if_neg (by simpa using hne), if_neg (by simp [hcount]), if_neg (by simp [hspace])]
  split
  next hwide =>
    obtain ⟨hr, -⟩ : f.rel = true ∧ 2 ≤ f.scope := by simpa using hwide
    rw [released_free _ _ s (hrel hr).1 (hrel hr).2, hlanes]
    rfl
  · rw [id, hlanes]
    rfl

/-- All that the access does until it returns (R295, R296, R305). -/
theorem memory_leaves (h : Hint) (f : Form) (rs : List Req) (s : State) (hnd : (rs.map (·.lane)).Nodup) (hne : rs ≠ [])
    (hmay : s.mayAccess f) (hspace : f.space = 0) (hid : ∀ q ∈ s.ops, q.id < s.serial)
    (hglob : ∀ r ∈ rs, ∃ p, s.place s.g f r = .glob p) : Leaves f rs s (memory h f rs s) := by
  obtain ⟨order, u, hperm, hu, ht⟩ := memory_glob h f rs s hnd hne hmay hspace hglob
  have hsent : order.map (sentOf (s.place s.g f)) ≠ [] := by
    intro hnil
    exact hne (List.perm_nil.mp (List.map_eq_nil_iff.mp hnil ▸ hperm).symm)
  obtain ⟨hmem, ⟨l, hg⟩, hold, o, ho, hoid, hagent, hkind, haopo, hsize, hdest, hacq, hparts⟩ :=
    launchOp_leaves f (order.map (sentOf (s.place s.g f))) u hsent (by rw [hu]; exact hid)
  dsimp only at ht
  generalize launchOp f false _ u = v at ht hmem hg hold ho
  obtain ⟨humem, hug, huops, huserial⟩ : u.mem = s.mem ∧ u.g = s.g ∧ u.ops = s.ops ∧ u.serial = s.serial := by
    rw [hu]; exact ⟨rfl, rfl, rfl, rfl⟩
  rw [ht, (retire_only h _).1]
  refine ⟨fun y => congrArg (SMap.get 0 · y) (hmem.trans humem), ?_, ?_, ?_, fun q hq => ?_, o, ho, hoid.trans huserial,
    hagent.trans (congrArg Agent.id hug), hkind, ?_, hsize, hdest, hacq, ?_, fun r hr p hp => ?_⟩
  · rw [hg, hug]; exact ⟨rfl, rfl, rfl, rfl, rfl, rfl, rfl, rfl, rfl, rfl, rfl, rfl⟩
  · rw [hg, hug]; rfl
  · rw [hg, hug]; rfl
  · obtain ⟨k, hk, hkq⟩ := hold q (huops ▸ hq)
    refine ⟨k, hk, (congrArg (·.id) hkq :), (congrArg (·.kind) hkq :), ?_⟩
    have hpas := congrArg (fun o : MemOp => o.parts.map (·.pa)) hkq
    simp only [MemOp.asked, List.map_map] at hpas
    exact hpas
  · rw [haopo, BitVec.toNat_ofNat]
  · have hlen := congrArg List.length hparts
    simpa [hperm.length_eq] using hlen
  · have hmemb : Part.asked f.kind ⟨r.lane, r.ea, p.pa, p.phys, r.data, r.cmp, .waiting, p.l1nc⟩ ∈ o.parts.map (·.asked f.kind) := by
      rw [hparts, List.map_map]
      refine List.mem_map.mpr ⟨r, hperm.mem_iff.mpr hr, ?_⟩
      simp [sentOf, hp]
    obtain ⟨q, hq, hqr⟩ := List.mem_map.mp hmemb
    refine ⟨q, hq, congrArg Part.lane hqr, congrArg Part.ea hqr, congrArg Part.pa hqr, fun hload => ⟨?_, congrArg Part.cmp hqr⟩⟩
    simpa [Part.asked, hload] using congrArg Part.data hqr

-- The words (R293 to R301).

theorem reqs_lanes_nodup (s : State) (h : Hint) (ea data cmp : Nat → U64) : ((s.reqs h ea data cmp).map (·.lane)).Nodup := by
  unfold State.reqs
  simpa [Function.comp_def] using nodup_lanesOf (s.act h)
theorem uniReq_lanes_nodup (s : State) (h : Hint) (ea data cmp : U64) : ((s.uniReq h ea data cmp).map (·.lane)).Nodup := by
  unfold State.uniReq
  split <;> simp

theorem laneSet_eq_zero (w : Nat) (p : Nat → Bool) (h : ∀ i, p i = false) : laneSet w p = 0 := by
  unfold laneSet
  rw [List.foldl_fixed' (by simp [h])]
  rfl
/-- An operand that an operation does not read as floating-point data is not checked, and one that it does read holds no marker (R165). -/
theorem unlessMarked_aop (m : U64) (aop : BitVec 4) (w : Nat → U32) (f : State → State) (s : State)
    (h : 10 ≤ aop.toNat → ∀ l, bit m l = true → marker (w l) = none) : unlessMarked m (fun l => aopWords aop (w l)) f s = f s := by
  refine unlessMarked_clean _ _ _ _ (laneSet_eq_zero _ _ fun l => ?_)
  cases hb : bit m l
  · rfl
  · unfold aopWords
    split
    next hf => simp [h hf l hb]
    · rfl

/-- A word that issues the access of its lanes sends it. -/
theorem sendsAccess_of_memory {pre : State → Prop} {i : Instr} {f : State → Form} {rs : State → List Req} (h : Hint)
    (hnd : ∀ s, ((rs s).map (·.lane)).Nodup)
    (hexec : ∀ s, pre s → exec i s = .next (memory h (f s) (rs s) s)) : SendsAccess pre i f rs := by
  intro s hpre hne hmay hspace hid hglob
  exact ⟨_, hexec s hpre, memory_leaves h (f s) (rs s) s (hnd s) hne hmay hspace hid hglob⟩

/-- Settles O35: every lane's access to global memory that passes its checks goes into the one operation of `launchOp`, in the order of
`laneOrder`; what its core does with it then (`openOp`) keeps what it asks for, memory and the agent. -/
theorem globalAccessesLeave : Obligations.GlobalAccessesLeave := by
  refine ⟨⟨fun h x d a b => ?ld, fun h x d a b => ?st, fun h x d a => ?ldg, fun h x d a => ?stg, fun h x o d a b => ?atom,
    fun h x o d a b => ?rstore⟩, fun h x d a b => ?ldS, fun h x d a b => ?stS, fun h x o d a b => ?atomS⟩
  case ld =>
    exact sendsAccess_of_memory h (fun s => reqs_lanes_nodup s h _ _ _) fun _ _ => rfl
  case st =>
    exact sendsAccess_of_memory h (fun s => reqs_lanes_nodup s h _ _ _) fun _ _ => rfl
  case ldg =>
    exact sendsAccess_of_memory h (fun s => reqs_lanes_nodup s h _ _ _) fun _ _ => rfl
  case stg =>
    exact sendsAccess_of_memory h (fun s => reqs_lanes_nodup s h _ _ _) fun _ _ => rfl
  case atom =>
    refine sendsAccess_of_memory h (fun s => reqs_lanes_nodup s h _ _ _) fun s hpre => ?_
    refine (congrArg Host.Outcome.next (unlessMarked_aop _ _ (fun l => s.vr d l) _ _ fun ho l hl => hpre ho l hl _ (List.mem_singleton_self _))).trans ?_
    simp only [beq_iff_eq]
    split <;> rfl
  case rstore =>
    refine sendsAccess_of_memory h (fun s => reqs_lanes_nodup s h _ _ _) fun s hpre => ?_
    exact congrArg Host.Outcome.next (unlessMarked_aop _ _ (fun l => s.vr d l) _ _ fun ho l hl => hpre ho l hl _ (List.mem_singleton_self _))
  case ldS =>
    exact sendsAccess_of_memory h (fun s => uniReq_lanes_nodup s h _ _ _) fun _ _ => rfl
  case stS =>
    exact sendsAccess_of_memory h (fun s => uniReq_lanes_nodup s h _ _ _) fun _ _ => rfl
  case atomS =>
    refine sendsAccess_of_memory h (fun s => uniReq_lanes_nodup s h _ _ _) fun s hpre => ?_
    refine (congrArg Host.Outcome.next (unlessMarked_aop _ _ (fun _ => lo32 (s.sr d)) _ _ fun ho _ _ => hpre ho)).trans ?_
    simp only [beq_iff_eq]
    split <;> rfl

end Sys2Proof.Machine
end

section
/-!
PROOFS. Two runs of what the homes and the walks of a die do, which differ in the agents that their error logs name: they keep the walks under
way and the agent at issue, and, where no partial is open and no unit of an L2 is uncorrectable, memory; they find the same (R32, R33, R36
to R57).
-/
namespace Sys2Proof.Machine

-- Two runs that differ in whom their error logs name (R57).

/-- What two runs keep: the agent at issue, the walks under way at each die, and memory, where nothing is to be merged or lost. -/
structure Steady where
  g : Agent
  walking : Nat → List Walk
  still : Prop
  mem : SMap Byte

/-- An entry of an error log without the agent that it names. -/
def ErrEntry.unsigned (e : ErrEntry) : ErrEntry := { e with agent := 0 }
/-- A die of each run: they differ in the agents that their logs name. -/
def DieTwin (w : List Walk) (x y : DieState) : Prop :=
  x.walking = w ∧ ∃ l, y = { x with errlog := l } ∧ l.map (·.unsigned) = x.errlog.map (·.unsigned)
/-- The states of two runs. -/
def Twin (F : Steady) (s t : State) : Prop :=
  (∃ D, t = { s with dies := D }) ∧ s.g = F.g ∧ (∀ d, DieTwin (F.walking d) (s.die d) (t.die d)) ∧
  (F.still → s.mem = F.mem ∧ s.partials = [] ∧ s.badL2 = [] ∧ s.badTags = [])

/-- An update of a die that neither reads nor changes its log and its walks. -/
structure LogFree (f : DieState → DieState) : Prop where
  errlog : ∀ x l, f { x with errlog := l } = { f x with errlog := l }
  walking : ∀ x, (f x).walking = x.walking

theorem DieTwin.map {w : List Walk} {x y : DieState} (h : DieTwin w x y) {f : DieState → DieState} (hf : LogFree f) :
    DieTwin w (f x) (f y) := by
  obtain ⟨hw, l, rfl, hl⟩ := h
  have hlog : (f x).errlog = x.errlog := (congrArg (·.errlog) (hf.errlog x x.errlog) :)
  exact ⟨(hf.walking x).trans hw, l, hf.errlog x l, by rw [hlog]; exact hl⟩

section
variable {F : Steady} {s t : State} (h : Twin F s t)
include h

theorem Twin.g_eq : s.g = F.g := h.2.1
theorem Twin.dies (d : Nat) : DieTwin (F.walking d) (s.die d) (t.die d) := h.2.2.1 d
theorem Twin.still (k : F.still) : s.mem = F.mem ∧ s.partials = [] ∧ s.badL2 = [] ∧ s.badTags = [] := h.2.2.2 k
theorem Twin.field {β : Type} (p : State → β) (hp : ∀ s D, p { s with dies := D } = p s) : p t = p s := by
  obtain ⟨⟨D, rfl⟩, -⟩ := h; exact hp s D
theorem Twin.dieField {β : Type} (p : DieState → β) (hp : ∀ x l, p { x with errlog := l } = p x) (d : Nat) : p (t.die d) = p (s.die d) := by
  obtain ⟨-, l, hl, -⟩ := h.dies d; rw [hl]; exact hp _ l

/-- An update beside the dies. -/
theorem Twin.upd (f : State → State) (hf : ∀ s D, f { s with dies := D } = { f s with dies := D }) (hg : ∀ s, (f s).g = s.g)
    (hm : F.still → (f s).mem = s.mem ∧ ((f s).partials = [] ∧ (f s).badL2 = [] ∧ (f s).badTags = [])) : Twin F (f s) (f t) := by
  obtain ⟨⟨D, rfl⟩, hga, hd, hq⟩ := h
  have hs : (f s).dies = s.dies := (congrArg (·.dies) (hf s s.dies) :)
  refine ⟨⟨D, hf s D⟩, (hg s).trans hga, fun d => ?_, fun k => ⟨(hm k).1.trans (hq k).1, (hm k).2⟩⟩
  rw [hf s D]
  have : (f s).die d = s.die d := congrArg (SMap.get DieState.reset · d) hs
  rw [this]
  exact hd d
theorem Twin.setDie {d : Nat} {x y : DieState} (hxy : DieTwin (F.walking d) x y) : Twin F (s.setDie d x) (t.setDie d y) := by
  obtain ⟨⟨D, hD⟩, hga, hd, hq⟩ := h
  refine ⟨⟨SMap.set DieState.reset t.dies d y, by rw [hD]; rfl⟩, hga, fun e => ?_, hq⟩
  unfold State.die State.setDie
  by_cases he : e = d
  · subst he
    simpa using hxy
  · rw [SMap.get_set_other _ _ _ _ _ _ he, SMap.get_set_other _ _ _ _ _ _ he]
    exact hd e
/-- An update of one die. -/
theorem Twin.updDie (d : Nat) {f : DieState → DieState} (hf : LogFree f) : Twin F (s.setDie d (f (s.die d))) (t.setDie d (f (t.die d))) :=
  h.setDie ((h.dies d).map hf)

end

/-- The same steps of two runs. -/
theorem Twin.foldl {α : Type} {F : Steady} {f g : State → α → State} (l : List α) {s t : State}
    (hf : ∀ a ∈ l, ∀ {s t}, Twin F s t → Twin F (f s a) (g t a)) (h : Twin F s t) : Twin F (l.foldl f s) (l.foldl g t) := by
  induction l generalizing s t with
  | nil => exact h
  | cons a r ih => exact ih (fun b hb => hf b (List.mem_cons_of_mem _ hb)) (hf a List.mem_cons_self h)

-- Registers, and the error log (R57).

section
variable {F : Steady} {s t : State} (h : Twin F s t)
include h

theorem Twin.setReg (o : Nat) (v : U64) : Twin F (s.setReg o v) (t.setReg o v) :=
  h.upd (·.setReg o v) (fun _ _ => rfl) (fun _ => rfl) fun k => ⟨rfl, (h.still k).2⟩
theorem Twin.count (o n : Nat) : Twin F (s.count o n) (t.count o n) :=
  h.upd (·.count o n) (fun _ _ => rfl) (fun _ => rfl) fun k => ⟨rfl, (h.still k).2⟩
theorem Twin.addSectors (o n : Nat) : Twin F (s.addSectors o n) (t.addSectors o n) :=
  h.upd (·.addSectors o n) (fun _ _ => rfl) (fun _ => rfl) fun k => ⟨rfl, (h.still k).2⟩
theorem Twin.useFree (n : Nat) : Twin F (s.useFree n) (t.useFree n) :=
  h.upd (·.useFree n) (fun _ _ => rfl) (fun _ => rfl) fun k => ⟨rfl, (h.still k).2⟩
theorem Twin.sys (f : SystemState → SystemState) : Twin F { s with sys := f s.sys } { t with sys := f t.sys } :=
  h.upd (fun s => { s with sys := f s.sys }) (fun _ _ => rfl) (fun _ => rfl) fun k => ⟨rfl, (h.still k).2⟩
theorem Twin.setColour (c : Bool) (x : Colour) : Twin F (s.setColour c x) (t.setColour c x) := by
  cases c
  · exact h.sys fun y => { y with c0 := x }
  · exact h.sys fun y => { y with c1 := x }
theorem Twin.setDir (l : Nat) (x : DirState) : Twin F (s.setDir l x) (t.setDir l x) :=
  h.upd (·.setDir l x) (fun _ _ => rfl) (fun _ => rfl) fun k => ⟨rfl, (h.still k).2⟩
theorem Twin.interrupt (n : Nat) : Twin F (s.interrupt n) (t.interrupt n) := by
  have hr := h.setReg rHintst (s.reg rHintst ||| lane n)
  unfold State.interrupt
  dsimp only
  rw [h.field (·.reg rHintst) fun _ _ => rfl, hr.field (·.reg 0xA0) fun _ _ => rfl]
  split
  · exact hr.sys fun x => { x with msix := x.msix ++ [n] }
  · exact hr

end

/-- The same of each log replaced: what stands there may name another agent. -/
theorem map_updFirst_twin (p : ErrEntry → Bool) (hp : ∀ e, p e.unsigned = p e) {e e' : ErrEntry} (he : e'.unsigned = e.unsigned)
    {l l' : List ErrEntry} (hl : l'.map (·.unsigned) = l.map (·.unsigned)) :
    (updFirst p (fun _ => e') l').map (·.unsigned) = (updFirst p (fun _ => e) l).map (·.unsigned) := by
  have hone : ∀ (e : ErrEntry) (l : List ErrEntry),
      (updFirst p (fun _ => e) l).map (·.unsigned) = updFirst p (fun _ => e.unsigned) (l.map (·.unsigned)) := by
    intro e l
    induction l with
    | nil => rfl
    | cons a r ih =>
      simp only [updFirst, List.map_cons, hp]
      split
      · rfl
      · rw [List.map_cons, ih]
  rw [hone, hone, hl, he]

theorem DieTwin.errlog {w : List Walk} {x y : DieState} (h : DieTwin w x y) :
    y.errlog.map (·.unsigned) = x.errlog.map (·.unsigned) := by
  obtain ⟨-, l, rfl, hl⟩ := h; exact hl
/-- Two logs that differ in the agents named. -/
theorem DieTwin.log {w : List Walk} {x y : DieState} (h : DieTwin w x y) {l l' : List ErrEntry}
    (hl : l'.map (·.unsigned) = l.map (·.unsigned)) : DieTwin w { x with errlog := l } { y with errlog := l' } := by
  obtain ⟨hw, m, rfl, -⟩ := h
  exact ⟨hw, l', rfl, hl⟩

theorem Twin.logError {F : Steady} {s t : State} (h : Twin F s t) (d pa : Nat) (kind source : BitVec 4) (n n' : BitVec 7) :
    Twin F (logError d pa kind source n s) (logError d pa kind source n' t) := by
  have hc := h.count (rDieMem d (if kind == 0 then 0x60 else 0x68)) 1
  unfold Sys2Proof.Machine.logError
  extract_lets s1 x e t1 y e'
  have hgt : t1.gt = s1.gt := hc.field (·.gt) fun _ _ => rfl
  have hee : e'.unsigned = e.unsigned := by simp only [ErrEntry.unsigned, e', e, hgt]
  have hll : y.errlog.map (·.unsigned) = x.errlog.map (·.unsigned) := (hc.dies d).errlog
  have hlen : y.errlog.length = x.errlog.length := by simpa using congrArg List.length hll
  have hany : y.errlog.any (·.kind == 0) = x.errlog.any (·.kind == 0) := by
    have := congrArg (List.any · (fun e : ErrEntry => e.kind == 0)) hll
    simpa [List.any_map, Function.comp_def, ErrEntry.unsigned] using this
  rw [hlen, hany]
  split
  · exact hc.setDie ((hc.dies d).log (by simp [hll, hee]))
  · split
    · exact hc
    · split
      · refine hc.setDie ((hc.dies d).log ?_)
        rw [List.map_reverse, List.map_reverse]
        exact congrArg _ (map_updFirst_twin _ (fun _ => rfl) hee (by simp [hll]))
      · exact hc.setDie ((hc.dies d).map (f := fun x => { x with errOvf := true }) ⟨fun _ _ => rfl, fun _ => rfl⟩)

theorem Twin.logOwn {F : Steady} {s t : State} (h : Twin F s t) (d a : Nat) (kind source : BitVec 4) (n n' : BitVec 7) :
    Twin F (logOwn d a kind source n s) (logOwn d a kind source n' t) := by
  have hm := h.field (·.mylmn) fun _ _ => rfl
  have hf := h.field (·.free) fun _ _ => rfl
  unfold Sys2Proof.Machine.logOwn
  rw [hm, hf]
  split
  · exact h.logError _ _ _ _ _ _
  · exact (h.useFree 1).logError _ _ _ _ _ _
theorem Twin.correct {F : Steady} {s t : State} (h : Twin F s t) (kinds : List Flaw) (a m : Nat) (n n' : BitVec 7) :
    Twin F (correct kinds a m n s) (correct kinds a m n' t) := by
  unfold Sys2Proof.Machine.correct
  rw [h.field (·.flaws) fun _ _ => rfl]
  exact .foldl _ (fun _ _ _ _ k => k.logOwn _ _ _ _ _ _) h

-- Captures of granules (R138 to R145).

/-- The same update of everything that a map holds. -/
theorem get_mapVals {α : Type} (z : α) (f : α → α) (hz : f z = z) (m : SMap α) (k : Nat) :
    SMap.get z (m.map fun e => (e.1, f e.2)) k = f (SMap.get z m k) := by
  induction m with
  | nil => exact hz.symm
  | cons e r ih =>
    simp only [List.map_cons, SMap.get]
    split
    · rfl
    · exact ih
/-- The same update of every die. -/
theorem Twin.mapDies {F : Steady} {s t : State} (h : Twin F s t) {f : DieState → DieState} (hf : LogFree f) (hr : f DieState.reset = DieState.reset) :
    Twin F { s with dies := s.dies.map fun e => (e.1, f e.2) } { t with dies := t.dies.map fun e => (e.1, f e.2) } := by
  obtain ⟨⟨D, hD⟩, hga, hd, hq⟩ := h
  refine ⟨⟨_, by rw [hD]⟩, hga, fun d => ?_, hq⟩
  have hdie := (hd d).map hf
  unfold State.die at hdie ⊢
  simp only [get_mapVals DieState.reset f hr]
  exact hdie

section
variable {F : Steady} {s t : State} (h : Twin F s t)
include h

theorem Twin.failColour (col : Bool) : Twin F (failColour col s) (failColour col t) := by
  unfold Sys2Proof.Machine.failColour
  simp only [h.field (·.colour col) fun _ _ => rfl]
  split
  · exact h
  · exact (h.setColour col _).mapDies (f := fun x => { x with
      staging := (x.staging.map fun (r : Rec) => { r with colours := r.colours &&& ~~~tagOf col }).filter fun r => r.colours != 0 })
      ⟨fun _ _ => rfl, fun _ => rfl⟩ rfl
theorem Twin.recordDone (r : Rec) : Twin F (recordDone r s) (recordDone r t) := by
  have hone : ∀ (col : Bool) {s t : State}, Twin F s t → Twin F
      (if r.colours &&& tagOf col = 0 then s
        else if r.kind == 0x0F then s.setColour col { s.colour col with closed := r.die :: (s.colour col).closed }
        else if r.kind == 0x10 then s.setColour col { s.colour col with aborting := (s.colour col).aborting.filter (· != r.die) } else s)
      (if r.colours &&& tagOf col = 0 then t
        else if r.kind == 0x0F then t.setColour col { t.colour col with closed := r.die :: (t.colour col).closed }
        else if r.kind == 0x10 then t.setColour col { t.colour col with aborting := (t.colour col).aborting.filter (· != r.die) } else t) := by
    intro col s t h
    rw [h.field (·.colour col) fun _ _ => rfl]
    split
    · exact h
    · split
      · exact h.setColour _ _
      · split
        · exact h.setColour _ _
        · exact h
  exact hone true (hone false h)
end

/-- The region of a die's records has room for one (R150, R151). -/
def regionTakes (d : Nat) (link : Bool) (r : Rec) (s : State) : Bool :=
  link && s.regionOk (s.reg (rPh d 0)).toNat && (s.reg (rPh d 0x10)).toNat + r.bytes ≤ (s.reg (rPh d 8)).toNat
/-- A record stands at the end of the region. -/
def regionPut (d : Nat) (r : Rec) (s : State) : State :=
  { s.setReg (rPh d 0x10) (s.reg (rPh d 0x10) + BitVec.ofNat 64 r.bytes) with
    sys := { s.sys with region := s.sys.region ++ [(s.busAddr ((s.reg (rPh d 0)).toNat + (s.reg (rPh d 0x10)).toNat), recBytes r)] } }
/-- The colours of a record that is lost fail (R147). -/
def failColours (r : Rec) (s : State) : State :=
  let s := if r.colours.getLsbD 0 then failColour false s else s
  if r.colours.getLsbD 1 then failColour true s else s
/-- What becomes of the record of a die that is written next. -/
def writeOne (d : Nat) (link : Bool) (r : Rec) (s : State) : State :=
  let s := (s.useFree 1).setDie d { s.die d with staging := (s.die d).staging.erase r }
  if regionTakes d link r s then recordDone r (regionPut d r s) else failColours r s
theorem writeRecord_eq (d : Nat) (link : Bool) (s : State) : writeRecord d link s =
    match (s.die d).staging[s.choose (max 1 (s.die d).staging.length)]? with
    | none => s
    | some r => writeOne d link r s := by
  unfold writeRecord
  extract_lets x
  show (match x.staging[s.choose (max 1 x.staging.length)]? with | none => _ | some r => _) = _
  cases x.staging[s.choose (max 1 x.staging.length)]? <;> rfl

section
variable {F : Steady} {s t : State} (h : Twin F s t)
include h

theorem Twin.regionPut (d : Nat) (r : Rec) : Twin F (regionPut d r s) (regionPut d r t) := by
  unfold Machine.regionPut
  rw [h.field (·.reg (rPh d 0x10)) fun _ _ => rfl, h.field (·.reg (rPh d 0)) fun _ _ => rfl,
    h.field (·.busAddr ((s.reg (rPh d 0)).toNat + (s.reg (rPh d 0x10)).toNat)) fun _ _ => rfl]
  generalize s.busAddr _ = a
  generalize s.reg (rPh d 0x10) + _ = v
  exact (h.setReg (rPh d 0x10) v).sys fun x => { x with region := x.region ++ [(a, recBytes r)] }
theorem Twin.failColours (r : Rec) : Twin F (failColours r s) (failColours r t) := by
  have hfail : ∀ (b : Bool) (col : Bool) {s t : State}, Twin F s t →
      Twin F (if b then Machine.failColour col s else s) (if b then Machine.failColour col t else t) := by
    intro b col s t h
    cases b
    · exact h
    · exact h.failColour col
  exact hfail _ true (hfail _ false h)
theorem Twin.writeOne (d : Nat) (link : Bool) (r : Rec) : Twin F (writeOne d link r s) (writeOne d link r t) := by
  have hu := (h.useFree 1).setDie ((h.dies d).map (f := fun x => { x with staging := x.staging.erase r }) ⟨fun _ _ => rfl, fun _ => rfl⟩)
  unfold Machine.writeOne
  dsimp only at hu ⊢
  rw [hu.field (regionTakes d link r) fun _ _ => rfl]
  split
  · exact (hu.regionPut d r).recordDone r
  · exact hu.failColours r
theorem Twin.writeRecord (d : Nat) (link : Bool) : Twin F (writeRecord d link s) (writeRecord d link t) := by
  rw [writeRecord_eq, writeRecord_eq, h.dieField (·.staging) (fun _ _ => rfl) d, h.field (·.choose) fun _ _ => rfl]
  split
  · exact h
  · exact h.writeOne d link _

end

/-- The cycles that a write waits for a record are free. -/
def waitForRoom (d lo : Nat) (s : State) : State := { s with fresh := s.fresh + 1 }.count (rPh d 0x28) (lo + s.free.toNat % 2 ^ 16)

section
variable {F : Steady} {s t : State} (h : Twin F s t)
include h

theorem Twin.waitForRoom (d lo : Nat) : Twin F (waitForRoom d lo s) (waitForRoom d lo t) := by
  unfold Machine.waitForRoom
  rw [h.field (·.free) fun _ _ => rfl]
  exact (h.useFree 1).count (rPh d 0x28) _
theorem Twin.makeRoom (k d n : Nat) (write : Bool) : Twin F (makeRoom k d n write s) (makeRoom k d n write t) := by
  induction k generalizing s t with
  | zero => exact h
  | succ k ih =>
    have hst := h.dieField (fun x => x.staging.isEmpty || x.staged + n ≤ 8388608) (fun _ _ => rfl) d
    unfold Sys2Proof.Machine.makeRoom
    simp only at hst ⊢
    simp only [hst]
    split
    · exact h
    · refine ih (Twin.writeRecord ?_ d true)
      cases write
      · exact h
      · exact h.waitForRoom d 1
end

/-- The colours that take no further record (R147). -/
def State.failed (s : State) : BitVec 2 := (if s.sys.c0.fail then 1 else 0) ||| (if s.sys.c1.fail then 2 else 0)
/-- A record counted for the CLOSE record of a colour (R153). -/
def Colour.counts (r : Rec) (c : Colour) : Colour :=
  if r.kind == 0x0F || r.kind == 0x10 then c else { c with count := SMap.set 0 c.count r.die (SMap.get 0 c.count r.die + 1) }
/-- A record for which there is room is staged. -/
def stageOne (r : Rec) (s : State) : State :=
  if r.colours = 0 then s else
  let s := s.setDie r.die { s.die r.die with staging := (s.die r.die).staging ++ [r] }
  let s := if r.colours.getLsbD 0 then s.setColour false (s.sys.c0.counts r) else s
  if r.colours.getLsbD 1 then s.setColour true (s.sys.c1.counts r) else s
theorem stage_eq (write : Bool) (r : Rec) (s : State) : stage write r s =
    let s := makeRoom (s.die r.die).staging.length r.die r.bytes write s
    stageOne { r with colours := r.colours &&& ~~~s.failed } s := rfl

section
variable {F : Steady} {s t : State} (h : Twin F s t)
include h

theorem Twin.stageOne (r : Rec) : Twin F (stageOne r s) (stageOne r t) := by
  have hcol : ∀ (b : Bool) {s t : State}, Twin F s t → Twin F (if b then s.setColour false (s.sys.c0.counts r) else s)
      (if b then t.setColour false (t.sys.c0.counts r) else t) := by
    intro b s t h
    cases b
    · exact h
    · exact h.sys fun y => { y with c0 := y.c0.counts r }
  have hcol' : ∀ (b : Bool) {s t : State}, Twin F s t → Twin F (if b then s.setColour true (s.sys.c1.counts r) else s)
      (if b then t.setColour true (t.sys.c1.counts r) else t) := by
    intro b s t h
    cases b
    · exact h
    · exact h.sys fun y => { y with c1 := y.c1.counts r }
  unfold Machine.stageOne
  split
  · exact h
  · exact hcol' _ (hcol _ (h.updDie r.die (f := fun x => { x with staging := x.staging ++ [r] }) ⟨fun _ _ => rfl, fun _ => rfl⟩))
theorem Twin.stage (write : Bool) (r : Rec) : Twin F (stage write r s) (stage write r t) := by
  have hm := h.makeRoom (s.die r.die).staging.length r.die r.bytes write
  rw [stage_eq, stage_eq, h.dieField (·.staging) (fun _ _ => rfl) r.die]
  dsimp only
  rw [hm.field (·.failed) fun _ _ => rfl]
  exact hm.stageOne _

theorem Twin.correctGranule (gr : Nat) : Twin F (correctGranule gr s) (correctGranule gr t) := by
  unfold Machine.correctGranule
  dsimp only
  split
  · exact h
  · split
    · exact h.correct _ _ _ _ _
    · have hc := h.correct [.weakL2, .weakTag] (gr * 16384) 16384 70 70
      rw [hc.field (·.flaws) fun _ _ => rfl, hc.dieField (·.l2) (fun _ _ => rfl) (dieOf (gr * 16384))]
      exact .foldl _ (fun _ _ _ _ k => k.logOwn _ _ _ _ _ _) hc

end

/-- What a capture stages and logs, before its pending bits clear (R139, R143, R145). -/
def captureRec (sweep : Bool) (gr : Nat) (r : Rec) (s : State) : State :=
  let s := stage (!sweep) r s
  let s := if sweep then s else waitForRoom r.die 0 s
  if !r.bad then correctGranule gr s
  else match s.badIn gr with
    | some u => logOwn r.die u.1 2 u.2 70 s
    | none => logOwn r.die (2 ^ 44) 2 0 70 s
theorem capture_eq (sweep : Bool) (gr : Nat) (s : State) : capture sweep gr s =
    let p0 := s.sys.c0.pending gr
    let p1 := s.sys.c1.pending gr
    if !p0 && !p1 then s
    else
      let r := { granuleRec s gr with colours := BitVec.ofBool p1 ++ BitVec.ofBool p0 }
      let s := captureRec sweep gr r s
      let s := if p0 then s.setColour false { s.sys.c0 with capt := gr :: s.sys.c0.capt } else s
      let s := if p1 then s.setColour true { s.sys.c1 with capt := gr :: s.sys.c1.capt } else s
      s.count (rPh r.die (if sweep then 0x20 else 0x18)) 1 := by
  unfold capture captureRec waitForRoom
  simp only [Nat.zero_add] <;> rfl

section
variable {F : Steady} {s t : State} (h : Twin F s t)
include h

theorem Twin.captureRec (sweep : Bool) (gr : Nat) (r : Rec) : Twin F (captureRec sweep gr r s) (captureRec sweep gr r t) := by
  have hw : ∀ (b : Bool) {s t : State}, Twin F s t →
      Twin F (if b then s else Machine.waitForRoom r.die 0 s) (if b then t else Machine.waitForRoom r.die 0 t) := by
    intro b s t h
    cases b
    · exact h.waitForRoom _ _
    · exact h
  have hs := hw sweep (h.stage (!sweep) r)
  unfold Machine.captureRec
  dsimp only
  rw [hs.field (·.badIn gr) fun _ _ => rfl]
  split
  · exact hs.correctGranule gr
  · split <;> exact hs.logOwn _ _ _ _ _ _
theorem Twin.capture (sweep : Bool) (gr : Nat) : Twin F (capture sweep gr s) (capture sweep gr t) := by
  have hcol : ∀ (b : Bool) {s t : State}, Twin F s t → Twin F (if b then s.setColour false { s.sys.c0 with capt := gr :: s.sys.c0.capt } else s)
      (if b then t.setColour false { t.sys.c0 with capt := gr :: t.sys.c0.capt } else t) := by
    intro b s t h
    cases b
    · exact h
    · exact h.sys fun y => { y with c0 := { y.c0 with capt := gr :: y.c0.capt } }
  have hcol' : ∀ (b : Bool) {s t : State}, Twin F s t → Twin F (if b then s.setColour true { s.sys.c1 with capt := gr :: s.sys.c1.capt } else s)
      (if b then t.setColour true { t.sys.c1 with capt := gr :: t.sys.c1.capt } else t) := by
    intro b s t h
    cases b
    · exact h
    · exact h.sys fun y => { y with c1 := { y.c1 with capt := gr :: y.c1.capt } }
  rw [capture_eq, capture_eq]
  dsimp only
  rw [h.field (·.sys) fun _ _ => rfl, h.field (granuleRec · gr) fun _ _ => rfl]
  split
  · exact h
  · exact (hcol' _ (hcol _ (h.captureRec sweep gr _))).count _ _
theorem Twin.touch (grs : List Nat) : Twin F (touch grs s) (touch grs t) := by
  unfold Machine.touch
  rw [h.field (·.calm) fun _ _ => rfl]
  split
  · exact h
  · exact .foldl _ (fun _ _ _ _ k => k.capture _ _) h

-- The L2s (R36 to R54).

theorem Twin.activate (sb : Nat) : Twin F (activate sb s) (activate sb t) :=
  h.updDie _ (f := fun x => { x with rows := SMap.set 0 x.rows (rowKey sb) (SMap.get 0 x.rows (rowKey sb) + 1) }) ⟨fun _ _ => rfl, fun _ => rfl⟩
theorem Twin.l2Drop (d l : Nat) : Twin F (l2Drop d l s) (l2Drop d l t) := by
  have htag := h.dieField (·.tag? (l / 4)) (fun _ _ => rfl) d
  have hl2 := h.dieField (·.l2) (fun _ _ => rfl) d
  unfold Machine.l2Drop
  simp only at htag hl2 ⊢
  rw [htag]
  split
  · exact h
  · rw [hl2]
    exact h.setDie ((h.dies d).map (f := fun x => { x with
      l2 := _, copyFlaws := x.copyFlaws.filter fun f => f.1 / 128 != l }) ⟨fun _ _ => rfl, fun _ => rfl⟩)

theorem Twin.dramBack (held : SMap Byte) (hs : F.still → held = []) : Twin F (dramBack held s) (dramBack held t) := by
  unfold Machine.dramBack
  refine .foldl _ (fun e he s t k => ?_) h
  have hno : ¬F.still := fun q => by simp [hs q] at he
  exact (k.touch [grMem e.1]).upd (fun s => { s with mem := SMap.set 0 s.mem e.1 e.2 }) (fun _ _ => rfl) (fun _ => rfl) fun q => absurd q hno
theorem Twin.lineLeaves (d : Nat) (lost : Bool) (u : Option (Nat × Nat × BitVec 4)) : Twin F (lineLeaves d lost u s) (lineLeaves d lost u t) := by
  unfold Machine.lineLeaves
  split
  · exact h
  · split
    · exact ((h.interrupt 1).sys fun x => { x with memNotice := x.memNotice + 1 }).logOwn _ _ _ _ _ _
    · exact h.logOwn _ _ _ _ _ _

end

/-- What of a superblock that leaves its L2 cannot be corrected, where it is modified (R52, R54). -/
def leavingUnits (dirty : Bool) (sb : Nat) (s : State) : List (Nat × Nat × BitVec 4) :=
  if dirty then (s.badUnits (sb * 512) 512).filter fun u => u.2.2 == 1 || u.2.2 == 2 else []
def leavingUnit (dirty : Bool) (sb : Nat) (s : State) (l : Nat) : Option (Nat × Nat × BitVec 4) :=
  (leavingUnits dirty sb s).find? fun u => u.1 / 128 == l
def modifiedLines (sb : Nat) (s : State) : List Nat := ((List.range 4).map (4 * sb + ·)).filter fun l => s.modified l
/-- Its modified lines that are lost (R54). -/
def lostLines (dirty : Bool) (sb : Nat) (s : State) : List Nat := (modifiedLines sb s).filter fun l => (leavingUnit dirty sb s l).isSome
/-- Its tag goes, and what is written back of it is read. -/
def leaveL2 (sb : Nat) (s : State) : State :=
  let u := s.setDie (sbDie sb) { s.die (sbDie sb) with l2 := (s.die (sbDie sb)).l2.filter (·.sb != sb) }
  if u.dirty.contains sb then correct [.weakL2, .weakTag] (sb * 512) 512 127 u else u
/-- DRAM holds the superblock again, but for the lines that are lost. -/
def unmodify (sb : Nat) (kept : Nat → Bool) (s : State) : State :=
  let shown := s.flaws.filterMap fun f => if f.1 / 512 == sb && f.2 == .hidden && !kept (f.1 / 128) then some f.1 else none
  { s with
    dram := s.dram.filter fun e => e.1 / 512 != sb
    dirty := s.dirty.filter (· != sb)
    bad := shown ++ s.bad
    badL2 := s.badL2.filter fun w => w / 512 != sb
    badTags := s.badTags.filter fun l => l / 4 != sb
    flaws := s.flaws.filter fun f => f.1 / 512 != sb || f.2 == .weakScratch || (f.2 == .weakDram && !kept (f.1 / 128)) }
/-- The lines of the superblock have left the L2. -/
def linesLeave (dirty : Bool) (sb : Nat) (s : State) : State :=
  let lost := lostLines dirty sb s
  let u := unmodify sb (fun l => dirty && !lost.contains l) (dramBack (s.dram.filter fun e => lost.contains (e.1 / 128)) s)
  ((List.range 4).map (4 * sb + ·)).foldl (fun v l => lineLeaves (sbDie sb) (lost.contains l) (leavingUnit dirty sb s l) v) u
/-- The superblock is written to its row. -/
def storeRow (sb : Nat) (s : State) : State :=
  let n := (Config.sectors (sbBytes s sb)).toNat
  activate sb ((s.count (rDieMem (sbDie sb) (0x18 + 8 * n)) 1).addSectors (rDieMem (sbDie sb) 0x40) (n + 1))
theorem writeBack_eq (sb : Nat) (s : State) : writeBack sb s =
    let u := leaveL2 sb s
    let dirty := s.dirty.contains sb
    if !dirty || (!(modifiedLines sb u).isEmpty && (lostLines dirty sb u).length = (modifiedLines sb u).length) then linesLeave dirty sb u
    else storeRow sb (linesLeave dirty sb u) := rfl

/-- Where nothing of an L2 is uncorrectable nothing is lost. -/
theorem leavingUnits_nil {s : State} (hL2 : s.badL2 = []) (hTags : s.badTags = []) (dirty : Bool) (sb : Nat) : leavingUnits dirty sb s = [] := by
  unfold leavingUnits
  split
  · simp only [State.badUnits, hL2, hTags, List.map_nil, List.nil_append, List.filter_eq_nil_iff, List.mem_filter, List.mem_map]
    rintro u ⟨⟨b, -, rfl⟩, -⟩
    dsimp only
    split <;> decide
  · rfl
theorem lostLines_nil {s : State} (hL2 : s.badL2 = []) (hTags : s.badTags = []) (dirty : Bool) (sb : Nat) : lostLines dirty sb s = [] := by
  simp [lostLines, leavingUnit, leavingUnits_nil hL2 hTags]

section
variable {F : Steady} {s t : State} (h : Twin F s t)
include h

theorem Twin.leaveL2 (sb : Nat) : Twin F (leaveL2 sb s) (leaveL2 sb t) := by
  have hu := h.updDie (sbDie sb) (f := fun x => { x with l2 := x.l2.filter (·.sb != sb) }) ⟨fun _ _ => rfl, fun _ => rfl⟩
  unfold Machine.leaveL2
  dsimp only at hu ⊢
  rw [hu.field (·.dirty) fun _ _ => rfl]
  split
  · exact hu.correct _ _ _ _ _
  · exact hu
theorem Twin.unmodify (sb : Nat) (kept : Nat → Bool) : Twin F (unmodify sb kept s) (unmodify sb kept t) :=
  h.upd (Machine.unmodify sb kept) (fun _ _ => rfl) (fun _ => rfl) fun k => by
    obtain ⟨-, hp, hL2, hTags⟩ := h.still k
    exact ⟨rfl, hp, by simp [Machine.unmodify, hL2], by simp [Machine.unmodify, hTags]⟩
theorem Twin.linesLeave (dirty : Bool) (sb : Nat) : Twin F (linesLeave dirty sb s) (linesLeave dirty sb t) := by
  unfold Machine.linesLeave
  rw [h.field (lostLines dirty sb) fun _ _ => rfl, h.field (·.dram) fun _ _ => rfl, h.field (leavingUnit dirty sb) fun _ _ => rfl]
  dsimp only
  refine .foldl _ (fun _ _ _ _ k => k.lineLeaves _ _ _) ((h.dramBack _ fun k => ?_).unmodify _ _)
  obtain ⟨-, -, hL2, hTags⟩ := h.still k
  simp [lostLines_nil hL2 hTags]
theorem Twin.storeRow (sb : Nat) : Twin F (storeRow sb s) (storeRow sb t) := by
  unfold Machine.storeRow
  rw [h.field (sbBytes · sb) fun _ _ => rfl]
  exact ((h.count _ _).addSectors _ _).activate sb
theorem Twin.writeBack (sb : Nat) : Twin F (writeBack sb s) (writeBack sb t) := by
  have hu := h.leaveL2 sb
  rw [writeBack_eq, writeBack_eq, h.field (·.dirty) fun _ _ => rfl]
  dsimp only
  rw [hu.field (modifiedLines sb) fun _ _ => rfl, hu.field (lostLines _ sb) fun _ _ => rfl]
  split
  · exact hu.linesLeave _ sb
  · exact (hu.linesLeave _ sb).storeRow sb

-- Partial sums, and what an L2 takes up (R40, R41, R122 to R125).

end

/-- Units that n bytes from a cover are good again (R53). -/
def repaired (a n : Nat) (s : State) : State :=
  let covers := fun (u k : Nat) => a ≤ u && u + k ≤ a + n
  { s with
    bad := s.bad.filter fun u => !covers u (unitOf u).2
    badL2 := s.badL2.filter fun w => !covers w 8
    badTags := s.badTags.filter fun l => !covers (l * 128) 128
    flaws := s.flaws.filter fun f => !((f.2 == .weakL2 || f.2 == .weakScratch) && f.1 < a + n && a < f.1 + 8) }

section
variable {F : Steady} {s t : State} (h : Twin F s t)
include h

theorem Twin.writeMem (hno : ¬F.still) (a : Nat) (bs : List Byte) : Twin F (s.writeMem a bs) (t.writeMem a bs) := by
  have hk : ∀ {s t : State}, Twin F s t → Twin F (if a < 2 ^ 40 then keepDram a bs.length s else s) (if a < 2 ^ 40 then keepDram a bs.length t else t) := by
    intro s t h
    split
    · exact h.upd (keepDram a bs.length) (fun _ _ => rfl) (fun _ => rfl) fun k => absurd k hno
    · exact h
  unfold State.writeMem
  split
  · exact h
  · exact (hk (h.touch _)).upd (fun s => { s with mem := putBytes a bs s.mem }) (fun _ _ => rfl) (fun _ => rfl) fun k => absurd k hno
theorem Twin.commit (hno : ¬F.still) (a : Nat) (bs : List Byte) (n n' : BitVec 7) :
    Twin F (commit a bs n s).1 (commit a bs n' t).1 := by
  unfold Machine.commit
  dsimp only
  rw [h.field (·.badUnits a bs.length) fun _ _ => rfl]
  split
  · exact h.logOwn _ _ _ _ _ _
  · exact (h.writeMem hno a bs).upd (repaired a bs.length) (fun _ _ => rfl) (fun _ => rfl) fun k => absurd k hno

theorem Twin.partials (hno : ¬F.still) (l : List Partial) : Twin F { s with partials := l } { t with partials := l } :=
  h.upd (fun s => { s with partials := l }) (fun _ _ => rfl) (fun _ => rfl) fun k => absurd k hno
theorem Twin.applyPartials (line : Nat) (ps : List Partial) (hno : ps ≠ [] → ¬F.still) :
    Twin F (applyPartials line ps s) (applyPartials line ps t) := by
  unfold Machine.applyPartials
  split
  · exact h
  next p r =>
  have hno : ¬F.still := hno (List.cons_ne_nil _ _)
  dsimp only
  rw [h.field (·.badUnits (line * 128) 128) fun _ _ => rfl]
  refine .foldl _ (fun o _ s t k => ?_) (.foldl _ (fun _ _ _ _ k => k.logOwn _ _ _ _ _ _) h)
  have hc := k.correct [.weakL2] (line * 128 + o) p.size 127 127
  rw [k.field (·.badFirst (line * 128 + o) p.size) fun _ _ => rfl, hc.field (·.getVal (line * 128 + o) p.size) fun _ _ => rfl]
  split
  · exact k
  · exact hc.commit hno _ _ _ _
theorem Twin.mergeLine (miss : Bool) (line : Nat) : Twin F (mergeLine miss line s) (mergeLine miss line t) := by
  unfold Machine.mergeLine
  dsimp only
  rw [h.field (·.partials) fun _ _ => rfl, h.field (mergeOrder · line) fun _ _ => rfl, h.field (·.badUnits (line * 128) 128) fun _ _ => rfl]
  split
  next hany =>
    have hno : ¬F.still := fun k => by simp [(h.still k).2.1] at hany
    have hlog : ∀ us : List (Nat × Nat × BitVec 4), Twin F (us.foldl (fun s u => Machine.logOwn (dieOf u.1) u.1 2 u.2.2 127 s) s)
        (us.foldl (fun s u => Machine.logOwn (dieOf u.1) u.1 2 u.2.2 127 s) t) := fun us =>
      .foldl _ (fun _ _ _ _ k => k.logOwn _ _ _ _ _ _) h
    have hl := hlog (if miss then (s.badUnits (line * 128) 128).filter (·.2.2 == 0) else [])
    rw [hl.field (·.partials) fun _ _ => rfl]
    refine Twin.count (.foldl _ (fun p _ s t k => ?_) ((hl.partials hno _).applyPartials line (mergeOrder s line) fun _ => hno)) _ _
    split
    · exact k.l2Drop _ _
    · exact k
  · exact h
theorem Twin.l2Put (d sb : Nat) (ln : BitVec 4) (nt : Bool) : Twin F (l2Put d sb ln nt s) (l2Put d sb ln nt t) := by
  have htag := h.dieField (·.tag? sb) (fun _ _ => rfl) d
  unfold Machine.l2Put
  simp only at htag ⊢
  rw [htag, h.field (sbBytes · sb) fun _ _ => rfl, h.dieField (·.l2) (fun _ _ => rfl) d]
  exact h.setDie ((h.dies d).map (f := fun x => { x with l2 := _ }) ⟨fun _ _ => rfl, fun _ => rfl⟩)
theorem Twin.l2Ask (n n' : BitVec 7) (sb : Nat) :
    Twin F (l2Ask n sb s).1 (l2Ask n' sb t).1 ∧ (l2Ask n' sb t).2 = (l2Ask n sb s).2 := by
  unfold Machine.l2Ask
  dsimp only
  rw [h.dieField (·.tag? sb) (fun _ _ => rfl) (sbDie sb), h.field (sbBytes · sb) fun _ _ => rfl]
  split
  · exact ⟨h.count _ _, rfl⟩
  · exact ⟨(((h.count _ _).addSectors _ _).activate sb).correct _ _ _ _ _, rfl⟩
theorem Twin.evictPartial (hno : ¬F.still) (p : Partial) : Twin F (evictPartial p s).1 (evictPartial p t).1 := by
  have hp := (h.partials hno (s.partials.erase p)).count (rDieMem p.die 0x90) 1
  unfold Machine.evictPartial applyAtHome
  rw [h.field (·.partials) fun _ _ => rfl]
  dsimp only at hp ⊢
  rw [hp.field (·.partials) fun _ _ => rfl]
  split
  · exact (hp.l2Ask 127 127 (p.line / 4)).1.applyPartials p.line [p] fun _ => hno
  · split
    · exact hp.partials hno _
    · exact (hp.count (rDieMem p.die 0x88) 1).partials hno _

theorem Twin.rowHeld (a : Nat) : t.rowHeld a = s.rowHeld a := by
  unfold State.rowHeld
  rw [h.dieField (·.heldRows) (fun _ _ => rfl) (sbDie (a / 512))]
theorem Twin.homeWaits (a n : Nat) : t.homeWaits none a n = s.homeWaits none a n := by
  have htag : ∀ l, (t.die (sbDie (l / 4))).tag? (l / 4) = (s.die (sbDie (l / 4))).tag? (l / 4) := fun l =>
    h.dieField (·.tag? (l / 4)) (fun _ _ => rfl) (sbDie (l / 4))
  have hbusy : ∀ l, t.lineBusy l = s.lineBusy l := fun l => h.field (·.lineBusy l) fun _ _ => rfl
  unfold State.homeWaits State.copyServes
  simp only [htag, hbusy, h.rowHeld]
theorem Twin.mayLeave (d : Nat) (x : L2Tag) : t.mayLeave d x = s.mayLeave d x := by
  unfold State.mayLeave
  simp only [h.rowHeld, h.homeWaits, h.field (·.dirty) fun _ _ => rfl, h.field (·.partials) fun _ _ => rfl]
theorem Twin.l2Take (fuel d sb : Nat) (ln : BitVec 4) (nt : Bool) : Twin F (l2Take fuel d sb ln nt s) (l2Take fuel d sb ln nt t) := by
  induction fuel generalizing s t d sb ln nt with
  | zero => exact h
  | succ n ih =>
    have hp := h.l2Put d sb ln nt
    unfold Machine.l2Take
    dsimp only
    rw [hp.dieField (·.l2Fits) (fun _ _ => rfl) d, hp.dieField (·.l2) (fun _ _ => rfl) d]
    simp only [hp.mayLeave]
    split
    · exact hp
    · split
      · exact hp
      next x _ =>
      split
      · exact ih (hp.writeBack x.sb) d sb ln nt
      · have hd := hp.updDie d (f := fun y => { y with
          l2 := y.l2.filter (·.sb != x.sb), copyFlaws := y.copyFlaws.filter fun f => f.1 / 512 != x.sb }) ⟨fun _ _ => rfl, fun _ => rfl⟩
        rw [hp.dieField (·.l2) (fun _ _ => rfl) d] at hd
        rw [hp.dieField (·.copyFlaws) (fun _ _ => rfl) d] at hd ⊢
        rw [hd.field (·.partials) fun _ _ => rfl]
        refine ih (.foldl _ (fun p hm s t k => ?_) hd) d sb ln nt
        have hno : ¬F.still := fun q => by simp [(hp.still q).2.1] at hm
        exact ih (k.evictPartial hno p) _ _ _ _

-- A read at the home, and a walk (R32, R33, R43).

theorem Twin.homeLine (nt : Bool) (n n' : BitVec 7) (l : Nat) : Twin F (homeLine nt n l s) (homeLine nt n' l t) := by
  obtain ⟨ha, hmiss⟩ := h.l2Ask n n' (l / 4)
  unfold Machine.homeLine
  dsimp only
  rw [hmiss]
  exact (ha.mergeLine _ l).l2Take _ _ _ _ _
theorem Twin.readLineHome (d : Option Nat) (nt : Bool) (n n' : BitVec 7) (l : Nat) :
    Twin F (readLineHome d nt n l s) (readLineHome d nt n' l t) := by
  have hl := h.homeLine nt n n' l
  unfold Machine.readLineHome
  dsimp only
  rw [hl.field (·.dirOf l) fun _ _ => rfl]
  split
  · split
    · exact hl.setDir _ _
    · exact hl
  · split
    · exact hl
    · exact (hl.setDir _ _).l2Take _ _ _ _ _
theorem Twin.homeData (used : Bool) (n n' : BitVec 7) (a m : Nat) :
    Twin F (homeData used n a m s).1 (homeData used n' a m t).1 ∧ (homeData used n' a m t).2 = (homeData used n a m s).2 := by
  unfold Machine.homeData
  rw [h.field (·.badFirst a m) fun _ _ => rfl, h.field (·.getBytes a m) fun _ _ => rfl]
  split
  · exact ⟨h.logOwn _ _ _ _ _ _, rfl⟩
  · exact ⟨h, rfl⟩
theorem Twin.readAtHome (d : Option Nat) (used nt : Bool) (n n' : BitVec 7) (a m : Nat) :
    Twin F (readAtHome d used nt n a m s).1 (readAtHome d used nt n' a m t).1 ∧
      (readAtHome d used nt n' a m t).2 = (readAtHome d used nt n a m s).2 := by
  have hc := h.correct [.weakL2, .weakTag] a m n n'
  have hl : Twin F ((linesOf a m).foldl (fun s l => Machine.readLineHome d nt n l s) (Machine.correct [.weakL2, .weakTag] a m n s))
      ((linesOf a m).foldl (fun s l => Machine.readLineHome d nt n' l s) (Machine.correct [.weakL2, .weakTag] a m n' t)) :=
    .foldl _ (fun l _ _ _ k => k.readLineHome d nt n n' l) hc
  exact hl.homeData used n n' a m
theorem Twin.readEntry (d ctx va l table : Nat) (n n' : BitVec 7) :
    Twin F (readEntry d ctx va l table n s).1 (readEntry d ctx va l table n' t).1 ∧
      (readEntry d ctx va l table n' t).2 = (readEntry d ctx va l table n s).2 := by
  obtain ⟨hs, hr⟩ := h.readAtHome (some d) true false n n' (table % 2 ^ 44 + levelIndex va l * 8) 8
  unfold Machine.readEntry
  dsimp only
  rw [h.dieField (·.wcache) (fun _ _ => rfl) d, h.homeWaits]
  split
  · exact ⟨h, rfl⟩
  · split
    · exact ⟨h, rfl⟩
    · generalize Machine.readAtHome _ _ _ n _ _ s = p, Machine.readAtHome _ _ _ n' _ _ t = q at hs hr ⊢
      obtain ⟨s', r⟩ := p
      obtain ⟨t', r'⟩ := q
      obtain rfl : r' = r := hr
      cases r' <;> exact ⟨hs, rfl⟩
end

/-- What an entry of level l ends a walk with, if it ends it (R15 to R17). -/
def State.entryEnds (s : State) (e : U64) (l : Nat) : Option (Except Bad (U64 × Nat)) :=
  if !e.getLsbD 0 then some (.error (cXlate, 0x10 + l))
  else if !s.entryOk e l then some (.error (cXlate, 0x20 + l))
  else if e.getLsbD 1 then some (.ok (e, l))
  else none
/-- A walk goes on from what it has read at its level. -/
theorem walkFrom_zero (d ctx va : Nat) (no : BitVec 7) (table : Nat) (seen : List WalkEntry) (s : State) :
    walkFrom d ctx va no 0 table seen s = match readEntry d ctx va 0 table no s with
      | (s, .error b) => (s, .error b, seen)
      | (s, .ok e) => (s, (s.entryEnds e 0).getD (.error (cXlate, 0x20)), seen) := by
  rw [walkFrom]
  unfold State.entryEnds
  rcases readEntry d ctx va 0 table no s with ⟨u, b | e⟩
  · rfl
  · dsimp only
    split_ifs <;> rfl
theorem walkFrom_succ (d ctx va : Nat) (no : BitVec 7) (l table : Nat) (seen : List WalkEntry) (s : State) :
    walkFrom d ctx va no (l + 1) table seen s = match readEntry d ctx va (l + 1) table no s with
      | (s, .error b) => (s, .error b, seen)
      | (s, .ok e) => match s.entryEnds e (l + 1) with
        | some r => (s, r, seen)
        | none => walkFrom d ctx va no l (ptePa e) (⟨ctx, l + 1, va / 2 ^ levelShift (l + 1), e⟩ :: seen) s := by
  rw [walkFrom]
  unfold State.entryEnds
  rcases readEntry d ctx va (l + 1) table no s with ⟨u, b | e⟩
  · rfl
  · dsimp only
    split_ifs <;> rfl

section
variable {F : Steady} {s t : State} (h : Twin F s t)
include h

theorem Twin.walkFrom (d ctx va : Nat) (n n' : BitVec 7) (l table : Nat) (seen : List WalkEntry) :
    Twin F (walkFrom d ctx va n l table seen s).1 (walkFrom d ctx va n' l table seen t).1 ∧
      (walkFrom d ctx va n' l table seen t).2 = (walkFrom d ctx va n l table seen s).2 := by
  induction l generalizing s t table seen with
  | zero =>
    obtain ⟨hs, hr⟩ := h.readEntry d ctx va 0 table n n'
    rw [walkFrom_zero, walkFrom_zero]
    generalize Machine.readEntry _ _ _ _ _ n s = p, Machine.readEntry _ _ _ _ _ n' t = q at hs hr ⊢
    obtain ⟨s', r⟩ := p
    obtain ⟨t', r'⟩ := q
    obtain rfl : r' = r := hr
    cases r' with
    | error b => exact ⟨hs, rfl⟩
    | ok e =>
      dsimp only
      rw [hs.field (·.entryEnds e 0) fun _ _ => rfl]
      exact ⟨hs, rfl⟩
  | succ l ih =>
    obtain ⟨hs, hr⟩ := h.readEntry d ctx va (l + 1) table n n'
    rw [walkFrom_succ, walkFrom_succ]
    generalize Machine.readEntry _ _ _ _ _ n s = p, Machine.readEntry _ _ _ _ _ n' t = q at hs hr ⊢
    obtain ⟨s', r⟩ := p
    obtain ⟨t', r'⟩ := q
    obtain rfl : r' = r := hr
    cases r' with
    | error b => exact ⟨hs, rfl⟩
    | ok e =>
      dsimp only at hs ⊢
      rw [hs.field (·.entryEnds e (l + 1)) fun _ _ => rfl]
      cases s'.entryEnds e (l + 1) with
      | some r => exact ⟨hs, rfl⟩
      | none => exact ih hs _ _
theorem Twin.walkPage (d ctx va : Nat) (n n' : BitVec 7) :
    Twin F (walkPage d ctx va n s).1 (walkPage d ctx va n' t).1 ∧ (walkPage d ctx va n' t).2 = (walkPage d ctx va n s).2 := by
  have hw : Twin F (Machine.walk d ctx va n s).1 (Machine.walk d ctx va n' t).1 ∧
      (Machine.walk d ctx va n' t).2 = (Machine.walk d ctx va n s).2 := by
    unfold Machine.walk
    dsimp only
    rw [h.field (·.reg (rXlat (8 * ctx))) fun _ _ => rfl, h.field (·.tableOk _) fun _ _ => rfl]
    split
    · exact ⟨h, rfl⟩
    · exact h.walkFrom d ctx va n n' 4 _ []
  obtain ⟨hs, hr⟩ := hw
  unfold Machine.walkPage
  generalize Machine.walk _ _ _ n s = p, Machine.walk _ _ _ n' t = q at hs hr ⊢
  obtain ⟨s', r, seen⟩ := p
  obtain ⟨t', r', seen'⟩ := q
  obtain ⟨rfl, rfl⟩ : r' = r ∧ seen' = seen := Prod.mk.inj hr
  dsimp only at hs ⊢
  rw [hs.dieField (·.wcache) (fun _ _ => rfl) d]
  exact ⟨hs.updDie d (f := fun x => { x with wcache := _ }) ⟨fun _ _ => rfl, fun _ => rfl⟩, rfl⟩

end

end Sys2Proof.Machine
end

section
/-!
PROOFS. Walks and invalidations, the write-back of a superblock, row activations, scrubbing, the error log, the size of an L1 (R32 to R35, R38,
R41, R54, R57, R61 to R63).
-/
namespace Sys2Proof.Machine

-- What a walk does until its result is known (R32, R33).

/-- Nothing is to be merged, and nothing of an L2 is lost. -/
def State.still (s : State) : Prop := s.partials = [] ∧ s.badL2 = [] ∧ s.badTags = []
/-- A run beside itself. -/
theorem Twin.self (s : State) : Twin ⟨s.g, fun d => (s.die d).walking, s.still, s.mem⟩ s s :=
  ⟨⟨s.dies, rfl⟩, rfl, fun _ => ⟨rfl, _, rfl, rfl⟩, fun k => ⟨rfl, k⟩⟩
theorem walkPage_keeps (d ctx va : Nat) (n : BitVec 7) (s : State) :
    (walkPage d ctx va n s).1.g = s.g ∧ (∀ e, ((walkPage d ctx va n s).1.die e).walking = (s.die e).walking) ∧
      (s.still → (walkPage d ctx va n s).1.mem = s.mem) := by
  have h := ((Twin.self s).walkPage d ctx va n n).1
  exact ⟨h.g_eq, fun e => (h.dies e).1, fun k => (h.still k).1⟩
/-- A walk finds the same for whomever the error log names. -/
theorem walkPage_result (d ctx va : Nat) (n n' : BitVec 7) (s : State) : (walkPage d ctx va n' s).2 = (walkPage d ctx va n s).2 :=
  ((Twin.self s).walkPage d ctx va n n').2

-- How a walk ends (R26, R32, R33).

/-- What the end of a walk does with its result. -/
def walkEnds (d : Nat) (w : Walk) (r : Except Bad (U64 × Nat)) (s : State) : State :=
  match r with
  | .ok (leaf, l) => w.asks.foldl (fun s x => install x.1 d ⟨w.ctx, w.vpn * 65536 / 2 ^ levelShift l, l, leaf⟩ s) s
  | .error e =>
    if e = notYet then s.setDie d { s.die d with walking := w :: (s.die d).walking }
    else w.asks.foldl (fun s x => match s.agent? x.2 with
      | some a => s.setAgent { a with walked := a.walked ++ [(e.1, w.vpn, BitVec.ofNat 8 e.2)] }
      | none => s.setDie d { s.die d with walked := (s.die d).walked ++ [(x.2, w.ctx, w.vpn, e)] }) s
theorem pageWalkComplete_eq (d : Nat) (w : Walk) (r : List Walk) (s : State) (hw : (s.die d).walking = w :: r) (hr : w.restart = false)
    {u : State} (hu : s.setDie d { s.die d with walking := r } = u) {p : State × Except Bad (U64 × Nat)}
    (hp : walkPage d w.ctx (w.vpn * 65536) (((w.asks[0]?).map fun x => u.askNo x).getD 127) u = p) :
    execPageWalkComplete d s = .next (walkEnds d w p.2 p.1) := by
  subst hu
  unfold execPageWalkComplete
  simp only [hw, hr, Bool.false_eq_true, if_false]
  rw [hp]
  rcases p with ⟨v, e | ⟨leaf, l⟩⟩ <;> rfl

theorem setAgent_mem (a : Agent) (s : State) : (s.setAgent a).mem = s.mem := by
  unfold State.setAgent
  split <;> rfl
theorem install_mem (c : Option Nat) (d : Nat) (e : TlbEntry) (s : State) : (install c d e s).mem = s.mem := by
  rw [install_onlyCaches c d e s]
theorem walkEnds_mem (d : Nat) (w : Walk) (r : Except Bad (U64 × Nat)) (s : State) : (walkEnds d w r s).mem = s.mem := by
  unfold walkEnds
  split
  · exact foldl_mem _ (fun _ _ => install_mem _ _ _ _) _ _
  · split
    · rfl
    · refine foldl_mem _ (fun _ _ => ?_) _ _
      split
      · exact setAgent_mem _ _
      · rfl

-- A translation that is found is installed.

/-- What installs an entry at a die changes nothing else there, and nothing of other dies. -/
theorem install_die (c : Option Nat) (d : Nat) (e : TlbEntry) (s : State) :
    (install c d e s).die d = { s.die d with tlb := if (s.die d).tlb.contains e then (s.die d).tlb else tlbPut 16384 e (s.die d).tlb } := by
  have hcore : ∀ (c : Option Nat) (s : State), (match c with
      | none => s
      | some c => let y := s.core c; if y.tlb.contains e then s else s.setCore c { y with tlb := tlbPut 512 e y.tlb }).die d = s.die d := by
    intro c s
    cases c with
    | none => rfl
    | some c => dsimp only; split <;> rfl
  unfold install
  refine (hcore c _).trans ?_
  dsimp only
  split
  · rfl
  · exact die_setDie_self _ _ _
theorem mem_tlbPut (n : Nat) (e : TlbEntry) (l : List TlbEntry) (hn : 0 < n) : e ∈ tlbPut n e l := by
  unfold tlbPut
  obtain ⟨m, rfl⟩ := Nat.exists_eq_succ_of_ne_zero hn.ne'
  exact List.mem_cons_self
theorem mem_install (c : Option Nat) (d : Nat) (e : TlbEntry) (s : State) : e ∈ ((install c d e s).die d).tlb := by
  rw [install_die]
  dsimp only
  split
  next h => simpa using h
  · exact mem_tlbPut _ _ _ (by decide)
/-- An entry of the shared TLB that covers an address is found. -/
theorem cached_of_mem {s : State} {d ctx va : Nat} {e : TlbEntry} (he : e ∈ (s.die d).tlb) (hc : e.covers ctx va = true) (core : Option Nat) :
    (s.cached core d ctx va).isSome = true := by
  unfold State.cached
  split
  · rfl
  · exact List.find?_isSome.mpr ⟨e, he, hc⟩
theorem installs_spec (d : Nat) (e : TlbEntry) (asks : List (Option Nat × Nat)) (s : State) :
    let t := asks.foldl (fun s x => install x.1 d e s) s
    t.g = s.g ∧ (t.die d).walking = (s.die d).walking ∧ (asks ≠ [] ∨ e ∈ (s.die d).tlb → e ∈ (t.die d).tlb) := by
  induction asks generalizing s with
  | nil => exact ⟨rfl, rfl, fun k => k.resolve_left fun hne => hne rfl⟩
  | cons x r ih =>
    obtain ⟨hg, hw, he⟩ := ih (install x.1 d e s)
    refine ⟨hg.trans ?_, hw.trans ?_, fun _ => he (.inr (mem_install _ _ _ _))⟩
    · rw [install_onlyCaches x.1 d e s]
    · rw [install_die]
theorem walkEnds_ok (d : Nat) (w : Walk) (x : U64 × Nat) (s : State) :
    let t := walkEnds d w (.ok x) s
    (t.die d).walking = (s.die d).walking ∧ t.g = s.g ∧
      ∀ a ∈ w.asks, (t.cached a.1 d w.ctx (w.vpn * 65536)).isSome = true := by
  obtain ⟨hg, hw, he⟩ := installs_spec d ⟨w.ctx, w.vpn * 65536 / 2 ^ levelShift x.2, x.2, x.1⟩ w.asks s
  refine ⟨hw, hg, fun a ha => cached_of_mem (he (.inl (List.ne_nil_of_mem ha))) ?_ a.1⟩
  simp [TlbEntry.covers]
theorem walkEnds_notYet (d : Nat) (w : Walk) (s : State) :
    ((walkEnds d w (.error notYet) s).die d).walking = w :: (s.die d).walking ∧ (walkEnds d w (.error notYet) s).g = s.g := by
  unfold walkEnds
  dsimp only
  rw [if_pos rfl, die_setDie_self]
  exact ⟨rfl, rfl⟩
/-- The agent at issue takes up what its walk has found missing. -/
theorem walkEnds_error (d : Nat) (w : Walk) (c x : Nat) (s : State) (hne : (c, x) ≠ notYet) (hasks : w.asks.map (·.2) = [s.g.id]) (hid : s.g.id ≠ 0) :
    let t := walkEnds d w (.error (c, x)) s
    (t.die d).walking = (s.die d).walking ∧ t.g.walked = s.g.walked ++ [(c, w.vpn, BitVec.ofNat 8 x)] := by
  obtain ⟨a, hw, ha⟩ := List.map_eq_singleton_iff.mp hasks
  have hagent : s.agent? s.g.id = some s.g := by simp [State.agent?, State.all, hid]
  unfold walkEnds
  dsimp only
  rw [if_neg hne, hw, List.foldl_cons, List.foldl_nil, ha, hagent]
  dsimp only
  unfold State.setAgent
  rw [if_pos rfl]
  exact ⟨rfl, rfl⟩

/-- A page walk ends, starts again, or waits (R32, R33, R35). -/
theorem pageWalkComplete_spec (s : State) (d : Nat) (w : Walk) (r : List Walk) (hw : (s.die d).walking = w :: r) (no : BitVec 7) :
    let u := s.setDie d { s.die d with walking := r }
    let va := w.vpn * 65536
    ∃ t, exec (.pageWalkComplete d) s = .next t ∧ (s.partials = [] → s.badL2 = [] → s.badTags = [] → MemoryKept s t) ∧
      (w.restart = true → (t.die d).walking = r ++ [{ w with restart := false }]) ∧
      (∀ x, w.restart = false → (walkPage d w.ctx va no u).2 = .ok x →
        (t.die d).walking = r ∧ t.g = s.g ∧ ∀ a ∈ w.asks, (t.cached a.1 d w.ctx va).isSome = true) ∧
      (w.restart = false → (walkPage d w.ctx va no u).2 = .error notYet → (t.die d).walking = w :: r ∧ t.g = s.g) ∧
      ∀ c x, w.restart = false → (walkPage d w.ctx va no u).2 = .error (c, x) → (c, x) ≠ notYet → w.asks.map (·.2) = [s.g.id] → s.g.id ≠ 0 →
        (t.die d).walking = r ∧ t.g.walked = s.g.walked ++ [(c, w.vpn, BitVec.ofNat 8 x)] := by
  intro u va
  cases hr : w.restart with
  | true =>
    refine ⟨s.setDie d { s.die d with walking := r ++ [{ w with restart := false }] }, ?_, fun _ _ _ _ => rfl, fun _ => ?_, ?_⟩
    · show execPageWalkComplete d s = _
      unfold execPageWalkComplete
      simp only [hw, hr, if_true]
    · rw [die_setDie_self]
    · simp
  | false =>
    have hexec := pageWalkComplete_eq d w r s hw hr (u := u) rfl rfl
    obtain ⟨hg, hwalking, hmem⟩ := walkPage_keeps d w.ctx va (((w.asks[0]?).map fun x => u.askNo x).getD 127) u
    have hres := walkPage_result d w.ctx va (((w.asks[0]?).map fun x => u.askNo x).getD 127) no u
    generalize walkPage d w.ctx va (((w.asks[0]?).map fun x => u.askNo x).getD 127) u = p at hexec hg hwalking hmem hres
    have hwalk : (p.1.die d).walking = r := (hwalking d).trans (by rw [die_setDie_self])
    rw [hres]
    refine ⟨_, hexec, fun hp hL2 hT y => ?_, by simp, fun x _ hx => ?_, fun _ hx => ?_, fun c x _ hx hne hasks hid => ?_⟩
    · exact congrArg (SMap.get 0 · y) ((walkEnds_mem d w p.2 p.1).trans (hmem ⟨hp, hL2, hT⟩))
    · rw [hx]
      obtain ⟨h1, h2, h3⟩ := walkEnds_ok d w x p.1
      exact ⟨h1.trans hwalk, h2.trans hg, h3⟩
    · rw [hx]
      obtain ⟨h1, h2⟩ := walkEnds_notYet d w p.1
      exact ⟨h1.trans (by rw [hwalk]), h2.trans hg⟩
    · rw [hx]
      have hgs : p.1.g = s.g := hg
      obtain ⟨h1, h2⟩ := walkEnds_error d w c x p.1 hne (by rw [hgs]; exact hasks) (by rw [hgs]; exact hid)
      exact ⟨h1.trans hwalk, h2.trans (by rw [hgs])⟩

-- Invalidations of translations (R34, R35).

theorem tlbOverflow_spec (s : State) : ((tlbOverflow s).reg (rXlat 0x808)).getLsbD 1 = true ∧ (tlbOverflow s).sys = s.sys := by
  unfold tlbOverflow
  rw [reg_setReg_self]
  exact ⟨by simp, rfl⟩
theorem queueInv_spec (v : U64) (s : State) :
    (s.sys.tlbq.length < 16 → queueInv v s = { s with sys := { s.sys with tlbq := s.sys.tlbq ++ [v] } }) ∧
    (16 ≤ s.sys.tlbq.length → ((queueInv v s).reg (rXlat 0x808)).getLsbD 1 = true ∧ (queueInv v s).sys = s.sys) := by
  unfold queueInv
  refine ⟨fun h => by rw [if_neg (by omega)], fun h => ?_⟩
  rw [if_pos h]
  exact tlbOverflow_spec s

/-- A request for invalidation takes the entry (R34). -/
def invHits (v : U64) (e : TlbEntry) : Bool :=
  v.toNat / 256 % 4 = 2 || (e.ctx = v.toNat % 256 && (v.toNat / 256 % 4 = 1 || e.covers (v.toNat % 256) (v.toNat / 65536 * 65536)))
def invHitsWalk (v : U64) (e : WalkEntry) : Bool :=
  v.toNat / 256 % 4 = 2 || (e.ctx = v.toNat % 256 && (v.toNat / 256 % 4 = 1 || v.toNat / 65536 * 65536 / 2 ^ levelShift e.level = e.pre))
/-- A walk that the request meets starts again. -/
def invMarks (v : U64) (w : Walk) : Walk :=
  if v.toNat / 256 % 4 = 2 || (w.ctx = v.toNat % 256 && (v.toNat / 256 % 4 = 1 || w.vpn = v.toNat / 65536 * 65536 / 65536)) then
    { w with restart := true }
  else w
def invDie (v : U64) (x : DieState) : DieState :=
  { x with
    tlb := x.tlb.filter fun e => !invHits v e
    wcache := x.wcache.filter fun e => !invHitsWalk v e
    walking := x.walking.map (invMarks v) }
/-- The request has been carried out in every TLB and walk cache. -/
def invalidated (v : U64) (s : State) : State :=
  { s with
    cores := s.cores.map fun e => (e.1, { e.2 with tlb := e.2.tlb.filter fun e => !invHits v e })
    dies := s.dies.map fun e => (e.1, invDie v e.2) }
theorem invalidated_core (v : U64) (s : State) (c : Nat) :
    ((invalidated v s).core c).tlb = (s.core c).tlb.filter fun e => !invHits v e :=
  congrArg CoreState.tlb (get_mapVals CoreState.reset (fun x => { x with tlb := x.tlb.filter fun e => !invHits v e }) rfl s.cores c)
theorem invalidated_die (v : U64) (s : State) (d : Nat) :
    ((invalidated v s).die d).tlb = (s.die d).tlb.filter fun e => !invHits v e :=
  congrArg DieState.tlb (get_mapVals DieState.reset (invDie v) rfl s.dies d)

/-- No entry that matches is left in any TLB (R34, R35). -/
theorem tlbinvDone_spec (s : State) (v : U64) (r : List U64) (hq : s.sys.tlbq = v :: r) :
    ∃ t, exec .tlbinvDone s = .next t ∧ t.sys.tlbq = r ∧ MemoryKept s t ∧ t.g = s.g ∧
      let ctx := v.toNat % 256
      let gone := fun (e : TlbEntry) => (v.toNat / 256 % 4 = 2 → False) ∧ (v.toNat / 256 % 4 = 1 → e.ctx ≠ ctx) ∧
        (v.toNat / 256 % 4 = 0 → e.ctx ≠ ctx ∨ e.vpage ≠ v.toNat / 65536 * 65536 / 2 ^ levelShift e.level)
      (∀ c, ∀ e ∈ (t.core c).tlb, gone e) ∧ ∀ d, ∀ e ∈ (t.die d).tlb, gone e := by
  have hexec : exec .tlbinvDone s = .next (invalidated v { s with sys := { s.sys with tlbq := r } }) := by
    show execTlbinvDone s = _
    unfold execTlbinvDone
    rw [hq]
    rfl
  refine ⟨_, hexec, rfl, fun _ => rfl, rfl, ?_⟩
  intro ctx gone
  have hg : ∀ e, invHits v e = false → gone e := by
    intro e he
    simp only [invHits, TlbEntry.covers, Bool.or_eq_false_iff, decide_eq_false_iff_not, Bool.and_eq_false_iff, beq_eq_false_iff_ne] at he
    obtain ⟨hall, hctx⟩ := he
    refine ⟨hall, fun hk hc => ?_, fun hk => ?_⟩
    · obtain h | ⟨h, _⟩ := hctx
      · exact h hc
      · exact h hk
    · obtain h | ⟨_, h | h⟩ := hctx
      · exact .inl h
      · exact .inl h
      · exact .inr fun hp => h hp.symm
  refine ⟨fun c e he => hg e ?_, fun d e he => hg e ?_⟩
  · rw [invalidated_core] at he
    simpa using (List.mem_filter.1 he).2
  · rw [invalidated_die] at he
    simpa using (List.mem_filter.1 he).2

-- The write-back of a superblock (R41, R54).

theorem logError_l2 (d pa : Nat) (k c : BitVec 4) (n : BitVec 7) (s : State) (e : Nat) : ((logError d pa k c n s).die e).l2 = (s.die e).l2 := by
  have hset : ∀ (s : State) (x : DieState), x.l2 = (s.die d).l2 → ((s.setDie d x).die e).l2 = (s.die e).l2 := by
    intro s x hx
    by_cases he : e = d
    · subst he; rw [die_setDie_self, hx]
    · rw [die_setDie_other _ _ _ _ he]
  unfold logError
  dsimp only
  generalize hu : s.count (rDieMem d (if k == 0 then 0x60 else 0x68)) 1 = u
  have hue : (s.die e).l2 = (u.die e).l2 := by rw [← hu]; rfl
  rw [hue]
  split
  · exact hset u _ rfl
  · split
    · rfl
    · split <;> exact hset u _ rfl
theorem logOwn_l2 (d a : Nat) (k c : BitVec 4) (n : BitVec 7) (s : State) (e : Nat) : ((logOwn d a k c n s).die e).l2 = (s.die e).l2 := by
  unfold logOwn
  split
  · exact logError_l2 _ _ _ _ _ _ _
  · exact logError_l2 _ _ _ _ _ (s.useFree 1) _
theorem correct_l2 (ks : List Flaw) (a m : Nat) (n : BitVec 7) (s : State) (e : Nat) : ((correct ks a m n s).die e).l2 = (s.die e).l2 := by
  unfold correct
  dsimp only
  generalize s.flaws.filter _ = l
  induction l generalizing s with
  | nil => rfl
  | cons f r ih => exact (ih _).trans (logOwn_l2 _ _ _ _ _ _ _)
theorem leaveL2_spec (sb : Nat) (s : State) :
    (leaveL2 sb s).mem = s.mem ∧ (leaveL2 sb s).badL2 = s.badL2 ∧ (leaveL2 sb s).badTags = s.badTags ∧
      ((leaveL2 sb s).die (sbDie sb)).tag? sb = none := by
  have hl2 : ∀ x : DieState, x.l2 = (s.die (sbDie sb)).l2.filter (·.sb != sb) → x.tag? sb = none := by
    intro x hx
    simp [DieState.tag?, hx, List.find?_eq_none]
  unfold leaveL2
  dsimp only
  split
  · refine ⟨by rw [correct_mem]; rfl, by rw [correct_only]; rfl, by rw [correct_only]; rfl, hl2 _ ?_⟩
    rw [correct_l2, die_setDie_self]
  · exact ⟨rfl, rfl, rfl, hl2 _ (by rw [die_setDie_self])⟩
/-- Where nothing of an L2 is uncorrectable the lines leave it without a trace. -/
theorem linesLeave_eq (dirty : Bool) (sb : Nat) (s : State) (hL2 : s.badL2 = []) (hTags : s.badTags = []) :
    linesLeave dirty sb s = unmodify sb (fun _ => dirty) s := by
  have hu : ∀ l, leavingUnit dirty sb s l = none := by simp [leavingUnit, leavingUnits_nil hL2 hTags]
  unfold linesLeave
  simp only [lostLines_nil hL2 hTags, hu, lineLeaves, dramBack, List.contains_nil, Bool.not_false, Bool.and_true, List.filter_false, List.foldl_nil]
  rw [List.foldl_fixed]
/-- A superblock leaves its L2 (R41, R54). -/
theorem l2Writeback_spec (s : State) (sb : Nat) (hd : s.dirty.contains sb = true) (hL2 : s.badL2 = []) (hTags : s.badTags = [])
    (hrow : s.rowHeld (sb * 512) = false) :
    ∃ t, exec (.l2Writeback sb) s = .next t ∧ MemoryKept s t ∧ t.g = s.g ∧
      t.dirty.contains sb = false ∧ (∀ e ∈ t.dram, e.1 / 512 ≠ sb) ∧ (t.die (sbDie sb)).tag? sb = none := by
  have hexec : exec (.l2Writeback sb) s = .next (writeBack sb s) := by
    show execL2Writeback sb s = _
    unfold execL2Writeback
    rw [hd, hrow]
    simp
  have hg : (writeBack sb s).g = s.g := ((Twin.self s).writeBack sb).g_eq
  obtain ⟨hmem, hbL2, hbTags, htag⟩ := leaveL2_spec sb s
  have hleave := linesLeave_eq true sb (leaveL2 sb s) (hbL2.trans hL2) (hbTags.trans hTags)
  have hstored : ∀ u : State, (storeRow sb u).mem = u.mem ∧ (storeRow sb u).dirty = u.dirty ∧ (storeRow sb u).dram = u.dram ∧
      ((storeRow sb u).die (sbDie sb)).tag? sb = (u.die (sbDie sb)).tag? sb := fun u =>
    ⟨rfl, rfl, rfl, by unfold storeRow activate; rw [die_setDie_self]; rfl⟩
  have hwb : (writeBack sb s).mem = s.mem ∧ (writeBack sb s).dirty.contains sb = false ∧ (∀ e ∈ (writeBack sb s).dram, e.1 / 512 ≠ sb) ∧
      ((writeBack sb s).die (sbDie sb)).tag? sb = none := by
    obtain ⟨h1, h2, h3, h4⟩ := hstored (unmodify sb (fun _ => true) (leaveL2 sb s))
    rw [writeBack_eq]
    simp only [hd, hleave]
    split
    · exact ⟨hmem, by simp [unmodify], by simp [unmodify], htag⟩
    · rw [h1, h2, h3, h4]
      exact ⟨hmem, by simp [unmodify], by simp [unmodify], htag⟩
  obtain ⟨hm, hdirty, hdram, htag⟩ := hwb
  exact ⟨_, hexec, fun y => congrArg (SMap.get 0 · y) hm, hg, hdirty, hdram, htag⟩

-- Rows, scrubbing and the error log (R38, R51, R54, R57).

/-- The log of a die takes an entry while it has room. -/
theorem logError_room (d pa : Nat) (k c : BitVec 4) (n : BitVec 7) (s : State) (h : (s.die d).errlog.length < 16) :
    ((logError d pa k c n s).die d).errlog = (s.die d).errlog ++ [⟨pa, k, c, n, s.gt⟩] := by
  unfold logError
  dsimp only
  generalize hu : s.count (rDieMem d (if k == 0 then 0x60 else 0x68)) 1 = u
  obtain ⟨hd, hgt⟩ : s.die d = u.die d ∧ s.gt = u.gt := by rw [← hu]; exact ⟨rfl, rfl⟩
  rw [hd] at h ⊢
  rw [if_pos h, die_setDie_self, hgt]
theorem patrolScrub_spec (s : State) (n : Nat) : let a := n % 2 ^ 33 * 64
    ∃ t, exec (.patrolScrub n) s = .next t ∧ t.mem = s.mem ∧ t.g = s.g ∧ (s.bad.contains a = true → (s.die (dieOf a)).errlog.length < 16 →
      (t.die (dieOf a)).errlog = (s.die (dieOf a)).errlog ++ [⟨a + s.mylmn.toNat * 2 ^ 44, 2, 0, 71, s.gt⟩]) := by
  intro a
  have ha : a < 2 ^ 41 := by
    have : n % 2 ^ 33 < 2 ^ 33 := Nat.mod_lt _ (by decide)
    show n % 2 ^ 33 * 64 < 2 ^ 41
    omega
  refine ⟨_, rfl, ?_⟩
  have hlog := logOwn_only (dieOf a) a 2 0 71 s
  have hcor := correct_only [.weakDram] a 64 71 s
  split
  · refine ⟨by rw [hlog], by rw [hlog], fun _ hroom => ?_⟩
    unfold logOwn
    rw [if_pos ha]
    exact logError_room _ _ _ _ _ _ hroom
  next hclean =>
    exact ⟨by rw [hcor], by rw [hcor], fun hbad => absurd (by rw [hbad]; rfl) hclean⟩

-- The size of an L1 (R61 to R64).

theorem keepWays_subset (n k : Nat) (l : List L1Line) : ∀ x ∈ keepWays n k l, x ∈ l := by
  induction l generalizing n with
  | nil => exact fun x hx => hx
  | cons y r ih =>
    intro x hx
    unfold keepWays at hx
    split at hx
    · cases n with
      | zero => exact List.mem_cons_of_mem _ (ih 0 x hx)
      | succ m =>
        obtain rfl | hr := List.mem_cons.1 hx
        · exact List.mem_cons_self
        · exact List.mem_cons_of_mem _ (ih m x hr)
    · obtain rfl | hr := List.mem_cons.1 hx
      · exact List.mem_cons_self
      · exact List.mem_cons_of_mem _ (ih n x hr)
theorem keepSets_subset (n : Nat) (ks : List Nat) (l : List L1Line) : ∀ x ∈ ks.foldl (fun l k => keepWays n k l) l, x ∈ l := by
  induction ks generalizing l with
  | nil => exact fun x hx => hx
  | cons k r ih => exact fun x hx => keepWays_subset n k l x (ih _ x hx)
/-- An L1 takes its size and only loses lines. -/
theorem resizeL1_spec (c kib : Nat) (s : State) :
    (resizeL1 c kib s).mem = s.mem ∧ (resizeL1 c kib s).g = s.g ∧ (resizeL1 c kib s).served = s.served ∧
      ((resizeL1 c kib s).core c).l1kib = kib ∧ ∀ x ∈ ((resizeL1 c kib s).core c).l1, x ∈ (s.core c).l1 := by
  unfold resizeL1
  dsimp only
  split
  next hk => exact ⟨rfl, rfl, rfl, hk, fun x hx => hx⟩
  next hk =>
    generalize hl : (List.range 256).foldl (fun l k => keepWays (kib / 32) k l) (s.core c).l1 = l
    have hsub : ∀ x ∈ l, x ∈ (s.core c).l1 := by rw [← hl]; exact keepSets_subset _ _ _
    have hset := core_setCore_self s c { s.core c with l1kib := kib, l1 := l }
    have hcore : ∀ t : State, t.cores = (s.setCore c { s.core c with l1kib := kib, l1 := l }).cores →
        (t.core c).l1kib = kib ∧ ∀ x ∈ (t.core c).l1, x ∈ (s.core c).l1 := by
      intro t ht
      have hc : t.core c = { s.core c with l1kib := kib, l1 := l } := (congrArg (SMap.get CoreState.reset · c) ht).trans hset
      rw [hc]
      exact ⟨rfl, hsub⟩
    split
    · exact ⟨rfl, rfl, rfl, hcore _ rfl⟩
    · exact ⟨rfl, rfl, rfl, hcore _ rfl⟩
/-- The size that a core's L1 takes at the end of an interval (R62, R63). -/
def decidedKib (c : Nat) (s : State) : Nat :=
  let x := s.core c
  let ctl := s.reg (rCore c 0)
  let r := s.coreRange (s.residents c)
  let thr := x.ia * (ctl.extractLsb' 8 8).toNat / 256
  if x.reclaimed || r.1 = r.2 || !ctl.getLsbD 0 then x.l1kib
  else if x.l1kib < r.1 then x.l1kib + 64
  else if r.2 < x.l1kib then x.l1kib - 64
  else if x.ihc + thr ≤ x.ihl && x.l1kib < r.2 && x.l1kib / 64 + blocksOf (s.residents c) < 32 then x.l1kib + 64
  else if x.ihc < x.ihs + thr && r.1 < x.l1kib then x.l1kib - 64
  else x.l1kib
theorem decideL1_eq (c : Nat) (s : State) :
    decideL1 c s = let t := resizeL1 c (decidedKib c s) s
      t.setCore c { t.core c with ia := 0, ihs := 0, ihc := 0, ihl := 0, reclaimed := false } := rfl
theorem decidedKib_step (c : Nat) (s : State) :
    decidedKib c s = (s.core c).l1kib ∨ decidedKib c s = (s.core c).l1kib + 64 ∨ decidedKib c s = (s.core c).l1kib - 64 := by
  unfold decidedKib
  dsimp only
  generalize (s.core c).l1kib + 64 = up
  generalize (s.core c).l1kib - 64 = down
  split
  · exact .inl rfl
  split
  · exact .inr (.inl rfl)
  split
  · exact .inr (.inr rfl)
  split
  · exact .inr (.inl rfl)
  split
  · exact .inr (.inr rfl)
  · exact .inl rfl
theorem decidedKib_fixed (c : Nat) (s : State)
    (h : (s.core c).reclaimed = true ∨ (s.coreRange (s.residents c)).1 = (s.coreRange (s.residents c)).2 ∨ (s.reg (rCore c 0)).getLsbD 0 = false) :
    decidedKib c s = (s.core c).l1kib := by
  unfold decidedKib
  dsimp only
  rw [if_pos]
  obtain h | h | h := h
  · simp [h]
  · simp [h]
  · rw [h, Bool.not_false, Bool.or_true]
/-- A size that is free to change and outside its range moves towards it. -/
theorem decidedKib_free (c : Nat) (s : State) (hr : (s.core c).reclaimed = false)
    (hne : (s.coreRange (s.residents c)).1 ≠ (s.coreRange (s.residents c)).2) (hon : (s.reg (rCore c 0)).getLsbD 0 = true) :
    ((s.core c).l1kib < (s.coreRange (s.residents c)).1 → decidedKib c s = (s.core c).l1kib + 64) ∧
    ((s.coreRange (s.residents c)).1 ≤ (s.core c).l1kib → (s.coreRange (s.residents c)).2 < (s.core c).l1kib →
      decidedKib c s = (s.core c).l1kib - 64) := by
  unfold decidedKib
  dsimp only
  rw [if_neg (by simp only [hr, hne, hon]; decide)]
  refine ⟨fun hlo => if_pos hlo, fun hlo hhi => ?_⟩
  rw [if_neg (by omega), if_pos hhi]
theorem l1IntervalDecision_spec (s : State) (c : Nat) : let k := (s.core c).l1kib
    let r := s.coreRange (s.residents c)
    ∃ t, exec (.l1IntervalDecision c) s = .next t ∧ t.mem = s.mem ∧ t.g = s.g ∧ ((s.cyc.toNat % 65536 ≠ 65535 ∨ s.did (onceInterval c) = true) → t = s) ∧
      (s.cyc.toNat % 65536 = 65535 → s.did (onceInterval c) = false → t.did (onceInterval c) = true ∧
        (t.core c).ia = 0 ∧ (t.core c).ihs = 0 ∧ (t.core c).ihc = 0 ∧ (t.core c).ihl = 0 ∧
        (t.core c).reclaimed = false ∧ ((t.core c).l1kib = k ∨ (t.core c).l1kib = k + 64 ∨ (t.core c).l1kib = k - 64) ∧
        (∀ x ∈ (t.core c).l1, x ∈ (s.core c).l1) ∧
        ((s.core c).reclaimed = true ∨ r.1 = r.2 → (t.core c).l1kib = k) ∧
        ((s.core c).reclaimed = false → r.1 ≠ r.2 → (s.reg (rCore c 0)).getLsbD 0 = true → k < r.1 → (t.core c).l1kib = k + 64) ∧
        ((s.core c).reclaimed = false → r.1 ≠ r.2 → (s.reg (rCore c 0)).getLsbD 0 = true → r.1 ≤ k → r.2 < k → (t.core c).l1kib = k - 64) ∧
        ((s.reg (rCore c 0)).getLsbD 0 = false → (t.core c).l1kib = k)) := by
  intro k r
  refine ⟨_, rfl, ?_⟩
  unfold State.intervalEnds
  split
  next hskip =>
    refine ⟨rfl, rfl, fun _ => rfl, fun hcyc hdid => ?_⟩
    simp [hcyc, hdid] at hskip
  next hrun =>
    obtain ⟨hcyc, hdid⟩ : s.cyc.toNat % 65536 = 65535 ∧ s.did (onceInterval c) = false := by simpa using hrun
    have hkib : decidedKib c (s.once (onceInterval c)) = decidedKib c s := rfl
    rw [decideL1_eq, hkib]
    dsimp only
    obtain ⟨hmem, hg, hserved, hsize, hlines⟩ := resizeL1_spec c (decidedKib c s) (s.once (onceInterval c))
    generalize resizeL1 c (decidedKib c s) (s.once (onceInterval c)) = u at hmem hg hserved hsize hlines
    refine ⟨hmem, hg, fun h => ?_, fun _ _ => ?_⟩
    · rw [hcyc, hdid] at h
      simp at h
    · rw [core_setCore_self]
      refine ⟨?_, rfl, rfl, rfl, rfl, rfl, ?_⟩
      · show u.served.contains _ = true
        rw [hserved]
        simp [State.once]
      · dsimp only
        rw [hsize]
        exact ⟨decidedKib_step c s, hlines, fun h => decidedKib_fixed c s (h.imp_right .inl),
          fun hr hne hon => (decidedKib_free c s hr hne hon).1, fun hr hne hon => (decidedKib_free c s hr hne hon).2,
          fun h => decidedKib_fixed c s (.inr (.inr h))⟩


-- The obligation.

/-- A walk starts when a slot is free (R32). -/
theorem pageWalkStart_spec (s : State) (d : Nat) (w : Walk) (r : List Walk) (hq : (s.die d).walkQ = w :: r) (hroom : (s.die d).walking.length < 64) :
    ∃ t, exec (.pageWalkStart d) s = .next t ∧ (t.die d).walkQ = r ∧ (t.die d).walking = (s.die d).walking ++ [w] ∧ t.g = s.g := by
  refine ⟨s.setDie d { s.die d with walkQ := r, walking := (s.die d).walking ++ [w] }, ?_, ?_, ?_, rfl⟩
  · show execPageWalkStart d s = _
    unfold execPageWalkStart
    simp only [hq]
    rw [if_neg (by omega)]
  · rw [die_setDie_self]
  · rw [die_setDie_self]
theorem rowActivationLimit_spec (s : State) (d row : Nat) (hlim : s.rowLimit d ≤ SMap.get 0 (s.die d).rows row)
    (hfree : (s.die d).heldRows.contains row = false) :
    ∃ t, exec (.rowActivationLimit d row) s = .next t ∧ (t.die d).heldRows = row :: (s.die d).heldRows ∧ t.mem = s.mem := by
  refine ⟨s.setDie d { s.die d with heldRows := row :: (s.die d).heldRows }, ?_, ?_, rfl⟩
  · show execRowActivationLimit d row s = _
    unfold execRowActivationLimit
    dsimp only
    rw [hfree, Bool.or_false, if_neg (by simpa using hlim)]
  · rw [die_setDie_self]
theorem refreshManagementComplete_spec (s : State) (d row : Nat) (hheld : (s.die d).heldRows.contains row = true) :
    ∃ t, exec (.refreshManagementComplete d row) s = .next t ∧ (t.die d).heldRows.contains row = false ∧
      SMap.get 0 (t.die d).rows row = 0 ∧ t.mem = s.mem := by
  have hdie : ∀ x : DieState, (((s.setDie d x).count (rDieMem d 0x50) 1).die d) = x := fun x => die_setDie_self s d x
  refine ⟨(s.setDie d { s.die d with heldRows := (s.die d).heldRows.filter (· != row), rows := SMap.set 0 (s.die d).rows row 0 }).count
    (rDieMem d 0x50) 1, ?_, ?_, ?_, rfl⟩
  · show execRefreshManagementComplete d row s = _
    unfold execRefreshManagementComplete
    dsimp only
    rw [hheld]
    rfl
  · rw [hdie]
    simp
  · rw [hdie]
    exact SMap.get_set_self 0 (s.die d).rows row 0
theorem rowRefresh_spec (s : State) (d row : Nat) : ∃ t, exec (.rowRefresh d row) s = .next t ∧
    (∀ k, SMap.get 0 (t.die d).rows k = if k = row then 0 else SMap.get 0 (s.die d).rows k) ∧ t.mem = s.mem := by
  refine ⟨_, rfl, fun k => ?_, rfl⟩
  rw [die_setDie_self]
  split
  next hk => rw [hk]; exact SMap.get_set_self 0 (s.die d).rows row 0
  next hk => exact SMap.get_set_other 0 0 (s.die d).rows row k 0 hk
theorem errlogbRead_spec (s : State) (d : Nat) :
    ∃ t, exec (.errlogbRead d) s = .next t ∧ (t.die d).errlog = (s.die d).errlog.drop 1 ∧ (t.die d).errOvf = false ∧ t.mem = s.mem := by
  refine ⟨_, rfl, ?_, ?_, rfl⟩
  · rw [die_setDie_self]
  · rw [die_setDie_self]

/-- Settles O50: each event is one lemma. That a walk which fails leaves memory, the gang and its own result as they would be whoever its
error log names is `Twin.walkPage`. -/
theorem memoryMaintenance : Obligations.MemoryMaintenance := by
  unfold Obligations.MemoryMaintenance
  exact ⟨pageWalkStart_spec, fun s d w r hw => pageWalkComplete_spec s d w r hw _,
    fun ctx vpn s => ⟨_, rfl, queueInv_spec _ s⟩, fun ctx s => ⟨_, rfl, queueInv_spec _ s⟩, fun s => ⟨_, rfl, queueInv_spec _ s⟩,
    fun s => ⟨_, rfl, tlbOverflow_spec s⟩, tlbinvDone_spec, l2Writeback_spec, rowActivationLimit_spec, refreshManagementComplete_spec,
    rowRefresh_spec, patrolScrub_spec, errlogbRead_spec, l1IntervalDecision_spec⟩

end Sys2Proof.Machine
end

section
/-!
PROOFS. A read whose die holds a copy that cannot be corrected (R41, R43), and a dispatch that meets a LINK write under way (R156).
-/
namespace Sys2Proof.Machine

-- A read that its die's own copy answers (R41, R43).

/-- `flawedCopy`, with the module's own number written. -/
def flawedModule : State := { flawedCopy with bar := (rXlat 0x818, 0) :: flawedCopy.bar }
/-- A load of die 1 from the line that `flawedCopy` has a flawed copy of, on its way to memory. -/
def flawedRead : MemOp :=
  ⟨1, 1, 0, .load, 0, false, 8, false, .scalar 4, false, 0, [], false, [⟨0, 0x10000, 0x10000, 0, 0, 0, .waiting, false⟩],
    0, 0, 0, 1, [], none, 1, 0, 1, 1, false, false, none⟩
/-- The load is the only operation under way. -/
def flawedReading : State := { flawedModule with ops := [flawedRead] }
/-- How the parts of the operations in flight stand once an instruction is done. -/
def partsAfter (i : Instr) (s : State) : List (List PartState) :=
  match exec i s with
  | .next t => t.ops.map fun o => o.parts.map (·.st)
  | _ => []

/-- The die's own copy answers the read, with MEMERR. -/
theorem flawedReading_fails : partsAfter (.homeReadRequest 1) flawedReading = [[.failed 0x81]] := by decide +kernel

/-- Refutes O49: a load is answered by the read copy that its die holds of the line, and a word of that copy that cannot be corrected
(`copyFlaws`, R41) fails the load with MEMERR, while the first clause asks only for banks without errors (`bad`, `badL2`, `badTags`). -/
theorem not_memoryOperationsComplete : ¬ Obligations.MemoryOperationsComplete := by
  unfold Obligations.MemoryOperationsComplete
  rintro ⟨hread, -⟩
  obtain ⟨t, hexec, -, ⟨hops, -⟩⟩ := hread flawedReading flawedRead _ ⟨rfl, rfl, rfl, rfl, rfl, rfl, rfl, rfl⟩
    ⟨by decide, by decide +kernel, by decide +kernel, by decide⟩ (.inl rfl)
  have hdone : partsAfter (.homeReadRequest 1) flawedReading = [[.done]] := by
    unfold partsAfter
    rw [show exec (.homeReadRequest 1) flawedReading = .next t from hexec]
    simp [hops]
  rw [flawedReading_fails] at hdone
  exact absurd hdone (by decide)

-- A dispatch whose LINK write takes the name of one under way (R155, R156).

/-- A LINK write of grid 1's dispatch, at an address that is not canonical; its name is the second that is free. -/
def strayLink : LinkDue := ⟨2, 0, ⟨false, 0x8000000000000000, 0, 0, 0⟩, 1, true, false⟩
/-- One grid stands, its LINK write is under way, and a launch of a disabled context is at the head of queue 7. -/
def strayLinked : State :=
  { State.reset with
    grids := [{ Grid.absent with id := 1 }]
    queues := [(7, [⟨0, 0, none, 0xFFFFFFFF, 0, 0, 0, 0⟩])]
    sys := { State.reset.sys with linkDue := [strayLink] } }
/-- The grids that stand once an instruction is done. -/
def gridsAfter (i : Instr) (s : State) : List Grid :=
  match exec i s with
  | .next t => t.grids
  | _ => []

/-- The refusal's LINK write is taken for the one under way, which cannot be performed, and grid 1 is gone with it. -/
theorem strayLinked_gone : gridsAfter .gridDispatch strayLinked = [] := by decide +kernel

/-- Refutes O54: a dispatch, refused because its context is disabled, writes LINK under a name that a LINK write under way already has; the
model goes on with the older one, whose fault removes the grid of its dispatch. The clause on GRID_DISPATCH does not ask that the names of
the LINK writes under way are taken (`linkDue`), and says that the grids stay. -/
theorem not_workEvents : ¬ Obligations.WorkEvents := by
  unfold Obligations.WorkEvents
  rintro ⟨-, -, hdispatch, -⟩
  obtain ⟨t, hexec, -, hrefused, -⟩ := hdispatch strayLinked 7 ⟨0, 0, none, 0xFFFFFFFF, 0, 0, 0, 0⟩ (by decide +kernel) (by decide +kernel)
    (by decide +kernel) (by decide)
  obtain ⟨hgrids, -⟩ := hrefused (by decide +kernel)
  have hstay : gridsAfter .gridDispatch strayLinked = strayLinked.grids := by
    unfold gridsAfter
    rw [hexec]
    exact hgrids
  rw [strayLinked_gone] at hstay
  exact absurd hstay (by decide)
end Sys2Proof.Machine
end

section
/-!
PROOFS. FENCE, CINV and PREF: what an acquire and an invalidation leave of an L1, and the operation of a prefetch (R68, R101 to R103, R302
to R304).
-/
namespace Sys2Proof.Machine

-- The L1 of a core (R68, R303).

@[simp] theorem l1Clear_core_self (c : Nat) (s : State) : ((l1Clear c s).core c).l1 = [] :=
  congrArg CoreState.l1 (core_setCore_self s c _)
theorem l1Clear_core_other (c e : Nat) (s : State) (h : e ≠ c) : (l1Clear c s).core e = s.core e := core_setCore_other s c e _ h
/-- No answer that is under way comes into an L1 that has been cleared. -/
theorem l1Clear_fills (c : Nat) (s : State) : ∀ o ∈ (l1Clear c s).ops, o.core = some c → o.fills = [] := by
  intro o ho hcore
  obtain ⟨q, -, rfl⟩ := List.mem_map.mp ho
  by_cases hq : q.core = some c
  · simp [hq]
  · simp [hq] at hcore

/-- A line is left by an invalidation where it stood there and is not one of those named. -/
theorem mem_l1Drop (c : Nat) (p : Nat → Bool) (s : State) (x : L1Line) :
    x ∈ ((l1Drop c p s).core c).l1 ↔ x ∈ (s.core c).l1 ∧ p x.line = false := by
  have hl1 : ((l1Drop c p s).core c).l1 = (s.core c).l1.filter fun x => !p x.line := congrArg CoreState.l1 (core_setCore_self s c _)
  rw [hl1, List.mem_filter, Bool.not_eq_true']

/-- The lines of one 64 KiB step of CINV's range a to a + n, where the step passes its checks (R303). -/
def stepLines (a n : Nat) (e : Nat × Found) (l : Nat) : Bool :=
  match e.2 with
  | .ok p => l * 128 < p.pa + (min (a + n) ((e.1 + 1) * 65536) - max a (e.1 * 65536)) && p.pa < (l + 1) * 128
  | _ => false
/-- CINV of one step of its range. -/
def dropStep (c a n : Nat) (s : State) (e : Nat × Found) : State :=
  match e.2 with
  | .ok _ => l1Drop c (stepLines a n e) s
  | _ => s

theorem dropStep_sameAsked (c a n : Nat) (s : State) (e : Nat × Found) : SameAsked s (dropStep c a n s e) := by
  unfold dropStep
  split
  · exact l1Drop_sameAsked _ _ s
  · exact .refl s
theorem mem_dropStep (c a n : Nat) (s : State) (e : Nat × Found) (x : L1Line) :
    x ∈ ((dropStep c a n s e).core c).l1 ↔ x ∈ (s.core c).l1 ∧ stepLines a n e x.line = false := by
  unfold dropStep
  split
  · exact mem_l1Drop _ _ s x
  next hno =>
    have hnone : stepLines a n e x.line = false := by
      unfold stepLines
      split
      next p hp => exact absurd hp (hno p)
      · rfl
    simp [hnone]
theorem mem_dropSteps (c a n : Nat) (es : List (Nat × Found)) (s : State) (x : L1Line) :
    x ∈ ((es.foldl (dropStep c a n) s).core c).l1 ↔ x ∈ (s.core c).l1 ∧ ∀ e ∈ es, stepLines a n e x.line = false := by
  induction es generalizing s with
  | nil => simp
  | cons e r ih => simp [ih, mem_dropStep, and_assoc]

-- Walks that a word asks for (R31).

theorem askFor_opsKept (core : Option Nat) (who d ctx vpn : Nat) (s : State) : OpsKept s (askFor core who d ctx vpn s) := by
  unfold askFor
  extract_lets x ask hit join
  split
  · exact ⟨rfl, rfl, rfl⟩
  · split <;> exact ⟨rfl, rfl, rfl⟩
theorem askWalk_opsKept (a : Agent) (vpn : Nat) (s : State) : OpsKept s (askWalk a vpn s) := askFor_opsKept _ _ _ _ _ s
theorem askWalks_opsKept (l : List Nat) (s : State) : OpsKept s (l.foldl (fun s v => askWalk s.g v s) s) :=
  .foldl _ l (fun t v => askWalk_opsKept t.g v t) s

-- The end of a word.

theorem retire_gangKept (h : Hint) (s : State) : GangKept s.g (retire h s).g := by
  obtain ⟨hs, hregion⟩ := retire_only h s
  exact ⟨congrArg (fun t : State => t.g) hs, hregion⟩
@[simp] theorem retire_ops (h : Hint) (s : State) : (retire h s).ops = s.ops := by rw [(retire_only h s).1]
@[simp] theorem retire_agents (h : Hint) (s : State) : (retire h s).agents = s.agents := by rw [(retire_only h s).1]
@[simp] theorem retire_core (h : Hint) (s : State) (c : Nat) : (retire h s).core c = s.core c := by rw [(retire_only h s).1]; rfl
theorem stall_ending (s : State) : (stall s).g = s.g.ending (stall s).g := rfl
theorem MemoryKept.of_mem {s t : State} (h : t.mem = s.mem) : MemoryKept s t := fun _ => by unfold State.getByte; rw [h]
theorem RegsKept.of_ending {a b : Agent} (h : b = a.ending b) : RegsKept a b ∧ b.stopping = a.stopping := by
  rw [h]
  exact ⟨⟨rfl, rfl, rfl, rfl, rfl, rfl, rfl, rfl, rfl, rfl⟩, rfl⟩

-- FENCE (R101 to R103, R302).

/-- An acquire of the agent at issue clears its core's L1, or does nothing. -/
theorem acquired_kept (scope : Nat) (s : State) :
    (acquired s.g scope s).mem = s.mem ∧ (acquired s.g scope s).g = s.g ∧ (acquired s.g scope s).agents = s.agents := by
  unfold acquired
  split
  · exact ⟨rfl, rfl, rfl⟩
  · split <;> exact ⟨rfl, rfl, rfl⟩
@[simp] theorem acquired_cur (scope : Nat) (s : State) : (acquired s.g scope s).cur = s.cur := by
  unfold acquired
  split
  · rfl
  · split <;> rfl
theorem acquired_gang (scope : Nat) (s : State) (hscope : 2 ≤ scope) (hgang : s.g.drover = false) :
    acquired s.g scope s = l1Clear s.g.coreNo s := by
  unfold acquired Agent.l1Core
  rw [if_neg (by omega), hgang]
  rfl

theorem fenceThen_waits_loads (ord : BitVec 2) (scope : Nat) (f : State → State) (s : State) (h : s.loadsBack s.g.id = false) :
    fenceThen ord scope f s = stall s := by simp [fenceThen, h]
theorem fenceThen_waits_stores (ord : BitVec 2) (scope : Nat) (f : State → State) (s : State) (h : s.inFlight s.g.id true ≠ 0) :
    fenceThen ord scope f s = stall s := by simp [fenceThen, whenDrained, h]
/-- A FENCE with nothing left to wait for, of a gang that has no dropped store to report. -/
theorem fenceThen_passes (ord : BitVec 2) (scope : Nat) (f : State → State) (s : State) (hloads : s.loadsBack s.g.id = true)
    (hstores : s.inFlight s.g.id true = 0) (hreaders : ∀ o ∈ s.ops, o.readers.contains s.g.id = false) (hdropped : s.g.dropped = []) :
    fenceThen ord scope f s = f (if ord.getLsbD 0 then acquired s.g scope s else s) := by
  have hnone : (s.ops.any fun o => o.readers.contains s.g.id) = false := List.any_eq_false.mpr fun o ho => by rw [hreaders o ho]; decide
  unfold fenceThen whenDrained dropReport
  simp only [hloads, hnone, hstores, hdropped, Bool.and_false, Bool.not_true, Bool.false_eq_true, if_false, ne_eq, not_true]

theorem fence_spec (h : Hint) (o : BitVec 2) (c : BitVec 3) (s : State) (hact : s.act h ≠ 0) : ∃ t, exec (.fence h o c) s = .next t ∧
    (s.loadsBack s.g.id = false → Waits s t) ∧
    (s.inFlight s.g.id true ≠ 0 → Waits s t) ∧
    (s.loadsBack s.g.id = true → s.inFlight s.g.id true = 0 → (∀ k ∈ s.ops, k.readers.contains s.g.id = false) → s.g.dropped = [] →
      GangKept s.g t.g ∧ MemoryKept s t ∧ t.agents = s.agents ∧
      (o.getLsbD 0 = true → 2 ≤ c.toNat → s.g.drover = false → (t.core s.g.coreNo).l1 = [] ∧
        ∀ k ∈ t.ops, k.core = some s.g.coreNo → k.fills = [])) := by
  refine ⟨fenceThen o c.toNat (retire h) s, congrArg Host.Outcome.next (if_neg hact), fun hloads => ?_, fun hstores => ?_,
    fun hloads hstores hreaders hdropped => ?_⟩
  · rw [fenceThen_waits_loads _ _ _ s hloads]
    exact stall_spec s
  · rw [fenceThen_waits_stores _ _ _ s hstores]
    exact stall_spec s
  · rw [fenceThen_passes _ _ _ s hloads hstores hreaders hdropped]
    obtain ⟨hmem, hg, hagents⟩ := acquired_kept c.toNat s
    split
    next hacq =>
      have hkept := retire_gangKept h (acquired s.g c.toNat s)
      rw [hg] at hkept
      refine ⟨hkept, .of_mem (by rw [retire_mem, hmem]), by rw [retire_agents, hagents], fun _ hscope hgang => ?_⟩
      rw [acquired_gang _ s hscope hgang]
      exact ⟨by simp, by simpa using l1Clear_fills s.g.coreNo s⟩
    next hno => exact ⟨retire_gangKept h s, .of_mem (by simp), by simp, fun hacq => absurd hacq hno⟩

-- CINV (R303).

theorem cinvAll_spec (h : Hint) (s : State) (hact : s.act h ≠ 0) : ∃ t, exec (.cinvAll h) s = .next t ∧ GangKept s.g t.g ∧ MemoryKept s t ∧
    (t.core s.g.coreNo).l1 = [] ∧ (∀ k ∈ t.ops, k.core = some s.g.coreNo → k.fills = []) ∧ ∀ c, c ≠ s.g.coreNo → t.core c = s.core c := by
  refine ⟨retire h (l1Clear s.g.coreNo s), congrArg (Host.Outcome.next <| retire h ·) ((uniform_spec h _ s).2 hact), retire_gangKept h _,
    .of_mem (retire_mem h _), by simp, by simpa using l1Clear_fills s.g.coreNo s, fun c hc => ?_⟩
  rw [retire_core, l1Clear_core_other _ _ s hc]

/-- The steps of a range, with what the translation of each finds (R303). -/
def State.cinvSteps (s : State) (a n : Nat) : List (Nat × Found) :=
  (pagesOf a n).map fun p => (p, s.find s.g ⟨false, false, false⟩ (BitVec.ofNat 64 (max a (p * 65536))))
/-- The page that a step finds in no TLB. -/
def missedStep (e : Nat × Found) : Option Nat :=
  match e.2 with
  | .miss v => some v
  | _ => none
/-- CINV of a range drops the lines of its steps once every translation is there. -/
theorem cinvRange_eq (a n : Nat) (f : State → State) (s : State) : cinvRange a n f s =
    if 2 ^ 21 < n then f (l1Clear s.g.coreNo s)
    else
      let miss := (s.cinvSteps a n).filterMap missedStep
      if !miss.isEmpty then stall (miss.foldl (fun s v => askWalk s.g v s) s) else f ((s.cinvSteps a n).foldl (dropStep s.g.coreNo a n) s) := by
  have hstep : ∀ (l : List (Nat × Found)) (t : State), t.g = s.g → l.foldl (dropStep s.g.coreNo a n) t = l.foldl (fun s e => match e.2 with
      | .ok p =>
        let lo := p.pa
        let hi := lo + (min (a + n) ((e.1 + 1) * 65536) - max a (e.1 * 65536))
        l1Drop s.g.coreNo (fun l => l * 128 < hi && lo < (l + 1) * 128) s
      | _ => s) t := by
    intro l
    induction l with
    | nil => exact fun _ _ => rfl
    | cons e r ih =>
      intro t ht
      rw [List.foldl_cons, List.foldl_cons, ih _ ((dropStep_sameAsked _ _ _ t e).2.1.trans ht)]
      congr 1
      unfold dropStep stepLines
      obtain ⟨p, x⟩ := e
      cases x <;> simp only [ht]
  unfold cinvRange
  rw [hstep _ s rfl]
  rfl

theorem cinvRange_spec (h : Hint) (a b : Reg) (s : State) (hact : s.act h ≠ 0) : ∃ t, exec (.cinvRange h a b) s = .next t ∧ MemoryKept s t ∧
    (2 ^ 21 < (s.sr b).toNat → GangKept s.g t.g ∧ (t.core s.g.coreNo).l1 = []) ∧
    ((s.sr b).toNat ≤ 2 ^ 21 → (∀ p ∈ pagesOf (s.sr a).toNat (s.sr b).toNat, ∀ v,
        s.find s.g ⟨false, false, false⟩ (BitVec.ofNat 64 (max (s.sr a).toNat (p * 65536))) ≠ .miss v) →
      GangKept s.g t.g ∧ (∀ k ∈ (t.core s.g.coreNo).l1, k ∈ (s.core s.g.coreNo).l1) ∧
      ∀ p ∈ pagesOf (s.sr a).toNat (s.sr b).toNat, ∀ q,
        s.find s.g ⟨false, false, false⟩ (BitVec.ofNat 64 (max (s.sr a).toNat (p * 65536))) = .ok q →
        ∀ k ∈ (t.core s.g.coreNo).l1,
          q.pa + (min ((s.sr a).toNat + (s.sr b).toNat) ((p + 1) * 65536) - max (s.sr a).toNat (p * 65536)) ≤ k.line * 128 ∨
          (k.line + 1) * 128 ≤ q.pa) := by
  refine ⟨cinvRange (s.sr a).toNat (s.sr b).toNat (retire h) s, congrArg Host.Outcome.next (if_neg hact), ?_⟩
  generalize (s.sr a).toNat = lo
  generalize (s.sr b).toNat = n
  rw [cinvRange_eq]
  by_cases hlarge : 2 ^ 21 < n
  · rw [if_pos hlarge]
    exact ⟨.of_mem (retire_mem h _), fun _ => ⟨retire_gangKept h _, by simp⟩, fun hn => absurd hn (by omega)⟩
  rw [if_neg hlarge]
  dsimp only
  split
  next hmiss =>
    refine ⟨.of_mem (askWalks_opsKept _ s).1, fun hn => absurd hn hlarge, fun _ hfound => absurd hmiss ?_⟩
    rw [Bool.not_eq_true', Bool.not_eq_false, List.isEmpty_iff, List.filterMap_eq_nil_iff]
    intro e he
    obtain ⟨p, hp, rfl⟩ := List.mem_map.mp he
    unfold missedStep
    split
    next v hv => exact absurd hv (hfound p hp v)
    · rfl
  next _ =>
    obtain ⟨hmem, hg, -⟩ : SameAsked s ((s.cinvSteps lo n).foldl (dropStep s.g.coreNo lo n) s) :=
      .foldl (fun _ => True) (fun _ _ => trivial) _ _ (fun t e _ => dropStep_sameAsked _ _ _ t e) s trivial
    have hkept := retire_gangKept h ((s.cinvSteps lo n).foldl (dropStep s.g.coreNo lo n) s)
    rw [hg] at hkept
    refine ⟨.of_mem (by rw [retire_mem, hmem]), fun hn => absurd hn hlarge, fun _ _ => ⟨hkept, fun k hk => ?_, fun p hp q hq k hk => ?_⟩⟩
    all_goals
      rw [retire_core, mem_dropSteps] at hk
      obtain ⟨hold, hgone⟩ := hk
    · exact hold
    · have hline := hgone _ (List.mem_map_of_mem hp)
      simp only [stepLines, hq, Bool.and_eq_false_iff, decide_eq_false_iff_not] at hline
      omega

-- PREF (R29, R304).

/-- What names an operation: its number, its kind, its agent, and how many lanes it has. -/
def MemOp.named (o : MemOp) : Nat × MemKind × Nat × Nat := (o.id, o.kind, o.agent, o.parts.length)
/-- Nothing of memory or of the agent differs, and the operations under way have the same names. -/
def SameNamed (s t : State) : Prop := t.mem = s.mem ∧ t.g = s.g ∧ t.ops.map (·.named) = s.ops.map (·.named)

theorem SameNamed.refl (s : State) : SameNamed s s := ⟨rfl, rfl, rfl⟩
theorem SameNamed.trans {s t u : State} (h : SameNamed s t) (k : SameNamed t u) : SameNamed s u :=
  ⟨k.1.trans h.1, k.2.1.trans h.2.1, k.2.2.trans h.2.2⟩
theorem SameNamed.foldl {α : Type} (f : State → α → State) (l : List α) (h : ∀ t a, SameNamed t (f t a)) (s : State) :
    SameNamed s (l.foldl f s) := by
  induction l generalizing s with
  | nil => exact .refl s
  | cons a r ih => exact (h s a).trans (ih _)
/-- What a word has asked for names its operation. -/
theorem SameAsked.sameNamed {s t : State} (h : SameAsked s t) : SameNamed s t := by
  obtain ⟨hmem, hg, hops⟩ := h
  have hnamed : ∀ l : List MemOp, l.map (·.named) = (l.map (·.asked)).map (·.named) := fun l => by
    rw [List.map_map]
    exact List.map_congr_left fun o _ => by simp [MemOp.named, MemOp.asked]
  exact ⟨hmem, hg, (hnamed t.ops).trans ((congrArg _ hops).trans (hnamed s.ops).symm)⟩

/-- A load's part that its core serves leaves the operations their names, whatever else has the load's number. -/
theorem serveLocal_sameNamed (core id l : Nat) (s : State) : SameNamed s (serveLocal core id l s) := by
  unfold serveLocal
  split
  · exact .refl s
  next o hfind =>
  split
  · exact .refl s
  next p _ =>
  extract_lets split blind u
  have hu : OpsKept s u := by
    show OpsKept s (if split then s.useFree 1 else s)
    cases split <;> exact ⟨rfl, rfl, rfl⟩
  split
  · exact (hu.trans (l1Count_opsKept _ _ _ u)).sameAsked.sameNamed
  next v ids hit _ =>
  extract_lets w x
  have hw : OpsKept u w := by
    show OpsKept u (if hit = true then _ else u)
    split
    · refine (l1Count_opsKept core (p.pa / 128) true u).trans ?_
      split
      · exact setCore_opsKept _ _ _
      · exact .refl _
    · exact .refl u
  have hx : SameNamed w x := by
    refine ⟨rfl, rfl, map_updFirst _ _ _ _ fun q hq => ?_⟩
    have hid : o.id = id := by simpa using List.find?_some hfind
    rw [hid, (hu.trans hw).2.2, hfind] at hq
    obtain rfl := Option.some.inj hq
    have hlanes := congrArg List.length (map_updFirst Part.lane (fun p => p.lane == l) (fun p => { p with data := v, st := .done }) o.parts fun _ _ => rfl)
    rw [List.length_map, List.length_map] at hlanes
    simp only [MemOp.named, hlanes]
  have hreaders : SameNamed x { x with ops := x.ops.map fun q => if ids.contains q.id then { q with readers := (o.agent :: q.readers).eraseDups } else q } := by
    refine ⟨rfl, rfl, ?_⟩
    rw [List.map_map]
    refine List.map_congr_left fun q _ => ?_
    simp only [Function.comp_apply]
    split <;> rfl
  exact ((hu.trans hw).sameAsked.sameNamed.trans hx).trans hreaders

theorem openOp_sameNamed (id : Nat) (s : State) : SameNamed s (openOp id s) := by
  unfold openOp
  split
  · exact .refl s
  next o _ =>
  refine SameNamed.trans ?_ (sendParts_sameAsked id _).sameNamed
  split
  · exact .refl s
  next c _ =>
  split
  · refine .foldl _ _ (fun t p => ?_) s
    split
    · exact serveLocal_sameNamed _ _ _ t
    · exact .refl t
  · exact (storeL1_opsKept c o s).sameAsked.sameNamed
  · exact .refl s
  · exact (l1Drop_sameAsked _ _ s).sameNamed

/-- A launch that nothing holds back changes no register and no memory, and its operation has a part for each lane. -/
theorem launchOp_named (f : Form) (ps : List (Req × Nat × Option Phys)) (s : State) :
    (launchOp f false ps s).mem = s.mem ∧ (∃ l, (launchOp f false ps s).g = { s.g with paths := l }) ∧
    (ps ≠ [] → ∃ o ∈ (launchOp f false ps s).ops, o.named = (s.serial, f.kind, s.g.id, ps.length)) := by
  unfold launchOp
  split
  next hnil => exact ⟨rfl, ⟨s.g.paths, rfl⟩, fun hne => absurd (List.isEmpty_iff.mp hnil) hne⟩
  extract_lets parts reads o u v
  obtain ⟨hmem, hg, hops⟩ := openOp_sameNamed o.id v
  refine ⟨hmem, ⟨_, hg⟩, fun _ => ?_⟩
  have hnamed : o.named ∈ (openOp o.id v).ops.map (·.named) := by
    rw [hops]
    exact List.mem_map_of_mem (List.mem_append_right _ (List.mem_singleton_self o))
  obtain ⟨k, hk, hko⟩ := List.mem_map.mp hnamed
  exact ⟨k, hk, hko.trans (by simp [MemOp.named, o, parts])⟩

/-- The lines that a prefetch fetches, of the places that its lanes have. -/
def prefetched (nt : Bool) (e : Req × Spot) : Option (Req × Nat × Option Phys) :=
  match e.2 with
  | .glob p => some (e.1, p.pa, some { p with l1nc := p.l1nc || nt })
  | _ => none

/-- The form of a prefetch. -/
def prefForm (z : BitVec 2) (n : Bool) : Form := ⟨.fill, 0, 2 ^ z.toNat, false, false, 0, false, n, 0, false, .none, false⟩
/-- The place of each lane of a prefetch. -/
def State.prefPlaces (s : State) (h : Hint) (z c : BitVec 2) (n : Bool) (a b : Reg) : List (Req × Spot) :=
  (s.reqs h (s.laneEa c a b) (fun _ => 0) (fun _ => 0)).map fun r => (r, s.place s.g (prefForm z n) r)
/-- The page that a lane finds in no TLB. -/
def missedPage (e : Req × Spot) : Option Nat :=
  match e.2 with
  | .miss v => some v
  | _ => none
/-- PREF asks for the walks that its lanes miss, else launches its fills. -/
theorem execPref_eq (h : Hint) (z c : BitVec 2) (n : Bool) (a b : Reg) (s : State) :
    let places := s.prefPlaces h z c n a b
    exec (.pref h z c n a b) s = .next
      (if !(places.filterMap missedPage).isEmpty then stall ((places.filterMap missedPage).eraseDups.foldl (fun s v => askWalk s.g v s) s)
      else retire h (launchOp (prefForm z n) false (places.filterMap (prefetched n)) s)) := rfl

/-- Of a prefetch whose lanes all have a place in memory. -/
theorem prefPlaces_glob {s : State} {h : Hint} {z c : BitVec 2} {n : Bool} {a b : Reg}
    (hglob : ∀ r ∈ s.reqs h (s.laneEa c a b) (fun _ => 0) (fun _ => 0), ∃ p, s.place s.g (prefForm z n) r = .glob p) :
    (s.prefPlaces h z c n a b).filterMap missedPage = [] ∧
      ((s.prefPlaces h z c n a b).filterMap (prefetched n)).length = (lanesOf (s.act h)).length := by
  have hplace : ∀ e ∈ s.prefPlaces h z c n a b, ∃ p, e.2 = .glob p := by
    intro e he
    obtain ⟨r, hr, rfl⟩ := List.mem_map.mp he
    exact hglob r hr
  refine ⟨List.filterMap_eq_nil_iff.mpr fun e he => ?_, ?_⟩
  · obtain ⟨p, hp⟩ := hplace e he
    simp [missedPage, hp]
  · rw [List.length_filterMap_eq_countP, List.countP_eq_length.mpr fun e he => ?_]
    · simp [State.prefPlaces, State.reqs]
    · obtain ⟨p, hp⟩ := hplace e he
      simp [prefetched, hp]
theorem lanesOf_ne_nil {m : U64} (h : m ≠ 0) : 0 < (lanesOf m).length := by
  refine List.length_pos_iff.mpr fun hnil => h (BitVec.eq_of_getLsbD_eq fun i hi => ?_)
  have hmem := mem_lanesOf m i
  simp only [hnil, List.not_mem_nil, hi, true_and, false_iff, Bool.not_eq_true] at hmem
  simp [hmem]

theorem pref_spec (h : Hint) (z c : BitVec 2) (n : Bool) (a b : Reg) (s : State) : ∃ t, exec (.pref h z c n a b) s = .next t ∧
    RegsKept s.g t.g ∧ MemoryKept s t ∧ t.g.stopping = s.g.stopping ∧
    ((∀ r ∈ s.reqs h (s.laneEa c a b) (fun _ => 0) (fun _ => 0), ∃ p,
        s.place s.g ⟨.fill, 0, 2 ^ z.toNat, false, false, 0, false, n, 0, false, .none, false⟩ r = .glob p) → s.act h ≠ 0 →
      ∃ o ∈ t.ops, o.id = s.serial ∧ o.kind = .fill ∧ o.agent = s.g.id ∧ o.parts.length = (lanesOf (s.act h)).length) := by
  refine ⟨_, execPref_eq h z c n a b s, ?_⟩
  split
  next hmiss =>
    obtain ⟨hmem, hg, -⟩ := askWalks_opsKept ((s.prefPlaces h z c n a b).filterMap missedPage).eraseDups s
    have hend := stall_ending (((s.prefPlaces h z c n a b).filterMap missedPage).eraseDups.foldl (fun s v => askWalk s.g v s) s)
    rw [hg] at hend
    obtain ⟨hregs, hstop⟩ := RegsKept.of_ending hend
    refine ⟨hregs, .of_mem (by rw [stall_mem, hmem]), hstop, fun hglob _ => absurd hmiss ?_⟩
    rw [(prefPlaces_glob hglob).1]
    decide
  next _ =>
    obtain ⟨hmem, ⟨l, hg⟩, hleaves⟩ := launchOp_named (prefForm z n) ((s.prefPlaces h z c n a b).filterMap (prefetched n)) s
    obtain ⟨hend, -⟩ := retire_gangKept h (launchOp (prefForm z n) false ((s.prefPlaces h z c n a b).filterMap (prefetched n)) s)
    rw [hg] at hend
    obtain ⟨hregs, hstop⟩ := RegsKept.of_ending (a := s.g) hend
    refine ⟨hregs, .of_mem (by rw [retire_mem, hmem]), hstop, fun hglob hact => ?_⟩
    obtain ⟨-, hlen⟩ := prefPlaces_glob hglob
    obtain ⟨o, ho, hnamed⟩ := hleaves (List.ne_nil_of_length_pos (hlen ▸ lanesOf_ne_nil hact))
    simp only [MemOp.named, Prod.mk.injEq] at hnamed
    obtain ⟨hid, hkind, hagent, hparts⟩ := hnamed
    exact ⟨o, by simpa using ho, hid, hkind, hagent, hparts.trans hlen⟩

/-- Settles O37: FENCE waits by the two branches of `fenceThen` and clears by `l1Clear`; CINV of a range is a run of `l1Drop`; a prefetch
is a launch of its lanes' lines. -/
theorem fencesInvalidationsPrefetch : Obligations.FencesInvalidationsPrefetch :=
  ⟨fence_spec, cinvAll_spec, cinvRange_spec, pref_spec⟩
end Sys2Proof.Machine
end

section
/-!
PROOFS. What the homes of the module's memory and the trace can change: memory, which stays canonical, what DRAM, the L2s, the directory and
the buffers hold, and the records of the capture (R36 to R57, R121 to R128, R138, R448 to R450).
-/
namespace Sys2Proof.Machine

/-- Nothing differs but memory, which is canonical if it was, with the state of its homes, and what `OnlyRecords` names. -/
def OnlyMemory (s t : State) : Prop :=
  t = { s with
    mem := t.mem, bad := t.bad, dram := t.dram, dirty := t.dirty, badL2 := t.badL2, badTags := t.badTags, flaws := t.flaws
    dir := t.dir, partials := t.partials, bar := t.bar, dies := t.dies, sys := t.sys, fresh := t.fresh } ∧
  (s.Canonical → t.Canonical)

theorem OnlyMemory.refl (s : State) : OnlyMemory s s := ⟨rfl, id⟩
theorem OnlyMemory.trans {s t u : State} (h : OnlyMemory s t) (k : OnlyMemory t u) : OnlyMemory s u := by
  obtain ⟨hs, hc⟩ := h
  obtain ⟨ks, kc⟩ := k
  exact ⟨by rw [ks, hs], kc ∘ hc⟩
theorem OnlyMemory.canonical {s t : State} (h : OnlyMemory s t) : s.Canonical → t.Canonical := h.2
theorem OnlyMemory.g_eq {s t : State} (h : OnlyMemory s t) : t.g = s.g := by rw [h.1]
theorem OnlyMemory.cur_eq {s t : State} (h : OnlyMemory s t) : t.cur = s.cur := by rw [h.1]

theorem OnlyMemory.ite {c : Prop} [Decidable c] {s u v : State} (hu : OnlyMemory s u) (hv : OnlyMemory s v) : OnlyMemory s (if c then u else v) := by
  split
  · exact hu
  · exact hv

section
variable {s t : State} (h : OnlyMemory s t)
include h

theorem OnlyMemory.records {u : State} (k : OnlyRecords t u) : OnlyMemory s u := by
  refine h.trans ⟨?_, fun hc => ?_⟩
  · unfold OnlyRecords at k
    rw [k]
  · unfold State.Canonical
    rw [k]
    exact hc
theorem OnlyMemory.foldl {α : Type} {f : State → α → State} (l : List α) (hf : ∀ (a : α) {u : State}, OnlyMemory s u → OnlyMemory s (f u a)) :
    OnlyMemory s (l.foldl f t) := by
  induction l generalizing t with
  | nil => exact h
  | cons a r ih => exact ih (hf a h)
/-- An update beside the agents and the operations. -/
theorem OnlyMemory.upd {u : State} (k : OnlyMemory t u := by exact ⟨rfl, fun hc => hc⟩) : OnlyMemory s u := h.trans k

-- Writes of memory (R42, R53, R138).

theorem OnlyMemory.touch (l : List Nat) : OnlyMemory s (touch l t) := h.records (touch_only l t).1
theorem OnlyMemory.mem (m : SMap Byte) (hm : t.Canonical → Memory.wf m = true) : OnlyMemory s { t with mem := m } := h.trans ⟨rfl, hm⟩
theorem OnlyMemory.writeMem (a : Nat) (bs : List Byte) : OnlyMemory s (t.writeMem a bs) := by
  unfold State.writeMem
  split
  · exact h
  · refine OnlyMemory.mem ?_ _ fun hc => putBytes_wf _ _ _ hc
    split
    · exact (h.touch _).upd
    · exact h.touch _
theorem OnlyMemory.correct (ks : List Flaw) (a n : Nat) (no : BitVec 7) : OnlyMemory s (correct ks a n no t) := h.records (correct_only _ _ _ _ _)
theorem OnlyMemory.logOwn (d a : Nat) (k c : BitVec 4) (n : BitVec 7) : OnlyMemory s (logOwn d a k c n t) := h.records (logOwn_only _ _ _ _ _ _)
theorem OnlyMemory.commit (a : Nat) (bs : List Byte) (n : BitVec 7) : OnlyMemory s (commit a bs n t).1 := by
  unfold Machine.commit
  dsimp only
  split
  · exact h.logOwn _ _ _ _ _
  · exact (h.writeMem a bs).upd
theorem OnlyMemory.correctRest (a n : Nat) (no : BitVec 7) : OnlyMemory s (correctRest a n no t) := h.foldl _ fun _ _ k => k.correct _ _ _ _
theorem OnlyMemory.dramBack (held : SMap Byte) : OnlyMemory s (dramBack held t) := by
  exact h.foldl held fun e u k => (k.touch [grMem e.1]).mem _ fun hc => SMap.wf_set 0 _ _ _ hc

-- The L2s (R36 to R42, R52, R54).

theorem OnlyMemory.count (o n : Nat) : OnlyMemory s (t.count o n) := h.upd
theorem OnlyMemory.addSectors (o n : Nat) : OnlyMemory s (t.addSectors o n) := h.upd
theorem OnlyMemory.setDie (d : Nat) (x : DieState) : OnlyMemory s (t.setDie d x) := h.upd
theorem OnlyMemory.setDir (l : Nat) (x : DirState) : OnlyMemory s (t.setDir l x) := h.upd
theorem OnlyMemory.activate (sb : Nat) : OnlyMemory s (activate sb t) := h.setDie _ _
theorem OnlyMemory.l2Drop (d l : Nat) : OnlyMemory s (l2Drop d l t) := by
  unfold Machine.l2Drop
  dsimp only
  split
  · exact h
  · exact h.setDie _ _
theorem OnlyMemory.lineLeaves (d : Nat) (lost : Bool) (u : Option (Nat × Nat × BitVec 4)) : OnlyMemory s (lineLeaves d lost u t) := by
  unfold Machine.lineLeaves
  split
  · exact h
  · split
    · refine OnlyMemory.logOwn (h.trans ⟨?_, ?_⟩) _ _ _ _ _
      · unfold State.interrupt
        dsimp only
        split <;> rfl
      · unfold State.Canonical
        rw [interrupt_mem]
        exact id
    · exact h.logOwn _ _ _ _ _
theorem OnlyMemory.leaveL2 (sb : Nat) : OnlyMemory s (leaveL2 sb t) := by
  unfold Machine.leaveL2
  dsimp only
  split
  · exact (h.setDie _ _).correct _ _ _ _
  · exact h.setDie _ _
theorem OnlyMemory.unmodify (sb : Nat) (kept : Nat → Bool) : OnlyMemory s (unmodify sb kept t) := h.upd
theorem OnlyMemory.storeRow (sb : Nat) : OnlyMemory s (storeRow sb t) := ((h.count _ _).addSectors _ _).activate sb
theorem OnlyMemory.linesLeave (dirty : Bool) (sb : Nat) : OnlyMemory s (linesLeave dirty sb t) := by
  unfold Machine.linesLeave
  exact ((h.dramBack _).unmodify sb _).foldl _ fun _ _ k => k.lineLeaves _ _ _
theorem OnlyMemory.writeBack (sb : Nat) : OnlyMemory s (writeBack sb t) := by
  rw [writeBack_eq]
  dsimp only
  split
  · exact (h.leaveL2 sb).linesLeave _ sb
  · exact ((h.leaveL2 sb).linesLeave _ sb).storeRow sb

-- Partial sums, and what an L2 takes up (R40, R41, R122 to R125).

theorem OnlyMemory.applyPartials (line : Nat) (ps : List Partial) : OnlyMemory s (applyPartials line ps t) := by
  unfold Machine.applyPartials
  split
  · exact h
  · refine OnlyMemory.foldl (h.foldl _ fun _ _ k => k.logOwn _ _ _ _ _) _ fun o u k => ?_
    dsimp only
    split
    · exact k
    · exact (k.correct _ _ _ _).commit _ _ _
theorem OnlyMemory.partials (l : List Partial) : OnlyMemory s { t with partials := l } := h.upd
theorem OnlyMemory.mergeLine (miss : Bool) (line : Nat) : OnlyMemory s (mergeLine miss line t) := by
  unfold Machine.mergeLine
  split
  · refine OnlyMemory.count (OnlyMemory.foldl (OnlyMemory.applyPartials (OnlyMemory.partials ?_ _) _ _) _ fun p u k => ?_) _ _
    · exact h.foldl _ fun _ _ k => k.logOwn _ _ _ _ _
    · split
      · exact k.l2Drop _ _
      · exact k
  · exact h
theorem OnlyMemory.invalidateAll (line : Nat) : OnlyMemory s (invalidateAll line t) := by
  unfold Machine.invalidateAll
  dsimp only
  split
  · exact h
  · exact OnlyMemory.setDir ((h.count _ _).foldl _ fun _ _ k => k.l2Drop _ _) _ _
theorem OnlyMemory.l2Put (d sb : Nat) (ln : BitVec 4) (nt : Bool) : OnlyMemory s (l2Put d sb ln nt t) := h.setDie _ _
theorem OnlyMemory.l2Ask (n : BitVec 7) (sb : Nat) : OnlyMemory s (l2Ask n sb t).1 := by
  unfold Machine.l2Ask
  dsimp only
  split
  · exact h.count _ _
  · exact (((h.count _ _).addSectors _ _).activate sb).correct _ _ _ _
theorem OnlyMemory.applyAtHome (p : Partial) : OnlyMemory s (applyAtHome p t) := (h.l2Ask _ _).applyPartials _ _
theorem OnlyMemory.evictPartial (p : Partial) : OnlyMemory s (evictPartial p t).1 := by
  have hp : OnlyMemory s ({ t with partials := t.partials.erase p }.count (rDieMem p.die 0x90) 1) := h.upd
  unfold Machine.evictPartial
  dsimp only
  split
  · exact hp.applyAtHome p
  · split
    · exact hp.partials _
    · exact (hp.count _ _).partials _
theorem OnlyMemory.l2Take (fuel d sb : Nat) (ln : BitVec 4) (nt : Bool) : OnlyMemory s (l2Take fuel d sb ln nt t) := by
  induction fuel generalizing t d sb ln nt with
  | zero => exact h
  | succ n ih =>
    have hp := h.l2Put d sb ln nt
    unfold Machine.l2Take
    dsimp only
    split
    · exact hp
    · split
      · exact hp
      · split
        · exact ih (hp.writeBack _) _ _ _ _
        · exact ih ((hp.setDie _ _).foldl _ fun _ _ k => ih (k.evictPartial _) _ _ _ _) _ _ _ _

-- Requests at the homes (R42, R43, R52, R53, R122 to R128).

theorem OnlyMemory.homeLine (nt : Bool) (n : BitVec 7) (l : Nat) : OnlyMemory s (homeLine nt n l t) :=
  ((h.l2Ask n (l / 4)).mergeLine _ l).l2Take _ _ _ _ _
theorem OnlyMemory.mergeAlone (l : Nat) : OnlyMemory s (mergeAlone l t) := (h.homeLine _ _ l).setDir _ _
theorem OnlyMemory.readLineHome (d : Option Nat) (nt : Bool) (n : BitVec 7) (l : Nat) : OnlyMemory s (readLineHome d nt n l t) := by
  have hl := h.homeLine nt n l
  unfold Machine.readLineHome
  dsimp only
  split
  · split
    · exact hl.setDir _ _
    · exact hl
  · split
    · exact hl
    · exact (hl.setDir _ _).l2Take _ _ _ _ _
theorem OnlyMemory.readLine (d : Option Nat) (nt : Bool) (n : BitVec 7) (l : Nat) : OnlyMemory s (readLine d nt n l t) := by
  unfold Machine.readLine
  split
  · exact (h.count _ _).l2Take _ _ _ _ _
  · exact h.readLineHome _ _ _ _
theorem OnlyMemory.homeData (used : Bool) (n : BitVec 7) (a m : Nat) : OnlyMemory s (homeData used n a m t).1 := by
  unfold Machine.homeData
  split
  · exact h.logOwn _ _ _ _ _
  · exact h
theorem OnlyMemory.copyData (d : Nat) (used : Bool) (n : BitVec 7) (a m : Nat) : OnlyMemory s (copyData d used n a m t).1 := by
  unfold Machine.copyData
  dsimp only
  split
  · exact h.logOwn _ _ _ _ _
  · exact h.foldl _ fun _ _ k => k.logOwn _ _ _ _ _
theorem OnlyMemory.readAtHome (d : Option Nat) (used nt : Bool) (n : BitVec 7) (a m : Nat) : OnlyMemory s (readAtHome d used nt n a m t).1 :=
  OnlyMemory.homeData ((h.correct _ _ _ _).foldl _ fun _ _ k => k.readLineHome _ _ _ _) _ _ _ _
theorem OnlyMemory.readHome (d : Option Nat) (used nt : Bool) (n : BitVec 7) (a m : Nat) : OnlyMemory s (readHome d used nt n a m t).1 := by
  unfold Machine.readHome
  dsimp only
  split
  · exact (h.correct _ _ _ _).homeData _ _ _ _
  · split
    · exact OnlyMemory.copyData (h.foldl _ fun _ _ k => k.readLine _ _ _ _) _ _ _ _ _
    · exact OnlyMemory.homeData ((h.correct _ _ _ _).foldl _ fun _ _ k => k.readLine _ _ _ _) _ _ _ _
theorem OnlyMemory.applyHome (nt : Bool) (n : BitVec 7) (a : Nat) (bs : List Byte) : OnlyMemory s (applyHome nt n a bs t).1 := by
  unfold Machine.applyHome
  split
  · exact h.commit _ _ _
  · exact OnlyMemory.foldl (OnlyMemory.commit (h.foldl _ fun _ _ k => (k.invalidateAll _).setDir _ _) _ _ _) _ fun _ _ k => k.l2Take _ _ _ _ _
theorem OnlyMemory.writeHome (nt : Bool) (n : BitVec 7) (a : Nat) (bs : List Byte) : OnlyMemory s (writeHome nt n a bs t).1 := by
  unfold Machine.writeHome
  refine OnlyMemory.applyHome (OnlyMemory.correctRest ?_ _ _ _) _ _ _ _
  split
  · exact h
  · exact (h.correct _ _ _ _).foldl _ fun _ _ k => k.homeLine _ _ _
theorem OnlyMemory.atomicHome (nt : Bool) (no : BitVec 7) (a n : Nat) (f : Nat → Nat) : OnlyMemory s (atomicHome nt no a n f t).1 := by
  have hr := h.readHome none true nt no a n
  unfold Machine.atomicHome
  split
  next heq => rwa [heq] at hr
  next heq =>
    rw [heq] at hr
    exact hr.applyHome _ _ _ _
theorem OnlyMemory.reduceHome (nt : Bool) (aop size : Nat) (bf : Bool) (a x : Nat) (n : BitVec 7) :
    OnlyMemory s (reduceHome nt aop size bf a x n t).1 := by
  have hl : OnlyMemory s (if 2 ^ 40 ≤ a then Machine.correct [.weakScratch] a size n t
      else Machine.homeLine nt n (a / 128) (Machine.correct [.weakL2, .weakTag] a size n t)) := by
    split
    · exact h.correct _ _ _ _
    · exact (h.correct _ _ _ _).homeLine _ _ _
  unfold Machine.reduceHome
  dsimp only
  split
  · exact hl.logOwn _ _ _ _ _
  · exact hl.applyHome _ _ _ _
theorem OnlyMemory.evictOut (nt : Bool) (p : Partial) : OnlyMemory s (evictOut nt p t) := by
  have hp : OnlyMemory s (Machine.evictPartial p (if p.core.isNone then Machine.l2Drop p.die p.line t else t)).1 := by
    refine OnlyMemory.evictPartial ?_ p
    split
    · exact h.l2Drop _ _
    · exact h
  unfold Machine.evictOut
  exact .ite (hp.l2Take _ _ _ _ _) (hp.l2Take _ _ _ _ _)
theorem OnlyMemory.reduceStore (nt : Bool) (core : Option Nat) (d aop size : Nat) (bf : Bool) (a x : Nat) (n : BitVec 7) :
    OnlyMemory s (reduceStore nt core d aop size bf a x n t).1 := by
  have hu : OnlyMemory s ((Machine.invalidateAll (a / 128) t).setDir (a / 128) .u) := (h.invalidateAll _).setDir _ _
  unfold Machine.reduceStore
  dsimp only
  split
  · exact h.reduceHome _ _ _ _ _ _ _
  · refine OnlyMemory.partials ?_ _
    split
    · exact hu
    · refine OnlyMemory.partials (OnlyMemory.count ?_ _ _) _
      split
      · exact hu.evictOut _ _
      · exact hu
theorem OnlyMemory.useFree (n : Nat) : OnlyMemory s (t.useFree n) := h.upd
theorem OnlyMemory.evictSome : OnlyMemory s (evictSome t) := by
  unfold Machine.evictSome
  dsimp only
  split
  · exact h
  · split
    · exact (h.useFree 1).evictOut _ _
    · exact h.useFree 1

-- The trace (R448 to R450, R456).

theorem OnlyMemory.sys (x : SystemState) : OnlyMemory s { t with sys := x } := h.upd
theorem OnlyMemory.postedDue : OnlyMemory s (postedDue t) := by
  unfold Machine.postedDue
  split
  · exact h
  · split
    · exact h
    · exact (h.sys _).writeHome _ _ _ _
theorem OnlyMemory.postWrite (a : Nat) (bs : List Byte) : OnlyMemory s (postWrite a bs t) := by
  unfold Machine.postWrite
  dsimp only
  split
  · exact (h.sys _).postedDue
  · exact h.sys _
theorem OnlyMemory.trigger : OnlyMemory s (trigger t) := by
  unfold Machine.trigger
  split
  · exact h
  · exact h.sys _
theorem OnlyMemory.traceRaw (die st kind dt pmask id off mask pay : Nat) : OnlyMemory s (traceRaw die st kind dt pmask id off mask pay t) := by
  have hw : ∀ (a : Nat) (bs : List Byte) (o : Nat) (v : U64) (x : SystemState), OnlyMemory s { (Machine.postWrite a bs t).setReg o v with sys := x } :=
    fun a bs o v x => (h.postWrite a bs).upd
  unfold Machine.traceRaw
  dsimp only
  split
  · exact (hw _ _ _ _ _).trigger
  · exact hw _ _ _ _ _
theorem OnlyMemory.traceOne (die st kind dt pmask id off mask pay : Nat) : OnlyMemory s (traceOne die st kind dt pmask id off mask pay t) := by
  unfold Machine.traceOne
  split
  · exact h.traceRaw _ _ _ _ _ _ _ _ _
  · exact h
theorem OnlyMemory.fullTime (die st : Nat) : OnlyMemory s (fullTime die st t) := by
  unfold Machine.fullTime
  split
  · exact h.traceOne _ _ _ _ _ _ _ _ _
  · exact h
theorem OnlyMemory.traceOwn (die st kind pay : Nat) : OnlyMemory s (traceOwn die st kind pay t) := (h.fullTime _ _).traceOne _ _ _ _ _ _ _ _ _
theorem OnlyMemory.traceLose (die st : Nat) : OnlyMemory s (traceLose die st t) := (h.count _ _).sys _
theorem OnlyMemory.trace (die st kind pmask id off mask pay : Nat) : OnlyMemory s (trace die st kind pmask id off mask pay t) := by
  unfold Machine.trace
  extract_lets seg k lost _ u _ v w
  have hu : OnlyMemory s u := h.ite ((h.sys _).traceOwn _ _ _ _)
  have hv : OnlyMemory s v := hu.ite ((hu.sys _).traceOwn _ _ _ _)
  have hw : OnlyMemory s w := hv.fullTime _ _
  exact h.ite ((h.traceLose _ _).ite ((hw.traceRaw _ _ _ _ _ _ _ _ _).ite (hw.traceLose _ _)))
theorem OnlyMemory.traceAgent (a : Agent) (kind pmask off mask pay : Nat) : OnlyMemory s (traceAgent a kind pmask off mask pay t) :=
  h.trace _ _ _ _ _ _ _ _

end
end Sys2Proof.Machine
end

section
/-!
PROOFS. Where a word leaves its path: at the end of a word, and after a move (R166, R167, R189, R190, R246); WAITCNT and YIELD (R53, R258,
R259, R420).
-/
namespace Sys2Proof.Machine

-- The first element that a test finds, replaced.

theorem updFirst_updFirst {α : Type} (p : α → Bool) (f g : α → α) (l : List α) (h : ∀ x, p x = true → p (g x) = true) :
    updFirst p f (updFirst p g l) = updFirst p (f ∘ g) l := by
  induction l with
  | nil => rfl
  | cons x r ih =>
    by_cases hx : p x = true
    · simp [updFirst, hx, h x hx]
    · simp [updFirst, hx, ih]
theorem filter_updFirst {α : Type} (p q : α → Bool) (f : α → α) (l : List α) (h : ∀ x, p x = true → q x = false ∧ q (f x) = false) :
    (updFirst p f l).filter q = l.filter q := by
  induction l with
  | nil => rfl
  | cons x r ih =>
    by_cases hx : p x = true
    · obtain ⟨hq, hqf⟩ := h x hx
      simp [updFirst, hx, hq, hqf]
    · simp [updFirst, hx, List.filter_cons, ih]

-- The path at issue.

/-- A path that has come to offset x.1 and plane x.2 of it, ready for its next word. -/
def Path.movedTo (x : Offs × Nat) (p q : Path) : Prop :=
  q.id = p.id ∧ q.pc = x.1 ∧ q.plane = x.2 ∧ q.lanes = p.lanes ∧ q.age = 0 ∧ q.stalled = false
/-- The path at issue has moved, and no other. -/
theorem standsAt_of_moved {h : Hint} {x : Offs × Nat} {s t : State} {f : Path → Path} (hints : HintsTaken h t.g)
    (hpaths : t.g.paths = updFirst (·.id == s.cur) f s.g.paths) (hmoved : ∀ p, Path.movedTo x p (f p)) : StandsAt h x s t := by
  refine ⟨hints, fun p hp => ?_⟩
  obtain ⟨hid, hpc, hplane, hlanes, hage, hstalled⟩ := hmoved p
  have hcur : p.id = s.cur := by simpa using List.find?_some (show s.g.paths.find? (·.id == s.cur) = some p from hp)
  refine ⟨⟨f p, ?_, hpc, hplane, hlanes, hage, hstalled⟩, ?_⟩
  · unfold Agent.path?
    rw [hpaths]
    exact find_updFirst_self _ _ _ p hp (by simp [hid, hcur])
  · rw [hpaths]
    refine filter_updFirst _ _ _ _ fun q hq => ?_
    have hqcur : q.id = s.cur := by simpa using hq
    simp [(hmoved q).1, hqcur]
/-- Where a path stands is said by the agent's paths and hints alone. -/
theorem StandsAt.congr {h : Hint} {x : Offs × Nat} {s s' t t' : State} (k : StandsAt h x s t) (hg : s'.g = s.g) (hcur : s'.cur = s.cur)
    (hpaths : t'.g.paths = t.g.paths) (hgap : t'.g.gap = t.g.gap) (hgw : t'.g.gw = t.g.gw) : StandsAt h x s' t' := by
  unfold StandsAt HintsTaken Agent.path? at *
  rw [hg, hcur, hpaths, hgap, hgw]
  exact k

/-- What the end of a word makes of its agent. -/
theorem finish_g (h : Hint) (same : Bool) (o : Offs) (s : State) : ∃ f : Path → Path,
    (same = false → ∀ p, Path.movedTo (o, 0) p (f p)) ∧
    (finish h same o s).g = { s.g with
      paths := updFirst (·.id == s.cur) f s.g.paths
      gap := if h.gap = 0 then 0 else h.gap.toNat + 1, gw := if h.gw then 2 else 0
      walked := [], noHit := s.hitsAgain } := by
  refine ⟨_, ?_, rfl⟩
  rintro rfl p
  exact ⟨rfl, rfl, rfl, rfl, rfl, rfl⟩
theorem finish_hints (h : Hint) (same : Bool) (o : Offs) (s : State) : HintsTaken h (finish h same o s).g := ⟨rfl, rfl⟩
/-- A gang leaves its region with everything else as it was. -/
theorem leave_region (a : Agent) : a.leave = { a with region := a.region.filter a.leave.within } := by
  have hwithin : a.leave.within = a.within := by rw [(leave_only a).1]; rfl
  rw [hwithin]
  unfold Agent.leave
  cases ha : a.region with
  | none => exact congrArg (fun x => { a with region := x }) ha
  | some r =>
    by_cases hr : a.within r = true
    · simpa [Option.filter, hr] using congrArg (fun x => { a with region := x }) ha
    · simp [Option.filter, hr]

/-- The end of a word whose offset no plane owes leaves its path at the next one. -/
theorem retire_proceeds (h : Hint) (s : State) : Proceeds h s (retire h s) := by
  intro hlast
  have hno : (s.path.back.isEmpty && s.owed) = false := by
    rcases hlast with hback | howed
    · simp [hback]
    · simp [howed]
  unfold retire
  dsimp only
  rw [if_neg (by rw [hno]; decide)]
  generalize s.path.back.drop 1 = b
  obtain ⟨f, hmoved, hg⟩ := finish_g h false s.goesOn.1 s
  have hleave := leave_only ((finish h false s.goesOn.1 s).updPath fun p => { p with plane := s.goesOn.2, back := b }).g
  have hid : ∀ p, (f p).id = p.id := fun p => (hmoved rfl p).1
  refine standsAt_of_moved (f := (fun p => { p with plane := s.goesOn.2, back := b }) ∘ f) ?_ ?_ fun p => ?_
  · unfold leaveRegion
    rw [hleave.1]
    exact finish_hints h false s.goesOn.1 s
  · unfold leaveRegion
    rw [hleave.1, ← updFirst_updFirst _ _ _ _ fun p hp => by rw [hid]; exact hp]
    show updFirst _ _ (finish h false s.goesOn.1 s).g.paths = _
    rw [hg]
    rfl
  · obtain ⟨hid, hpc, -, hlanes, hage, hstalled⟩ := hmoved rfl p
    exact ⟨hid, hpc, rfl, hlanes, hage, hstalled⟩

-- A move of the path (R246, R450).

theorem traceAgent_off {s : State} {kind : Nat} (h5 : kind ≠ 5) (hoff : s.TraceOff kind) (pmask off mask pay : Nat) :
    traceAgent s.g kind pmask off mask pay s = s := by
  refine if_pos ?_
  rw [if_neg h5]
  rcases hoff with hseg | hkind
  · rw [hseg]
    rfl
  · rw [hkind, Bool.not_false, Bool.or_true]
theorem OnlyMemory.path_eq {s t : State} (h : OnlyMemory s t) : t.path = s.path := by
  unfold State.path
  rw [h.g_eq, h.cur_eq]
theorem OnlyMemory.hitsAgain_eq {s t : State} (h : OnlyMemory s t) : t.hitsAgain = s.hitsAgain := by
  unfold State.hitsAgain
  rw [h.path_eq, h.g_eq, h.cur_eq]

/-- The end of a word at offset o, once its trace record has been written. -/
theorem finish_moves {h : Hint} {o : Offs} {s u : State} (hu : OnlyMemory s u) (hoff : s.TraceOff 2 → u = s) :
    MovesPath h o s (leaveRegion (finish h false o u)) := by
  obtain ⟨f, hmoved, hg⟩ := finish_g h false o u
  have hleave := leave_region (finish h false o u).g
  rw [hu.g_eq, hu.cur_eq, hu.hitsAgain_eq] at hg
  refine ⟨standsAt_of_moved (f := f) ?_ ?_ (hmoved rfl), ?_, ?_, rfl, fun htrace => ?_⟩
  · show HintsTaken h (finish h false o u).g.leave
    rw [(leave_only _).1]
    exact finish_hints h false o u
  · show (finish h false o u).g.leave.paths = _
    rw [(leave_only _).1, hg]
  · have hgang : ∀ b : Agent, b = { (finish h false o u).g with region := b.region } → b = { s.g with
        paths := b.paths, gap := b.gap, gw := b.gw, region := b.region, walked := [], noHit := s.hitsAgain } := by
      intro b hb
      rw [hb, hg]
    exact hgang _ (leave_only _).1
  · show (finish h false o u).g.leave.region = s.g.region.filter (finish h false o u).g.leave.within
    conv_lhs => rw [hleave]
    rw [show (finish h false o u).g.region = s.g.region by rw [hg]]
  · obtain rfl := hoff htrace
    rw [(leaveRegion_only (finish_only h false o u)).1]
    exact ModuleKept.of_agent _ _ _
/-- A word that sends its path to an offset which does not strand a lane moves it there. -/
theorem goTo_moves (h : Hint) (o : Offs) (s : State) (hstay : s.g.strands s.path.lanes o = false) : MovesPath h o s (goTo h o s) := by
  unfold goTo
  rw [if_neg (by rw [hstay]; decide)]
  refine finish_moves ?_ fun hoff => ?_
  · split
    · exact .refl s
    · exact (OnlyMemory.refl s).traceAgent _ _ _ _ _ _
  · split
    · rfl
    · exact traceAgent_off (by decide) hoff _ _ _ _

-- WAITCNT (R53, R258).

theorem execWaitcnt_eq (h : Hint) (ld : Bool) (n : BitVec 16) (s : State) (hact : s.act h ≠ 0) : exec (.waitcnt h ld n) s = .next
    (if n.toNat < s.inFlight s.g.id (!ld) then stall s
     else if !ld && n = 0 then whenDrained (retire h) s else retire h s) := congrArg Host.Outcome.next (if_neg hact)
theorem whenDrained_clean (f : State → State) (s : State) (hstores : s.inFlight s.g.id true = 0) (hdropped : s.g.dropped = []) :
    whenDrained f s = f s := by simp [whenDrained, dropReport, hstores, hdropped]
/-- The stores that were dropped make one report (R53). -/
theorem whenDrained_reports (f : State → State) (s : State) (d : Dropped) (r : List Dropped) (hstores : s.inFlight s.g.id true = 0)
    (hdropped : s.g.dropped = d :: r) : TrapsWith 0x14 0x83 (s.g.dropped.foldl (fun m x => m ||| x.lanes) 0) d.addr 0
      { s with g := { s.g with dropped := [] } } (whenDrained f s) := by
  have hraise : whenDrained f s = raise (rep cMemerr 0x83 (s.g.dropped.foldl (fun m x => m ||| x.lanes) 0) d.addr 0)
      { s with g := { s.g with dropped := [] } } := by simp [whenDrained, dropReport, hstores, hdropped]
  rw [hraise]
  exact raise_rep_spec 0x14 0x83 _ _ _ _ (by decide) (by decide)

theorem waitcnt_spec (h : Hint) (ld : Bool) (n : BitVec 16) (s : State) (hact : s.act h ≠ 0) : ∃ t, exec (.waitcnt h ld n) s = .next t ∧
    (n.toNat < s.inFlight s.g.id (!ld) → Waits s t) ∧
    (s.inFlight s.g.id (!ld) ≤ n.toNat → (ld = true ∨ n ≠ 0 ∨ s.g.dropped = []) → ModuleKept s t ∧ GangKept s.g t.g ∧ Proceeds h s t) ∧
    (∀ d r, s.inFlight s.g.id (!ld) ≤ n.toNat → ld = false → n = 0 → s.g.dropped = d :: r →
      TrapsWith 0x14 0x83 (s.g.dropped.foldl (fun m x => m ||| x.lanes) 0) d.addr 0 { s with g := { s.g with dropped := [] } } t) := by
  refine ⟨_, execWaitcnt_eq h ld n s hact, fun hover => ?_, fun hunder hclean => ?_, ?_⟩
  · rw [if_pos hover]
    exact stall_spec s
  · have hretire : (if !ld && n = 0 then whenDrained (retire h) s else retire h s) = retire h s := by
      split
      next hdrain =>
        obtain ⟨rfl, rfl⟩ : ld = false ∧ n = 0 := by simpa using hdrain
        exact whenDrained_clean _ s (by simpa using hunder) (by simpa using hclean)
      · rfl
    rw [if_neg (by omega), hretire]
    refine ⟨?_, retire_gangKept h s, retire_proceeds h s⟩
    rw [(retire_only h s).1]
    exact ModuleKept.of_agent _ _ _
  · rintro d r hunder rfl rfl hdropped
    rw [if_neg (by omega), if_pos (by simp)]
    exact whenDrained_reports _ s d r (by simpa using hunder) hdropped

-- YIELD (R259, R420).

theorem mayRelease_drained {s : State} {id scope : Nat} (h : s.mayRelease id scope = true) (hscope : 2 ≤ scope) :
    s.loadsBack id = true ∧ s.inFlight id true = 0 ∧ ∀ o ∈ s.ops, o.readers.contains id = false := by
  have hno : ¬scope < 2 := by omega
  simp only [State.mayRelease, hno, decide_false, Bool.false_or, Bool.and_eq_true, decide_eq_true_eq, List.all_eq_true, Bool.not_eq_true'] at h
  obtain ⟨⟨hloads, -⟩, hstores, hreaders⟩ := h
  exact ⟨hloads, hstores, hreaders⟩

/-- The gang stops for its save, once its release has been met. -/
def yields (h : Hint) (s : State) : State :=
  let u := goOn h (traceAgent s.g 3 s.pmask.toNat s.path.pc.toNat (s.before).toNat (s.g.trap.cause.toNat % 65536 + 2 ^ 17) s)
  { u with g := { u.g with yielded := true } }
theorem execYield_eq (h : Hint) (s : State) (hact : s.act h ≠ 0) : exec (.yield h) s = .next
    (if !s.tm.preq then goOn h s else fenceThen 3 5 (yields h) s) := congrArg Host.Outcome.next (if_neg hact)
theorem goOn_after {s u : State} (hg : u.g = s.g) (hpath : u.path = s.path) (h : Hint)
    (hstay : s.g.strands s.path.lanes (s.g.after s.path.pc) = false) : MovesPath h (s.g.after s.path.pc) u (goOn h u) := by
  have hmoves := goTo_moves h (u.g.after u.path.pc) u
  rw [hg, hpath] at hmoves
  unfold goOn
  rw [hg, hpath]
  exact hmoves hstay
theorem yields_spec (h : Hint) (s : State) (hstay : s.g.strands s.path.lanes (s.g.after s.path.pc) = false) :
    (yields h s).g.yielded = true ∧ GoesTo h (s.g.after s.path.pc) s (yields h s) ∧ (yields h s).g.sregs = s.g.sregs ∧
      (yields h s).g.vregs = s.g.vregs := by
  have htrace := (OnlyMemory.refl s).traceAgent s.g 3 s.pmask.toNat s.path.pc.toNat (s.before).toNat (s.g.trap.cause.toNat % 65536 + 2 ^ 17)
  unfold yields
  generalize traceAgent s.g 3 s.pmask.toNat s.path.pc.toNat (s.before).toNat (s.g.trap.cause.toNat % 65536 + 2 ^ 17) s = u at htrace
  obtain ⟨hgoes, hgang, -⟩ := goOn_after htrace.g_eq htrace.path_eq h hstay
  refine ⟨rfl, StandsAt.congr hgoes htrace.g_eq.symm htrace.cur_eq.symm rfl rfl rfl, ?_, ?_⟩
  all_goals
    dsimp only
    rw [hgang, htrace.g_eq]

theorem yield_spec (h : Hint) (s : State) (hact : s.act h ≠ 0) : ∃ t, exec (.yield h) s = .next t ∧
    (s.tm.preq = false → s.g.strands s.path.lanes (s.g.after s.path.pc) = false → MovesPath h (s.g.after s.path.pc) s t) ∧
    (s.tm.preq = true → s.g.strands s.path.lanes (s.g.after s.path.pc) = false → s.mayRelease s.g.id 5 = true → s.g.dropped = [] →
      t.g.yielded = true ∧ GoesTo h (s.g.after s.path.pc) s t ∧ t.g.sregs = s.g.sregs ∧ t.g.vregs = s.g.vregs) := by
  refine ⟨_, execYield_eq h s hact, fun hpreq hstay => ?_, fun hpreq hstay hmay hdropped => ?_⟩
  · rw [if_pos (by rw [hpreq]; rfl)]
    exact goOn_after rfl rfl h hstay
  · obtain ⟨hloads, hstores, hreaders⟩ := mayRelease_drained hmay (by decide)
    rw [if_neg (by rw [hpreq]; decide), fenceThen_passes _ _ _ s hloads hstores hreaders hdropped, if_pos (by decide)]
    obtain ⟨-, hg, -⟩ := acquired_kept 5 s
    have hcur : (acquired s.g 5 s).cur = s.cur := acquired_cur 5 s
    have hpath : (acquired s.g 5 s).path = s.path := by unfold State.path; rw [hg, hcur]
    have hspec := yields_spec h (acquired s.g 5 s)
    rw [hg, hpath] at hspec
    obtain ⟨hyielded, hgoes, hsregs, hvregs⟩ := hspec hstay
    exact ⟨hyielded, StandsAt.congr hgoes hg.symm hcur.symm rfl rfl rfl, hsregs, hvregs⟩

/-- Settles O29: WAITCNT by its branches, each of which stalls, retires or raises the report of dropped stores; YIELD by the move of its
path, of which its trace record and its fence leave the agent as it was. -/
theorem waitCountersAndYield : Obligations.WaitCountersAndYield := ⟨waitcnt_spec, yield_spec⟩
end Sys2Proof.Machine
end

section
/-!
PROOFS. What keeps memory canonical (R42): the rules of the proof, and the functions of the state, of the homes and of groups.
-/
namespace Sys2Proof.Machine

/-- A record update of what is not memory. It is stated of every field, so that the state is found from the record. -/
theorem State.Canonical.upd {s : State} {bad dram dirty badL2 badTags flaws dir partials ops bar cores dies grids teams queues lastDie g agents
  cur word lanes pmask sel served eng sys gt gtFrac cyc mclk power fresh serial frozen agenda strikes} (hc : s.Canonical) :
    State.Canonical ⟨⟨s.mem, bad, dram, dirty, badL2, badTags, flaws, dir, partials, ops, bar, cores, dies, grids, teams, queues, lastDie, g, agents,
      cur, word, lanes, pmask, sel, served, eng, sys, gt, gtFrac, cyc, mclk, power, fresh, serial⟩, frozen, agenda, strikes⟩ := hc
theorem State.Canonical.records {s t : State} (hc : s.Canonical) (k : OnlyRecords s t) : t.Canonical := ((OnlyMemory.refl s).records k).canonical hc
theorem State.Canonical.ite {c : Prop} [Decidable c] {s t : State} (hs : s.Canonical) (ht : t.Canonical) : (if c then s else t).Canonical := by
  split
  · exact hs
  · exact ht
/-- A fold of a value that holds a state. -/
theorem State.Canonical.foldl_by {α β : Type} {r : β → State} {f : β → α → β} {l : List α} {b : β} (hc : (r b).Canonical)
    (hf : ∀ {u a}, (r u).Canonical → (r (f u a)).Canonical) : (r (l.foldl f b)).Canonical := by
  induction l generalizing b with
  | nil => exact hc
  | cons a l ih => exact ih (hf hc)
theorem State.Canonical.foldl {α : Type} {f : State → α → State} {l : List α} {s : State} (hc : s.Canonical)
    (hf : ∀ {u a}, u.Canonical → (f u a).Canonical) : (l.foldl f s).Canonical := hc.foldl_by (r := id) hf
theorem State.Canonical.of_fst {α : Type} {p : State × α} {t : State} {x : α} (hc : p.1.Canonical) (e : p = (t, x)) : t.Canonical := by
  rw [e] at hc
  exact hc
theorem State.Canonical.of_fst_by {α β : Type} {r : α → State} {p : α × β} {t : α} {x : β} (hc : (r p.1).Canonical) (e : p = (t, x)) :
    (r t).Canonical := by
  rw [e] at hc
  exact hc
theorem State.Canonical.of_snd {α : Type} {p : α × State} {t : State} {x : α} (hc : p.2.Canonical) (e : p = (x, t)) : t.Canonical := by
  rw [e] at hc
  exact hc

theorem State.Canonical.of_ite {α : Type} {c : Prop} [Decidable c] {p q : State × α} {t : State} {x : α} (e : (if c then p else q) = (t, x))
    (hp : p.1.Canonical) (hq : q.1.Canonical) : t.Canonical := by
  split at e
  · exact hp.of_fst e
  · exact hq.of_fst e
/-- Structural recursion, where the equations of the function are too costly to check. -/
theorem brecOn_by {α : Nat → Type} {P : ∀ n, α n → Prop} {F : ∀ n, Nat.below (motive := α) n → α n} (zero : P 0 (F 0 PUnit.unit))
    (succ : ∀ n b, P n b.1 → P (n + 1) (F (n + 1) b)) (n : Nat) : P n (Nat.brecOn n F) := by
  show P n (Nat.brecOn.go n F).1
  induction n with
  | zero => exact zero
  | succ n ih => exact succ n (Nat.brecOn.go n F) ih

/-- A word or an event keeps memory canonical. -/
def Keeps (e : State → Answer) : Prop := ∀ s t, s.Canonical → e s = .next t → t.Canonical
theorem Keeps.next {f : State → State} (hf : ∀ {s}, s.Canonical → (f s).Canonical) : Keeps fun s => .next (f s) := by
  intro s t hc e
  cases e
  exact hf hc

-- Of Sys2Proof/Machine/Access.lean.

theorem State.Canonical.setCore {c x} {s : State} (hc : s.Canonical) : (s.setCore c x).Canonical := hc.upd
theorem State.Canonical.setDie {d x} {s : State} (hc : s.Canonical) : (s.setDie d x).Canonical := ((OnlyMemory.refl s).setDie _ _).canonical hc
theorem State.Canonical.setTeam {x} {s : State} (hc : s.Canonical) : (s.setTeam x).Canonical := hc.upd
theorem State.Canonical.setGrid {x} {s : State} (hc : s.Canonical) : (s.setGrid x).Canonical := hc.upd
theorem State.Canonical.setAgent {a} {s : State} (hc : s.Canonical) : (s.setAgent a).Canonical := hc.upd.ite hc.upd

-- Of Sys2Proof/Machine/Regs.lean.

theorem State.Canonical.setReg {off v} {s : State} (hc : s.Canonical) : (s.setReg off v).Canonical := hc.upd
theorem State.Canonical.count {off n} {s : State} (hc : s.Canonical) : (s.count off n).Canonical := ((OnlyMemory.refl s).count _ _).canonical hc
theorem State.Canonical.addSectors {off n} {s : State} (hc : s.Canonical) : (s.addSectors off n).Canonical :=
  ((OnlyMemory.refl s).addSectors _ _).canonical hc
theorem State.Canonical.interrupt {n} {s : State} (hc : s.Canonical) : (s.interrupt n).Canonical := hc.upd.ite hc.setReg
theorem State.Canonical.once {k s} (hc : s.Canonical) : (State.once k s).Canonical := hc.upd
theorem State.Canonical.useFree {n} {s : State} (hc : s.Canonical) : (s.useFree n).Canonical := ((OnlyMemory.refl s).useFree _).canonical hc

-- Of Sys2Proof/Machine/Packhorse.lean.

theorem State.Canonical.setColour {c x} {s : State} (hc : s.Canonical) : (s.setColour c x).Canonical := hc.records (setColour_only _ _ _)
theorem State.Canonical.writeRecord {k full s} (hc : s.Canonical) : (writeRecord k full s).Canonical := hc.records (writeRecord_only _ _ _)
theorem State.Canonical.stage {w r s} (hc : s.Canonical) : (stage w r s).Canonical := hc.records (stage_only _ _ _)

-- Of Sys2Proof/Machine/Capture.lean.

theorem State.Canonical.logError {d pa kind class_ no s} (hc : s.Canonical) : (logError d pa kind class_ no s).Canonical :=
  hc.records (logError_only _ _ _ _ _ _)
theorem State.Canonical.logOwn {d a kind source agent s} (hc : s.Canonical) : (logOwn d a kind source agent s).Canonical :=
  ((OnlyMemory.refl s).logOwn _ _ _ _ _).canonical hc
theorem State.Canonical.correct {kinds a n agentNo s} (hc : s.Canonical) : (correct kinds a n agentNo s).Canonical :=
  ((OnlyMemory.refl s).correct _ _ _ _).canonical hc
theorem State.Canonical.capture {w g s} (hc : s.Canonical) : (capture w g s).Canonical := hc.records (capture_only _ _ _)
theorem State.Canonical.touch {gs s} (hc : s.Canonical) : (touch gs s).Canonical := hc.records (touch_only _ _).1

-- Of Sys2Proof/Machine/Home.lean.

theorem State.Canonical.writeMem {a bs} {s : State} (hc : s.Canonical) : (s.writeMem a bs).Canonical :=
  ((OnlyMemory.refl s).writeMem _ _).canonical hc
theorem State.Canonical.commit {a bs agentNo s} (hc : s.Canonical) : (commit a bs agentNo s).1.Canonical :=
  ((OnlyMemory.refl s).commit _ _ _).canonical hc
theorem State.Canonical.correctRest {a n agentNo s} (hc : s.Canonical) : (correctRest a n agentNo s).Canonical :=
  ((OnlyMemory.refl s).correctRest _ _ _).canonical hc
theorem State.Canonical.activate {sb s} (hc : s.Canonical) : (activate sb s).Canonical := ((OnlyMemory.refl s).activate _).canonical hc
theorem State.Canonical.l2Drop {d l s} (hc : s.Canonical) : (l2Drop d l s).Canonical := ((OnlyMemory.refl s).l2Drop _ _).canonical hc
theorem State.Canonical.dramBack {held s} (hc : s.Canonical) : (dramBack held s).Canonical := ((OnlyMemory.refl s).dramBack _).canonical hc
theorem State.Canonical.lineLeaves {d lost u s} (hc : s.Canonical) : (lineLeaves d lost u s).Canonical :=
  ((OnlyMemory.refl s).lineLeaves _ _ _).canonical hc
theorem State.Canonical.writeBack {sb s} (hc : s.Canonical) : (writeBack sb s).Canonical := ((OnlyMemory.refl s).writeBack _).canonical hc
theorem State.Canonical.applyPartials {line ps s} (hc : s.Canonical) : (applyPartials line ps s).Canonical :=
  ((OnlyMemory.refl s).applyPartials _ _).canonical hc
theorem State.Canonical.mergeLine {miss line s} (hc : s.Canonical) : (mergeLine miss line s).Canonical :=
  ((OnlyMemory.refl s).mergeLine _ _).canonical hc
theorem State.Canonical.setDir {line x} {s : State} (hc : s.Canonical) : (s.setDir line x).Canonical := ((OnlyMemory.refl s).setDir _ _).canonical hc
theorem State.Canonical.invalidateAll {line s} (hc : s.Canonical) : (invalidateAll line s).Canonical :=
  ((OnlyMemory.refl s).invalidateAll _).canonical hc
theorem State.Canonical.l2Put {d sb ln nt s} (hc : s.Canonical) : (l2Put d sb ln nt s).Canonical := ((OnlyMemory.refl s).l2Put _ _ _ _).canonical hc
theorem State.Canonical.l2Ask {agentNo sb s} (hc : s.Canonical) : (l2Ask agentNo sb s).1.Canonical := ((OnlyMemory.refl s).l2Ask _ _).canonical hc
theorem State.Canonical.applyAtHome {p s} (hc : s.Canonical) : (applyAtHome p s).Canonical := ((OnlyMemory.refl s).applyAtHome _).canonical hc
theorem State.Canonical.evictPartial {p s} (hc : s.Canonical) : (evictPartial p s).1.Canonical := ((OnlyMemory.refl s).evictPartial _).canonical hc
theorem State.Canonical.l2Take {fuel d sb ln nt s} (hc : s.Canonical) : (l2Take fuel d sb ln nt s).Canonical :=
  ((OnlyMemory.refl s).l2Take _ _ _ _ _).canonical hc
theorem State.Canonical.homeLine {nt agentNo l s} (hc : s.Canonical) : (homeLine nt agentNo l s).Canonical :=
  ((OnlyMemory.refl s).homeLine _ _ _).canonical hc
theorem State.Canonical.mergeAlone {l s} (hc : s.Canonical) : (mergeAlone l s).Canonical := ((OnlyMemory.refl s).mergeAlone _).canonical hc
theorem State.Canonical.readLineHome {d nt agentNo l s} (hc : s.Canonical) : (readLineHome d nt agentNo l s).Canonical :=
  ((OnlyMemory.refl s).readLineHome _ _ _ _).canonical hc
theorem State.Canonical.readLine {d nt agentNo l s} (hc : s.Canonical) : (readLine d nt agentNo l s).Canonical :=
  ((OnlyMemory.refl s).readLine _ _ _ _).canonical hc
theorem State.Canonical.homeData {used agentNo a n s} (hc : s.Canonical) : (homeData used agentNo a n s).1.Canonical :=
  ((OnlyMemory.refl s).homeData _ _ _ _).canonical hc
theorem State.Canonical.copyData {d used agentNo a n s} (hc : s.Canonical) : (copyData d used agentNo a n s).1.Canonical :=
  ((OnlyMemory.refl s).copyData _ _ _ _ _).canonical hc
theorem State.Canonical.readAtHome {d used nt agentNo a n s} (hc : s.Canonical) : (readAtHome d used nt agentNo a n s).1.Canonical :=
  ((OnlyMemory.refl s).readAtHome _ _ _ _ _ _).canonical hc
theorem State.Canonical.readHome {d used nt agentNo a n s} (hc : s.Canonical) : (readHome d used nt agentNo a n s).1.Canonical :=
  ((OnlyMemory.refl s).readHome _ _ _ _ _ _).canonical hc
theorem State.Canonical.applyHome {nt agentNo a bs s} (hc : s.Canonical) : (applyHome nt agentNo a bs s).1.Canonical :=
  ((OnlyMemory.refl s).applyHome _ _ _ _).canonical hc
theorem State.Canonical.writeHome {nt agentNo a bs s} (hc : s.Canonical) : (writeHome nt agentNo a bs s).1.Canonical :=
  ((OnlyMemory.refl s).writeHome _ _ _ _).canonical hc
theorem State.Canonical.atomicHome {nt agentNo a n f s} (hc : s.Canonical) : (atomicHome nt agentNo a n f s).1.Canonical :=
  ((OnlyMemory.refl s).atomicHome _ _ _ _ _).canonical hc
theorem State.Canonical.reduceHome {nt aop size bf a x agentNo s} (hc : s.Canonical) : (reduceHome nt aop size bf a x agentNo s).1.Canonical :=
  ((OnlyMemory.refl s).reduceHome _ _ _ _ _ _ _).canonical hc
theorem State.Canonical.evictOut {nt p s} (hc : s.Canonical) : (evictOut nt p s).Canonical := ((OnlyMemory.refl s).evictOut _ _).canonical hc
theorem State.Canonical.reduceStore {nt core d aop size bf a x agentNo s} (hc : s.Canonical) :
    (reduceStore nt core d aop size bf a x agentNo s).1.Canonical :=
  ((OnlyMemory.refl s).reduceStore _ _ _ _ _ _ _ _ _).canonical hc
theorem State.Canonical.evictSome {s} (hc : s.Canonical) : (evictSome s).Canonical := ((OnlyMemory.refl s).evictSome).canonical hc
theorem State.Canonical.postedDue {s} (hc : s.Canonical) : (postedDue s).Canonical := ((OnlyMemory.refl s).postedDue).canonical hc
theorem State.Canonical.postWrite {a bs s} (hc : s.Canonical) : (postWrite a bs s).Canonical := ((OnlyMemory.refl s).postWrite _ _).canonical hc
theorem State.Canonical.strikeCore {x s} (hc : s.Canonical) : (strikeCore x s).Canonical := by
  unfold Machine.strikeCore
  extract_lets k u
  split
  · exact hc.upd
  · exact hc.upd
  · exact hc.upd
  · exact hc.upd
  · exact hc
theorem State.Canonical.strike {x s} (hc : s.Canonical) : (strike x s).Canonical := by
  unfold Machine.strike
  extract_lets inL2 flaw inCopy y u u1 u2 l u3
  have hflaw : ∀ {a0 a1}, (flaw a0 a1).Canonical := hc.upd
  refine .ite hc.setDie ?_
  split
  · exact hflaw.ite (hflaw.ite hc.upd)
  · exact hc.ite (hc.upd.ite hflaw)
  · exact hc.ite (hc.upd.ite hflaw)
  · exact hc.upd.ite hflaw
  · exact hc.strikeCore.ite hc

-- Of Sys2Proof/Machine/Trace.lean.

theorem State.Canonical.trigger {s} (hc : s.Canonical) : (trigger s).Canonical := ((OnlyMemory.refl s).trigger).canonical hc
theorem State.Canonical.traceRaw {die st kind dt pmask id off mask pay s} (hc : s.Canonical) :
    (traceRaw die st kind dt pmask id off mask pay s).Canonical :=
  ((OnlyMemory.refl s).traceRaw _ _ _ _ _ _ _ _ _).canonical hc
theorem State.Canonical.traceOne {die st kind dt pmask id off mask pay s} (hc : s.Canonical) :
    (traceOne die st kind dt pmask id off mask pay s).Canonical :=
  ((OnlyMemory.refl s).traceOne _ _ _ _ _ _ _ _ _).canonical hc
theorem State.Canonical.fullTime {die st s} (hc : s.Canonical) : (fullTime die st s).Canonical := ((OnlyMemory.refl s).fullTime _ _).canonical hc
theorem State.Canonical.traceOwn {die st kind pay s} (hc : s.Canonical) : (traceOwn die st kind pay s).Canonical :=
  ((OnlyMemory.refl s).traceOwn _ _ _ _).canonical hc
theorem State.Canonical.traceLose {die st s} (hc : s.Canonical) : (traceLose die st s).Canonical := ((OnlyMemory.refl s).traceLose _ _).canonical hc
theorem State.Canonical.trace {die st kind pmask id off mask pay s} (hc : s.Canonical) : (trace die st kind pmask id off mask pay s).Canonical :=
  ((OnlyMemory.refl s).trace _ _ _ _ _ _ _ _).canonical hc
theorem State.Canonical.traceAgent {a kind pmask off mask pay s} (hc : s.Canonical) : (traceAgent a kind pmask off mask pay s).Canonical :=
  ((OnlyMemory.refl s).traceAgent _ _ _ _ _ _).canonical hc

-- Of Sys2Proof/Machine/Groups.lean.

theorem State.Canonical.sendOn {port p s} (hc : s.Canonical) : (sendOn port p s).Canonical := hc.upd
theorem State.Canonical.notePort {g port s} (hc : s.Canonical) : (notePort g port s).Canonical := hc.ite hc.upd
theorem State.Canonical.sendTo {m p s} (hc : s.Canonical) : (sendTo m p s).Canonical := hc.useFree.sendOn.notePort.ite hc.useFree.sendOn
theorem State.Canonical.sendPacket {p s} (hc : s.Canonical) : (sendPacket p s).Canonical := hc.sendTo
theorem State.Canonical.putBarrier {a b s} (hc : s.Canonical) : (putBarrier a b s).Canonical := hc.writeMem
theorem State.Canonical.barArrive {a k s} (hc : s.Canonical) : (barArrive a k s).Canonical := hc.putBarrier
theorem State.Canonical.barBreak {a why s} (hc : s.Canonical) : (barBreak a why s).Canonical := hc.putBarrier
theorem State.Canonical.noteHeld {x w s} (hc : s.Canonical) : (noteHeld x w s).Canonical := by
  unfold Machine.noteHeld
  split
  · exact hc
  · extract_lets h e
    exact hc.postWrite.postWrite.postWrite
theorem State.Canonical.owe {t w s} (hc : s.Canonical) : (owe t w s).Canonical := by
  unfold Machine.owe
  extract_lets x
  refine .ite hc.setTeam.noteHeld ?_
  refine .ite hc ?_
  split
  · exact hc.writeMem
  · exact hc.barArrive
  · exact hc.barBreak
theorem State.Canonical.unlock {op s} (hc : s.Canonical) : (unlock op s).Canonical := hc.upd
theorem State.Canonical.setGrpState {g st s} (hc : s.Canonical) : (setGrpState g st s).Canonical := hc.setReg
theorem State.Canonical.sendOthers {g kind vc addr s} (hc : s.Canonical) : (sendOthers g kind vc addr s).Canonical := hc.foldl fun hu => hu.sendPacket
theorem State.Canonical.abortColl {c s} (hc : s.Canonical) : (abortColl c s).Canonical := hc.upd.unlock.owe.setTeam
theorem State.Canonical.endColls {g s} (hc : s.Canonical) : (endColls g s).Canonical := (hc.foldl fun hu => hu.abortColl).upd
theorem State.Canonical.checkAgree {g s} (hc : s.Canonical) : (checkAgree g s).Canonical := hc.setReg.setGrpState.interrupt.ite hc
theorem State.Canonical.holdReport {g m v s} (hc : s.Canonical) : (holdReport g m v s).Canonical := hc.upd.checkAgree
theorem State.Canonical.knellGroup {g s} (hc : s.Canonical) : (knellGroup g s).Canonical := hc.ite hc.setGrpState.endColls.upd.sendOthers.holdReport
theorem State.Canonical.sendKnell {g s} (hc : s.Canonical) : (sendKnell g s).Canonical := hc.ite hc.sendOthers.knellGroup
theorem State.Canonical.fatalFault {g s} (hc : s.Canonical) : (fatalFault g s).Canonical := hc.sendKnell.foldl fun hu => hu.sendKnell
theorem State.Canonical.teamFatal {t s} (hc : s.Canonical) : (teamFatal t s).Canonical := hc.foldl fun hu => hu.sendKnell
theorem State.Canonical.startColour {c logged s} (hc : s.Canonical) : (startColour c logged s).Canonical := hc.setColour
theorem State.Canonical.snapRequest {c s} (hc : s.Canonical) : (snapRequest c s).2.Canonical := by
  unfold Machine.snapRequest
  split
  · exact hc
  · split
    · exact hc.startColour
    · exact hc
    · exact hc
end Sys2Proof.Machine
end

section
/-!
PROOFS. Memory stays canonical: registers, operands, translation, the path to memory, and the control instructions.
-/
namespace Sys2Proof.Machine

-- Of Sys2Proof/Machine/Ops.lean.

theorem State.Canonical.touchS {s} (hc : s.Canonical) : (touchS s).Canonical := hc.touch
theorem State.Canonical.touchV {n s} (hc : s.Canonical) : (touchV n s).Canonical := hc.touch
theorem State.Canonical.setS {d v s} (hc : s.Canonical) : (setS d v s).Canonical := hc.touchS.upd
theorem State.Canonical.setV {d m f s} (hc : s.Canonical) : (setV d m f s).Canonical := hc.ite hc.touchV.upd
theorem State.Canonical.setM {d m v s} (hc : s.Canonical) : (setM d m v s).Canonical := hc.upd
theorem State.Canonical.setX {m v s} (hc : s.Canonical) : (setX m v s).Canonical := hc.upd
theorem State.Canonical.raiseFlags {f s} (hc : s.Canonical) : (raiseFlags f s).Canonical := hc.upd
theorem State.Canonical.updPath {f} {s : State} (hc : s.Canonical) : (s.updPath f).Canonical := hc.upd
theorem State.Canonical.finish {h same pc s} (hc : s.Canonical) : (finish h same pc s).Canonical := hc.updPath.upd
theorem State.Canonical.leaveRegion {s} (hc : s.Canonical) : (leaveRegion s).Canonical := hc.upd
theorem State.Canonical.retire {h s} (hc : s.Canonical) : (retire h s).Canonical := hc.finish.ite hc.finish.updPath.leaveRegion
theorem State.Canonical.stall {s} (hc : s.Canonical) : (stall s).Canonical := hc.updPath.upd
theorem State.Canonical.uniform {h f s} (hc : s.Canonical) (hf : ∀ {u}, u.Canonical → (f u).Canonical) : (uniform h f s).Canonical := hc.ite (hf hc)
theorem State.Canonical.traceStop {a pc mask parked saved s} (hc : s.Canonical) : (traceStop a pc mask parked saved s).Canonical := hc.traceAgent
theorem State.Canonical.logPark {nonstop a s} (hc : s.Canonical) : (logPark nonstop a s).Canonical := (hc.upd.ite hc.upd).interrupt
theorem State.Canonical.park {nonstop r a s} (hc : s.Canonical) : (park nonstop r a s).Canonical := hc.setAgent.logPark.traceStop
theorem State.Canonical.enterTrap {a t s} (hc : s.Canonical) : (enterTrap a t s).Canonical := by
  unfold Machine.enterTrap
  extract_lets s1 ps a1 s2 s3
  have hs3 : s3.Canonical := hc.upd.traceStop
  exact (hc.upd.setAgent.ite hc.upd.traceStop.setAgent).ite ((hc.upd.park.teamFatal.ite hc.upd.park).ite hs3.setAgent)
theorem State.Canonical.stop {t s} (hc : s.Canonical) : (stop t s).Canonical := hc.upd.enterTrap.ite hc.upd
theorem State.Canonical.raise {r s} (hc : s.Canonical) : (raise r s).Canonical := hc.upd.stop
theorem State.Canonical.raiseAfter {r es s} (hc : s.Canonical) : (raiseAfter r es s).Canonical := hc.stop
theorem State.Canonical.illegal {detail s} (hc : s.Canonical) : (illegal detail s).Canonical := hc.raise
theorem State.Canonical.whole {f s} (hc : s.Canonical) (hf : ∀ {u}, u.Canonical → (f u).Canonical) : (whole f s).Canonical := (hf hc).ite hc.raise
theorem State.Canonical.respill {s} (hc : s.Canonical) : (respill s).Canonical := hc.upd
theorem State.Canonical.spillRegs {base n off s} (hc : s.Canonical) : (spillRegs base n off s).Canonical :=
  hc.foldl fun hu => hu.foldl fun hu1 => hu1.writeMem
theorem State.Canonical.refillRegs {base n off s} (hc : s.Canonical) : (refillRegs base n off s).Canonical := hc.foldl fun hu => hu.touch.upd
theorem State.Canonical.spillEntry {off x lanes s} (hc : s.Canonical) : (spillEntry off x lanes s).Canonical := hc.foldl fun hu => hu.writeMem
theorem State.Canonical.spillLanes {off ts s} (hc : s.Canonical) : (spillLanes off ts s).Canonical :=
  hc.foldl fun hu => hu.foldl fun hu1 => hu1.writeMem.writeMem
theorem State.Canonical.openFrame {f s} (hc : s.Canonical) : (openFrame f s).Canonical :=
  hc.ite ((hc.upd.foldl fun hu => hu.spillRegs.upd.respill).upd.foldl fun hu => hu.touchV.upd)
theorem State.Canonical.closeFrame {f s} (hc : s.Canonical) : (closeFrame f s).Canonical := by
  unfold Machine.closeFrame
  refine .ite hc ?_
  split
  · exact hc
  · extract_lets _ s1
    split
    · exact hc.upd
    · refine State.Canonical.respill ?_
      extract_lets s1 _
      have hs1 : s1.Canonical := hc.upd.refillRegs
      exact hs1.upd
theorem State.Canonical.refillCalls {s} (hc : s.Canonical) : (refillCalls s).Canonical := by
  unfold Machine.refillCalls
  refine .ite hc ?_
  split
  · exact hc
  · exact hc.upd.respill
theorem State.Canonical.refillDivs {s} (hc : s.Canonical) : (refillDivs s).Canonical := by
  unfold Machine.refillDivs
  refine .ite hc ?_
  split
  · exact hc
  · exact hc.upd.respill
theorem State.Canonical.pushCall {ret f owner lanes group s} (hc : s.Canonical) : (pushCall ret f owner lanes group s).Canonical := by
  unfold Machine.pushCall
  extract_lets off s1 _
  have hs1 : s1.Canonical := by
    unfold s1
    refine .ite ?_ hc
    split
    · exact hc
    · extract_lets s1 _
      exact hc.spillEntry.upd.respill
  exact hs1.upd.openFrame
theorem State.Canonical.pushDiv {e s} (hc : s.Canonical) : (pushDiv e s).Canonical := by
  unfold Machine.pushDiv
  extract_lets s1 _
  have hs1 : s1.Canonical := by
    unfold s1
    refine .ite ?_ hc
    split
    · exact hc
    · extract_lets off s1 s2 _
      have hs2 : s2.Canonical := hc.spillEntry.ite hc.spillEntry.spillLanes
      exact hs2.upd.respill
  exact hs1.upd
theorem State.Canonical.arrive {fuel pid s} (hc : s.Canonical) : (arrive fuel pid s).Canonical := by
  induction fuel generalizing pid s with
  | zero => exact hc
  | succ n ih =>
    unfold Machine.arrive
    dsimp only
    split
    · exact hc.upd
    · refine .ite hc.upd ?_
      split
      · exact hc.upd.pushCall.ite hc.upd
      · exact (ih hc.upd.respill.refillDivs).ite hc.upd.respill.refillDivs.upd
theorem State.Canonical.dropCalls {fuel s} (hc : s.Canonical) : (dropCalls fuel s).Canonical := by
  induction fuel generalizing s with
  | zero => exact hc
  | succ n ih =>
    unfold Machine.dropCalls
    split
    · exact hc
    · extract_lets _ s1
      exact ih hc.upd.closeFrame.respill.refillCalls
theorem State.Canonical.settle {s} (hc : s.Canonical) : (settle s).Canonical := hc.dropCalls.upd.foldl fun hu => hu.arrive
theorem State.Canonical.stranded {s} (hc : s.Canonical) : (stranded s).Canonical := hc.raise
theorem State.Canonical.goTo {h o s} (hc : s.Canonical) : (goTo h o s).Canonical := hc.stranded.ite (hc.ite hc.traceAgent).finish.leaveRegion
theorem State.Canonical.goOn {h s} (hc : s.Canonical) : (goOn h s).Canonical := hc.goTo
theorem State.Canonical.split {h t f tpc fpc join s} (hc : s.Canonical) : (Machine.split h t f tpc fpc join s).Canonical :=
  hc.pushDiv.upd.leaveRegion
theorem State.Canonical.trapReturn {h c s} (hc : s.Canonical) : (trapReturn h c s).Canonical := by
  unfold Machine.trapReturn
  extract_lets now s1 ps _ s2
  have hs1 : s1.Canonical := by
    unfold s1
    refine State.Canonical.foldl hc fun hu => ?_
    split
    · exact hu.refillRegs
    · exact hu
  exact hs1.upd.respill.settle

-- Of Sys2Proof/Machine/Operands.lean.

theorem State.Canonical.scalarTo {h d v s} (hc : s.Canonical) : (scalarTo h d v s).Canonical := (hc.uniform fun hu => hu.setS).retire
theorem State.Canonical.vectorTo {h d f s} (hc : s.Canonical) : (vectorTo h d f s).Canonical := hc.setV.retire
theorem State.Canonical.maskTo {h d f s} (hc : s.Canonical) : (maskTo h d f s).Canonical := hc.setM.retire
theorem State.Canonical.reduceTo {h d v s} (hc : s.Canonical) : (reduceTo h d v s).Canonical := (hc.ite hc.setS).retire
theorem State.Canonical.unlessMarked {m words f s} (hc : s.Canonical) (hf : ∀ {u}, u.Canonical → (f u).Canonical) :
    (unlessMarked m words f s).Canonical := by
  unfold Machine.unlessMarked
  extract_lets hit
  refine .ite (hf hc) ?_
  split
  · exact hc.raise
  · exact hf hc

-- Of Sys2Proof/Machine/Flags.lean.

theorem State.Canonical.floatTo {h d f s} (hc : s.Canonical) : (floatTo h d f s).Canonical := hc.setV.raiseFlags.retire
theorem State.Canonical.floatMask {h d f s} (hc : s.Canonical) : (floatMask h d f s).Canonical := hc.setM.raiseFlags.retire

-- Of Sys2Proof/Machine/Translate.lean.

theorem State.Canonical.readEntry {d ctx va l table no s} (hc : s.Canonical) : (readEntry d ctx va l table no s).1.Canonical := by
  unfold Machine.readEntry
  extract_lets a
  split
  · exact hc
  · split
    · exact hc
    · split
      next heq => exact hc.readAtHome.of_fst heq
      next heq => exact hc.readAtHome.of_fst heq
theorem State.Canonical.walkFrom {d ctx va no l table seen s} (hc : s.Canonical) : (walkFrom d ctx va no l table seen s).1.Canonical := by
  induction l generalizing table seen s with
  | zero =>
    unfold Machine.walkFrom
    split
    next heq => exact hc.readEntry.of_fst heq
    next heq =>
      have ht := hc.readEntry.of_fst heq
      split
      · exact ht
      · split
        · exact ht
        · split <;> exact ht
  | succ n ih =>
    unfold Machine.walkFrom
    split
    next heq => exact hc.readEntry.of_fst heq
    next heq =>
      have ht := hc.readEntry.of_fst heq
      split
      · exact ht
      · split
        · exact ht
        · split
          · exact ht
          · exact ih ht
theorem State.Canonical.walk {d ctx va no s} (hc : s.Canonical) : (walk d ctx va no s).1.Canonical := by
  unfold Machine.walk
  extract_lets root
  split
  · exact hc
  · exact hc.walkFrom
theorem State.Canonical.install {core d e s} (hc : s.Canonical) : (install core d e s).Canonical := by
  unfold Machine.install
  extract_lets x s1
  have hs1 : s1.Canonical := hc.ite hc.setDie
  split
  · exact hs1
  · extract_lets y
    exact hs1.ite hs1.setCore
theorem State.Canonical.walkPage {d ctx va no s} (hc : s.Canonical) : (walkPage d ctx va no s).1.Canonical := by
  unfold Machine.walkPage
  split
  next heq =>
    extract_lets x1 new
    exact (hc.walk.of_fst heq).setDie
theorem State.Canonical.askFor {core who d ctx vpn s} (hc : s.Canonical) : (askFor core who d ctx vpn s).Canonical :=
  hc.setDie.ite (hc.setDie.ite hc.setDie)
theorem State.Canonical.xlate {core who d ctx va s} (hc : s.Canonical) : (xlate core who d ctx va s).1.Canonical := by
  unfold Machine.xlate
  split
  · exact hc.install
  · split
    · extract_lets x1
      exact hc.setDie
    · exact hc.askFor
theorem State.Canonical.xlateAll {core who d ctx acc ea s} (hc : s.Canonical) : (xlateAll core who d ctx acc ea s).1.Canonical := by
  unfold Machine.xlateAll
  split
  · exact hc
  · split
    next heq => exact hc.xlate.of_fst heq
    next heq => exact hc.xlate.of_fst heq
theorem State.Canonical.askWalk {a vpn s} (hc : s.Canonical) : (askWalk a vpn s).Canonical := hc.askFor
theorem State.Canonical.fillTlb {a va s} (hc : s.Canonical) : (fillTlb a va s).Canonical := by
  unfold Machine.fillTlb
  split
  · exact hc.install
  · exact hc

-- Of Sys2Proof/Machine/MemPath.lean.

theorem State.Canonical.l1Count {core line hit s} (hc : s.Canonical) : (l1Count core line hit s).Canonical := hc.count.ite hc.count.setCore
theorem State.Canonical.l1Clear {core s} (hc : s.Canonical) : (l1Clear core s).Canonical := hc.upd
theorem State.Canonical.l1Drop {core p s} (hc : s.Canonical) : (l1Drop core p s).Canonical := hc.upd
theorem State.Canonical.l1Forget {core line s} (hc : s.Canonical) : (l1Forget core line s).Canonical := by
  unfold Machine.l1Forget
  split
  · exact hc
  · extract_lets x1
    exact hc.setCore
theorem State.Canonical.l1Install {core line nt data s} (hc : s.Canonical) : (l1Install core line nt data s).Canonical := hc.setCore
theorem State.Canonical.deliver {id d sx n l v s} (hc : s.Canonical) : (deliver id d sx n l v s).Canonical := by
  unfold Machine.deliver
  split
  · exact hc.touch.setAgent
  · extract_lets s1 a1
    exact hc.touch.setAgent
  · exact hc
theorem State.Canonical.writeBytes {agentNo as v s} (hc : s.Canonical) : (writeBytes agentNo as v s).1.Canonical := by
  unfold Machine.writeBytes
  extract_lets n bs a
  split
  · exact hc.commit
  · split
    next heq =>
      split
      next heq2 => exact (hc.commit.of_fst heq).commit.of_fst heq2
theorem State.Canonical.noteDrop {id ea l s} (hc : s.Canonical) : (noteDrop id ea l s).Canonical := by
  unfold Machine.noteDrop
  split
  · exact hc.setAgent
  · exact hc
theorem State.Canonical.performOwn {a f r as s} (hc : s.Canonical) : (performOwn a f r as s).Canonical := by
  unfold Machine.performOwn
  extract_lets old
  split
  · exact hc.deliver
  · exact hc
  · extract_lets lost s1 new
    have hs1 : s1.Canonical := hc.correctRest.ite hc
    clear_value lost
    split
    · exact hc.logOwn.noteDrop
    · split
      next heq =>
        have ht := hs1.writeBytes.of_fst heq
        extract_lets s2
        have hs2 : s2.Canonical := ht.noteDrop.ite ht
        exact hs2.deliver.ite hs2
theorem State.Canonical.putOp {o s} (hc : s.Canonical) : (putOp o s).Canonical := hc.upd
theorem State.Canonical.updPart {o l f s} (hc : s.Canonical) : (updPart o l f s).Canonical := hc.putOp
theorem State.Canonical.sendParts {id s} (hc : s.Canonical) : (sendParts id s).Canonical := by
  unfold Machine.sendParts
  split
  · exact hc
  · refine State.Canonical.foldl hc fun hu => ?_
    refine .ite ?_ hu
    split
    · exact hu.sendTo.updPart
    · exact hu
theorem State.Canonical.serveLocal {core id l s} (hc : s.Canonical) : (serveLocal core id l s).Canonical := by
  unfold Machine.serveLocal
  split
  · exact hc
  · split
    · exact hc
    · extract_lets split blind s1 s2 c
      have hs1 : s1.Canonical := hc.useFree.ite hc
      split
      · exact hs1.l1Count
      · extract_lets s1 s2
        have hs1 : s1.Canonical := by
          unfold s1
          refine .ite ?_ hs1
          split
          · exact hs1.l1Count.setCore
          · exact hs1.l1Count
        exact hs1.updPart.upd
theorem State.Canonical.storeL1 {core o s} (hc : s.Canonical) : (storeL1 core o s).Canonical := by
  unfold Machine.storeL1
  extract_lets ps byteOf s1 lines
  have hs1 : s1.Canonical := hc.foldl fun hu => hu.l1Count
  refine State.Canonical.foldl hs1 fun hu => ?_
  extract_lets bs c
  split
  · extract_lets y
    exact hu.setCore
  · exact hu.setCore.ite hu
theorem State.Canonical.openOp {id s} (hc : s.Canonical) : (openOp id s).Canonical := by
  unfold Machine.openOp
  split
  · exact hc
  · extract_lets s1
    have hs1 : s1.Canonical := by
      unfold s1
      split
      · exact hc
      · split
        · exact hc.foldl fun hu => hu.serveLocal.ite hu
        · exact hc.storeL1
        · exact hc
        · exact hc.l1Drop
    exact hs1.sendParts
theorem State.Canonical.launchOp {f held ps s} (hc : s.Canonical) : (launchOp f held ps s).Canonical :=
  hc.ite (hc.updPath.upd.ite hc.updPath.upd.openOp)
theorem State.Canonical.whenDrained {f s} (hc : s.Canonical) (hf : ∀ {u}, u.Canonical → (f u).Canonical) : (whenDrained f s).Canonical := by
  unfold Machine.whenDrained
  refine .ite hc.stall ?_
  split
  · exact hc.upd.raise
  · exact hf hc
theorem State.Canonical.released {scope f s} (hc : s.Canonical) (hf : ∀ {u}, u.Canonical → (f u).Canonical) : (released scope f s).Canonical :=
  hc.stall.ite ((hf hc).ite (hc.stall.ite (hc.whenDrained hf)))
theorem State.Canonical.exitRelease {f s} (hc : s.Canonical) (hf : ∀ {u}, u.Canonical → (f u).Canonical) : (exitRelease f s).Canonical :=
  hc.stall.ite (hc.released hf)
theorem State.Canonical.acquired {a scope s} (hc : s.Canonical) : (acquired a scope s).Canonical := by
  unfold Machine.acquired
  refine .ite hc ?_
  split
  · exact hc.l1Clear
  · exact hc
theorem State.Canonical.bankAccess {o p s} (hc : s.Canonical) : (bankAccess o p s).Canonical := by
  unfold Machine.bankAccess
  extract_lets a n s1 old new
  have hs1 : s1.Canonical := hc.correctRest.ite hc.correct
  split
  · exact hs1.logOwn.updPart
  · refine .ite hs1.updPart ?_
    split
    next heq => exact (hs1.commit.of_fst heq).updPart
theorem State.Canonical.withPart {id l f s} (hc : s.Canonical) (hf : ∀ {a0 a1 u}, u.Canonical → (f a0 a1 u).Canonical) :
    (withPart id l f s).Canonical := by
  unfold Machine.withPart
  split
  · exact hc
  · split
    · exact hf hc
    · exact hc
theorem State.Canonical.performTogether {f o p s} (hc : s.Canonical) (hf : ∀ {a0 a1 u}, u.Canonical → (f a0 a1 u).Canonical) :
    (performTogether f o p s).Canonical :=
  (hc.foldl fun hu => hu.withPart hf).ite (hf hc)
theorem State.Canonical.countConflicts {core ws s} (hc : s.Canonical) : (countConflicts core ws s).Canonical := by
  unfold Machine.countConflicts
  extract_lets n
  exact hc.ite hc.count
theorem State.Canonical.performLanes {f good s} (hc : s.Canonical) : (performLanes f good s).Canonical := by
  unfold Machine.performLanes
  extract_lets order s1 free held s2 spot words cores s3 s4 far s5
  have hs1 : s1.Canonical := hc.ite hc.useFree
  have hs2 : s2.Canonical := hs1.useFree.ite hs1
  have hs3 : s3.Canonical := (hs2.foldl fun hu => hu.countConflicts).ite hs2
  have hs4 : s4.Canonical := by
    refine .ite hs3 (hs3.foldl fun hu => ?_)
    split
    · exact (hu.correct.ite hu).performOwn
    · exact hu
  have hs5 : s5.Canonical := hs4.launchOp
  exact hs5.acquired.ite hs5
theorem State.Canonical.logBad {f r s} (hc : s.Canonical) : (logBad f r s).Canonical := by
  unfold Machine.logBad
  split
  · split
    · exact hc.logOwn
    · exact hc
  · exact hc
theorem State.Canonical.accessLanes {f rs s} (hc : s.Canonical) : (accessLanes f rs s).2.Canonical := by
  unfold Machine.accessLanes
  extract_lets spots misses bad good s1 s2
  have hs1 : s1.Canonical := (hc.foldl fun hu => hu.fillTlb).ite hc
  have hs2 : s2.Canonical := hs1.foldl fun hu => hu.logBad.ite hu
  split
  · exact hc.foldl fun hu => hu.askWalk
  · split
    · exact hc
    · exact hs2.ite hs2.performLanes
theorem State.Canonical.releasedIf {c : Prop} [Decidable c] {n f s} (hc : s.Canonical) (hf : ∀ {u}, u.Canonical → (f u).Canonical) :
    ((if c then Machine.released n else id) f s).Canonical := by
  split
  · exact hc.released hf
  · exact hf hc
theorem State.Canonical.memory {h f rs s} (hc : s.Canonical) : (memory h f rs s).Canonical := by
  refine hc.retire.ite (hc.stall.ite (hc.stall.ite (hc.releasedIf fun hu => ?_)))
  split
  next heq => exact (hu.accessLanes.of_snd heq).stall
  next heq =>
    have ht := hu.accessLanes.of_snd heq
    exact ht.upd.retire.ite (ht.upd.raise.ite ht.upd.raiseAfter)

-- Of Sys2Proof/Machine/Memory.lean.

theorem State.Canonical.fenceThen {ord scope f s} (hc : s.Canonical) (hf : ∀ {u}, u.Canonical → (f u).Canonical) :
    (fenceThen ord scope f s).Canonical :=
  hc.stall.ite (hc.stall.ite (hc.whenDrained fun hu => hf (hu.acquired.ite hu)))
theorem execFence_keeps {h ord scope} : Keeps (execFence h ord scope) := .next fun hc => hc.retire.ite (hc.fenceThen fun hu => hu.retire)
theorem State.Canonical.cinvRange {a n f s} (hc : s.Canonical) (hf : ∀ {u}, u.Canonical → (f u).Canonical) : (cinvRange a n f s).Canonical := by
  unfold Machine.cinvRange
  refine .ite (hf hc.l1Clear) ?_
  extract_lets ps miss
  refine .ite (hc.foldl fun hu => hu.askWalk).stall (hf (hc.foldl fun hu => ?_))
  split
  · exact hu.l1Drop
  · exact hu
theorem execCinvRange_keeps {h a b} : Keeps (execCinvRange h a b) := .next fun hc => hc.retire.ite (hc.cinvRange fun hu => hu.retire)
theorem execCinvAll_keeps {h} : Keeps (execCinvAll h) := .next fun hc => (hc.uniform fun hu => hu.l1Clear).retire
theorem execPref_keeps {h size scale nt a b} : Keeps (execPref h size scale nt a b) :=
  .next fun hc => (hc.foldl fun hu => hu.askWalk).stall.ite hc.launchOp.retire

-- Of Sys2Proof/Machine/Lifecycle.lean.

theorem State.Canonical.barriers {t s} (hc : s.Canonical) : (barriers t s).Canonical := by
  unfold Machine.barriers
  extract_lets gs s1 us
  have hs1 : s1.Canonical := (hc.foldl fun hu => hu.setAgent).ite hc
  exact (hs1.foldl fun hu => hu.setAgent.acquired).ite hs1
theorem State.Canonical.captureRegs {a s} (hc : s.Canonical) : (captureRegs a s).Canonical := hc.ite (hc.ite (hc.foldl fun hu => hu.capture)).capture
theorem State.Canonical.removeAgent {id s} (hc : s.Canonical) : (removeAgent id s).Canonical := hc.upd.ite hc.upd
theorem State.Canonical.gridFault {g c s} (hc : s.Canonical) : (gridFault g c s).Canonical := hc.setGrid
theorem State.Canonical.tryAgain {s} (hc : s.Canonical) : (tryAgain s).Canonical := hc.upd
theorem State.Canonical.freeTeam {t s} (hc : s.Canonical) : (freeTeam t s).Canonical :=
  (hc.ite (((hc.foldl fun hu => hu.capture).foldl fun hu => hu.capture).foldl fun hu => hu.capture)).upd.tryAgain
theorem State.Canonical.reapTeams {s} (hc : s.Canonical) : (reapTeams s).Canonical := hc.foldl fun hu => hu.freeTeam
theorem execReapTeams_keeps : Keeps (execReapTeams) := .next fun hc => hc.reapTeams
theorem State.Canonical.teamExits {t s} (hc : s.Canonical) : (teamExits t s).Canonical := hc.setTeam.reapTeams.ite hc
theorem State.Canonical.dropInline {p s} (hc : s.Canonical) : (dropInline p s).Canonical := hc.upd
theorem State.Canonical.gangExits {a s} (hc : s.Canonical) : (gangExits a s).Canonical := by
  unfold Machine.gangExits
  extract_lets s1 s2 s3
  have hs2 : s2.Canonical := hc.captureRegs.foldl fun hu => hu.gridFault
  exact hs2.dropInline.removeAgent.barriers.teamExits

-- Of Sys2Proof/Machine/Control.lean.

theorem State.Canonical.ifActive {h f s} (hc : s.Canonical) (hf : ∀ {u}, u.Canonical → (f u).Canonical) : (ifActive h f s).Canonical :=
  hc.goOn.ite (hf hc)
theorem State.Canonical.branch {h x taken s} (hc : s.Canonical) : (branch h x taken s).Canonical := hc.goTo.ite hc.goOn
theorem State.Canonical.leaveHints {h s} (hc : s.Canonical) : (leaveHints h s).Canonical := hc.upd
theorem execLoop_keeps {h d x} : Keeps (execLoop h d x) := .next fun hc => hc.ifActive fun hu => hu.stranded.ite hu.setS.goTo
theorem State.Canonical.spillTrap {ea s} (hc : s.Canonical) : (spillTrap ea s).Canonical := hc.raise
theorem execBrDiv_keeps {h neg m join x} : Keeps (execBrDiv h neg m join x) := by
  refine .next fun hc => ?_
  refine State.Canonical.ifActive hc fun hu => ?_
  extract_lets all t f tpc fpc s'
  have hs' : s'.Canonical := hu.ite hu.traceAgent
  refine .ite hu.stranded ?_
  split
  · exact hu.spillTrap
  · exact hs'.split
theorem execJoin_keeps {h} : Keeps (execJoin h) := by
  refine .next fun hc => ?_
  split
  · exact hc.illegal
  · exact hc.illegal.ite (hc.stranded.ite hc.arrive.leaveHints.leaveRegion)
theorem State.Canonical.callTo {h f o group s} (hc : s.Canonical) : (callTo h f o group s).Canonical := by
  unfold Machine.callTo
  refine .ite hc.stranded ?_
  refine .ite hc.spillTrap ?_
  refine .ite hc.stall ?_
  split
  · exact hc.spillTrap
  · extract_lets ret
    exact hc.pushCall.goTo
theorem execCall_keeps {h f x} : Keeps (execCall h f x) := .next fun hc => hc.ifActive fun hu => hu.callTo
theorem State.Canonical.popCall {e s} (hc : s.Canonical) : (popCall e s).Canonical := hc.upd.closeFrame.respill.refillCalls
theorem execRet_keeps {h} : Keeps (execRet h) := by
  refine .next fun hc => ?_
  split
  · exact hc.illegal
  · extract_lets o1 s1 s2
    have hs1 : s1.Canonical := hc.ite hc.traceAgent
    exact hc.stranded.ite (hc.stall.ite (hs1.popCall.arrive.leaveHints.leaveRegion.ite hc.popCall.goTo))
theorem State.Canonical.inlineRead {space n eas s} (hc : s.Canonical) : (inlineRead space n eas s).2.Canonical := by
  unfold Machine.inlineRead
  dsimp only
  split
  · split
    · exact hc
    · split <;> exact hc.upd
  · split
    next heq => exact hc.accessLanes.of_snd heq
    next heq =>
      have ht := hc.accessLanes.of_snd heq
      split <;> exact ht
    next heq => exact hc.accessLanes.of_snd heq
theorem State.Canonical.tableGroups {h src a k s} (hc : s.Canonical) (hk : ∀ {a0 u}, u.Canonical → (k a0 u).Canonical) :
    (tableGroups h src a k s).Canonical := by
  unfold Machine.tableGroups
  extract_lets idx ls out
  clear_value out
  split
  · exact hc.raise
  · split
    next heq => exact (hc.inlineRead.of_snd heq).stall
    next heq => exact (hc.inlineRead.of_snd heq).raise
    next heq =>
      have ht := hc.inlineRead.of_snd heq
      exact ht.raise.ite (hk ht)
theorem State.Canonical.runGroups {h kind join f gs s} (hc : s.Canonical) : (runGroups h kind join f gs s).Canonical := by
  unfold Machine.runGroups
  split
  · exact hc.goOn
  · extract_lets id s1 ret s2 ps _ s3
    have hs1 : s1.Canonical := hc.ite hc.traceAgent
    have hs3 : s3.Canonical := hs1.pushDiv.upd
    exact (hs3.pushCall.ite hs3).leaveRegion
theorem execCallT_keeps {h src a f} : Keeps (execCallT h src a f) := by
  refine .next fun hc => ?_
  refine State.Canonical.ifActive hc fun hu => ?_
  refine State.Canonical.tableGroups hu fun hu => ?_
  split
  · exact hu.callTo
  · refine .ite hu.stranded ?_
    refine .ite hu.stall ?_
    split
    · exact hu.spillTrap
    · exact hu.runGroups
theorem execJmpT_keeps {h src a x} : Keeps (execJmpT h src a x) := by
  refine .next fun hc => ?_
  refine State.Canonical.ifActive hc fun hu => ?_
  refine State.Canonical.tableGroups hu fun hu => ?_
  refine .ite hu.stranded ?_
  split
  · exact hu.spillTrap
  · exact hu.runGroups
theorem execExit_keeps {h} : Keeps (execExit h) :=
  .next fun hc => hc.ifActive fun hu => hu.exitRelease fun hu1 => hu1.stranded.ite
    ((hu1.upd.leaveHints.ite hu1.upd.finish).settle.leaveRegion.gangExits.ite (hu1.upd.leaveHints.ite hu1.upd.finish).settle.leaveRegion)
theorem State.Canonical.plane {h pos p n1 l s} (hc : s.Canonical) : (plane h pos p n1 l s).Canonical :=
  hc.raise.ite (hc.raise.ite (hc.stranded.ite hc.upd.goOn))
theorem execAllBegin_keeps {h} : Keeps (execAllBegin h) := .next fun hc => hc.raise.ite (hc.illegal.ite hc.upd.goOn)
theorem execAllEnd_keeps {h} : Keeps (execAllEnd h) := by
  refine .next fun hc => ?_
  split
  · exact hc.illegal
  · extract_lets s1 _
    exact hc.setX.upd.goOn
theorem State.Canonical.arriveAt {h scope mark s} (hc : s.Canonical) : (arriveAt h scope mark s).Canonical :=
  hc.raise.ite (hc.ifActive fun hu => hu.released fun hu1 => hu1.updPath.upd.stall.barriers)
theorem execWaitcnt_keeps {h ld bound} : Keeps (execWaitcnt h ld bound) :=
  .next fun hc => hc.retire.ite (hc.stall.ite ((hc.whenDrained fun hu => hu.retire).ite hc.retire))
theorem execYield_keeps {h} : Keeps (execYield h) :=
  .next fun hc => hc.ifActive fun hu => hu.goOn.ite (hu.fenceThen fun hu1 => hu1.traceAgent.goOn.upd)
theorem State.Canonical.enqueue {q x s} (hc : s.Canonical) : (enqueue q x s).Canonical := hc.upd
theorem execLaunch_keeps {h a} : Keeps (execLaunch h a) := by
  refine .next fun hc => ?_
  refine .ite hc.illegal ?_
  refine .ite hc.raise ?_
  refine State.Canonical.ifActive hc fun hu => ?_
  refine State.Canonical.released hu fun hu => ?_
  extract_lets r
  split
  next heq => exact (hu.inlineRead.of_snd heq).stall
  next heq => exact (hu.inlineRead.of_snd heq).raise
  next heq =>
    extract_lets q t n s1
    have hs1 : s1.Canonical := (hu.inlineRead.of_snd heq).setTeam
    exact (hu.inlineRead.of_snd heq).stall.ite hs1.enqueue.goOn
theorem execChwait_keeps {h a} : Keeps (execChwait h a) := .next fun hc => hc.retire.ite (hc.acquired.retire.ite hc.stall)
end Sys2Proof.Machine
end

section
/-!
PROOFS. Memory stays canonical: the walkers, the box, collectives, and the events of memory.
-/
namespace Sys2Proof.Machine

-- Of Sys2Proof/Machine/System.lean.

theorem State.Canonical.writeSpecial {i v s} (hc : s.Canonical) : (writeSpecial i v s).Canonical := hc.upd.ite (hc.upd.ite (hc.upd.ite hc))
theorem execSWrsr_keeps {h idx a} : Keeps (execSWrsr h idx a) := .next fun hc => (hc.setX.ite (hc.uniform fun hu => hu.writeSpecial)).retire
theorem State.Canonical.selfTrap {h cause detail s} (hc : s.Canonical) : (selfTrap h cause detail s).Canonical := hc.retire.ite hc.raiseAfter
theorem State.Canonical.pause {a x s} (hc : s.Canonical) : (pause a x s).Canonical := hc.park
theorem State.Canonical.takeHit {s} (hc : s.Canonical) : (takeHit s).Canonical := by
  unfold Machine.takeHit
  split
  · exact hc
  · extract_lets p _ s1 _
    exact hc.upd.stop.ite (hc.upd.pause.ite hc.upd)
theorem State.Canonical.finishStop {drover id s} (hc : s.Canonical) : (finishStop drover id s).Canonical := by
  unfold Machine.finishStop
  split
  · exact hc
  · refine .ite hc ?_
    split
    · exact hc.enterTrap
    · exact hc.ite (hc.setAgent.ite hc.pause)
    · exact hc
theorem State.Canonical.hitsOut {s} (hc : s.Canonical) : (hitsOut s).Canonical := hc.upd
theorem execTret_keeps {h} : Keeps (execTret h) := by
  refine .next fun hc => ?_
  split
  · exact hc.illegal
  · exact hc.stall.ite (hc.upd.ite hc.trapReturn.hitsOut.takeHit)
theorem State.Canonical.stampOps {n e s} (hc : s.Canonical) : (stampOps n e s).Canonical := hc.upd
theorem State.Canonical.dropEntry {x s} (hc : s.Canonical) : (dropEntry x s).Canonical := hc.upd
theorem State.Canonical.settleEntries {fuel act s} (hc : s.Canonical) : (settleEntries fuel act s).1.Canonical := by
  induction fuel generalizing s with
  | zero => exact hc
  | succ n ih =>
    unfold Machine.settleEntries
    extract_lets _ done n1
    split
    · exact hc
    · split
      · exact hc.upd
      · split
        · split
          · exact hc
          · split
            · exact ih hc.dropEntry
            · exact hc.upd
        · split
          · exact ih hc.dropEntry
          · split
            · split
              · exact hc
              · split
                next heq => exact hc.accessLanes.of_snd heq
                next heq =>
                  extract_lets s1 left _ _
                  have hs1 : s1.Canonical := (hc.accessLanes.of_snd heq).stampOps
                  exact ih hs1.upd
theorem State.Canonical.settleOn {act s} (hc : s.Canonical) : (settleOn act s).1.Canonical := hc.settleEntries
theorem State.Canonical.resume {h act d s} (hc : s.Canonical) : (resume h act d s).Canonical := by
  unfold Machine.resume
  refine .ite hc.illegal ?_
  extract_lets _ s1
  have hs1 : s1.Canonical := hc.ite hc.upd
  split
  next heq => exact (hs1.settleOn.of_fst heq).stall
  next heq => exact (hs1.settleOn.of_fst heq).setS.retire
theorem execSnap_keeps {h col d} : Keeps (execSnap h col d) := by
  refine .next fun hc => ?_
  refine .ite hc.retire ?_
  split
  next heq => exact hc.stall.ite (hc.snapRequest.of_snd heq).setS.retire
theorem execSnapTry_keeps {h col d} : Keeps (execSnapTry h col d) := by
  refine .next fun hc => ?_
  refine .ite hc.retire ?_
  split
  next heq => exact (hc.snapRequest.of_snd heq).setS.retire
theorem execSnapw_keeps {h col d} : Keeps (execSnapw h col d) := by
  refine .next fun hc => ?_
  refine .ite hc.retire ?_
  split
  · exact hc.stall
  · exact hc.stall
  · exact hc.setS.retire
theorem execTrace_keeps {h tag a} : Keeps (execTrace h tag a) := by
  refine .next fun hc => (hc.uniform fun {u} hu => ?_).retire
  exact hu.traceAgent.traceAgent.ite (State.Canonical.upd (s := u.count _ _) hu.count)
theorem execRand_keeps {h nw d a b} : Keeps (execRand h nw d a b) := by
  refine .next fun hc => ?_
  generalize List.range (2 ^ nw.toNat) = l
  exact (hc.foldl fun hu => hu.setV).retire
theorem execKnell_keeps {h a} : Keeps (execKnell h a) :=
  .next fun hc => hc.retire.ite (hc.illegal.ite ((hc.foldl fun hu => hu.sendKnell).retire.ite (hc.raise.ite hc.fatalFault.retire)))

-- Of Sys2Proof/Machine/Walker.lean.

theorem State.Canonical.engPlace {e tsp write ea n s} (hc : s.Canonical) : (engPlace e tsp write ea n s).1.Canonical := by
  unfold Machine.engPlace
  split
  · extract_lets g
    split
    · split
      · exact hc
      · exact hc
    · exact hc
  · split
    next heq => exact hc.xlateAll.of_fst heq
    next heq =>
      split
      · exact hc.xlateAll.of_fst heq
      · exact hc.xlateAll.of_fst heq
theorem State.Canonical.launchEng {e k aop bf pa phys ea bs s} (hc : s.Canonical) : (launchEng e k aop bf pa phys ea bs s).Canonical :=
  hc.upd.sendParts
theorem State.Canonical.dropReads {op s} (hc : s.Canonical) : (dropReads op s).Canonical := hc.upd
theorem State.Canonical.engRead {e tsp ea n s} (hc : s.Canonical) : (engRead e tsp ea n s).1.Canonical := by
  unfold Machine.engRead
  split
  · split
    · exact hc
    · split
      · exact hc
      · exact hc
  · split
    next heq => exact hc.engPlace.of_fst heq
    next heq =>
      split
      · exact (hc.engPlace.of_fst heq).launchEng
      · split
        next heq2 => exact (hc.engPlace.of_fst heq).readHome.of_fst heq2
        next heq2 => exact (hc.engPlace.of_fst heq).readHome.of_fst heq2
    next heq => exact (hc.engPlace.of_fst heq).launchEng
theorem State.Canonical.engWrite {e tsp ea bs s} (hc : s.Canonical) : (engWrite e tsp ea bs s).1.Canonical := by
  unfold Machine.engWrite
  split
  next heq => exact hc.engPlace.of_fst heq
  next heq =>
    split
    · exact (hc.engPlace.of_fst heq).launchEng
    · split
      next heq2 => exact (hc.engPlace.of_fst heq).writeHome.of_fst heq2
  next heq => exact (hc.engPlace.of_fst heq).launchEng
theorem State.Canonical.engReduceAt {e spot ea aop size bf x s} (hc : s.Canonical) : (engReduceAt e spot ea aop size bf x s).1.Canonical := by
  unfold Machine.engReduceAt
  split
  · extract_lets scratch
    split
    · exact hc.launchEng
    · split
      next heq =>
        refine State.Canonical.of_fst ?_ heq
        split
        · exact hc.reduceHome
        · exact hc.reduceStore
  · split
    · exact hc
    · exact hc.launchEng
theorem State.Canonical.engReduce {e tsp ea aop size bf x s} (hc : s.Canonical) : (engReduce e tsp ea aop size bf x s).1.Canonical := by
  unfold Machine.engReduce
  split
  next heq => exact hc.engPlace.of_fst heq
  next heq => exact (hc.engPlace.of_fst heq).engReduceAt
theorem State.Canonical.meetBad {die no s} (hc : s.Canonical) : (meetBad die no s).Canonical := hc.logOwn
theorem State.Canonical.sideWrite {t span off bs no s} (hc : s.Canonical) : (sideWrite t span off bs no s).1.Canonical := by
  unfold Machine.sideWrite
  split
  next heq => exact hc.commit.of_fst heq
theorem State.Canonical.cover {m a bs} (hc : m.s.Canonical) : (Moving.cover m a bs).s.Canonical := hc
theorem State.Canonical.endRow {m} (hc : m.s.Canonical) : (Moving.endRow m).s.Canonical := State.Canonical.foldl_by (r := Moving.s) hc fun hu => hu
theorem State.Canonical.put {m a bs s} (hc : s.Canonical) : (Moving.put m a bs s).s.Canonical := hc
theorem State.Canonical.fail {m n b a s} (hc : s.Canonical) : (Moving.fail m n b a s).s.Canonical := hc
theorem State.Canonical.readCell {e tsp row w x s} (hc : s.Canonical) : (readCell e tsp row w x s).1.Canonical := by
  unfold Machine.readCell
  split
  · extract_lets n
    split
    · split
      next heq => exact hc.engRead.of_fst heq
      next heq =>
        split
        next heq2 => exact (hc.engRead.of_fst heq).engRead.of_fst heq2
        next heq2 => exact (hc.engRead.of_fst heq).engRead.of_fst heq2
    · split
      next heq => exact hc.engRead.of_fst heq
      next heq => exact hc.engRead.of_fst heq
theorem State.Canonical.readElem {e k c core n m} (hc : m.s.Canonical) : (readElem e k c core n m).1.s.Canonical := by
  unfold Machine.readElem
  extract_lets e1 ix row w x g
  split
  · split
    · extract_lets ma
      split
      next heq => exact (hc.engRead.of_fst heq).fail
      next heq =>
        extract_lets nib p q
        split
        · exact (hc.engRead.of_fst heq).fail
        · split
          next heq2 => exact ((hc.engRead.of_fst heq).readCell.of_fst heq2).fail
          next heq2 =>
            split
            next heq3 => exact (((hc.engRead.of_fst heq).readCell.of_fst heq2).readCell.of_fst heq3).fail
            next heq3 =>
              extract_lets m1 _ m2
              have hm2 : m2.s.Canonical := by
                unfold m2
                split
                · exact ((hc.engRead.of_fst heq).readCell.of_fst heq2).readCell.of_fst heq3
                · exact ((hc.engRead.of_fst heq).readCell.of_fst heq2).readCell.of_fst heq3
              exact hm2
  · split
    next heq => exact (hc.readCell.of_fst heq).fail
    next heq =>
      extract_lets m1
      split
      · exact hc.readCell.of_fst heq
      · split
        · exact (hc.readCell.of_fst heq).useFree
        · exact hc.readCell.of_fst heq
theorem State.Canonical.writeElem {e k c ix rop n v m} (hc : m.s.Canonical) : (writeElem e k c ix rop n v m).s.Canonical := by
  unfold Machine.writeElem
  extract_lets e1 w bs
  split
  · split
    · split
      next heq => exact (hc.engReduce.of_fst heq).fail
      next heq => exact (hc.engReduce.of_fst heq).put
    · split
      · split
        next heq => exact (hc.engRead.of_fst heq).fail
        next heq =>
          extract_lets bs1
          split
          next heq2 => exact ((hc.engRead.of_fst heq).engWrite.of_fst heq2).fail
          next heq2 => exact ((hc.engRead.of_fst heq).engWrite.of_fst heq2).put
      · split
        next heq => exact (hc.engWrite.of_fst heq).fail
        next heq => exact (hc.engWrite.of_fst heq).put
theorem State.Canonical.sidePut {e k ts off ix n v m} (hc : m.s.Canonical) : (sidePut e k ts off ix n v m).s.Canonical := by
  unfold Machine.sidePut
  extract_lets w b o span one w0 m1
  have hone : ∀ {u a0}, u.s.Canonical → (one u a0).s.Canonical := by
    intro _ _ hu
    unfold one
    split
    · exact hu
    · extract_lets old bs
      split
      next heq => exact (hu.sideWrite.of_fst heq).fail
      next heq =>
        split
        · exact (hu.sideWrite.of_fst heq).put
        · exact hu.sideWrite.of_fst heq
  exact State.Canonical.foldl_by (r := Moving.s) hc hone
theorem State.Canonical.moveElem {e x ts m} (hc : m.s.Canonical) : (moveElem e x ts m).s.Canonical := by
  unfold Machine.moveElem
  extract_lets k n ix src ea dst ix2 out
  have hout : ∀ {a0 u}, u.s.Canonical → (out a0 u).s.Canonical := by
    intro _ _ hu
    unfold out
    split
    · exact hu.writeElem
    · split
      · exact hu.fail
      · exact hu
  split
  · split
    · split
      · exact hc.fail
      · exact hc
    · split
      · exact hc.meetBad.fail
      · exact hc.writeElem
  · split
    · split
      · exact hc.fail
      · exact hout hc
    · split
      next heq =>
        split
        · exact hc.readElem.of_fst_by heq
        · exact hout (hc.readElem.of_fst_by heq)
  · split
    · split
      · exact hc.fail
      · exact hc.sidePut
    · split
      next heq =>
        split
        · exact hc.readElem.of_fst_by heq
        · exact (hc.readElem.of_fst_by heq).sidePut
theorem State.Canonical.emptySlot {x n s} (hc : s.Canonical) : (emptySlot x n s).Canonical := hc.ite hc.setCore
theorem State.Canonical.moveSome {fuel e x ts m} (hc : m.s.Canonical) : (moveSome fuel e x ts m).s.Canonical := by
  have h : ∀ n m, m.s.Canonical → (Machine.moveSome n e x ts m).s.Canonical := by
    delta Machine.moveSome
    refine brecOn_by (α := fun _ => Moving → Moving) (F := moveSome._f e x ts) (P := fun _ f => ∀ m, m.s.Canonical → (f m).s.Canonical)
      (fun _ hc => hc) fun n b ih m hc => ?_
    delta moveSome._f
    dsimp -zeta only
    extract_lets k m1 _ m2 m3 m4
    have hm1 : m1.s.Canonical := hc.moveElem
    have hm3 : m3.s.Canonical := by
      unfold m3
      split
      · exact State.Canonical.endRow (m := m2) hm1
      · exact hm1
    have hm4 : m4.s.Canonical := hm3.dropReads.emptySlot
    split
    · exact hc
    · split
      · exact hc
      · split
        · split <;> exact hm1
        · split
          · exact ih _ hm4
          · exact hm4
  exact h _ _ hc
theorem State.Canonical.moveOn {fuel x s} (hc : s.Canonical) : (moveOn fuel x s).s.Canonical := by
  unfold Machine.moveOn
  extract_lets due m clean
  split
  · exact hc
  · split
    · extract_lets p
      exact hc.upd
    · split
      · exact hc.upd.fail
      · exact hc.upd.moveSome
theorem State.Canonical.keepMoving {x m} (hc : m.s.Canonical) : (keepMoving x m).Canonical := (hc.ite hc.count).upd
theorem State.Canonical.deadlineMiss {die deadline issuer s} (hc : s.Canonical) : (deadlineMiss die deadline issuer s).Canonical :=
  hc.ite hc.count.trace
theorem State.Canonical.reportTo {id grid f s} (hc : s.Canonical) : (reportTo id grid f s).Canonical := by
  unfold Machine.reportTo
  split
  · exact hc.setAgent
  · exact hc.upd.ite hc.gridFault
theorem State.Canonical.endXfer {x m s} (hc : s.Canonical) : (endXfer x m s).Canonical := by
  unfold Machine.endXfer
  extract_lets _ s1 c s2 s3 s4 s5 s6 s7
  have hs2 : s2.Canonical := hc.upd.unlock.setCore
  have hs3 : s3.Canonical := (hs2.useFree.ite hs2).dropReads
  have hs4 : s4.Canonical := hs3.ite hs3.count
  have hs5 : s5.Canonical := hs4.count.owe.ite hs4
  have hs6 : s6.Canonical := by
    unfold s6
    split
    · exact hs5.foldl fun hu => hu.owe
    · exact hs5
  have hs7 : s7.Canonical := by
    unfold s7
    split
    · exact hs6.reportTo
    · exact hs6
  exact hs7.deadlineMiss.reapTeams

-- Of Sys2Proof/Machine/Box.lean.

theorem State.Canonical.setK {d v s} (hc : s.Canonical) : (setK d v s).Canonical := hc.upd
theorem State.Canonical.validK {h d v s} (hc : s.Canonical) : (validK h d v s).Canonical := by
  unfold Machine.validK
  split
  · exact hc.raise
  · exact hc.setK.retire
theorem execKset_keeps {h space d a} : Keeps (execKset h space d a) := by
  refine .next fun hc => ?_
  refine .ite hc.retire ?_
  refine .ite hc.raise ?_
  refine .ite hc.stall ?_
  split
  next heq => exact (hc.inlineRead.of_snd heq).stall
  next heq => exact (hc.inlineRead.of_snd heq).raise
  next heq => exact (hc.inlineRead.of_snd heq).validK
theorem execKmod_keeps {h j d a} : Keeps (execKmod h j d a) := .next fun hc => hc.retire.ite hc.validK
theorem State.Canonical.register {ls s} (hc : s.Canonical) : (register ls s).Canonical := hc.foldl fun hu => hu.setCore
theorem State.Canonical.locksFull {core s} (hc : s.Canonical) : (locksFull core s).Canonical := hc.ite hc.once.count
theorem State.Canonical.boxIssue {h scope x s} (hc : s.Canonical) : (boxIssue h scope x s).Canonical := by
  unfold Machine.boxIssue
  refine State.Canonical.whole hc fun hu => ?_
  refine .ite hu.retire ?_
  extract_lets x1 bad
  have hbad : ∀ {a0 a1 a2}, (bad a0 a1 a2).Canonical := hu.raise
  split
  · exact hu.illegal
  · split
    · exact hbad
    · refine .ite hbad ?_
      split
      · exact hbad
      · refine State.Canonical.released hu fun hu => ?_
        extract_lets ls c s1 _
        have hs1 : s1.Canonical := hu.setCore.register
        exact hu.stall.ite (hu.locksFull.stall.ite hs1.upd.retire)
theorem State.Canonical.waitDone {h scope cause p s} (hc : s.Canonical) : (waitDone h scope cause p s).Canonical :=
  hc.acquired.upd.retire.ite hc.acquired.upd.raiseAfter
theorem State.Canonical.atBarrier {space write fresh ea f s} (hc : s.Canonical) (hf : ∀ {a0 u}, u.Canonical → (f a0 u).Canonical) :
    (atBarrier space write fresh ea f s).Canonical := by
  unfold Machine.atBarrier
  extract_lets bad
  have hbad : ∀ {a0 a1}, (bad a0 a1).Canonical := hc.raise
  split
  · exact hbad
  · exact hc.stall
  · split
    · exact hbad
    · refine .ite hc.stall ?_
      split
      · exact hbad
      · exact hf hc
theorem State.Canonical.barrierWait {h acq scope ea token k s} (hc : s.Canonical) : (barrierWait h acq scope ea token k s).Canonical := by
  unfold Machine.barrierWait
  extract_lets b acquire s1 t
  have hacquire : ∀ {u}, u.Canonical → (acquire u).Canonical := fun hu => hu.acquired.ite hu
  refine .ite ?_ ((hacquire hc).retire.ite hc.stall)
  split
  · exact (hacquire hc).setTeam.raiseAfter
  · exact (hacquire hc).raiseAfter
theorem execCbarInit_keeps {h space a b} (scope : BitVec 3) : Keeps (execCbarInit h space scope a b) :=
  .next fun hc => hc.retire.ite (hc.atBarrier fun hu => hu.illegal.ite (hu.stall.ite hu.commit.retire))
theorem execCbarArr_keeps {h space rel scope d a b} : Keeps (execCbarArr h space rel scope d a b) :=
  .next fun hc => hc.retire.ite (hc.releasedIf fun hu => hu.atBarrier fun hu1 => hu1.barArrive.setS.retire)
theorem execCbarWait_keeps {h space acq scope a b} : Keeps (execCbarWait h space acq scope a b) :=
  .next fun hc => hc.retire.ite (hc.atBarrier fun hu => hu.barrierWait)
theorem execCbarTest_keeps {h space acq scope d a b} : Keeps (execCbarTest h space acq scope d a b) :=
  .next fun hc => hc.retire.ite (hc.atBarrier fun hu => (hu.acquired.ite hu).setS.retire)

-- Of Sys2Proof/Machine/Collective.lean.

theorem State.Canonical.namesHere {k s} (hc : s.Canonical) : (namesHere k s).1.Canonical := by
  unfold Machine.namesHere
  split
  next heq => exact hc.engPlace.of_fst heq
  next heq => exact hc.engPlace.of_fst heq
  next heq => exact hc.engPlace.of_fst heq
theorem State.Canonical.putColl {c s} (hc : s.Canonical) : (putColl c s).Canonical := hc.upd
theorem State.Canonical.collRead {e k off n s} (hc : s.Canonical) : (collRead e k off n s).1.Canonical := by
  refine State.Canonical.foldl_by (r := Prod.fst) hc fun hu => ?_
  split
  · exact hu
  · split
    next heq => exact hu.engRead.of_fst heq
    next heq => exact hu.engRead.of_fst heq
theorem State.Canonical.collWrite {e k w s} (hc : s.Canonical) : (collWrite e k w s).1.Canonical := by
  unfold Machine.collWrite
  extract_lets at1 n
  split
  next heq => exact hc.engPlace.of_fst heq
  next heq =>
    have ht := hc.engPlace.of_fst heq
    split
    next heq2 => exact ht.engPlace.of_fst heq2
    next heq2 =>
      refine State.Canonical.foldl_by (r := Prod.fst) (ht.engPlace.of_fst heq2) fun hu => ?_
      split
      · exact hu
      · exact hu.engWrite
theorem State.Canonical.collFlush {id s} (hc : s.Canonical) : (collFlush id s).Canonical := by
  unfold Machine.collFlush
  split
  · exact hc
  · extract_lets due s1
    have hs1 : s1.Canonical := hc.ite hc.upd
    refine .ite hc ?_
    refine .ite hs1.fatalFault ?_
    split
    · exact hs1
    · extract_lets k
      split
      next heq => exact (hs1.collWrite.of_fst heq).ite (hs1.collWrite.of_fst heq).fatalFault
      next heq => exact (hs1.collWrite.of_fst heq).putColl
theorem State.Canonical.flushColl {fuel id s} (hc : s.Canonical) : (flushColl fuel id s).Canonical := by
  induction fuel generalizing s with
  | zero => exact hc
  | succ n ih =>
    unfold Machine.flushColl
    extract_lets s' left
    exact (ih hc.collFlush).ite hc.collFlush
theorem State.Canonical.writeChunk {c i bs mark s} (hc : s.Canonical) : (writeChunk c i bs mark s).Canonical := hc.putColl
theorem State.Canonical.writeFinal {c i v s} (hc : s.Canonical) : (writeFinal c i v s).Canonical := hc.ite hc.writeChunk
theorem State.Canonical.offerChunk {deadline gt0 die p s} (hc : s.Canonical) : (offerChunk deadline gt0 die p s).Canonical := hc.useFree.notePort.upd
theorem State.Canonical.injectChunk {port s} (hc : s.Canonical) : (injectChunk port s).Canonical := by
  unfold Machine.injectChunk
  extract_lets earlier first
  clear_value first
  split
  · exact hc
  · exact hc.upd.sendOn
theorem State.Canonical.sendValue {c p i m bs s} (hc : s.Canonical) : (sendValue c p i m bs s).Canonical :=
  hc.foldl fun hu => hu.sendPacket.ite hu.offerChunk
theorem State.Canonical.finishValue {c i v s} (hc : s.Canonical) : (finishValue c i v s).Canonical := hc.putColl.setReg.ite hc.putColl
theorem State.Canonical.enterPhase {fuel id p i s} (hc : s.Canonical) : (enterPhase fuel id p i s).Canonical := by
  induction fuel generalizing p s with
  | zero => exact hc
  | succ n ih =>
    cases e : s.coll? id with
    | none =>
      unfold Machine.enterPhase
      rw [e]
      exact hc
    | some c =>
      unfold Machine.enterPhase
      rw [e]
      dsimp only
      have hw : ∀ {b : Prop} [Decidable b] {x v}, (if b then Machine.writeFinal c x v s else s).Canonical := hc.writeFinal.ite hc
      refine .ite ?_ ((ih hc.putColl).ite (hc.sendValue.ite hc))
      split
      · exact hw.finishValue
      · exact hw
theorem State.Canonical.leavePhase {id p i s} (hc : s.Canonical) : (leavePhase id p i s).Canonical := by
  unfold Machine.leavePhase
  split
  · exact hc
  · extract_lets v s1
    have hs1 : s1.Canonical := hc.ite (hc.writeFinal.ite (hc.writeChunk.ite hc))
    exact hs1.enterPhase
theorem State.Canonical.receiveSum {c p i b s} (hc : s.Canonical) : (receiveSum c p i b s).Canonical :=
  hc.putColl.sendValue.ite ((hc.putColl.sendValue.ite hc.putColl).leavePhase.ite (hc.putColl.sendValue.ite hc.putColl))
theorem State.Canonical.holdCopy {id i came b s} (hc : s.Canonical) : (holdCopy id i came b s).Canonical := by
  unfold Machine.holdCopy
  split
  · exact hc
  · extract_lets x1 me s1 s2
    have hs1 : s1.Canonical := by
      unfold s1
      refine State.Canonical.foldl hc fun hu => ?_
      refine .ite hu ?_
      extract_lets next
      exact hu.ite hu.sendValue
    have hs2 : s2.Canonical := hs1.ite hs1.writeChunk
    split
    · exact hs2.finishValue
    · exact hs2
theorem State.Canonical.startColl {id s} (hc : s.Canonical) : (startColl id s).Canonical := by
  unfold Machine.startColl
  split
  · exact hc
  · extract_lets go me
    refine .ite hc.putColl.enterPhase ?_
    refine .ite hc.putColl ?_
    split
    next heq => exact (hc.collRead.of_fst heq).ite (hc.collRead.of_fst heq).fatalFault
    next heq =>
      extract_lets s1
      have hs1 : s1.Canonical := (hc.collRead.of_fst heq).putColl
      refine State.Canonical.foldl hs1 fun hu => ?_
      extract_lets b
      refine .ite hu.holdCopy ?_
      split
      · exact hu.putColl.enterPhase
      · exact hu
theorem State.Canonical.lateVote {tag addr s} (hc : s.Canonical) : (lateVote tag addr s).Canonical :=
  (hc.setReg.ite hc).ite (hc.setReg.ite hc).sendPacket
theorem State.Canonical.takeMessage {vote tag addr b s} (hc : s.Canonical) : (takeMessage vote tag addr b s).Canonical := by
  unfold Machine.takeMessage
  extract_lets p
  split
  · split
    · exact hc
    · exact hc.receiveSum.ite (hc.receiveSum.ite hc.holdCopy)
  · exact hc.lateVote
  · exact hc.fatalFault
  · exact hc
theorem State.Canonical.drainRouters {fuel s} (hc : s.Canonical) : (drainRouters fuel s).Canonical := by
  induction fuel generalizing s with
  | zero => exact hc
  | succ n ih =>
    unfold Machine.drainRouters
    split
    · exact hc
    · extract_lets _ s1
      exact ih hc.upd.takeMessage
theorem State.Canonical.settleRouters {s} (hc : s.Canonical) : (settleRouters s).Canonical := hc.drainRouters
theorem State.Canonical.joinColl {h c s} (hc : s.Canonical) : (joinColl h c s).Canonical := by
  unfold Machine.joinColl
  extract_lets t go k s1 c1 _
  have hgo : ∀ {a0 u}, u.Canonical → (go a0 u).Canonical := by
    intro _ _ hu
    unfold go
    refine State.Canonical.retire ?_
    refine .ite ?_ hu
    extract_lets s1
    have hs1 : s1.Canonical := hu.startColl.settleRouters
    exact hs1.flushColl
  split
  · refine .ite ?_ hc.fatalFault.raise
    extract_lets x1
    exact hgo hc.setTeam.putColl
  · exact hgo hc.upd
theorem State.Canonical.collIssue {h scope op inpl src dst b vote s} (hc : s.Canonical) : (collIssue h scope op inpl src dst b vote s).Canonical := by
  refine hc.whole fun hu => ?_
  extract_lets ctl0 ctl1 g off bad c
  refine hu.retire.ite (hu.illegal.ite (hu.illegal.ite (hu.illegal.ite ?_)))
  split
  next heq =>
    have ht := State.Canonical.of_ite heq hu.namesHere hu
    split
    next heq2 =>
      have hv := State.Canonical.of_ite heq2 ht.namesHere ht
      exact hv.stall.ite (hv.illegal.ite (hv.raise.ite (hv.raise.ite (hv.raise.ite (hv.raise.ite (hv.released fun hu => hu.joinColl))))))
theorem execCollStep_keeps {h scope a b} : Keeps (execCollStep h scope a b) := .next fun hc => hc.whole fun hu => hu.illegal.ite hu.collIssue
theorem execCollectiveWork_keeps {id} : Keeps (execCollectiveWork id) := by
  refine .next fun hc => ?_
  split
  · exact hc
  · refine .ite ?_ ?_
    · extract_lets s1 _
      exact hc.flushColl.upd
    · refine .ite hc.flushColl ?_
      refine .ite ?_ hc
      extract_lets s1
      have hs1 : s1.Canonical := hc.startColl.settleRouters
      exact hs1.flushColl
theorem execCollectiveComplete_keeps {grp} : Keeps (execCollectiveComplete grp) := by
  refine .next fun hc => ?_
  split
  · exact hc
  · extract_lets _ s1 s2
    have hs1 : s1.Canonical := hc.upd.dropReads
    exact hs1.owe.deadlineMiss.reapTeams

-- Of Sys2Proof/Machine/CrossLane.lean.

theorem State.Canonical.rdx {op h ty d a s} (hc : s.Canonical) : (rdx op h ty d a s).Canonical := by
  unfold Machine.rdx
  refine State.Canonical.unlessMarked hc fun hu => ?_
  split
  · exact hu.retire
  · exact hu.setS.raiseFlags.retire
theorem execScanAdd_keeps {h excl f32 d a} : Keeps (execScanAdd h excl f32 d a) := by
  refine .next fun hc => ?_
  exact hc.unlessMarked fun hu => hu.setV.raiseFlags.retire
theorem execS2l_keeps {h ln d a} : Keeps (execS2l h ln d a) := .next fun hc => hc.setV.retire
theorem State.Canonical.maskOp {h d v s} (hc : s.Canonical) : (maskOp h d v s).Canonical := hc.setM.retire
theorem execMSetx_keeps {h a} : Keeps (execMSetx h a) := .next fun hc => hc.setX.retire

-- Of Sys2Proof/Machine/MemEvents.lean.

theorem State.Canonical.asyncStop {id t s} (hc : s.Canonical) : (asyncStop id t s).Canonical := by
  unfold Machine.asyncStop
  split
  · exact hc
  · split
    · exact hc.setAgent
    · extract_lets a1
      exact hc.setAgent.ite (hc.enterTrap.ite hc.setAgent)
theorem execUnsend_keeps {id} : Keeps (execUnsend id) := by
  refine .next fun hc => ?_
  split
  · exact hc
  · extract_lets pc l all out s1 gone es put s2 s3
    have hs2 : s2.Canonical := hc.useFree.setAgent
    have hs3 : s3.Canonical := hs2.foldl fun hu => (hu.foldl fun hu1 => hu1.l1Forget).ite hu
    exact hc.ite hs3.upd
theorem State.Canonical.asyncFault {o fs s} (hc : s.Canonical) : (asyncFault o fs s).Canonical := by
  unfold Machine.asyncFault
  extract_lets fs1 mask pm uni
  split
  · extract_lets _ regs entry q
    split
    · extract_lets held regs1
      exact hc.setAgent
    · exact hc.setAgent
    · split
      · exact hc.setAgent.asyncStop
      · exact hc
      · exact hc.asyncStop
  · exact hc
theorem State.Canonical.forget {o s} (hc : s.Canonical) : (forget o s).Canonical := hc.upd.ite hc
theorem execLoadDataReturn_keeps {id} : Keeps (execLoadDataReturn id) := by
  refine .next fun hc => ?_
  split
  · exact hc
  · extract_lets mine live s1 s2 s3 s4 fs
    have hs2 : s2.Canonical := hc.upd.foldl fun hu => hu.deliver.ite hu
    have hs3 : s3.Canonical := by
      unfold s3
      split
      · exact hs2
      · refine State.Canonical.foldl hs2 fun hu => ?_
        extract_lets a
        exact hu.ite hu.l1Install
    have hs4 : s4.Canonical := by
      unfold s4
      refine .ite ?_ hs3
      split
      · exact hs3.acquired
      · exact hs3
    exact hc.forget.ite (hs4.ite hs4.asyncFault)
theorem State.Canonical.acknowledge {id k s} (hc : s.Canonical) : (acknowledge id k s).Canonical := by
  unfold Machine.acknowledge
  split
  · exact hc
  · refine .ite hc ?_
    refine .ite hc.forget ?_
    extract_lets s1
    refine State.Canonical.foldl hc.upd fun hu => ?_
    split
    · exact hu.noteDrop
    · exact hu
theorem execStoreAck_keeps {id} : Keeps (execStoreAck id) := .next fun hc => hc.acknowledge
theorem execReduceRegistered_keeps {id} : Keeps (execReduceRegistered id) := .next fun hc => hc.acknowledge
theorem execPageWalkStart_keeps {die} : Keeps (execPageWalkStart die) := by
  refine .next fun hc => ?_
  split
  · exact hc
  · exact hc.ite hc.setDie
theorem execPageWalkComplete_keeps {die} : Keeps (execPageWalkComplete die) := by
  refine .next fun hc => ?_
  split
  · exact hc
  · refine .ite hc.setDie ?_
    extract_lets s1 no
    split
    next heq => exact (hc.setDie.walkPage.of_fst heq).foldl fun hu => hu.install
    next heq =>
      refine .ite ?_ ?_
      · extract_lets x1
        exact (hc.setDie.walkPage.of_fst heq).setDie
      · refine State.Canonical.foldl (hc.setDie.walkPage.of_fst heq) fun hu => ?_
        split
        · exact hu.setAgent
        · extract_lets x'
          exact hu.setDie
theorem State.Canonical.tlbOverflow {s} (hc : s.Canonical) : (tlbOverflow s).Canonical := hc.setReg
theorem State.Canonical.queueInv {v s} (hc : s.Canonical) : (queueInv v s).Canonical := hc.tlbOverflow.ite hc.upd
theorem execTlbinvReservedKind_keeps : Keeps (execTlbinvReservedKind) := .next fun hc => hc.tlbOverflow
theorem execTlbinvDone_keeps : Keeps (execTlbinvDone) := by
  refine .next fun hc => ?_
  split
  · exact hc
  · extract_lets ctx kind va hit hitW mark _ s1 s2
    exact hc.upd
theorem freeHeld_keeps {id} : Keeps (freeHeld id) := by
  refine .next fun hc => ?_
  split
  · exact hc
  · refine .ite hc ?_
    extract_lets s1 s2
    have hs1 : s1.Canonical := hc.putOp.openOp
    have hs2 : s2.Canonical := hs1.foldl fun hu => hu.withPart fun hu1 => hu1.bankAccess
    exact hs2.acknowledge.acknowledge
theorem State.Canonical.oneOf {α : Type} {l : List α} {s p t} (hc : s.Canonical) (e : oneOf l s = some (p, t)) : t.Canonical := by
  match l, e with
  | [_], e => cases e; exact hc
  | _ :: _ :: _, e => cases e; exact hc.useFree
theorem State.Canonical.nextPart {o p t} {s : State} (hc : s.Canonical) (e : s.nextPart o = some (p, t)) : t.Canonical := hc.oneOf e
theorem execHomeReadRequest_keeps {id} : Keeps (execHomeReadRequest id) := by
  refine .next fun hc => ?_
  split
  · exact hc.sendParts
  · refine .ite hc.sendParts ?_
    split
    · exact hc.sendParts
    next heq =>
      split
      next heq2 => exact ((hc.sendParts.nextPart heq).readHome.of_fst heq2).l1Forget.updPart.evictSome
theorem State.Canonical.performHome {o p s} (hc : s.Canonical) : (performHome o p s).Canonical := by
  unfold Machine.performHome
  extract_lets a n
  refine .ite ?_ ?_
  · split
    next heq => exact (hc.writeHome.of_fst heq).updPart
  · split
    next heq => exact (hc.atomicHome.of_fst heq).updPart
    next heq => exact (hc.atomicHome.of_fst heq).l1Forget.updPart
theorem execHomeWriteRequest_keeps {id} : Keeps (execHomeWriteRequest id) := by
  refine .next fun hc => ?_
  split
  · exact hc.sendParts
  · refine .ite hc.sendParts ?_
    split
    · exact hc.sendParts
    next heq => exact ((hc.sendParts.nextPart heq).performTogether fun hu => hu.performHome).ite (hc.sendParts.nextPart heq).updPart
theorem execDirectoryInvalidateAck_keeps {line die} : Keeps (execDirectoryInvalidateAck line die) := by
  refine .next fun hc => ?_
  refine .ite hc ?_
  extract_lets rest s1 s2
  have hs1 : s1.Canonical := hc.count.l2Drop
  refine .ite hs1.setDir ?_
  split
  · exact hs1.setDir
  · split
    · exact hs1.setDir.performTogether fun hu => hu.performHome
    · exact hs1.setDir
theorem execHomeReduceRequest_keeps {id} : Keeps (execHomeReduceRequest id) := by
  refine .next fun hc => ?_
  split
  · exact hc.sendParts
  · refine .ite hc.sendParts ?_
    split
    · exact hc.sendParts
    next heq =>
      extract_lets x1
      split
      next heq2 => exact ((hc.sendParts.nextPart heq).reduceStore.of_fst heq2).l1Forget.updPart.evictSome
theorem execClusterRemoteAccess_keeps {id} : Keeps (execClusterRemoteAccess id) := by
  refine .next fun hc => ?_
  split
  · exact hc
  · split
    · exact hc
    next heq => exact (hc.oneOf heq).performTogether fun hu => hu.bankAccess
theorem execLinkCompletion_keeps {id outside err} : Keeps (execLinkCompletion id outside err) := by
  refine .next fun hc => ?_
  split
  · exact hc
  · split
    · exact hc
    next heq =>
      extract_lets reads s1 byte v s2 line s3
      have hs1 : s1.Canonical := (hc.oneOf heq).logError
      have hs2 : s2.Canonical := (hc.oneOf heq).updPart
      have hs3 : s3.Canonical := hs2.l1Forget.ite hs2
      refine .ite hs1.updPart ?_
      split
      · exact hs3.ite hs3.l1Install
      · exact hs3
theorem execL2Writeback_keeps {sb} : Keeps (execL2Writeback sb) := .next fun hc => hc.writeBack.ite hc
theorem execRowActivationLimit_keeps {die row} : Keeps (execRowActivationLimit die row) := .next fun hc => hc.ite hc.setDie
theorem execRefreshManagementComplete_keeps {die row} : Keeps (execRefreshManagementComplete die row) := .next fun hc => hc.ite hc.setDie.count
theorem execPatrolScrub_keeps {unit} : Keeps (execPatrolScrub unit) := .next fun hc => hc.logOwn.ite hc.correct.upd
theorem State.Canonical.resizeL1 {core kib s} (hc : s.Canonical) : (resizeL1 core kib s).Canonical := hc.ite (hc.setCore.count.ite hc.upd.useFree)
theorem State.Canonical.decideL1 {core s} (hc : s.Canonical) : (decideL1 core s).Canonical := by
  unfold Machine.decideL1
  extract_lets c ctl ts thr
  split
  · extract_lets new s1 _
    exact hc.resizeL1.setCore
theorem execL1IntervalDecision_keeps {core} : Keeps (execL1IntervalDecision core) := .next fun hc => hc.ite hc.once.decideL1
end Sys2Proof.Machine
end

section
/-!
PROOFS. Memory stays canonical: teams, grids, preemption, the Drovers and the matrix.
-/
namespace Sys2Proof.Machine

-- Of Sys2Proof/Machine/Teams.lean.

theorem State.Canonical.icPut {d n l bs s} (hc : s.Canonical) : (icPut d n l bs s).Canonical := hc.setDie
theorem State.Canonical.icClear {d n s} (hc : s.Canonical) : (icClear d n s).Canonical := hc.setDie
theorem State.Canonical.fetch8 {core who d ctx no ea s} (hc : s.Canonical) : (fetch8 core who d ctx no ea s).1.Canonical := by
  unfold Machine.fetch8
  split
  next heq => exact hc.xlateAll.of_fst heq
  next heq =>
    have ht := hc.xlateAll.of_fst heq
    extract_lets l l1 ic s1 keep bs
    have hs1 : s1.Canonical := by
      unfold s1
      clear_value l1
      split
      · exact ht.l1Count
      · exact ht
    have hk : ∀ {bs u}, u.Canonical → (keep bs u).Canonical := by
      intro bs u hu
      unfold keep
      clear_value l1 ic
      split
      · exact hu.l1Install
      · exact hu.icPut
      · exact hu
    clear_value keep bs
    split
    · dsimp only
      clear_value ic
      split
      · exact ht.icPut
      · exact ht
    · split
      · exact ht.l1Count.setCore
      · split
        · split
          · exact hs1.useFree.logError
          · exact hk hs1.useFree
        · split
          · exact hs1
          · split
            next heq2 => exact hs1.readHome.of_fst heq2
            next heq2 =>
              have hv := hs1.readHome.of_fst heq2
              exact hv.ite (hk hv)
theorem State.Canonical.fetchWord {a o p s} (hc : s.Canonical) : (fetchWord a o p s).1.Canonical := hc.fetch8
theorem State.Canonical.zeroFill {a n s} (hc : s.Canonical) : (zeroFill a n s).Canonical := zeroFill_wf _ _ _ hc
theorem State.Canonical.startTeam {id s} (hc : s.Canonical) : (startTeam id s).Canonical := hc.setTeam.foldl fun hu => hu.setAgent.acquired
theorem State.Canonical.startUnit {id s} (hc : s.Canonical) : (startUnit id s).Canonical := (hc.foldl fun hu => hu.startTeam).ite hc
theorem State.Canonical.setLastCause {d n c s} (hc : s.Canonical) : (setLastCause d n c s).Canonical := hc.setReg
theorem State.Canonical.askHeader {d n q s} (hc : s.Canonical) : (askHeader d n q s).Canonical := hc.ite hc.fetch8
theorem State.Canonical.startProgram {d n q s} (hc : s.Canonical) : (startProgram d n q s).Canonical := by
  unfold Machine.startProgram
  extract_lets t r s1
  have hs1 : s1.Canonical := hc.icClear
  split
  next heq =>
    refine State.Canonical.upd (State.Canonical.of_fst ?_ heq)
    split
    · exact hs1
    · exact hs1.fetch8
theorem State.Canonical.dropBind {d q s} (hc : s.Canonical) : (dropBind d q s).Canonical := hc.setDie
theorem State.Canonical.bindingDone {t s} (hc : s.Canonical) : (bindingDone t s).Canonical := hc.setTeam.startUnit
theorem State.Canonical.droverEnd {a s} (hc : s.Canonical) : (droverEnd a s).Canonical := by
  unfold Machine.droverEnd
  extract_lets s1
  have hs1 : s1.Canonical := hc.captureRegs.removeAgent.setLastCause
  split
  · exact hs1.bindingDone
  · exact hs1
theorem State.Canonical.stopProgram {id s} (hc : s.Canonical) : (stopProgram id s).Canonical := by
  unfold Machine.stopProgram
  extract_lets _ s1
  split
  · extract_lets _
    exact hc.upd.setAgent.upd
  · exact hc.upd
theorem State.Canonical.dismiss {id s} (hc : s.Canonical) : (dismiss id s).Canonical := (hc.foldl fun hu => hu.captureRegs.removeAgent).setTeam
theorem State.Canonical.withdraw {p s} (hc : s.Canonical) : (withdraw p s).Canonical :=
  hc.upd.foldl fun hu => hu.ite (hu.setTeam.foldl fun hu1 => hu1.setAgent)
theorem State.Canonical.dropOffered {g s} (hc : s.Canonical) : (dropOffered g s).Canonical := hc.upd.withdraw
theorem State.Canonical.bindingFault {team grid c s} (hc : s.Canonical) : (bindingFault team grid c s).Canonical :=
  ((hc.gridFault.setGrid.dropOffered.foldl fun hu => hu.stopProgram).upd.foldl fun hu => hu.dismiss).reapTeams

-- Of Sys2Proof/Machine/WalkerEvents.lean.

theorem State.Canonical.putXfer {x s} (hc : s.Canonical) : (putXfer x s).Canonical := hc.upd
theorem State.Canonical.lockQueued {core s} (hc : s.Canonical) : (lockQueued core s).Canonical := by
  unfold Machine.lockQueued
  refine State.Canonical.foldl hc fun hu => ?_
  split
  · exact hu
  · extract_lets ls
    exact hu.ite hu.register.putXfer
theorem execBoxTransferStart_keeps {core} : Keeps (execBoxTransferStart core) := by
  refine .next fun hc => ?_
  refine .ite hc.lockQueued ?_
  split
  · exact hc.lockQueued
  · exact hc.lockQueued.setCore
theorem execBoxTransferStep_keeps {core} : Keeps (execBoxTransferStep core) := by
  refine .next fun hc => ?_
  split
  · exact hc
  · extract_lets n m1
    exact hc.ite hc.useFree.moveOn.keepMoving
theorem execBoxTransferComplete_keeps {core} : Keeps (execBoxTransferComplete core) := by
  refine .next fun hc => ?_
  split
  · exact hc
  · extract_lets m1
    exact hc.ite (hc.moveOn.endXfer.ite hc.moveOn.keepMoving)
theorem execBoxTransferFault_keeps {core} : Keeps (execBoxTransferFault core) := by
  refine .next fun hc => ?_
  split
  · exact hc
  · extract_lets m1
    exact hc.moveOn.endXfer.ite hc
theorem execBxiAccept_keeps {core} : Keeps (execBxiAccept core) := by
  refine .next fun hc => ?_
  refine .ite hc ?_
  split
  · exact hc
  · extract_lets x
    exact hc.setCore.putXfer.lockQueued
theorem State.Canonical.tableBytes {x s t b} (hc : s.Canonical) (e : tableBytes x s = some (t, b)) : t.Canonical := by
  unfold Machine.tableBytes at e
  extract_lets ea eng at e
  split at e
  · split at e
    · cases e
    · cases e
      exact hc
    · split at e
      · cases e
        exact hc.meetBad
      · cases e
        exact hc
  · split at e
    next heq =>
      split at e
      · cases e
        exact hc.engRead.of_fst heq
      · cases e
        exact hc.engRead.of_fst heq
    next heq =>
      cases e
      exact hc.engRead.of_fst heq
theorem execTableSlotFill_keeps {core slot} : Keeps (execTableSlotFill core slot) := by
  refine .next fun hc => ?_
  split
  · refine .ite hc ?_
    split
    · exact hc
    next heq => exact hc.tableBytes heq
    next heq =>
      extract_lets _ s1 s2 c
      have hs1 : s1.Canonical := (hc.tableBytes heq).upd.dropReads
      have hs2 : s2.Canonical := hs1.deadlineMiss
      split
      · exact hs2.reportTo
      · exact hs2.setCore
  · exact hc

-- Of Sys2Proof/Machine/Launch.lean.

theorem State.Canonical.hostEnqueue {q v s} (hc : s.Canonical) : (hostEnqueue q v s).Canonical := hc.setReg.ite (hc.setReg.ite hc.setReg.enqueue)
theorem execHostEnqueue_keeps {q v} : Keeps (execHostEnqueue q v) := .next fun hc => hc.upd.ite hc.hostEnqueue
theorem State.Canonical.logLink {e s} (hc : s.Canonical) : (logLink e s).Canonical := hc.interrupt.upd.ite hc.interrupt.upd
theorem State.Canonical.endLink {x done s} (hc : s.Canonical) : (endLink x done s).Canonical := hc.upd.ite (hc.upd.logLink.upd.ite hc.upd.logLink)
theorem State.Canonical.linkStep {op s} (hc : s.Canonical) : (linkStep op s).Canonical := by
  unfold Machine.linkStep
  split
  · exact hc
  · extract_lets due
    have hdue : ∀ {u}, u.Canonical → (due u).Canonical := fun hu => hu.ite hu.endLink
    refine .ite (hdue hc) ?_
    split
    next heq => exact (hc.engWrite.of_fst heq).ite (hc.engWrite.of_fst heq).endLink
    next heq => exact hdue (hc.engWrite.of_fst heq).upd
theorem State.Canonical.writeLink {v grid dispatch e s} (hc : s.Canonical) : (writeLink v grid dispatch e s).Canonical := hc.upd.linkStep
theorem execLinkWrites_keeps : Keeps (execLinkWrites) := .next fun hc => hc.foldl fun hu => hu.linkStep
theorem execLnklogcRead_keeps : Keeps (execLnklogcRead) := .next fun hc => hc.upd
theorem State.Canonical.bindChild {x grid s} (hc : s.Canonical) : (bindChild x grid s).Canonical := by
  unfold Machine.bindChild
  split
  · exact hc
  · extract_lets t
    exact hc.setTeam
theorem State.Canonical.dispatchTo {q x code r s} (hc : s.Canonical) : (dispatchTo q x code r s).Canonical := by
  unfold Machine.dispatchTo
  extract_lets id gid s1 s2 _
  have hs1 : s1.Canonical := hc.once.useFree
  have hs2 : s2.Canonical := hs1.upd.bindChild
  split
  · exact hs2.writeLink
  · exact hs2.upd.writeLink
theorem execGridDispatch_keeps : Keeps execGridDispatch := by
  refine .next fun hc => ?_
  refine .ite hc ?_
  split
  · exact hc.dropReads
  · refine .ite hc ?_
    extract_lets off
    split
    next heq =>
      have ht := State.Canonical.of_ite heq hc hc.engRead
      exact ht.ite ht.dropReads.dispatchTo
    next heq => exact (State.Canonical.of_ite heq hc hc.engRead).dropReads.dispatchTo
theorem State.Canonical.retireGrid {g s} (hc : s.Canonical) : (retireGrid g s).Canonical :=
  (hc.ite (hc.foldl fun hu => hu.foldl fun hu1 => hu1.capture)).upd.writeLink
theorem execGridRetire_keeps {grid} : Keeps (execGridRetire grid) := by
  refine .next fun hc => ?_
  split
  · exact hc
  · exact hc.retireGrid.ite hc
theorem execAllocationZeroFillDone_keeps {team} : Keeps (execAllocationZeroFillDone team) := .next fun hc => hc.ite hc.zeroFill.upd.startUnit
theorem execBindingContextGrant_keeps {die} : Keeps (execBindingContextGrant die) := by
  refine .next fun hc => ?_
  split
  · exact hc
  · split
    · exact hc.askHeader.ite hc.dropBind.startProgram
    · extract_lets x1
      split
      · exact hc
      · extract_lets _
        exact hc.upd

-- Of Sys2Proof/Machine/Records.lean.

theorem State.Canonical.writeTeamRecord {at_ bs lost s} (hc : s.Canonical) : (writeTeamRecord at_ bs lost s).Canonical := hc.writeHome.upd
theorem State.Canonical.reserveSlots {ts s t} (hc : s.Canonical) (e : reserveSlots ts s = some t) : t.Canonical := by
  induction ts generalizing s with
  | nil =>
    cases e
    exact hc
  | cons id r ih =>
    unfold Machine.reserveSlots at e
    dsimp only at e
    split at e
    · exact ih hc e
    · split at e
      · exact ih hc.setTeam e
      · cases e

-- Of Sys2Proof/Machine/Placement.lean.

theorem execTeamOffer_keeps : Keeps (execTeamOffer) := by
  refine .next fun hc => ?_
  split
  · exact hc
  · extract_lets n s1 ids used tids _ s2
    have hs2 : s2.Canonical := hc.once.setGrid
    split
    · exact hc
    · extract_lets x1 ts _
      split
      · extract_lets s1 _
        have hs1 : s1.Canonical := hc.once.foldl fun hu => hu.setTeam
        exact hs1.upd
      · exact hs2.upd
theorem State.Canonical.reclaimL1 {core s} (hc : s.Canonical) : (reclaimL1 core s).Canonical := hc.ite hc.resizeL1.setCore
theorem State.Canonical.takeDie {d g s} (hc : s.Canonical) : (takeDie d g s).Canonical := by
  unfold Machine.takeDie
  extract_lets x
  split
  · exact hc.setGrid.zeroFill
  · exact hc
theorem State.Canonical.leaveQueue {d u s} (hc : s.Canonical) : (leaveQueue d u s).Canonical := hc.once.setDie.withdraw
theorem State.Canonical.claim {m core base st s} (hc : s.Canonical) : (claim m core base st s).Canonical := hc.upd.reclaimL1
theorem State.Canonical.claimGangs {m s} (hc : s.Canonical) : (claimGangs m s).Canonical := by
  unfold Machine.claimGangs
  extract_lets t r
  refine State.Canonical.foldl hc fun hu => ?_
  split
  · exact hu.upd
theorem State.Canonical.placeUnit {d u l s} (hc : s.Canonical) : (placeUnit d u l s).Canonical :=
  hc.leaveQueue.takeDie.foldl fun hu => hu.claim.setTeam.claimGangs
theorem execTeamPlace_keeps {die} : Keeps (execTeamPlace die) := by
  refine .next fun hc => ?_
  split
  · exact hc.placeUnit.ite hc
  · exact hc
theorem State.Canonical.askTeam {budget id s} (hc : s.Canonical) : (askTeam budget id s).Canonical := hc.setTeam
theorem execUnitReserving_keeps {die} : Keeps (execUnitReserving die) := by
  refine .next fun hc => ?_
  split
  · exact hc
  · split
    · exact hc.setDie
    next heq =>
      split at heq
      · cases heq
      · have ht := hc.reserveSlots heq
        exact (ht.count.foldl fun hu => hu.askTeam).setDie

-- Of Sys2Proof/Machine/Preempt.lean.

theorem State.Canonical.asIssuer {id f s} (hc : s.Canonical) (hf : ∀ {u}, u.Canonical → (f u).Canonical) : (asIssuer id f s).Canonical := by
  unfold Machine.asIssuer
  refine .ite (hf hc) ?_
  split
  · exact hc
  · extract_lets old put t back
    exact hf hc.upd
theorem execTrapEntry_keeps {agent} : Keeps (execTrapEntry agent) := .next fun hc => hc.finishStop
theorem execDroverTrap_keeps {agent} : Keeps (execDroverTrap agent) := .next fun hc => hc.finishStop
theorem execDroverProgramFault_keeps {agent} : Keeps (execDroverProgramFault agent) := by
  refine .next fun hc => ?_
  split
  · exact hc
  · split
    · refine .ite hc ?_
      extract_lets s1
      exact hc.stopProgram.bindingFault.ite hc.stopProgram.gridFault
    · exact hc
theorem execDroverBarrierMark_keeps {agent} : Keeps (execDroverBarrierMark agent) := by
  refine .next fun hc => ?_
  split
  · exact hc
  · refine .ite hc ?_
    extract_lets s1
    exact hc.setAgent.foldl fun hu => hu.owe
theorem execDroverContextFree_keeps {agent} : Keeps (execDroverContextFree agent) := by
  refine .next fun hc => ?_
  split
  · exact hc
  · exact hc.ite hc.captureRegs.removeAgent.setLastCause.reapTeams
theorem execPregridRequest_keeps {grid} : Keeps (execPregridRequest grid) := by
  refine .next fun hc => ?_
  split
  · exact hc.setReg
  · extract_lets ts
    split
    · exact hc.setReg
    next heq =>
      extract_lets budget s1 _
      have hs1 : s1.Canonical := by
        unfold s1
        refine State.Canonical.foldl (hc.reserveSlots heq) fun hu => ?_
        extract_lets s1 _
        exact hu.askTeam.setTeam
      exact hs1.setGrid.setReg
theorem State.Canonical.endHostReq {id s} (hc : s.Canonical) : (endHostReq id s).Canonical :=
  hc.ite (hc.setTeam.ite (hc.setTeam.foldl fun hu => hu.setAgent))
theorem execPregridWithdraw_keeps {grid} : Keeps (execPregridWithdraw grid) := by
  refine .next fun hc => ?_
  split
  · exact hc.setReg
  · refine .ite hc.setReg ?_
    extract_lets s1
    exact (hc.setGrid.foldl fun hu => hu.endHostReq).setReg
theorem execPdlExpire_keeps {team} : Keeps (execPdlExpire team) := .next fun hc => hc.setTeam.ite hc
theorem State.Canonical.saveTeam {m s} (hc : s.Canonical) : (saveTeam m s).Canonical := by
  unfold Machine.saveTeam
  extract_lets t gs s1 bs s2 s3 saved s4 s5 s6 s7 s8 _ s9 s10
  have hs1 : s1.Canonical := hc.foldl fun hu => hu.setAgent
  have hs2 : s2.Canonical := hs1.writeTeamRecord
  have hs3 : s3.Canonical := hs2.foldl fun hu => hu.ite hu.traceStop
  have hs4 : s4.Canonical := hs3.foldl fun hu => hu.captureRegs.removeAgent
  have hs5 : s5.Canonical := hs4.foldl fun hu => hu.capture
  have hs6 : s6.Canonical := hs5.foldl fun hu => hu.capture
  have hs7 : s7.Canonical := hs4.ite (hs6.foldl fun hu => hu.capture)
  have hs9 : s9.Canonical := hs7.upd.setTeam
  have hs10 : s10.Canonical := hs9.count.count
  exact hs10.upd
theorem execTeamSave_keeps {team} : Keeps (execTeamSave team) := .next fun hc => (hc.foldl fun hu => hu.saveTeam).ite hc
theorem State.Canonical.unpark {id s} (hc : s.Canonical) : (unpark id s).Canonical := hc.asIssuer fun hu => hu.upd.takeHit
theorem State.Canonical.settled {s} (hc : s.Canonical) : (settled s).Canonical := hc.ite hc.upd
theorem State.Canonical.settleStep {id s} (hc : s.Canonical) : (settleStep id s).Canonical := by
  unfold Machine.settleStep
  split
  · exact hc
  · split
    · exact hc
    · exact hc
    · extract_lets s1
      have hs1 : s1.Canonical := hc.asIssuer fun hu => hu.settleOn.settled
      split
      · exact hs1.unpark.ite hs1
      · exact hs1
    · extract_lets s1
      have hs1 : s1.Canonical := hc.asIssuer fun hu => hu.settleOn.settled
      split
      · exact hs1
      · refine .ite hs1 ?_
        extract_lets again b s1 p
        split
        · exact hs1.setAgent.setAgent
        · exact hs1.setAgent
        · exact hs1.setAgent.enterTrap
        · exact hs1.setAgent.enterTrap
        · exact hs1.setAgent
theorem State.Canonical.settleAgain {fuel id s} (hc : s.Canonical) : (settleAgain fuel id s).Canonical := by
  induction fuel generalizing s with
  | zero => exact hc
  | succ n ih =>
    unfold Machine.settleAgain
    extract_lets t
    split
    · exact hc.settleStep.ite (ih hc.settleStep)
    · exact hc.settleStep
theorem execSettle_keeps {id} : Keeps (execSettle id) := by
  refine .next fun hc => ?_
  refine State.Canonical.settleAgain ?_
  split
  · exact hc.setAgent.ite hc
  · exact hc
theorem State.Canonical.hitDue {id s} (hc : s.Canonical) : (hitDue id s).Canonical := by
  unfold Machine.hitDue
  split
  · exact (hc.asIssuer fun hu => hu.takeHit).ite hc
  · exact hc
theorem State.Canonical.hostResume {complete id s} (hc : s.Canonical) : (hostResume complete id s).Canonical := by
  unfold Machine.hostResume
  split
  · exact hc
  · exact hc.ite hc.setAgent.settleAgain
theorem State.Canonical.restart {cmds id s} (hc : s.Canonical) : (restart cmds id s).Canonical := by
  unfold Machine.restart
  split
  · exact hc
  · exact hc.setAgent.settleAgain
theorem State.Canonical.readSaved {t s} (hc : s.Canonical) : (readSaved t s).1.Canonical := hc.foldl fun hu => hu.readHome
theorem State.Canonical.moveXfers {m core s} (hc : s.Canonical) : (moveXfers m core s).Canonical := hc.upd.foldl fun hu => hu.setCore.setCore
theorem State.Canonical.restoreTeam {m core base s} (hc : s.Canonical) : (restoreTeam m core base s).Canonical := by
  unfold Machine.restoreTeam
  extract_lets t exited
  split
  next heq =>
    extract_lets s1 n s2 s3 s4 s5 _ s6
    have hs1 : s1.Canonical := (hc.readSaved.of_fst heq).claim
    have hs3 : s3.Canonical := hs1.zeroFill.writeMem
    have hs4 : s4.Canonical := hs3.upd.moveXfers
    have hs5 : s5.Canonical := by
      unfold s5
      refine State.Canonical.foldl hs4 fun hu => ?_
      split
      · exact hu.upd
    exact hs5.setTeam.l1Clear.foldl fun hu => hu.owe
theorem execTeamResume_keeps {team} : Keeps (execTeamResume team) := by
  refine .next fun hc => ?_
  refine .ite hc ?_
  split
  · exact hc
  · split
    · exact hc
    · refine .ite hc ?_
      extract_lets back s1 s2
      have hs1 : s1.Canonical := hc.leaveQueue.takeDie
      have hs2 : s2.Canonical := hs1.foldl fun hu => hu.restoreTeam
      exact (hs2.foldl fun hu => hu.foldl fun hu1 => hu1.restart).reapTeams
theorem State.Canonical.hgResume {complete gang s} (hc : s.Canonical) : (hgResume complete gang s).Canonical := by
  unfold Machine.hgResume
  extract_lets named
  split
  · exact hc.setReg.ite hc.hostResume.setReg
  · split
    · exact hc.setReg.ite hc.setTeam.setReg
    · exact hc.setReg
theorem State.Canonical.discardTeam {id s} (hc : s.Canonical) : (discardTeam id s).Canonical := hc.dropInline.upd.withdraw.ite hc.dropInline.dismiss
theorem State.Canonical.endGrid {id s} (hc : s.Canonical) : (endGrid id s).Canonical := by
  unfold Machine.endGrid
  extract_lets g s1 s2 s3 s4 s5 s6
  have hs2 : s2.Canonical := hc.setGrid.dropOffered
  have hs3 : s3.Canonical := hs2.foldl fun hu => hu.discardTeam
  have hs4 : s4.Canonical := hs3.foldl fun hu => hu.stopProgram
  have hs6 : s6.Canonical := hs4.upd.foldl fun hu => hu.sendKnell
  exact hs6.reapTeams
theorem State.Canonical.endQueued {ids s} (hc : s.Canonical) : (endQueued ids s).Canonical := hc.upd.foldl fun hu => hu.upd.bindChild.writeLink
theorem execHgcmdEndGrid_keeps {grid} : Keeps (execHgcmdEndGrid grid) := by
  refine .next fun hc => ?_
  split
  · exact hc.setReg
  · extract_lets run ids s1
    exact (hc.endQueued.foldl fun hu => hu.endGrid).setReg

-- Of Sys2Proof/Machine/Debug.lean.

theorem State.Canonical.payVirtual {s} (hc : s.Canonical) : (payVirtual s).Canonical := by
  unfold Machine.payVirtual
  split
  · exact hc
  · exact State.Canonical.upd (s := s.count _ _) hc.count
theorem State.Canonical.countTrial {a s} (hc : s.Canonical) : (countTrial a s).Canonical := by
  unfold Machine.countTrial
  split
  · exact hc
  · extract_lets add others t1 _ _
    exact hc.upd
theorem execCausalTrialStart_keeps : Keeps (execCausalTrialStart) := .next fun hc => hc.ite hc.upd
theorem execCausalDelayPayment_keeps : Keeps (execCausalDelayPayment) := by
  refine .next fun hc => ?_
  split
  · exact hc
  · refine .ite hc ?_
    extract_lets sp hold s1 _
    exact hc.payVirtual.upd
theorem execCausalTrialEnd_keeps : Keeps (execCausalTrialEnd) := by
  refine .next fun hc => ?_
  split
  · exact hc
  · refine .ite hc ?_
    extract_lets s1 _ _
    exact hc.payVirtual.upd
theorem State.Canonical.setFrozen {x s} (hc : s.Canonical) : (setFrozen x s).Canonical := hc.upd
theorem execFreezeCommand_keeps : Keeps (execFreezeCommand) := .next fun hc => hc.setFrozen.trigger
theorem execFreezePin_keeps : Keeps (execFreezePin) := .next fun hc => hc.trigger
theorem execFreezeLatch_keeps : Keeps (execFreezeLatch) := by
  refine .next fun hc => ?_
  split
  · extract_lets _ s1
    exact hc.upd.setFrozen
  · exact hc
theorem execFrzstRearm_keeps : Keeps (execFrzstRearm) := .next fun hc => hc.setFrozen
theorem State.Canonical.respond {bs s} (hc : s.Canonical) : (respond bs s).Canonical := hc.upd
theorem State.Canonical.respondBad {x s} (hc : s.Canonical) : (respondBad x s).Canonical := hc.upd
theorem execReadbackRead_keeps : Keeps (execReadbackRead) := .next fun hc => hc.respond
theorem execParklogbRead_keeps : Keeps (execParklogbRead) := .next fun hc => hc.respond.upd

-- Of Sys2Proof/Machine/Drover.lean.

theorem execDrvStart_keeps {h scope d a b} : Keeps (execDrvStart h scope d a b) := by
  refine .next fun hc => hc.retire.ite (hc.raise.ite (hc.released fun hu => ?_))
  extract_lets die mine q others first free s1 x
  have hs1 : s1.Canonical := by
    unfold s1
    clear_value free
    split
    · exact hu.askHeader
    · exact hu
  clear_value s1 free
  split
  · exact hu.dropBind.startProgram.setS.retire
  · exact hs1.stall.ite hs1.upd.stall
theorem State.Canonical.nameBarrier {team off s} (hc : s.Canonical) : (nameBarrier team off s).Canonical := by
  unfold Machine.nameBarrier
  extract_lets l
  exact .ite hc.upd (State.Canonical.upd (s := s.count _ _) hc.count)
theorem State.Canonical.bxi {h d ea x s} (hc : s.Canonical) : (bxi h d ea x s).Canonical := by
  unfold Machine.bxi
  refine .ite hc.retire ?_
  extract_lets bad cp core aim _
  split
  · exact hc.illegal
  · split
    · exact hc.raise
    · clear_value aim
      split
      · exact hc.raise
      · exact hc.stall
      · extract_lets tm at0 x1
        split
        · exact hc.raise
        · refine .ite hc.stall (.ite hc.upd.stall (hc.released fun hu => ?_))
          extract_lets n _ _ s1 s2
          have hs2 : s2.Canonical := by
            unfold s2
            split
            · exact hu.upd.nameBarrier
            · exact hu.upd
          exact hs2.setS.retire
theorem State.Canonical.nameAt {k s} (hc : s.Canonical) : (nameAt k s).Canonical := by
  unfold Machine.nameAt
  split
  · exact hc.nameBarrier
  · exact hc
theorem execDarr_keeps {h a b} : Keeps (execDarr h a b) :=
  .next fun hc => hc.retire.ite (hc.released fun hu => hu.atBarrier fun hu1 => hu1.barArrive.nameAt.retire)
theorem execDwait_keeps {h a b} : Keeps (execDwait h a b) := .next fun hc => hc.retire.ite (hc.atBarrier fun hu => hu.nameAt.barrierWait)
theorem State.Canonical.packBox {e k c ns acc sh s} (hc : s.Canonical) : (packBox e k c ns acc sh s).1.Canonical := by
  induction ns generalizing acc sh s with
  | nil => exact hc
  | cons x r ih =>
    unfold Machine.packBox
    extract_lets ix w row
    split
    · split
      · exact hc
      · exact ih hc
    · split
      next heq => exact hc.readCell.of_fst heq
      next heq => exact ih (hc.readCell.of_fst heq)
theorem execIdxldFill_keeps {h c a b} : Keeps (execIdxldFill h c a b) := by
  refine .next fun hc => ?_
  refine .ite hc.retire ?_
  refine .ite hc.illegal ?_
  refine .ite hc.raise ?_
  refine .ite hc.stall ?_
  split
  next heq => exact (hc.packBox.of_fst heq).stall.ite (hc.packBox.of_fst heq).dropReads.raise
  next heq => exact (hc.packBox.of_fst heq).upd.dropReads.retire
theorem execIdxldRead_keeps {h size d a} : Keeps (execIdxldRead h size d a) :=
  .next fun hc => hc.retire.ite (hc.raise.ite (hc.raise.ite hc.setS.retire))
theorem execTblld_keeps {h space slot d a b} : Keeps (execTblld h space slot d a b) := by
  refine .next fun hc => ?_
  refine .ite hc.retire ?_
  refine .ite hc.raise ?_
  refine .ite hc.raise ?_
  split
  · exact hc.stall
  · refine .ite hc.stall ?_
    extract_lets n _ x1 _ _
    exact hc.upd.setS.retire
theorem execDend_keeps {h} : Keeps (execDend h) := .next fun hc => hc.retire.ite (hc.stall.ite (hc.waitDone.ite (hc.released fun hu => hu.droverEnd)))

-- Of Sys2Proof/Machine/Matrix.lean.

theorem State.Canonical.badOperand {c d a s} (hc : s.Canonical) : (badOperand c d a s).Canonical := hc.raise
theorem State.Canonical.startMat {h x src dst wide f s} (hc : s.Canonical) (hf : ∀ {u}, u.Canonical → (f u).Canonical) :
    (startMat h x src dst wide f s).Canonical := by
  unfold Machine.startMat
  split
  · exact hc.badOperand
  · extract_lets reads writes ls s1 _
    exact hc.stall.ite (hc.locksFull.stall.ite (hf hc.register).upd.retire)
theorem State.Canonical.matIssue {h scope f s} (hc : s.Canonical) (hf : ∀ {u}, u.Canonical → (f u).Canonical) : (matIssue h scope f s).Canonical :=
  hc.whole fun hu => hu.retire.ite (hu.released hf)
theorem State.Canonical.mldIssue {h kind w a f c s} (hc : s.Canonical) : (mldIssue h kind w a f c s).Canonical :=
  hc.illegal.ite (hc.badOperand.ite (hc.badOperand.ite (hc.badOperand.ite (hc.startMat fun hu => hu.touch.setTeam))))
theorem State.Canonical.mmaIssue {h kind n row0 w t v reuse f s} (hc : s.Canonical) : (mmaIssue h kind n row0 w t v reuse f s).Canonical :=
  hc.illegal.ite (hc.illegal.ite (hc.badOperand.ite (hc.illegal.ite (hc.startMat fun hu => hu.upd))))
theorem State.Canonical.epiIssue {h kind row0 n t a b s} (hc : s.Canonical) : (epiIssue h kind row0 n t a b s).Canonical := by
  unfold Machine.epiIssue
  extract_lets rs _
  refine .ite hc.badOperand ?_
  refine .ite hc.badOperand ?_
  refine .ite hc.badOperand ?_
  refine .ite hc.stall ?_
  split
  · exact hc.meetBad.badOperand
  · extract_lets k span last out r wide
    split
    · exact hc.raise
    · exact hc.startMat fun hu => hu
theorem State.Canonical.setBuffer {t b f s} (hc : s.Canonical) : (setBuffer t b f s).Canonical := hc.touch.setTeam
theorem State.Canonical.runMld {x s} (hc : s.Canonical) : (runMld x s).1.Canonical := by
  unfold Machine.runMld
  extract_lets t f n kb spans _ empty read tile side put
  have hempty : ∀ {a0}, (empty a0).1.Canonical := hc.setBuffer
  have hput : ∀ {a0}, (put a0).1.Canonical := hc.setBuffer
  split
  · exact hempty
  · split
    · split
      · exact hput
      · exact hempty
    · split
      · exact hput
      · exact hput
theorem State.Canonical.setTileRow {team h r vs s} (hc : s.Canonical) : (setTileRow team h r vs s).Canonical := hc.touch.setTeam
theorem State.Canonical.runMma {x s} (hc : s.Canonical) : (runMma x s).1.Canonical := by
  unfold Machine.runMma
  extract_lets f t buf na nb per w row
  have hrow : ∀ {u a0}, u.1.Canonical → (row u a0).1.Canonical := by
    intro _ _ hu
    unfold row
    split
    · exact hu
    · extract_lets s1 t1 a old
      split
      · exact hu
      · split
        · exact hu
        · split
          · exact hu
          · split
            · exact hu
            · extract_lets cell
              exact hu.setTileRow
  split
  · exact hc
  · split
    · exact hc
    · exact State.Canonical.foldl_by (r := Prod.fst) hc hrow
theorem State.Canonical.meets {x h s} (hc : s.Canonical) : (MatOp.meets x h s).Canonical := hc.meetBad.ite hc
theorem State.Canonical.runEpi {x s} (hc : s.Canonical) : (runEpi x s).1.Canonical := by
  unfold Machine.runEpi
  extract_lets k no row
  refine State.Canonical.foldl_by (r := Prod.fst) hc fun hr => ?_
  unfold row
  split
  · exact hr
  · split
    · exact hr.meets
    · extract_lets bs off
      refine State.Canonical.foldl_by (r := Prod.fst) hr fun hu => ?_
      split
      · exact hu
      · extract_lets t
        split
        next heq => exact hu.sideWrite.of_fst heq
        next heq => exact hu.sideWrite.of_fst heq
theorem State.Canonical.epiSpots {e aop n va m} (hc : m.s.Canonical) : (epiSpots e aop n va m).1.s.Canonical := by
  unfold Machine.epiSpots
  generalize List.range 128 = l
  refine State.Canonical.foldl_by (r := fun r : EpiRun × List EngSpot => r.1.s) hc fun hu => ?_
  split
  · exact hu
  · split
    next heq => exact hu.engPlace.of_fst heq
    next heq =>
      have ht := hu.engPlace.of_fst heq
      split <;> exact ht
    next heq => exact hu.engPlace.of_fst heq
theorem State.Canonical.runEpiRs {x s} (hc : s.Canonical) : (runEpiRs x s).s.Canonical := by
  unfold Machine.runEpiRs
  extract_lets k f n e aop row due s1 m
  have hrow : ∀ {u}, u.s.Canonical → (row u).s.Canonical := by
    intro _ hu
    unfold row
    split
    · exact hu
    · split
      · exact hu.meets
      · extract_lets va send
        have hsend : ∀ {u a0}, u.s.Canonical → (send u a0).s.Canonical := by
          intro _ _ hu
          unfold send
          split
          · exact hu
          · split
            next heq => exact hu.engReduceAt.of_fst heq
            next heq => exact hu.engReduceAt.of_fst heq
        split
        next heq =>
          split
          · exact hu.epiSpots.of_fst_by heq
          · extract_lets m1
            exact State.Canonical.foldl_by (r := EpiRun.s) (hu.epiSpots.of_fst_by heq) hsend
  split
  · exact hc
  · split
    · exact hc.upd
    · split
      · exact hc.upd
      · split
        · exact State.Canonical.foldl_by (r := EpiRun.s) hc.upd fun hu => hrow hu
        · exact State.Canonical.foldl_by (r := EpiRun.s) hc.upd fun hu => hrow hu
theorem State.Canonical.runMat {x s} (hc : s.Canonical) : (runMat x s).s.Canonical := by
  unfold Machine.runMat
  extract_lets whole
  split
  · exact hc.runMld
  · exact hc.runMld
  · exact hc.runMma
  · exact hc.runMma
  · exact hc.runEpi
  · exact hc.runEpiRs
theorem State.Canonical.endMat {x r} (hc : r.s.Canonical) : (endMat x r).Canonical := by
  unfold Machine.endMat
  extract_lets _ _ s s1
  have hs1 : s1.Canonical := by
    unfold s1
    split
    · extract_lets s1
      have hs1 : s1.Canonical := hc.upd.unlock.ite hc.upd.unlock.meets
      exact hs1.reportTo
    · exact hc.upd.unlock
  exact hs1.deadlineMiss.reapTeams
theorem State.Canonical.finishMat {core p s} (hc : s.Canonical) : (finishMat core p s).Canonical := by
  unfold Machine.finishMat
  split
  · exact hc
  · extract_lets r _ _
    exact hc.ite (hc.runMat.endMat.ite hc.runMat.upd)
theorem execMldComplete_keeps {core} : Keeps (execMldComplete core) := .next fun hc => hc.finishMat
theorem execMmaComplete_keeps {core} : Keeps (execMmaComplete core) := .next fun hc => hc.finishMat
theorem execEpiComplete_keeps {core} : Keeps (execEpiComplete core) := .next fun hc => hc.finishMat
theorem execEpiRsComplete_keeps {core} : Keeps (execEpiRsComplete core) := .next fun hc => hc.finishMat
theorem execMatrixOpFault_keeps {core} : Keeps (execMatrixOpFault core) := by
  refine .next fun hc => ?_
  split
  · exact hc.runMat.endMat
  · exact hc
end Sys2Proof.Machine
end

section
/-!
PROOFS. Memory stays canonical: the fabric, snapshots, the host, the issue of a word, every instruction, and the step.
-/
namespace Sys2Proof.Machine

-- Of Sys2Proof/Machine/Channels.lean.

theorem State.Canonical.waybill {ch p s} (hc : s.Canonical) : (waybill ch p s).Canonical := hc.setReg.setReg.ite hc.upd
theorem State.Canonical.logPacket {ch p s} (hc : s.Canonical) : (logPacket ch p s).Canonical := hc.ite ((hc.upd.ite hc).upd.ite (hc.upd.ite hc)).stage
theorem State.Canonical.pushPacket {ch p s} (hc : s.Canonical) : (pushPacket ch p s).Canonical := by
  unfold Machine.pushPacket
  split
  · exact hc
  · exact hc.upd
theorem State.Canonical.popPacket {ch s} (hc : s.Canonical) : (popPacket ch s).Canonical := hc.upd
theorem State.Canonical.delivered {ch p s} (hc : s.Canonical) : (delivered ch p s).Canonical := hc.popPacket.logPacket.waybill
theorem State.Canonical.onHead {ch p may f s} (hc : s.Canonical) (hf : ∀ {a0 u}, u.Canonical → (f a0 u).Canonical) :
    (onHead ch p may f s).Canonical := by
  unfold Machine.onHead
  extract_lets s1
  refine .ite hc.pushPacket ?_
  split
  · exact hc.pushPacket
  · exact hc.pushPacket.delivered.sendOn.ite ((hf hc.pushPacket.delivered).ite hc.pushPacket)
theorem State.Canonical.tellPeers {f s} (hc : s.Canonical) : (tellPeers f s).Canonical := hc.foldl fun hu => hu.sendTo

-- Of Sys2Proof/Machine/FabricEvents.lean.

theorem State.Canonical.arriveMessage {vote ch p s} (hc : s.Canonical) : (arriveMessage vote ch p s).Canonical := by
  unfold Machine.arriveMessage
  extract_lets fit
  refine State.Canonical.onHead hc fun hu => ?_
  split
  · extract_lets s1 _
    exact hu.notePort.upd
  · exact hu.notePort.takeMessage.settleRouters
theorem execCollectiveChunkArrival_keeps {ch p} : Keeps (execCollectiveChunkArrival ch p) := .next fun hc => hc.arriveMessage
theorem execStepVoteArrival_keeps {ch p} : Keeps (execStepVoteArrival ch p) := .next fun hc => hc.arriveMessage
theorem execKnellArrival_keeps {ch p} : Keeps (execKnellArrival ch p) := .next fun hc => hc.onHead fun hu => hu.knellGroup
theorem execFatalGroupFault_keeps {grp} : Keeps (execFatalGroupFault grp) := .next fun hc => hc.fatalFault.ite hc
theorem execStepReportArrival_keeps {ch p} : Keeps (execStepReportArrival ch p) := .next fun hc => hc.onHead fun hu => hu.holdReport
theorem execAgreementTimeout_keeps {grp} : Keeps (execAgreementTimeout grp) := .next fun hc => hc.setGrpState.interrupt.ite hc
theorem State.Canonical.clearReports {g s} (hc : s.Canonical) : (clearReports g s).Canonical := hc.upd
theorem State.Canonical.setOpenErr {g b s} (hc : s.Canonical) : (setOpenErr g b s).Canonical := hc.setReg
theorem execGrpcmdOpen_keeps {grp} : Keeps (execGrpcmdOpen grp) :=
  .next fun hc => hc.ite (hc.endColls.setGrpState.setOpenErr.ite hc.endColls.setOpenErr.setGrpState.clearReports.upd)
theorem execGrpcmdClose_keeps {grp} : Keeps (execGrpcmdClose grp) := .next fun hc => hc.ite hc.endColls.setGrpState.clearReports
theorem State.Canonical.answer {q bs bad s} (hc : s.Canonical) : (answer q bs bad s).Canonical := hc.sendPacket
theorem execFabricReadRequest_keeps {ch p} : Keeps (execFabricReadRequest ch p) := by
  refine .next fun hc => ?_
  refine State.Canonical.onHead hc fun hu => ?_
  split
  next heq => exact (hu.readHome.of_fst heq).answer
  next heq => exact (hu.readHome.of_fst heq).answer
theorem execFabricWriteRequest_keeps {ch p} : Keeps (execFabricWriteRequest ch p) := by
  refine .next fun hc => ?_
  refine State.Canonical.onHead hc fun hu => ?_
  split
  next heq => exact (hu.writeHome.of_fst heq).answer
theorem execFabricAtomicRequest_keeps {ch p} : Keeps (execFabricAtomicRequest ch p) := by
  refine .next fun hc => ?_
  refine State.Canonical.onHead hc fun hu => ?_
  extract_lets n x
  refine .ite ?_ ?_
  · split
    next heq => exact (hu.reduceHome.of_fst heq).answer
  · split
    next heq => exact (hu.atomicHome.of_fst heq).answer
    next heq => exact (hu.atomicHome.of_fst heq).answer
theorem execFabricResponse_keeps {ch p} : Keeps (execFabricResponse ch p) := by
  refine .next fun hc => ?_
  refine State.Canonical.onHead hc fun hu => ?_
  extract_lets mine
  split
  · exact hu
  · split
    · exact hu
    · extract_lets reads s1 whole bs s2 s3
      have hs1 : s1.Canonical := hu.logError.ite hu
      have hs3 : s3.Canonical := hu.updPart.ite hu.updPart.l1Forget
      refine .ite hs1.updPart ?_
      split
      · exact hs3.l1Install.ite hs3
      · exact hs3
theorem execFabricReservedKind_keeps {ch p} : Keeps (execFabricReservedKind ch p) := by
  refine .next fun hc => ?_
  split
  · exact hc.pushPacket.popPacket.count.ite hc.pushPacket
  · exact hc.pushPacket
theorem execPortDown_keeps {port} : Keeps (execPortDown port) := .next fun hc => hc.ite (hc.upd.interrupt.foldl fun hu => hu.fatalFault)
theorem execRingDown_keeps {g} : Keeps (execRingDown g) := .next fun hc => hc.fatalFault.ite hc
theorem execTimeSyncMessage_keeps {ch p} : Keeps (execTimeSyncMessage ch p) := .next fun hc => hc.onHead fun hu => hu.upd
theorem State.Canonical.haltAgent {id s} (hc : s.Canonical) : (haltAgent id s).Canonical := by
  unfold Machine.haltAgent
  split
  · exact hc
  · extract_lets p
    exact hc.ite (hc.setAgent.ite hc.asyncStop)
theorem State.Canonical.parkSaved {halt s} (hc : s.Canonical) : (parkSaved halt s).Canonical :=
  hc.foldl fun hu => (hu.foldl fun hu1 => hu1.logPark).setTeam
theorem State.Canonical.haltAll {s} (hc : s.Canonical) : (haltAll s).Canonical := hc.parkSaved.foldl fun hu => hu.haltAgent
theorem execHaltNotice_keeps {ch p} : Keeps (execHaltNotice ch p) := .next fun hc => hc.onHead fun hu => hu.haltAll
theorem State.Canonical.divergence {s} (hc : s.Canonical) : (divergence s).Canonical := by
  unfold Machine.divergence
  split
  · exact hc.parkSaved.foldl fun hu => hu.setAgent.finishStop
  · exact hc.tellPeers.haltAll
  · exact hc
theorem State.Canonical.readReference {a s} (hc : s.Canonical) : (readReference a s).1.Canonical := by
  unfold Machine.readReference
  split
  next heq => exact hc.readHome.of_fst heq
  next heq => exact hc.readHome.of_fst heq
theorem execWaybillCheckpoint_keeps {ch} : Keeps (execWaybillCheckpoint ch) := by
  refine .next fun hc => ?_
  split
  · exact hc
  · extract_lets ctl refn a compared _ s1
    refine .ite hc ?_
    refine .ite hc.upd.trace ?_
    split
    next heq => exact hc.upd.trace.readReference.of_fst heq
    next heq =>
      refine .ite (hc.upd.trace.readReference.of_fst heq) ?_
      extract_lets s1
      have hs1 : s1.Canonical := (hc.upd.trace.readReference.of_fst heq).count
      exact hs1.ite hs1.setReg.trace.interrupt.divergence

-- Of Sys2Proof/Machine/FloatOps.lean.

theorem State.Canonical.float1 {h m d a f s} (hc : s.Canonical) : (float1 h m d a f s).Canonical := hc.unlessMarked fun hu => hu.floatTo
theorem State.Canonical.float2 {h m d a b f s} (hc : s.Canonical) : (float2 h m d a b f s).Canonical := hc.unlessMarked fun hu => hu.floatTo
theorem execFCmp_keeps {h m cc d a b} : Keeps (execFCmp h m cc d a b) := .next fun hc => hc.unlessMarked fun hu => hu.floatMask
theorem execFCvtiToFloat_keeps {h i shift rm d a} : Keeps (execFCvtiToFloat h i shift rm d a) := .next fun hc => hc.floatTo
theorem execFUnpk_keeps {h srcf j d a} : Keeps (execFUnpk h srcf j d a) := .next fun hc => hc.unlessMarked fun hu => hu.setV.setV.raiseFlags.retire

-- Of Sys2Proof/Machine/Snapshots.lean.

theorem execLocalCut_keeps {col} : Keeps (execLocalCut col) := .next fun hc => hc.setColour.ite hc
theorem State.Canonical.mergeScope {s} (hc : s.Canonical) : (mergeScope s).Canonical := hc.foldl fun hu => hu.mergeAlone
theorem State.Canonical.sendCairn {col port vc s} (hc : s.Canonical) : (sendCairn col port vc s).Canonical := hc.useFree.sendOn
theorem execCutDrainComplete_keeps {col} : Keeps (execCutDrainComplete col) :=
  .next fun hc => hc.ite ((((hc.mergeScope.setColour.setReg.foldl fun hu => hu.trace).foldl fun hu => hu.stage).foldl fun hu => hu.stage).foldl fun
    hu => hu.sendCairn).upd
theorem execCairnArrival_keeps {ch p} : Keeps (execCairnArrival ch p) := by
  refine .next fun hc => ?_
  split
  · exact hc.pushPacket
  · extract_lets col c s1 _ rest
    have hs1 : s1.Canonical := hc.pushPacket.popPacket
    refine .ite hc.pushPacket ?_
    refine .ite hs1.upd ?_
    split
    · exact hc.pushPacket
    · exact hc.pushPacket.popPacket.startColour
    · exact hc.pushPacket.popPacket.setColour
    · exact hc.pushPacket.popPacket
theorem execGranuleCapture_keeps {gr} : Keeps (execGranuleCapture gr) := .next fun hc => hc.capture
theorem execPackhorseSweep_keeps {die} : Keeps (execPackhorseSweep die) := by
  refine .next fun hc => ?_
  split
  · exact hc.capture
  · exact hc
theorem execRecordDurable_keeps {die} : Keeps (execRecordDurable die) := .next fun hc => hc.writeRecord
theorem execRecordWriteFail_keeps {die} : Keeps (execRecordWriteFail die) := .next fun hc => hc.writeRecord
theorem execLocalCompletion_keeps {col} : Keeps (execLocalCompletion col) :=
  .next fun hc => hc.ite (hc.setColour.ite (hc.setColour.foldl fun hu => hu.stage))
theorem State.Canonical.completes {col fail s} (hc : s.Canonical) : (completes col fail s).Canonical := hc.ite hc.setColour
theorem State.Canonical.coordinate {col fail s} (hc : s.Canonical) : (coordinate col fail s).Canonical :=
  hc.upd.ite hc.upd.tellPeers.interrupt.completes
theorem execCompletionReport_keeps {col} : Keeps (execCompletionReport col) :=
  .next fun hc => hc.ite (hc.setColour.coordinate.ite hc.setColour.sendPacket)
theorem execCoordinatorNoticeArrival_keeps {ch p} : Keeps (execCoordinatorNoticeArrival ch p) :=
  .next fun hc => hc.onHead fun hu => hu.coordinate.ite hu
theorem execGlobalCompletionNotice_keeps {ch p} : Keeps (execGlobalCompletionNotice ch p) := .next fun hc => hc.onHead fun hu => hu.completes
theorem State.Canonical.setSnapres {n s} (hc : s.Canonical) : (setSnapres n s).Canonical := hc.setReg
theorem execSnapcmdStart_keeps {col} : Keeps (execSnapcmdStart col) := .next fun hc => hc.snapRequest.setSnapres
theorem State.Canonical.freeColour {col s} (hc : s.Canonical) : (freeColour col s).Canonical := hc.setColour
theorem execSnapcmdRelease_keeps {col} : Keeps (execSnapcmdRelease col) := by
  refine .next fun hc => ?_
  split
  · exact hc.upd
  · exact hc.upd.freeColour
  · refine .ite hc.upd ?_
    extract_lets _ late _ s1 s2
    have hs2 : s2.Canonical := hc.upd.setColour
    exact hc.upd.freeColour.ite (hs2.foldl fun hu => hu.stage)
theorem execAbortRecordsDurable_keeps {col} : Keeps (execAbortRecordsDurable col) := .next fun hc => hc.freeColour.ite hc

-- Of Sys2Proof/Machine/Restore.lean.

theorem State.Canonical.restoreGrid {bs s} (hc : s.Canonical) : (restoreGrid bs s).2.Canonical := by
  unfold Machine.restoreGrid
  extract_lets gid ctxs _ g _
  split
  · exact hc
  · exact hc.upd
theorem State.Canonical.restoreSaved {rs r s} (hc : s.Canonical) : (restoreSaved rs r s).Canonical := by
  unfold Machine.restoreSaved
  extract_lets bs mine arrays h _ alloc coll
  split
  next heq =>
    extract_lets rc t0 gs t _ s1 body lost s2
    have hs1 : s1.Canonical := (hc.restoreGrid.of_snd heq).useFree.upd
    have hs2 : s2.Canonical := by
      unfold s2
      split
      · exact hs1.writeTeamRecord
      · exact hs1
    exact hs2.setTeam
theorem State.Canonical.restoreUnits {ids s} (hc : s.Canonical) : (restoreUnits ids s).Canonical :=
  (hc.foldl fun hu => hu.setTeam).foldl fun hu => hu.setGrid
theorem State.Canonical.restoreGranule {r s} (hc : s.Canonical) : (restoreGranule r s).Canonical := hc.upd.ite hc.writeMem
theorem State.Canonical.restoreScratch {r s} (hc : s.Canonical) : (restoreScratch r s).Canonical := by
  unfold Machine.restoreScratch
  extract_lets a d
  split
  · exact hc
  · extract_lets base
    exact hc.setGrid
theorem State.Canonical.restoreDrover {r s} (hc : s.Canonical) : (restoreDrover r s).Canonical := hc.upd
theorem State.Canonical.restoreXfer {r s} (hc : s.Canonical) : (restoreXfer r s).Canonical := by
  unfold Machine.restoreXfer
  extract_lets bs w o who sdie drover named t a core words mc cp table crcs x n c slots _
  split
  · extract_lets x1 queue _
    exact hc.upd
theorem State.Canonical.restoreRouter {r s} (hc : s.Canonical) : (restoreRouter r s).Canonical := hc.offerChunk.ite hc.upd
theorem State.Canonical.injectChannel {col rs ch s} (hc : s.Canonical) : (injectChannel col rs ch s).Canonical := hc.upd
theorem State.Canonical.setRestres {n s} (hc : s.Canonical) : (setRestres n s).Canonical := hc.setReg
theorem State.Canonical.applySet {col rs s} (hc : s.Canonical) : (applySet col rs s).Canonical := by
  unfold Machine.applySet
  extract_lets of s1 n s2 s3 s4 s5 s6 s7 _ s8
  have hs1 : s1.Canonical := hc.foldl fun hu => hu.restoreGranule
  have hs2 : s2.Canonical := hs1.foldl fun hu => hu.restoreSaved
  have hs3 : s3.Canonical := hs2.restoreUnits
  have hs4 : s4.Canonical := hs3.foldl fun hu => hu.restoreScratch
  have hs5 : s5.Canonical := hs4.foldl fun hu => hu.restoreDrover
  have hs6 : s6.Canonical := hs5.foldl fun hu => hu.restoreXfer
  have hs7 : s7.Canonical := hs6.foldl fun hu => hu.restoreRouter
  exact hs7.upd.foldl fun hu => hu.injectChannel
theorem execRestcmdGo_keeps {col} : Keeps (execRestcmdGo col) := .next fun hc => hc.ite (hc.setRestres.ite hc.setRestres.upd)
theorem execRestoreComplete_keeps {region} : Keeps (execRestoreComplete region) := by
  refine .next fun hc => ?_
  split
  · exact hc
  · extract_lets _ s1
    refine .ite hc.upd.setRestres ?_
    split
    · exact hc.upd.setRestres
    · exact hc.upd.applySet.settleRouters.setRestres

-- Of Sys2Proof/Machine/HostLinks.lean.

theorem State.Canonical.hostWrite {n off bs s} (hc : s.Canonical) : (hostWrite n off bs s).Canonical := by
  induction n generalizing off bs s with
  | zero => exact hc
  | succ n ih =>
    unfold Machine.hostWrite
    refine .ite hc ?_
    extract_lets a k
    exact ih hc.writeHome
theorem State.Canonical.hostBytes {n off len s} (hc : s.Canonical) : (hostBytes n off len s).1.Canonical := by
  have h : ∀ n off len s, s.Canonical → (Machine.hostBytes n off len s).1.Canonical := by
    delta Machine.hostBytes
    refine brecOn_by (α := fun _ => Nat → Nat → State → State × Option (List Byte)) (F := hostBytes._f)
      (P := fun _ f => ∀ off len s, s.Canonical → (f off len s).1.Canonical) (fun _ _ _ hc => hc) fun n b ih off len s hc => ?_
    delta hostBytes._f
    dsimp -zeta only
    extract_lets a k
    split
    · exact hc
    · split
      next heq => exact hc.readHome.of_fst heq
      next heq =>
        have ht := ih (off + k) (len - k) _ (hc.readHome.of_fst heq)
        split
        next heq2 => exact ht.of_fst heq2
        next heq2 => exact ht.of_fst heq2
  exact h _ _ _ _ hc
theorem State.Canonical.hostAtomic {aop n off x cmp s} (hc : s.Canonical) : (hostAtomic aop n off x cmp s).Canonical := by
  -- The kernel would evaluate the access at its address to compare the function with its body; it compares the two as functions at once.
  have e : @Machine.hostAtomic = @Machine.hostAtomic := rfl
  conv at e => rhs; delta Machine.hostAtomic
  rw [e]
  beta_reduce
  extract_lets a
  clear_value a
  split
  next heq => exact (hc.atomicHome.of_fst heq).respondBad
  next heq => exact (hc.atomicHome.of_fst heq).respond
theorem State.Canonical.perform {q s} (hc : s.Canonical) : (HostReq.perform q s).Canonical := by
  unfold Machine.HostReq.perform
  split
  · exact hc.hostWrite
  · split
    next heq => exact (hc.hostBytes.of_fst heq).respond
    next heq => exact (hc.hostBytes.of_fst heq).respondBad
  · exact hc.hostEnqueue
  · exact hc.hostAtomic
theorem State.Canonical.hostArrives {q s} (hc : s.Canonical) : (hostArrives q s).Canonical :=
  hc.ite ((hc.ite hc.respondBad).ite (hc.upd.ite hc.perform))
theorem execHostServe_keeps {i} : Keeps (execHostServe i) := by
  refine .next fun hc => ?_
  split
  · exact hc
  · exact hc.ite hc.upd.perform
theorem State.Canonical.clockRecords {khz s} (hc : s.Canonical) : (clockRecords khz s).Canonical := hc.foldl fun hu => hu.foldl fun hu1 => hu1.trace
theorem State.Canonical.setMclk {khz} {s : State} (hc : s.Canonical) : (s.setMclk khz).Canonical := hc.upd
theorem State.Canonical.stepMclk {want s} (hc : s.Canonical) : (stepMclk want s).Canonical := hc.ite hc.payVirtual.setMclk.interrupt.clockRecords
theorem execMclkAdjust_keeps {steps} : Keeps (execMclkAdjust steps) := .next fun hc => hc.ite hc.upd.stepMclk
theorem execThermalShutdown_keeps (die : Nat) : Keeps (execThermalShutdown die) := .next fun hc => hc.ite hc.upd.interrupt.clockRecords
theorem execManagementRequest_keeps : Keeps (execManagementRequest) := .next fun hc => hc.interrupt
theorem State.Canonical.afterReset {s r} (hr : r.Canonical) : (afterReset s r).Canonical := hr.upd
theorem State.Canonical.warm_ {s} (hc : s.Canonical) : (warm_ s).Canonical := warm_wf _ hc
theorem execWarmReset_keeps : Keeps (execWarmReset) := .next fun hc => hc.ite hc.warm_
theorem execFunctionLevelReset_keeps : Keeps (execFunctionLevelReset) := .next fun hc => hc.ite hc.warm_.respond
theorem execPowerLoss_keeps : Keeps execPowerLoss := .next fun _ => State.Canonical.afterReset reset_wf.upd
theorem execPowerOnBoot_keeps : Keeps (execPowerOnBoot) := .next fun hc => hc.ite hc.upd
theorem execSpdmRequest_keeps {req} : Keeps (execSpdmRequest req) := .next fun hc => hc.useFree.respond
theorem State.Canonical.after_of {e : State → Answer} {s t} (hc : s.Canonical) (ht : t.Canonical) (he : Keeps e) : (after_ (e t) s).Canonical := by
  unfold Machine.after_
  split
  next heq => exact he _ _ ht heq
  · exact hc
theorem State.Canonical.after_ {e : State → Answer} {s} (hc : s.Canonical) (he : Keeps e) : (after_ (e s) s).Canonical := hc.after_of hc he
theorem State.Canonical.writeHgcmd {v s} (hc : s.Canonical) : (writeHgcmd v s).Canonical :=
  hc.setReg.ite ((hc.after_ execHgcmdEndGrid_keeps).ite hc.hgResume)
theorem State.Canonical.writeTlbinv {v s} (hc : s.Canonical) : (writeTlbinv v s).Canonical := hc.ite (hc.tlbOverflow.ite hc.queueInv)
theorem State.Canonical.writeSnapcmd {v s} (hc : s.Canonical) : (writeSnapcmd v s).Canonical := by
  unfold Machine.writeSnapcmd
  split
  · exact hc.after_ execSnapcmdStart_keeps
  · exact hc.after_ execSnapcmdRelease_keeps
  · exact hc.setSnapres
theorem State.Canonical.writeRestcmd {v s} (hc : s.Canonical) : (writeRestcmd v s).Canonical :=
  hc.setRestres.ite ((hc.after_ execRestcmdGo_keeps).ite hc)
theorem State.Canonical.writeGrpcmd {v s} (hc : s.Canonical) : (writeGrpcmd v s).Canonical := by
  unfold Machine.writeGrpcmd
  refine .ite hc ?_
  split
  · exact hc.after_ execGrpcmdOpen_keeps
  · exact hc.after_ execGrpcmdClose_keeps
  · exact hc
theorem State.Canonical.writePregrid {v s} (hc : s.Canonical) : (writePregrid v s).Canonical :=
  hc.setReg.ite ((hc.after_ execPregridWithdraw_keeps).ite (hc.after_ execPregridRequest_keeps))
theorem State.Canonical.writePlain {off v s} (hc : s.Canonical) : (writePlain off v s).Canonical := hc.setReg
theorem State.Canonical.writeMclkset {v s} (hc : s.Canonical) : (writeMclkset v s).Canonical := hc.writePlain.foldl fun hu => hu.stepMclk.ite hu
theorem State.Canonical.writeWbctl {v s} (hc : s.Canonical) : (writeWbctl v s).Canonical := hc.writePlain.setReg.ite hc.writePlain
theorem State.Canonical.writeRhctl {off v s} (hc : s.Canonical) : (writeRhctl off v s).Canonical := hc.ite hc.writePlain
theorem State.Canonical.writeTrctl {d v s} (hc : s.Canonical) : (writeTrctl d v s).Canonical := hc.writePlain.upd.ite hc.writePlain
theorem State.Canonical.writeReg {off v s} (hc : s.Canonical) : (writeReg off v s).Canonical := by
  unfold Machine.writeReg
  exact hc.ite ((hc.after_ execHostEnqueue_keeps).ite (hc.writeHgcmd.ite (hc.setReg.ite (hc.writeMclkset.ite ((hc.warm_.ite hc).ite
    (hc.writeTlbinv.ite (hc.setReg.ite (hc.writeSnapcmd.ite (hc.writeRestcmd.ite (hc.writeGrpcmd.ite (hc.writeWbctl.ite (hc.writePregrid.ite
    ((hc.setFrozen.ite hc).ite (hc.writeTrctl.ite (hc.writeRhctl.ite (hc.ite hc.writePlain))))))))))))))))
theorem execRegisterWrite_keeps {mgmt off v} : Keeps (execRegisterWrite mgmt off v) := .next fun hc => hc.count.ite hc.writeReg

-- Of Sys2Proof/Machine/Issue.lean.

theorem State.Canonical.bring {id s} (hc : s.Canonical) : (bring id s).Canonical := by
  unfold Machine.bring
  refine .ite hc ?_
  split
  · exact hc
  · exact hc.upd
theorem execGangIssueSelect_keeps {unit} : Keeps (execGangIssueSelect unit) := by
  refine .next fun hc => ?_
  refine .ite hc ?_
  split
  · exact hc
  · extract_lets _
    exact hc.bring.upd
theorem State.Canonical.fetchAll {a o ps s} (hc : s.Canonical) : (fetchAll a o ps s).1.Canonical := by
  induction ps generalizing s with
  | nil => exact hc
  | cons x r ih =>
    unfold Machine.fetchAll
    split
    next heq =>
      split
      next heq2 => exact (ih (hc.fetchWord.of_fst heq)).of_fst heq2
/-- The state in which a fetch leaves the path. -/
def fetched : Except State State → State
  | .ok t => t
  | .error t => t
theorem State.Canonical.fetchIssue {s} (hc : s.Canonical) : (fetched (fetchIssue s)).Canonical := by
  unfold Machine.fetchIssue
  extract_lets a p ps
  split
  next heq =>
    have ht := hc.fetchAll.of_fst heq
    extract_lets bad good at1 first
    have hat : ∀ {qs w}, (at1 qs w).Canonical := ht.upd
    split
    · exact ht.stall
    · clear_value bad good
      split
      · split
        exact hat.stop
      · exact ht.upd
      · split
        · exact hat.raise
        · split
          · exact hat.raise
          · extract_lets s1
            have hs1 : s1.Canonical := hat.ite hat
            split
            · exact hs1.stranded
            · exact hs1
theorem State.Canonical.decodeTrap {e s} (hc : s.Canonical) : (decodeTrap e s).Canonical := hc.raise
theorem State.Canonical.castShadows {s} (hc : s.Canonical) : (castShadows s).Canonical := hc.ite hc.upd.useFree
theorem State.Canonical.takeBack {b a s} (hc : s.Canonical) : (takeBack b a s).Canonical := hc.ite hc.setAgent.upd.useFree
theorem State.Canonical.keepOld {b old s} (hc : s.Canonical) : (keepOld b old s).Canonical := by
  unfold Machine.keepOld
  split
  · exact hc
  · extract_lets upd
    exact hc.setAgent
theorem State.Canonical.prepare {s t i} (hc : s.Canonical) (e : prepare s = .ok (t, i)) : t.Canonical := by
  have hf := hc.fetchIssue
  unfold Machine.prepare at e
  split at e
  · cases e
  next heq =>
    rw [heq] at hf
    split at e
    · cases e
    · cases e
      exact State.Canonical.castShadows hf.upd
theorem State.Canonical.prepare_error {s t} (hc : s.Canonical) (e : Machine.prepare s = .error t) : t.Canonical := by
  have hf := hc.fetchIssue
  unfold Machine.prepare at e
  split at e
  next heq =>
    cases e
    rw [heq] at hf
    exact hf
  next heq =>
    rw [heq] at hf
    split at e
    · cases e
      exact State.Canonical.decodeTrap hf
    · cases e
theorem State.Canonical.wake {s} (hc : s.Canonical) : (wake s).Canonical := hc.upd
theorem State.Canonical.settleWord {s t} (hc : t.Canonical) : (settleWord s t).Canonical := by
  unfold Machine.settleWord
  extract_lets id trial
  have htrial : ∀ {u}, u.Canonical → (trial u).Canonical := fun hu => hu.countTrial.ite hu
  split
  · exact (hc.count.ite (hc.countTrial.ite hc)).wake
  · refine .ite (htrial hc.takeBack) ?_
    refine .ite ?_ ?_
    · extract_lets t1 a1
      have ht1 : t1.Canonical := hc.upd.takeBack
      exact ht1.setAgent
    · extract_lets t1 t2 _ a1 t3 t4 trapped
      have ht2 : t2.Canonical := hc.takeBack.ite hc.takeBack.keepOld
      have ht4 : t4.Canonical := ht2.setAgent.count.ite (htrial ht2.setAgent)
      exact (ht4.ite ht4.takeHit).wake

-- Of Sys2Proof/Machine/Pair.lean.

theorem State.Canonical.putHalfWrite {w s} (hc : s.Canonical) : (putHalfWrite w s).Canonical := by
  unfold Machine.putHalfWrite
  split
  · exact hc
  · exact hc.setS
  · exact hc.setV.raiseFlags
  · exact hc.setM
theorem execPairWord_keeps {x y} (b : Bool) : Keeps (execPairWord b x y) :=
  .next fun hc => hc.unlessMarked fun hu => hu.unlessMarked fun hu1 => hu1.putHalfWrite.putHalfWrite.retire

-- Of Sys2Proof/Machine/Dispatch.lean.

theorem exec_keeps (i : Instr) : Keeps (exec i) :=
  match i with
  | .sAdd .. | .sSub .. | .sMul .. | .sMulh .. | .sMulhu .. | .sDiv .. | .sDivu .. | .sRem .. | .sRemu .. | .sAnd .. | .sOr ..
    | .sXor .. | .sAndn .. | .sShl .. | .sShr .. | .sSra .. | .sMin .. | .sMax .. | .sMinu .. | .sMaxu .. | .sClz .. | .sPopc ..
    | .sBfx .. | .sBfi .. | .sMad .. | .sCmp .. | .sSel .. | .sMov .. | .sAddi .. | .sAndi .. | .sOri .. | .sXori .. | .sShli ..
    | .sShri .. | .sSrai .. | .sCmpi .. | .sMovi .. | .sMovhi .. | .sAddpc .. | .sRdsr .. => .next fun hc => hc.scalarTo
  | .bra .. | .brS .. | .brAny .. | .brAll .. => .next fun hc => hc.branch
  | .brDiv .. => execBrDiv_keeps
  | .join .. => execJoin_keeps
  | .loop .. => execLoop_keeps
  | .call .. => execCall_keeps
  | .ret .. => execRet_keeps
  | .callT .. => execCallT_keeps
  | .jmpT .. => execJmpT_keeps
  | .exit .. => execExit_keeps
  | .plane .. | .planeI .. => .next fun hc => hc.plane
  | .allBegin .. => execAllBegin_keeps
  | .allEnd .. => execAllEnd_keeps
  | .barT .. | .barC .. => .next fun hc => hc.arriveAt
  | .waitcnt .. => execWaitcnt_keeps
  | .yield .. => execYield_keeps
  | .launch .. => execLaunch_keeps
  | .chwait .. => execChwait_keeps
  | .nop .. | .hnop .. => .next fun hc => hc.retire
  | .vAdd .. | .vSub .. | .vMul .. | .vMulh .. | .vMulhu .. | .vMad .. | .vAnd .. | .vOr .. | .vXor .. | .vAndn .. | .vShl ..
    | .vShr .. | .vSra .. | .vMin .. | .vMax .. | .vMinu .. | .vMaxu .. | .vAbs .. | .vClz .. | .vPopc .. | .vBfx .. | .vBfi ..
    | .vAddsat .. | .vSubsat .. | .vDot4 .. | .vSel .. | .vMov .. | .vMovs .. | .vAddi .. | .vAndi .. | .vShli .. | .vShri ..
    | .vSrai .. | .vMovi .. | .fClass .. | .laneid .. | .shflIdx .. | .shflUp .. | .shflDn .. | .shflXor .. => .next fun hc => hc.vectorTo
  | .vCmp .. | .voteAny .. | .voteAll .. => .next fun hc => hc.maskTo
  | .fAdd .. | .fSub .. | .fMul .. | .fMin .. | .fMax .. | .fDiv .. => .next fun hc => hc.float2
  | .fFma .. | .fCvt .. | .fCvtiToInt .. | .fPack .. | .hAdd .. | .hMul .. | .hFma .. | .fScale .. | .fDeq .. =>
    .next fun hc => hc.unlessMarked fun hu => hu.floatTo
  | .fCmp .. => execFCmp_keeps
  | .fSqrt .. | .fRcp .. | .fRsq .. | .fExp2 .. | .fLog2 .. | .fSinpi .. | .fCospi .. | .fTanh .. | .fRnd .. => .next fun hc => hc.float1
  | .fCvtiToFloat .. => execFCvtiToFloat_keeps
  | .fUnpk .. => execFUnpk_keeps
  | .ballot .. | .v2s .. | .mPopc .. | .mFfs .. | .mTos .. | .mGetx .. => .next fun hc => hc.reduceTo
  | .rdxAdd .. | .rdxMin .. | .rdxMax .. => .next fun hc => hc.rdx
  | .scanAdd .. => execScanAdd_keeps
  | .s2l .. => execS2l_keeps
  | .mAnd .. | .mOr .. | .mXor .. | .mNot .. | .mMov .. | .mFroms .. => .next fun hc => hc.maskOp
  | .mSetx .. => execMSetx_keeps
  | .ld .. | .st .. | .ldS .. | .stS .. | .ldg .. | .stg .. => .next fun hc => hc.memory
  | .atom .. | .atomS .. | .rstore .. => .next fun hc => hc.unlessMarked fun hu => hu.memory
  | .fence .. => execFence_keeps
  | .cinvRange .. => execCinvRange_keeps
  | .cinvAll .. => execCinvAll_keeps
  | .pref .. => execPref_keeps
  | .kset .. => execKset_keeps
  | .kmod .. => execKmod_keeps
  | .boxLd .. | .boxSt .. | .boxCp .. => .next fun hc => hc.boxIssue
  | .cpfence .. | .mfence .. | .prog .. => .next fun hc => (hc.uniform fun hu => hu.upd).retire
  | .cpwait .. | .mwait .. | .bxw .. => .next fun hc => hc.retire.ite (hc.stall.ite hc.waitDone)
  | .mldN .. | .mldW .. => .next fun hc => hc.matIssue fun hu => hu.mldIssue
  | .mma .. | .mmaz .. => .next fun hc => hc.matIssue fun hu => hu.mmaIssue
  | .epi .. | .epiRs .. => .next fun hc => hc.matIssue fun hu => hu.epiIssue
  | .cbarArr .. => execCbarArr_keeps
  | .cbarWait .. => execCbarWait_keeps
  | .cbarTest .. => execCbarTest_keeps
  | .collAr .. | .collRs .. | .collAg .. | .collBc .. => .next fun hc => hc.collIssue
  | .collStep .. => execCollStep_keeps
  | .drvStart .. => execDrvStart_keeps
  | .sWrsr .. => execSWrsr_keeps
  | .trap .. | .brk .. | .halt .. => .next fun hc => hc.selfTrap
  | .tret .. => execTret_keeps
  | .resumeByMask .. | .resumeComplete .. | .resumeDiscard .. => .next fun hc => hc.resume
  | .snap .. => execSnap_keeps
  | .snapTry .. => execSnapTry_keeps
  | .snapw .. => execSnapw_keeps
  | .trace .. => execTrace_keeps
  | .rand .. => execRand_keeps
  | .knell .. => execKnell_keeps
  | .bxiLd .. | .bxiSt .. | .bxiCp .. => .next fun hc => hc.bxi
  | .darr .. => execDarr_keeps
  | .dwait .. => execDwait_keeps
  | .idxldFill .. => execIdxldFill_keeps
  | .idxldRead .. => execIdxldRead_keeps
  | .tblld .. => execTblld_keeps
  | .dend .. => execDend_keeps
  | .gangIssueSelect .. => execGangIssueSelect_keeps
  | .loadDataReturn .. => execLoadDataReturn_keeps
  | .storeAck .. => execStoreAck_keeps
  | .pageWalkStart .. => execPageWalkStart_keeps
  | .pageWalkComplete .. => execPageWalkComplete_keeps
  | .tlbinvPage .. | .tlbinvContext .. | .tlbinvAllContexts .. => .next fun hc => hc.queueInv
  | .tlbinvReservedKind .. => execTlbinvReservedKind_keeps
  | .tlbinvDone .. => execTlbinvDone_keeps
  | .homeReadRequest .. => execHomeReadRequest_keeps
  | .homeWriteRequest .. => execHomeWriteRequest_keeps
  | .homeReduceRequest .. => execHomeReduceRequest_keeps
  | .directoryInvalidateAck .. => execDirectoryInvalidateAck_keeps
  | .reduceRegistered .. => execReduceRegistered_keeps
  | .l2Writeback .. => execL2Writeback_keeps
  | .rowActivationLimit .. => execRowActivationLimit_keeps
  | .rowRefresh .. | .errlogbRead .. => .next fun hc => hc.setDie
  | .patrolScrub .. => execPatrolScrub_keeps
  | .clusterRemoteAccess .. => execClusterRemoteAccess_keeps
  | .l1IntervalDecision .. => execL1IntervalDecision_keeps
  | .hostPostedWrite .. | .hostRead .. | .hostFetchadd .. | .hostSwap .. | .hostCas .. => .next fun hc => hc.hostArrives
  | .linkCompletion .. => execLinkCompletion_keeps
  | .boxTransferStart .. => execBoxTransferStart_keeps
  | .bxiAccept .. => execBxiAccept_keeps
  | .tableSlotFill .. => execTableSlotFill_keeps
  | .boxTransferComplete .. => execBoxTransferComplete_keeps
  | .boxTransferFault .. => execBoxTransferFault_keeps
  | .mldComplete .. => execMldComplete_keeps
  | .mmaComplete .. => execMmaComplete_keeps
  | .epiComplete .. => execEpiComplete_keeps
  | .epiRsComplete .. => execEpiRsComplete_keeps
  | .matrixOpFault .. => execMatrixOpFault_keeps
  | .collectiveChunkArrival .. => execCollectiveChunkArrival_keeps
  | .stepVoteArrival .. => execStepVoteArrival_keeps
  | .collectiveComplete .. => execCollectiveComplete_keeps
  | .knellArrival .. => execKnellArrival_keeps
  | .fatalGroupFault .. => execFatalGroupFault_keeps
  | .stepReportArrival .. => execStepReportArrival_keeps
  | .agreementTimeout .. => execAgreementTimeout_keeps
  | .grpcmdOpen .. => execGrpcmdOpen_keeps
  | .grpcmdClose .. => execGrpcmdClose_keeps
  | .fabricReadRequest .. => execFabricReadRequest_keeps
  | .fabricWriteRequest .. => execFabricWriteRequest_keeps
  | .fabricAtomicRequest .. => execFabricAtomicRequest_keeps
  | .fabricResponse .. => execFabricResponse_keeps
  | .fabricReservedKind .. => execFabricReservedKind_keeps
  | .portDown .. => execPortDown_keeps
  | .timeSyncMessage .. => execTimeSyncMessage_keeps
  | .haltNotice .. => execHaltNotice_keeps
  | .waybillCheckpoint .. => execWaybillCheckpoint_keeps
  | .localCut .. => execLocalCut_keeps
  | .cutDrainComplete .. => execCutDrainComplete_keeps
  | .cairnArrival .. => execCairnArrival_keeps
  | .granuleCapture .. => execGranuleCapture_keeps
  | .packhorseSweep .. => execPackhorseSweep_keeps
  | .recordDurable .. => execRecordDurable_keeps
  | .recordWriteFail .. => execRecordWriteFail_keeps
  | .localCompletion .. => execLocalCompletion_keeps
  | .completionReport .. => execCompletionReport_keeps
  | .coordinatorNoticeArrival .. => execCoordinatorNoticeArrival_keeps
  | .globalCompletionNotice .. => execGlobalCompletionNotice_keeps
  | .snapcmdStart .. => execSnapcmdStart_keeps
  | .snapcmdRelease .. => execSnapcmdRelease_keeps
  | .abortRecordsDurable .. => execAbortRecordsDurable_keeps
  | .restcmdGo .. => execRestcmdGo_keeps
  | .restoreComplete .. => execRestoreComplete_keeps
  | .hostEnqueue .. => execHostEnqueue_keeps
  | .gridDispatch .. => execGridDispatch_keeps
  | .lnklogcRead .. => execLnklogcRead_keeps
  | .teamOffer .. => execTeamOffer_keeps
  | .teamPlace .. => execTeamPlace_keeps
  | .unitReserving .. => execUnitReserving_keeps
  | .allocationZeroFillDone .. => execAllocationZeroFillDone_keeps
  | .bindingContextGrant .. => execBindingContextGrant_keeps
  | .gridRetire .. => execGridRetire_keeps
  | .droverTrap .. => execDroverTrap_keeps
  | .droverProgramFault .. => execDroverProgramFault_keeps
  | .droverBarrierMark .. => execDroverBarrierMark_keeps
  | .droverContextFree .. => execDroverContextFree_keeps
  | .trapEntry .. => execTrapEntry_keeps
  | .pregridRequest .. => execPregridRequest_keeps
  | .pregridWithdraw .. => execPregridWithdraw_keeps
  | .pdlExpire .. => execPdlExpire_keeps
  | .teamSave .. => execTeamSave_keeps
  | .teamResume .. => execTeamResume_keeps
  | .causalTrialStart .. => execCausalTrialStart_keeps
  | .causalDelayPayment .. => execCausalDelayPayment_keeps
  | .causalTrialEnd .. => execCausalTrialEnd_keeps
  | .freezeCommand .. => execFreezeCommand_keeps
  | .freezePin .. => execFreezePin_keeps
  | .freezeLatch .. => execFreezeLatch_keeps
  | .frzstRearm .. => execFrzstRearm_keeps
  | .readbackRead .. => execReadbackRead_keeps
  | .hgcmdEndGrid .. => execHgcmdEndGrid_keeps
  | .hgcmdResumeComplete .. | .hgcmdResumeDiscard .. => .next fun hc => hc.hgResume
  | .parklogbRead .. => execParklogbRead_keeps
  | .warmReset .. => execWarmReset_keeps
  | .functionLevelReset .. => execFunctionLevelReset_keeps
  | .powerOnBoot .. => execPowerOnBoot_keeps
  | .spdmRequest .. => execSpdmRequest_keeps
  | .mclkAdjust .. => execMclkAdjust_keeps
  | .registerWrite .. => execRegisterWrite_keeps
  | .powerLoss .. => execPowerLoss_keeps
  | .managementRequest .. => execManagementRequest_keeps
  | .refreshManagementComplete .. => execRefreshManagementComplete_keeps
  | .thermalShutdown d => execThermalShutdown_keeps d
  | .cbarInit _ _ scope _ _ => execCbarInit_keeps scope
  | .pairWord as _ _ => execPairWord_keeps as

-- Of Sys2Proof/Machine/Clock.lean.

theorem State.Canonical.passTime {s} (hc : s.Canonical) : (passTime s).Canonical := hc.upd
theorem State.Canonical.tickCore {c s} (hc : s.Canonical) : (tickCore c s).Canonical := (hc.count.ite hc).setCore
theorem State.Canonical.startWalker {core s} (hc : s.Canonical) : (startWalker core s).Canonical :=
  hc.after_of (hc.after_ execBxiAccept_keeps) execBoxTransferStart_keeps
theorem State.Canonical.endInterval {s} (hc : s.Canonical) : (endInterval s).Canonical := hc.ite (hc.foldl fun hu => hu.ite hu.decideL1)
theorem State.Canonical.strikes {s} (hc : s.Canonical) : (Machine.strikes s).Canonical := hc.upd.foldl fun hu => hu.strike
theorem State.Canonical.tick {s} (hc : s.Canonical) : (tick s).Canonical := by
  unfold Machine.tick
  extract_lets s1 s2 s3 s4 s5
  have hs1 : s1.Canonical := hc.after_ execCausalDelayPayment_keeps
  have hs2 : s2.Canonical := hs1.endInterval.foldl fun hu => hu.startWalker
  have hs3 : s3.Canonical := hs2.upd.passTime.strikes
  have hs4 : s4.Canonical := hs3.foldl fun hu => hu.tickCore
  have hs5 : s5.Canonical := hs4.foldl fun hu => hu.ite hu.count
  clear_value s5
  exact hs5.upd
-- The events that the state brings forth by itself (DESIGN CHOICE [1]).

/-- Every event of a list keeps memory canonical. -/
def AllKeep (l : List Event) : Prop := ∀ e ∈ l, Keeps e
theorem AllKeep.nil : AllKeep [] := fun _ h => absurd h List.not_mem_nil
theorem AllKeep.cons {e : Event} {l : List Event} (he : Keeps e) (hl : AllKeep l) : AllKeep (e :: l) := List.forall_mem_cons.2 ⟨he, hl⟩
theorem AllKeep.append {k l : List Event} (hk : AllKeep k) (hl : AllKeep l) : AllKeep (k ++ l) := List.forall_mem_append.2 ⟨hk, hl⟩
theorem AllKeep.filter {p : Event → Bool} {l : List Event} (hl : AllKeep l) : AllKeep (l.filter p) := fun e h => hl e (List.mem_of_mem_filter h)
theorem AllKeep.map {α : Type} {f : α → Event} {l : List α} (hf : ∀ a, Keeps (f a)) : AllKeep (l.map f) := List.forall_mem_map.2 fun a _ => hf a
theorem AllKeep.flatMap {α : Type} {f : α → List Event} {l : List α} (hf : ∀ a, AllKeep (f a)) : AllKeep (l.flatMap f) := by
  intro e he
  obtain ⟨a, -, ha⟩ := List.mem_flatMap.1 he
  exact hf a e ha

theorem memOp_events_keep (o : MemOp) : AllKeep o.events := by
  unfold MemOp.events
  split
  · exact .cons freeHeld_keeps .nil
  · split
    · exact .cons execHomeReadRequest_keeps (.cons execClusterRemoteAccess_keeps (.cons execLoadDataReturn_keeps .nil))
    · exact .cons execHomeReadRequest_keeps (.cons execLoadDataReturn_keeps .nil)
    · exact .cons execHomeWriteRequest_keeps (.cons execClusterRemoteAccess_keeps (.cons execStoreAck_keeps .nil))
    · exact .cons execHomeWriteRequest_keeps (.cons execClusterRemoteAccess_keeps (.cons execLoadDataReturn_keeps .nil))
    · exact .cons execHomeReduceRequest_keeps (.cons execClusterRemoteAccess_keeps (.cons execReduceRegistered_keeps .nil))
theorem ackEvents_keep (s : State) (o : MemOp) : AllKeep (s.ackEvents o) := .flatMap fun _ => .map fun _ => execDirectoryInvalidateAck_keeps
theorem channelEvents_keep (ch : Nat) (p : Packet) : AllKeep (channelEvents ch p) := by
  unfold channelEvents
  split
  · exact .cons execFabricReadRequest_keeps .nil
  · exact .cons execFabricWriteRequest_keeps .nil
  · exact .cons execFabricAtomicRequest_keeps .nil
  · exact .cons execFabricResponse_keeps .nil
  · exact .cons execCollectiveChunkArrival_keeps .nil
  · exact .cons execStepVoteArrival_keeps .nil
  · exact .cons execCairnArrival_keeps .nil
  · exact .cons execKnellArrival_keeps .nil
  · exact .cons execStepReportArrival_keeps .nil
  · exact .cons execTimeSyncMessage_keeps .nil
  · exact .cons execCoordinatorNoticeArrival_keeps (.cons execGlobalCompletionNotice_keeps .nil)
  · exact .cons execHaltNotice_keeps .nil
  · exact .cons execFabricReservedKind_keeps .nil
theorem coreEvents_keep (c : Nat) : AllKeep (coreEvents c) :=
  .append (.cons execBoxTransferStart_keeps (.cons execBxiAccept_keeps (.cons execBoxTransferStep_keeps (.cons execBoxTransferComplete_keeps
    (.cons execBoxTransferFault_keeps (.cons execMldComplete_keeps (.cons execMmaComplete_keeps (.cons execEpiComplete_keeps
    (.cons execEpiRsComplete_keeps (.cons execMatrixOpFault_keeps .nil)))))))))) (.map fun _ => execTableSlotFill_keeps)
theorem dieEvents_keep (s : State) (d : Nat) : AllKeep (s.dieEvents d) :=
  .append (.append (.cons execPageWalkStart_keeps (.cons execPageWalkComplete_keeps (.cons execPackhorseSweep_keeps
    (.cons execRecordDurable_keeps (.cons execTeamPlace_keeps (.cons execUnitReserving_keeps (.cons execBindingContextGrant_keeps .nil)))))))
    (.map fun _ => execRowActivationLimit_keeps)) (.map fun _ => execRefreshManagementComplete_keeps)
theorem agentEvents_keep (a : Agent) : AllKeep (agentEvents a) := by
  unfold agentEvents
  split
  · exact .cons execDroverTrap_keeps (.cons execDroverProgramFault_keeps (.cons execDroverBarrierMark_keeps (.cons execDroverContextFree_keeps .nil)))
  · exact .cons execTrapEntry_keeps (.cons execSettle_keeps (.cons execUnsend_keeps (.cons (.next fun hc => hc.hitDue) .nil)))
theorem teamEvents_keep (t : Team) : AllKeep (teamEvents t) := by
  unfold teamEvents
  split
  · exact .nil
  · exact .cons execAllocationZeroFillDone_keeps .nil
  · exact .cons execPdlExpire_keeps (.cons execTeamSave_keeps .nil)
  · exact .cons execTeamResume_keeps .nil
  · exact .cons execTeamSave_keeps .nil
theorem colourEvents_keep (c : Bool) : AllKeep (colourEvents c) :=
  .cons execLocalCut_keeps (.cons execCutDrainComplete_keeps (.cons execLocalCompletion_keeps (.cons execCompletionReport_keeps
    (.cons execAbortRecordsDurable_keeps .nil))))
theorem prospects_keep (s : State) : AllKeep s.prospects := by
  have hlast : AllKeep [execTlbinvDone, execGridDispatch, execTeamOffer, execLinkWrites, execReapTeams, execCausalTrialStart,
      execCausalDelayPayment, execCausalTrialEnd] :=
    .cons execTlbinvDone_keeps (.cons execGridDispatch_keeps (.cons execTeamOffer_keeps (.cons execLinkWrites_keeps (.cons execReapTeams_keeps
      (.cons execCausalTrialStart_keeps (.cons execCausalDelayPayment_keeps (.cons execCausalTrialEnd_keeps .nil)))))))
  unfold State.prospects
  refine .append (.append (.append (.append (.append (.append (.append (.append (.append (.append (.append (.append (.append (.append (.append
    (.append (.append (.append (.append ?_ ?_) ?_) ?_) ?_) ?_) ?_) ?_) ?_) ?_) ?_) ?_) ?_) ?_) ?_) ?_) ?_) ?_) ?_) hlast
  · exact .flatMap memOp_events_keep
  · exact .flatMap (ackEvents_keep s)
  · exact .flatMap fun _ => .flatMap (channelEvents_keep _)
  · exact .flatMap coreEvents_keep
  · exact .flatMap (dieEvents_keep s)
  · exact .flatMap agentEvents_keep
  · exact .flatMap teamEvents_keep
  · exact colourEvents_keep _
  · exact colourEvents_keep _
  · exact .map fun _ => execGridRetire_keeps
  · exact .map fun _ => execCollectiveComplete_keeps
  · exact .map fun _ => execCollectiveWork_keeps
  · exact .map fun _ => execRingDown_keeps
  · exact .map fun _ => execHostServe_keeps
  · exact .map fun _ => execAgreementTimeout_keeps
  · exact .map fun _ => .next fun hc => hc.injectChunk
  · exact .cons (.next fun hc => hc.postedDue) .nil
  · exact .map fun _ => execCollectiveWork_keeps
  · exact .map fun _ => execWaybillCheckpoint_keeps
theorem memoryEvents_keep (s : State) : AllKeep s.memoryEvents := by
  unfold State.memoryEvents
  refine .append (.append (.append (.append (.append ?_ ?_) ?_) ?_) ?_) ?_
  · exact .flatMap memOp_events_keep
  · exact .flatMap (ackEvents_keep s)
  · exact .flatMap fun _ => .flatMap (channelEvents_keep _)
  · exact .map fun _ => execHostServe_keeps
  · exact .cons (.next fun hc => hc.postedDue) .nil
  · exact .flatMap fun _ => .map fun _ => execRefreshManagementComplete_keeps
theorem overdue_keep (s : State) : AllKeep s.overdue := by
  unfold State.overdue
  split
  · exact (memoryEvents_keep s).filter
  · exact .nil
theorem options_keep (s : State) : AllKeep s.options := by
  unfold State.options
  extract_lets late us
  split
  · exact .cons execFreezeLatch_keeps .nil
  · split
    · exact overdue_keep s
    · refine .append (.append (.map fun _ => execGangIssueSelect_keeps) (prospects_keep s).filter) ?_
      split
      · exact .cons (.next fun hc => hc.tick) .nil
      · exact .nil
theorem State.Canonical.advance {s} (hc : s.Canonical) : (advance s).Canonical := by
  unfold Machine.advance
  extract_lets os s1
  have hs1 : s1.Canonical := hc.useFree.ite hc
  split
  next heq =>
    have ht := hs1.after_ (options_keep s _ (List.mem_of_getElem? heq))
    exact ht.ite ht.wake
  · exact hs1.tick

-- Of Sys2Proof/Machine/Step.lean.

theorem issue_keeps : Keeps issue := by
  intro s u hc e
  unfold issue at e
  split at e
  next heq =>
    cases e
    exact (hc.prepare_error heq).wake
  next heq =>
    split at e
    next heq2 =>
      cases e
      exact State.Canonical.settleWord (exec_keeps _ _ _ (hc.prepare heq) heq2)
    · cases e
    · cases e
theorem event_keeps (i : Instr) : Keeps (event i) := by
  intro s u hc e
  unfold event at e
  split at e
  next heq =>
    cases e
    exact (exec_keeps _ _ _ hc heq).wake
  · cases e
  · cases e
theorem step_keeps : Keeps step := by
  intro s u hc e
  unfold step at e
  split at e
  · exact issue_keeps _ _ hc e
  · split at e
    · exact event_keeps _ _ _ hc.upd e
    · cases e
      exact hc.upd
  · cases e
    exact hc.advance
  · cases e
    exact hc.passTime
  · cases e

/-- Settles O60: memory is written by stores, by what DRAM gives back, by zero fills and by resets, each of which keeps its list canonical; every
other function changes what is not memory, and the lemmas above follow the calls of `step`. -/
theorem stepKeepsMemoryCanonical : Obligations.StepKeepsMemoryCanonical := step_keeps
end Sys2Proof.Machine
end

section
/-!
PROOFS. A queued transfer whose team is saved is not started (R325, R392, R422).
-/
namespace Sys2Proof.Machine

section
variable {s : State} {core : Nat} {x : Xfer} (hqueue : (s.core core).queue = [x.id]) (hx : s.xfer? x.id = some x) (hlocked : x.locked = true)
include hqueue hx hlocked

/-- A transfer that holds its locks registers none. -/
theorem lockQueued_of_locked : lockQueued core s = s := by simp [lockQueued, hqueue, hx, hlocked]
/-- The walker passes over a transfer whose team is saved, whether or not its locks are registered (R325). -/
theorem execBoxTransferStart_of_awaitsTeam (hsaved : s.awaitsTeam x = true) : execBoxTransferStart core s = .next s := by
  unfold execBoxTransferStart
  rw [lockQueued_of_locked hqueue hx hlocked]
  have hnone : ((s.core core).queue.filterMap s.xfer?).filter (fun y => y.locked && !s.cutting y.grid && !s.awaitsTeam y) = [] := by
    simp [hqueue, hx, hsaved]
  simp only [hnone, firstXfer, List.foldl_nil, ite_self]

end

/-- A load of a box into the scratchpad of team 1, accepted, with its locks registered. -/
def savedTeamsCopy : Xfer := { State.reset.newXfer .ld 1 0 0 0 0 [0, 0, 0] [] with accepted := true, locked := true }
/-- It is alone in the queue of core 0, and team 1 is saved. -/
def savedTeamQueued : State :=
  { State.reset with
    teams := [{ Team.absent with id := 1, state := .saved }]
    cores := [(0, { CoreState.reset with queue := [savedTeamsCopy.id] })]
    eng := ⟨[savedTeamsCopy], []⟩ }

theorem savedTeamQueued_awaits : savedTeamQueued.awaitsTeam savedTeamsCopy = true := by decide +kernel
theorem savedTeamQueued_stays : execBoxTransferStart 0 savedTeamQueued = .next savedTeamQueued :=
  execBoxTransferStart_of_awaitsTeam rfl rfl rfl savedTeamQueued_awaits

/-- Refutes O51: a walker passes over a transfer into the scratchpad of a saved team (`awaitsTeam`, R325). The first clause asks that the
transfer holds its locks and that no cut stops its grid; it does not ask that its team is not saved, and leaves it to other parts of the
model that a team is saved only when no lock stands in its allocation (R421). -/
theorem not_engineEvents : ¬ Obligations.EngineEvents := by
  unfold Obligations.EngineEvents
  rintro ⟨hstart, -⟩
  obtain ⟨t, hexec, hrunning, -⟩ := hstart savedTeamQueued 0 savedTeamsCopy rfl rfl rfl rfl (by decide +kernel)
  have ht : t = savedTeamQueued := Host.Outcome.next.inj ((show execBoxTransferStart 0 savedTeamQueued = .next t from hexec).symm.trans
    savedTeamQueued_stays)
  rw [ht] at hrunning
  exact absurd hrunning (by decide)
end Sys2Proof.Machine
end

section
/-!
PROOFS. EXIT (R100, R101, R254): what the end of lanes leaves of their gang, and what is left of a gang without live lanes.
-/
namespace Sys2Proof.Machine

-- What the stacks, the window and the paths of a gang do not hold (R167, R206, R254).

/-- Number, LIVE, EXEC, scalar and mask registers of an agent. -/
def Agent.lasting (a : Agent) : Nat × U64 × U64 × SMap U64 × SMap U64 := (a.id, a.live, a.exec, a.sregs, a.mregs)
/-- They are as they were for the agent at issue, and so are the agents that are not at issue. -/
def Undisturbed (s t : State) : Prop := t.g.lasting = s.g.lasting ∧ t.agents = s.agents

theorem undisturbed_iff {s t : State} : Undisturbed s t ↔ (t.g.id = s.g.id ∧ t.g.live = s.g.live ∧ t.g.exec = s.g.exec ∧
    t.g.sregs = s.g.sregs ∧ t.g.mregs = s.g.mregs) ∧ t.agents = s.agents := by
  simp only [Undisturbed, Agent.lasting, Prod.mk.injEq]
theorem Undisturbed.refl (s : State) : Undisturbed s s := ⟨rfl, rfl⟩
theorem Undisturbed.trans {s t u : State} (h : Undisturbed s t) (k : Undisturbed t u) : Undisturbed s u :=
  ⟨k.1.trans h.1, k.2.trans h.2⟩
/-- An update of the agent's paths, stacks and window, and of the module beside its agents. It names the fields, so that the state is found from
the record. -/
theorem Undisturbed.upd {s t : State} {ops cores dies grids teams sel region paths nextPath gap gw divs calls frames wb rb spill noHit walked}
    (h : Undisturbed s t) : Undisturbed s { t with
      ops := ops, cores := cores, dies := dies, grids := grids, teams := teams, sel := sel
      g := { t.g with
        region := region, paths := paths, nextPath := nextPath, gap := gap, gw := gw, divs := divs, calls := calls, frames := frames, wb := wb
        rb := rb, spill := spill, noHit := noHit, walked := walked } } := h

section
variable {s t : State} (h : Undisturbed s t)
include h

theorem Undisturbed.ite {c : Prop} [Decidable c] {u : State} (k : Undisturbed s u) : Undisturbed s (if c then t else u) := by
  split
  · exact h
  · exact k
theorem Undisturbed.foldl {α : Type} {f : State → α → State} {l : List α} (hf : ∀ {u a}, Undisturbed s u → Undisturbed s (f u a)) :
    Undisturbed s (l.foldl f t) := List.foldlRecOn l f h fun _ hu _ _ => hf hu
/-- An update of the agent at issue that keeps what lasts, made over and over. -/
theorem Undisturbed.agentFold {α : Type} {f : Agent → α → Agent} {l : List α} (hf : ∀ a x, (f a x).lasting = a.lasting) :
    Undisturbed s { t with g := l.foldl f t.g } :=
  ⟨List.foldlRecOn (motive := fun a => a.lasting = s.g.lasting) l f h.1 fun a ha x _ => (hf a x).trans ha, h.2⟩

theorem Undisturbed.records {u : State} (k : OnlyRecords t u) : Undisturbed s u := by
  refine h.trans ?_
  unfold OnlyRecords at k
  rw [k]
  exact ⟨rfl, rfl⟩
theorem Undisturbed.memory {u : State} (k : OnlyMemory t u) : Undisturbed s u := by
  refine h.trans ?_
  rw [k.1]
  exact ⟨rfl, rfl⟩
theorem Undisturbed.capture {w : Bool} {gr : Nat} : Undisturbed s (capture w gr t) := h.records (capture_only w gr t)
theorem Undisturbed.touch {l : List Nat} : Undisturbed s (touch l t) := h.records (touch_only l t).1
theorem Undisturbed.writeMem {a : Nat} {bs : List Byte} : Undisturbed s (t.writeMem a bs) := h.memory ((OnlyMemory.refl t).writeMem a bs)

-- The window and the stacks (R73, R74, R206, R207, R250).

theorem Undisturbed.respill : Undisturbed s (respill t) := h.upd
theorem Undisturbed.spillRegs {base n off : Nat} : Undisturbed s (spillRegs base n off t) := h.foldl fun hu => hu.foldl fun hv => hv.writeMem
theorem Undisturbed.refillRegs {base n off : Nat} : Undisturbed s (refillRegs base n off t) :=
  h.foldl fun hu => hu.touch.agentFold fun _ _ => rfl
theorem Undisturbed.spillEntry {off : Nat} {x lanes : U64} : Undisturbed s (spillEntry off x lanes t) := h.foldl fun hu => hu.writeMem
theorem Undisturbed.openFrame {f : Nat} : Undisturbed s (openFrame f t) :=
  h.ite ((Undisturbed.foldl h.upd fun hu => hu.spillRegs.upd.respill).upd.foldl fun hu => hu.touch.agentFold fun _ _ => rfl)
theorem Undisturbed.closeFrame {f : Nat} : Undisturbed s (closeFrame f t) := by
  unfold Machine.closeFrame
  refine h.ite ?_
  split
  · exact h
  · dsimp only
    split
    · exact h.upd
    · exact h.upd.refillRegs.upd.respill
theorem Undisturbed.refillCalls : Undisturbed s (refillCalls t) := by
  unfold Machine.refillCalls
  refine h.ite ?_
  split
  · exact h
  · exact h.upd.respill
theorem Undisturbed.refillDivs : Undisturbed s (refillDivs t) := by
  unfold Machine.refillDivs
  refine h.ite ?_
  split
  · exact h
  · exact h.upd.respill
theorem Undisturbed.pushCall {ret : Offs} {f owner : Nat} {lanes : U64} {group : Bool} : Undisturbed s (pushCall ret f owner lanes group t) := by
  unfold Machine.pushCall
  extract_lets off v _
  have hv : Undisturbed s v := by
    refine .ite ?_ h
    split
    · exact h
    · exact h.spillEntry.upd.respill
  exact hv.upd.openFrame

-- The arrival of paths, and lanes that have left LIVE (R170, R249, R254).

theorem Undisturbed.arrive {fuel pid : Nat} : Undisturbed s (arrive fuel pid t) := by
  induction fuel generalizing pid t with
  | zero => exact h
  | succ n ih =>
    unfold Machine.arrive
    dsimp only
    split
    · exact h.upd
    · refine .ite h.upd ?_
      split
      · exact h.upd.pushCall.ite h.upd
      · exact (ih h.upd.respill.refillDivs).ite h.upd.respill.refillDivs.upd
theorem Undisturbed.dropCalls {fuel : Nat} : Undisturbed s (dropCalls fuel t) := by
  induction fuel generalizing t with
  | zero => exact h
  | succ n ih =>
    unfold Machine.dropCalls
    split
    · exact h
    · exact ih h.upd.closeFrame.respill.refillCalls
theorem Undisturbed.settle : Undisturbed s (settle t) := h.dropCalls.upd.foldl fun hu => hu.arrive
theorem Undisturbed.finish {hint : Hint} {same : Bool} {o : Offs} : Undisturbed s (finish hint same o t) := h.upd
theorem Undisturbed.leaveHints {hint : Hint} : Undisturbed s (leaveHints hint t) := h.upd
theorem Undisturbed.leaveRegion : Undisturbed s (leaveRegion t) := by
  refine h.trans ?_
  unfold Machine.leaveRegion
  rw [(leave_only t.g).1]
  exact ⟨rfl, rfl⟩

-- What a gang and a team leave behind (R76, R144, R162, R322, R354).

theorem Undisturbed.captureRegs {a : Agent} : Undisturbed s (captureRegs a t) := h.ite (Undisturbed.ite h (h.foldl fun hu => hu.capture)).capture
theorem Undisturbed.gridFault {g : Nat} {c : BitVec 8} : Undisturbed s (gridFault g c t) := h.upd
theorem Undisturbed.dropInline {p : Nat → Bool} : Undisturbed s (dropInline p t) := h.upd
theorem Undisturbed.freeTeam {x : Team} : Undisturbed s (freeTeam x t) :=
  (Undisturbed.ite h (((h.foldl fun hu => hu.capture).foldl fun hu => hu.capture).foldl fun hu => hu.capture)).upd
theorem Undisturbed.reapTeams : Undisturbed s (reapTeams t) := h.foldl fun hu => hu.freeTeam
theorem Undisturbed.teamExits {x : Nat} : Undisturbed s (teamExits x t) := (Undisturbed.reapTeams h.upd).ite h
theorem Undisturbed.acquired {a : Agent} {scope : Nat} : Undisturbed s (acquired a scope t) := by
  refine h.ite ?_
  split
  · exact h.upd
  · exact h

end

-- A gang that is no more (R175, R254, R257).

/-- No agent is at issue, and none has the number id. -/
def Gone (id : Nat) (s : State) : Prop := s.g.id = 0 ∧ ∀ a ∈ s.agents, a.id ≠ id ∧ a.id ≠ 0

theorem mem_updFirst {α : Type} {p : α → Bool} {f : α → α} {l : List α} {x : α} (h : x ∈ updFirst p f l) : x ∈ l ∨ ∃ y ∈ l, x = f y := by
  induction l with
  | nil => exact .inl h
  | cons y r ih =>
    by_cases hy : p y = true
    · rw [updFirst, if_pos hy, List.mem_cons] at h
      rcases h with rfl | hx
      · exact .inr ⟨y, List.mem_cons_self, rfl⟩
      · exact .inl (List.mem_cons_of_mem _ hx)
    · rw [updFirst, if_neg hy, List.mem_cons] at h
      rcases h with rfl | hx
      · exact .inl List.mem_cons_self
      · exact (ih hx).imp (List.mem_cons_of_mem _) fun ⟨z, hz, e⟩ => ⟨z, List.mem_cons_of_mem _ hz, e⟩
theorem depart_id (a : Agent) : a.depart.id = a.id := by
  unfold Agent.depart
  dsimp only
  rw [(leave_only _).1]

section
variable {id : Nat} {s : State} (h : Gone id s)
include h

theorem Gone.all_eq : s.all = s.agents := if_pos h.1
theorem Gone.agent?_eq_none : s.agent? id = none := by
  unfold State.agent?
  rw [h.all_eq, List.find?_eq_none]
  intro a ha
  simpa using (h.2 a ha).1
theorem Gone.undisturbed {t : State} (k : Undisturbed s t) : Gone id t := by
  obtain ⟨⟨hid, -⟩, hagents⟩ := undisturbed_iff.mp k
  unfold Gone
  rw [hid, hagents]
  exact h
theorem Gone.setAgent {a : Agent} (ha : a.id ≠ id ∧ a.id ≠ 0) : Gone id (s.setAgent a) := by
  obtain ⟨hissue, hothers⟩ := h
  unfold State.setAgent
  rw [if_neg (by rw [hissue]; exact ha.2.symm)]
  refine ⟨hissue, fun b hb => ?_⟩
  rcases mem_updFirst hb with hmem | ⟨c, -, rfl⟩
  · exact hothers b hmem
  · exact ha
theorem Gone.of_gangsOf {a : Agent} {t : Nat} (ha : a ∈ s.gangsOf t) : a.id ≠ id ∧ a.id ≠ 0 := by
  have hmem : a ∈ s.all := List.mem_of_mem_filter ha
  rw [h.all_eq] at hmem
  exact h.2 a hmem
/-- The gangs that depart are others. -/
theorem Gone.barriers {t : Nat} : Gone id (barriers t s) := by
  unfold Machine.barriers
  extract_lets gs u us
  have hu : Gone id u := by
    unfold u
    split
    · exact List.foldlRecOn gs _ h fun v hv a ha => hv.setAgent (by rw [depart_id]; exact h.of_gangsOf ha)
    · exact h
  split
  · refine List.foldlRecOn us _ hu fun v hv a ha => ?_
    obtain ⟨m, -, ham⟩ := List.mem_flatMap.mp ha
    exact (hv.setAgent (by rw [depart_id]; exact hu.of_gangsOf ham)).undisturbed (Undisturbed.refl _).acquired
  · exact hu
end

theorem removeAgent_gone {s : State} (hothers : ∀ a ∈ s.agents, a.id ≠ s.g.id ∧ a.id ≠ 0) : Gone s.g.id (removeAgent s.g.id s) := by
  unfold removeAgent
  rw [if_pos rfl]
  exact ⟨rfl, hothers⟩
theorem gangExits_gone {s : State} (hothers : ∀ a ∈ s.agents, a.id ≠ s.g.id ∧ a.id ≠ 0) : Gone s.g.id (gangExits s.g s) := by
  unfold gangExits
  extract_lets u v w
  have hw : Undisturbed s w := ((Undisturbed.refl s).captureRegs.foldl fun hu => hu.gridFault).dropInline
  obtain ⟨⟨hid, -⟩, hagents⟩ := undisturbed_iff.mp hw
  rw [← hagents, ← hid] at hothers
  rw [← hid]
  have hgone := (removeAgent_gone hothers).barriers (t := s.g.team)
  exact hgone.undisturbed (Undisturbed.refl _).teamExits

-- The release of EXIT (R53, R100, R101).

/-- EXIT waits for loads into the window of an open frame, before its release. -/
theorem exitRelease_eq (f : State → State) (s : State) :
    exitRelease f s = if !s.g.frames.isEmpty && s.vectorsDue then stall s else released 3 f s := by
  have hany : ∀ (c : Bool) (p q : MemOp → Bool), (s.ops.any fun o => p o && c && q o) = (c && s.ops.any fun o => p o && q o) := by
    intro c p q
    cases c <;> simp
  exact congrArg (fun b : Bool => if b then stall s else released 3 f s) (hany _ _ _)

section
variable {scope : Nat} (hscope : 2 ≤ scope) (f : State → State) {s : State}
include hscope

theorem released_waits (hmay : s.mayRelease s.g.id scope = false) : released scope f s = stall s := by
  have hno : ¬scope < 2 := by omega
  unfold released whenDrained
  rw [if_neg hno]
  split
  · rfl
  next hback =>
    split
    · rfl
    next hreaders =>
      refine if_pos fun hstores => ?_
      have hfree : s.mayRelease s.g.id scope = true := by simpa [State.mayRelease, hno, hstores] using And.intro hback hreaders
      rw [hmay] at hfree
      cases hfree
/-- What is left of a release that nothing holds back is the report of dropped stores (R53). -/
theorem released_drains (hmay : s.mayRelease s.g.id scope = true) : released scope f s = whenDrained f s := by
  obtain ⟨hloads, -, hreaders⟩ := mayRelease_drained hmay hscope
  have hheld : s.holds s.g.id = false := by
    simp only [State.mayRelease, Bool.and_eq_true, Bool.not_eq_true'] at hmay
    exact hmay.1.2
  have hnone : ¬(s.ops.any fun o => o.readers.contains s.g.id) = true := by simpa using hreaders
  unfold released
  rw [if_neg (by simp [hloads, hheld]), if_neg (by omega), if_neg hnone]
end

section
variable (f : State → State) {s : State}

theorem exitRelease_waits (hheld : ¬(s.mayRelease s.g.id 3 = true ∧ (s.g.frames = [] ∨ s.vectorsDue = false))) : exitRelease f s = stall s := by
  rw [exitRelease_eq]
  split
  · rfl
  next hframes =>
    have hwindow : s.g.frames = [] ∨ s.vectorsDue = false := by simpa [Classical.or_iff_not_imp_left] using hframes
    exact released_waits (by decide) f (by simpa [hwindow] using hheld)
theorem exitRelease_drains (hmay : s.mayRelease s.g.id 3 = true) (hwindow : s.g.frames = [] ∨ s.vectorsDue = false) :
    exitRelease f s = whenDrained f s := by
  rw [exitRelease_eq, if_neg (by rcases hwindow with hw | hw <;> simp [hw])]
  exact released_drains (by decide) f hmay
end

-- EXIT (R254).

/-- The active lanes leave LIVE and their path. -/
def lanesExit (h : Hint) (s : State) : State :=
  let u := { s with g := { s.g with live := s.g.live &&& ~~~(s.act h) } }
  leaveRegion (settle (if s.path.lanes &&& s.g.live &&& ~~~(s.act h) = 0 then leaveHints h u else finish h false (s.g.after s.path.pc) u))
/-- EXIT once its release has been met. -/
def exits (h : Hint) (s : State) : State :=
  if s.g.strands (s.path.lanes &&& s.g.live &&& ~~~(s.act h)) (s.g.after s.path.pc) then stranded s
  else if (lanesExit h s).g.live = 0 then gangExits (lanesExit h s).g (lanesExit h s) else lanesExit h s
theorem execExit_eq (h : Hint) (s : State) (hact : s.act h ≠ 0) : exec (.exit h) s = .next (exitRelease (exits h) s) :=
  congrArg Host.Outcome.next (if_neg hact)
theorem lanesExit_undisturbed (h : Hint) (s : State) :
    Undisturbed { s with g := { s.g with live := s.g.live &&& ~~~(s.act h) } } (lanesExit h s) :=
  ((Undisturbed.refl _).leaveHints.ite (Undisturbed.refl _).finish).settle.leaveRegion

section
variable {h : Hint} {s : State} (hstay : s.g.strands (s.path.lanes &&& s.g.live &&& ~~~(s.act h)) (s.g.after s.path.pc) = false)
include hstay

theorem exits_lanes (hleft : s.g.live &&& ~~~(s.act h) ≠ 0) : (exits h s).g.live = s.g.live &&& ~~~(s.act h) ∧ (exits h s).g.exec = s.g.exec ∧
    (exits h s).g.sregs = s.g.sregs ∧ (exits h s).g.mregs = s.g.mregs ∧ (exits h s).g.id = s.g.id := by
  obtain ⟨⟨hid, hlive, hexec, hsregs, hmregs⟩, -⟩ := undisturbed_iff.mp (lanesExit_undisturbed h s)
  unfold exits
  rw [if_neg (by rw [hstay]; decide), if_neg (by rw [hlive]; exact hleft)]
  exact ⟨hlive, hexec, hsregs, hmregs, hid⟩
theorem exits_gang (hleft : s.g.live &&& ~~~(s.act h) = 0) (hothers : ∀ a ∈ s.agents, a.id ≠ s.g.id ∧ a.id ≠ 0) :
    (exits h s).agent? s.g.id = none := by
  obtain ⟨⟨hid, hlive, -⟩, hagents⟩ := undisturbed_iff.mp (lanesExit_undisturbed h s)
  unfold exits
  rw [if_neg (by rw [hstay]; decide), if_pos (by rw [hlive]; exact hleft)]
  have hgone : Gone (lanesExit h s).g.id (gangExits (lanesExit h s).g (lanesExit h s)) := gangExits_gone (by rw [hagents, hid]; exact hothers)
  rw [hid] at hgone
  exact hgone.agent?_eq_none
end

/-- Settles O25: EXIT stalls where its release, or a load into the window of an open frame, holds it back, and raises the report of dropped
stores; else LIVE loses the active lanes, which paths, stacks and window follow without a change of the other registers, and a gang that
has none left is removed, of which no departure from a barrier and no freed team brings an agent back. -/
theorem exitEndsLanes : Obligations.ExitEndsLanes := by
  intro h s hact
  refine ⟨_, execExit_eq h s hact, exitRelease_waits _, ?_, ?_⟩
  · rintro d r ⟨hmay, hwindow⟩ hdropped
    obtain ⟨-, hstores, -⟩ := mayRelease_drained hmay (by decide)
    rw [exitRelease_drains _ hmay hwindow]
    exact whenDrained_reports _ s d r hstores hdropped
  · rintro ⟨hmay, hwindow⟩ hdropped hstay
    obtain ⟨-, hstores, -⟩ := mayRelease_drained hmay (by decide)
    rw [exitRelease_drains _ hmay hwindow, whenDrained_clean _ s hstores hdropped]
    exact ⟨exits_lanes hstay, fun hleft _ hothers => exits_gang hstay hleft hothers⟩
end Sys2Proof.Machine
end

section
/-!
PROOFS. A trace record behind a write that waits for its home (R42, R448), and the records of a colour that has failed (R147).
-/
namespace Sys2Proof.Machine

-- A trace record waits behind an earlier write (R42, R448).

/-- A gang of one lane; records of the user kind are on in a segment of 64 bytes, and a write that the module made earlier has not been taken
by its home. -/
def queuedTrace : State :=
  { State.reset with
    bar := [(rTrace 0 8, 64), (rTrace 0 0x10, 0x1000000000)]
    g := { Agent.absent with id := 1, exec := 1, live := 1 }
    lanes := 1
    sys := { SystemState.reset with trSync := [(0, true)], posted := [(0x10000, [0])] } }
/-- The bytes of memory once an instruction is done. -/
def memAfter (i : Instr) (s : State) : SMap Byte :=
  match exec i s with
  | .next t => t.mem
  | _ => []

/-- Both records are queued behind that write, and no byte of the ring has been written. -/
theorem queuedTrace_unwritten : memAfter (.trace ⟨0, false, false, 0, 0⟩ 0 0) queuedTrace = [] := by decide +kernel

/-- Refutes O48, at what it says of TRACE: the module's own writes are made in their order, once their homes take them (`posted`, R42), so
that behind an earlier one that still waits the two records are not in the ring when TRACE is done. The clause on TRACE does not ask that no
such write waits. -/
theorem not_systemWords : ¬ Obligations.SystemWords := by
  unfold Obligations.SystemWords
  rintro ⟨-, -, htrace, -⟩
  obtain ⟨t, hexec, -, -, hwritten⟩ := htrace ⟨0, false, false, 0, 0⟩ 0 0 queuedTrace (by decide +kernel) (fun _ => by decide)
  obtain ⟨-, hkind, -⟩ := hwritten (by decide +kernel) (by decide +kernel) (by decide +kernel) (by decide +kernel) (by decide +kernel)
    (by decide +kernel)
  have hmem : t.mem = [] := by
    rw [← queuedTrace_unwritten]
    unfold memAfter
    rw [hexec]
  have hzero : ∀ a, t.getVal a 1 = 0 := fun a => by simp [State.getVal, State.getBytes, State.getByte, hmem, ofBytes]
  rw [hzero] at hkind
  exact absurd hkind (by decide)

-- The cut of a colour that has failed (R140, R147).

/-- Colour 0 has failed while its cut drains, as it does where a record of a message logged for it could not be written. -/
def failedCut : State :=
  { State.reset with
    sys := { SystemState.reset with
      c0 := { Colour.free with st := .recording, fail := true, cutting := true, chans := [0], closed := List.range 8 } } }
/-- The records that die d has staged once an instruction is done. -/
def stagedAfter (d : Nat) (i : Instr) (s : State) : List Rec :=
  match exec i s with
  | .next t => (t.die d).staging
  | _ => []

/-- The cut ends, and no record of it is staged. -/
theorem failedCut_stages : stagedAfter 0 (.cutDrainComplete false) failedCut = [] := by decide +kernel
/-- No die has staged anything, and the records of the cut would have room. -/
theorem failedCut_room (d : Nat) :
    (failedCut.die d).staged + (upTo (32 + failedCut.openBytes.length) 64 + sumNat ((failedCut.smallRecords (tagOf false)).map (·.bytes))) ≤
      8388608 := by
  have hnone : (failedCut.die d).staged = 0 := rfl
  rw [hnone, Nat.zero_add]
  decide +kernel

/-- Refutes O53, at what it says of the end of a cut: a colour that has failed takes no further records (R147), so that its cut ends without
the OPEN records of the dies. The clause on CUT_DRAIN_COMPLETE does not ask that the colour has not failed. -/
theorem not_snapshotEvents : ¬ Obligations.SnapshotEvents := by
  unfold Obligations.SnapshotEvents
  rintro ⟨-, hcut, -⟩
  obtain ⟨t, hexec, -, -, -, -, -, -, hopen, -⟩ := hcut failedCut false rfl (by decide +kernel) rfl (by decide +kernel) failedCut_room
  obtain ⟨r, hstaged, -⟩ := hopen 0 (by decide)
  have hnone : (t.die 0).staging = [] := by
    rw [← failedCut_stages]
    unfold stagedAfter
    rw [hexec]
  rw [hnone] at hstaged
  exact absurd hstaged List.not_mem_nil
end Sys2Proof.Machine
end

section
/-!
PROOFS. Lane sets, bit by bit: which lanes are active (R172, R184, R204), markers read as floating-point data (R165, R361), and pairs
(R186 to R188).
-/
namespace Sys2Proof.Machine

-- Lane sets.

/-- The sum of the powers of two below 2^w that p picks. -/
theorem laneSum_testBit (p : Nat → Bool) (w : Nat) :
    (List.range w).foldl (fun a i => if p i then a + 2 ^ i else a) 0 < 2 ^ w ∧
      ∀ k, ((List.range w).foldl (fun a i => if p i then a + 2 ^ i else a) 0).testBit k = (decide (k < w) && p k) := by
  induction w with
  | zero => simp
  | succ w ih =>
    obtain ⟨hlt, hbits⟩ := ih
    rw [List.range_succ, List.foldl_append]
    simp only [List.foldl_cons, List.foldl_nil]
    generalize (List.range w).foldl (fun a i => if p i then a + 2 ^ i else a) 0 = x at hlt hbits
    have hx : (if p w then x + 2 ^ w else x) < 2 ^ (w + 1) := by split <;> omega
    refine ⟨hx, fun k => ?_⟩
    rcases Nat.lt_trichotomy k w with hk | rfl | hk
    · have hlow : (if p w then x + 2 ^ w else x).testBit k = x.testBit k := by
        split
        · rw [Nat.add_comm, Nat.testBit_two_pow_add_gt hk]
        · rfl
      simp [hlow, hbits, hk, Nat.lt_succ_of_lt hk]
    · have hhigh : x.testBit k = false := by simp [hbits]
      cases hp : p k
      · simp [hhigh]
      · simp [Nat.add_comm x, Nat.testBit_two_pow_add_eq, hhigh]
    · rw [Nat.testBit_lt_two_pow (Nat.lt_of_lt_of_le hx (Nat.pow_le_pow_right (by decide) hk))]
      simp [show ¬k < w + 1 by omega]
theorem getLsbD_laneSet (w : Nat) (p : Nat → Bool) (k : Nat) :
    (laneSet w p).getLsbD k = (decide (k < 64) && (decide (k < w) && p k)) := by
  unfold laneSet
  rw [BitVec.getLsbD_ofNat, (laneSum_testBit p w).2]
theorem getLsbD_lowMask (w k : Nat) : (lowMask w).getLsbD k = (decide (k < 64) && decide (k < w)) := by
  unfold lowMask
  split
  next hw =>
    rw [BitVec.getLsbD_allOnes]
    by_cases hk : k < 64 <;> simp [hk, show k < 64 → k < w by omega]
  · rw [BitVec.getLsbD_ofNat, Nat.testBit_two_pow_sub_one]
theorem lowest_eq {m : U64} {l : Nat} (hl : l < 64) (hm : m.getLsbD l = true) (hbelow : ∀ k, k < l → m.getLsbD k = false) : lowest m = l := by
  unfold lowest
  rw [List.find?_range_eq_some.mpr ⟨hm, List.mem_range.mpr hl, fun k hk => by simp [hbelow k hk]⟩]
  rfl

-- The active lanes (R172, R184, R204).

theorem getLsbD_passing (a : Agent) (g : BitVec 4) (l : Nat) (hl : l < 64) :
    (a.passing g).getLsbD l = true ↔ ((a.mget (g.toNat % 8)).getLsbD l = true ↔ g.toNat < 8) := by
  have htop : g.getLsbD 3 = decide (8 ≤ g.toNat) := by
    revert g
    decide
  unfold Agent.passing
  rw [htop]
  by_cases hg : g.toNat < 8
  · simp only [decide_eq_true_eq, if_neg (show ¬8 ≤ g.toNat by omega), hg, iff_true]
  · rw [if_pos (by simpa using hg), BitVec.getLsbD_not, decide_eq_true hl, Bool.true_and]
    cases (a.mget (g.toNat % 8)).getLsbD l <;> simp [hg]
theorem getLsbD_act (s : State) (h : Hint) (l : Nat) (hl : l < 64) : (s.act h).getLsbD l = true ↔
    s.lanes.getLsbD l = true ∧ s.g.live.getLsbD l = true ∧ s.g.exec.getLsbD l = true ∧
      ((s.g.mget (h.guard.toNat % 8)).getLsbD l = true ↔ h.guard.toNat < 8) := by
  unfold State.act State.before
  simp only [BitVec.getLsbD_and, Bool.and_eq_true, getLsbD_passing _ _ _ hl, and_assoc]

/-- Settles O16: the active lanes by the definition of a guard, bit by bit; a write of a mask register leaves m0 at all ones and no bit above
the gang's width. -/
theorem activeLanes : Obligations.ActiveLanes := by
  refine ⟨fun s h l hl => getLsbD_act s h l hl, fun _ => rfl, fun _ _ _ _ => rfl, fun a n sel v l hn hl => ?_⟩
  rw [mget_mset_self a n sel v hn, BitVec.getLsbD_and, getLsbD_lowMask]
  simp [show ¬l < a.width by omega]

-- Markers among the words of lanes (R165, R361).

/-- The lanes of m that read a marker. -/
def markedLanes (m : U64) (words : Nat → List U32) : U64 := laneSet 64 fun l => bit m l && (words l).any fun x => (marker x).isSome
theorem getLsbD_markedLanes (m : U64) (words : Nat → List U32) (k : Nat) (hk : k < 64) :
    (markedLanes m words).getLsbD k = true ↔ m.getLsbD k = true ∧ ∃ y ∈ words k, (marker y).isSome = true := by
  unfold markedLanes
  rw [getLsbD_laneSet]
  simp only [bit, hk, decide_true, Bool.true_and, Bool.and_eq_true, List.any_eq_true]
theorem findSome_marker {ws : List U32} {x : U32} {c n : Nat} (hfirst : ws.find? (fun y => (marker y).isSome) = some x)
    (hx : marker x = some (c, n)) : ws.findSome? marker = some (c, n) := by
  induction ws with
  | nil => cases hfirst
  | cons y r ih =>
    rw [List.findSome?_cons]
    rw [List.find?_cons] at hfirst
    cases hy : marker y with
    | none => exact ih (by simpa [hy] using hfirst)
    | some z =>
      obtain rfl : y = x := by simpa [hy] using hfirst
      exact hy.symm.trans hx
theorem unlessMarked_none {m : U64} {words : Nat → List U32} (hnone : ∀ l, m.getLsbD l = true → ∀ y ∈ words l, marker y = none)
    (f : State → State) (s : State) : unlessMarked m words f s = f s := by
  refine unlessMarked_clean m words f s (laneSet_eq_zero _ _ fun l => ?_)
  rw [Bool.and_eq_false_iff, Classical.or_iff_not_imp_left, List.any_eq_false]
  intro hl y hy
  simp [hnone l (by simpa [bit] using hl) y hy]
/-- The lowest lane that reads a marker stops the word, by the first of its words that is one. -/
theorem unlessMarked_raises {m : U64} {words : Nat → List U32} {l : Nat} {x : U32} {c n : Nat}
    (hbelow : ∀ k, k < l → m.getLsbD k = true → ∀ y ∈ words k, marker y = none) (hl : l < 64) (hm : m.getLsbD l = true)
    (hfirst : (words l).find? (fun y => (marker y).isSome) = some x) (hx : marker x = some (c, n)) (f : State → State) (s : State) :
    unlessMarked m words f s = raise (rep cUninit 0 (markedLanes m words) 0 (BitVec.ofNat 64 (c * 65536 + n))) s := by
  have hhit : (markedLanes m words).getLsbD l = true :=
    (getLsbD_markedLanes m words l hl).mpr ⟨hm, x, List.mem_of_find?_eq_some hfirst, by rw [hx]; rfl⟩
  have hne : markedLanes m words ≠ 0 := by
    intro hzero
    simp [hzero] at hhit
  have hlow : lowest (markedLanes m words) = l := by
    refine lowest_eq hl hhit fun k hk => ?_
    rw [Bool.eq_false_iff, Ne, getLsbD_markedLanes m words k (by omega)]
    rintro ⟨hmk, y, hy, hsome⟩
    simp [hbelow k hk hmk y hy] at hsome
  unfold unlessMarked
  dsimp only
  rw [show (laneSet 64 fun l => bit m l && (words l).any fun x => (marker x).isSome) = markedLanes m words from rfl, if_neg hne, hlow,
    findSome_marker hfirst hx]

/-- The word stops at a marker that a lane of m reads as floating-point data: the lanes that match, and what the lowest of them reads first. -/
def StopsAtMarker (i : Instr) (m : State → U64) (words : State → Nat → List U32) : Prop :=
  ∀ s l x c n, (∀ k, k < l → (m s).getLsbD k = true → ∀ y ∈ words s k, marker y = none) → l < 64 → (m s).getLsbD l = true →
    (words s l).find? (fun y => (marker y).isSome) = some x → marker x = some (c, n) →
    ∃ t r, exec i s = .next t ∧ StopsAt ⟨r, s.path.pc, lowPlane s.pmask, s.cur, []⟩ s t ∧
      r.cause = 0x03 ∧ r.pc = (s.pmask ++ s.path.pc).setWidth 64 ∧ r.reg = BitVec.ofNat 64 (c * 65536 + n) ∧ r.addr = 0 ∧
      ∀ k, k < 64 → (r.mask.getLsbD k = true ↔ (m s).getLsbD k = true ∧ ∃ y ∈ words s k, (marker y).isSome = true)
theorem stopsAtMarker_of_unlessMarked {i : Instr} {m : State → U64} {words : State → Nat → List U32} (f : State → State → State)
    (hexec : ∀ s, exec i s = .next (unlessMarked (m s) (words s) (f s) s)) : StopsAtMarker i m words := by
  intro s l x c n hbelow hl hm hfirst hx
  refine ⟨_, _, (hexec s).trans (congrArg Host.Outcome.next (unlessMarked_raises hbelow hl hm hfirst hx _ s)), raise_spec _ s, rfl, rfl, rfl, rfl,
    fun k hk => getLsbD_markedLanes _ _ k hk⟩
theorem aopWords_float {aop : BitVec 4} (hfloat : 10 ≤ aop.toNat) (w : U32) : aopWords aop w = [w] := if_pos hfloat
theorem stopsAtMarker_of_floatAop {i : Instr} {m : State → U64} {aop : BitVec 4} (hfloat : 10 ≤ aop.toNat) (w : State → Nat → U32)
    (f : State → State → State) (hexec : ∀ s, exec i s = .next (unlessMarked (m s) (fun l => aopWords aop (w s l)) (f s) s)) :
    StopsAtMarker i m fun s l => [w s l] :=
  stopsAtMarker_of_unlessMarked f fun s => by simpa only [aopWords_float hfloat] using hexec s
theorem lo32_eq_setWidth (x : U64) : lo32 x = x.setWidth 32 := (BitVec.setWidth_eq_extractLsb' (by decide)).symm
theorem execPairWord_second {x y : Half} {s : State} (hx : s.halfFloats x = fun _ => []) (sl : Bool) : exec (.pairWord sl x y) s = .next
    (unlessMarked (s.halfAct y) (s.halfFloats y)
      (fun t => retire Hint.plain (putHalfWrite (s.halfWrite y) (putHalfWrite (s.halfWrite x) t))) s) :=
  congrArg Host.Outcome.next (unlessMarked_none (by rw [hx]; exact fun _ _ _ hy => absurd hy List.not_mem_nil) _ s)

/-- Settles O11: each of these words makes the marker check over its words before it does anything else, the second half of a pair after the
first, which reads none. -/
theorem markerStopsFloat : Obligations.MarkerStopsFloat := by
  have of {i : Instr} {m : State → U64} {words : State → Nat → List U32} (f : State → State → State)
      (hexec : ∀ s, exec i s = .next (unlessMarked (m s) (words s) (f s) s)) : StopsAtMarker i m words := stopsAtMarker_of_unlessMarked f hexec
  unfold Obligations.MarkerStopsFloat
  intro stops act two one
  refine ⟨fun h m d a b => of _ fun _ => rfl, fun h m d a b => of _ fun _ => rfl, fun h m d a b => of _ fun _ => rfl,
    fun h m d a b => of _ fun _ => rfl, fun h m d a b => of _ fun _ => rfl, fun h m d a b => of _ fun _ => rfl,
    fun h m d a => of _ fun _ => rfl, fun h m d a => of _ fun _ => rfl, fun h m d a => of _ fun _ => rfl, fun h m d a => of _ fun _ => rfl,
    fun h m d a => of _ fun _ => rfl, fun h m d a => of _ fun _ => rfl, fun h m d a => of _ fun _ => rfl, fun h m d a => of _ fun _ => rfl,
    fun h m d a => of _ fun _ => rfl, fun h m d a b c => of _ fun _ => rfl, fun h m d a b => of _ fun _ => rfl,
    fun h m c d a b => of _ fun _ => rfl, fun h bf m d a b => ⟨of _ fun _ => rfl, of _ fun _ => rfl⟩,
    fun h bf m d a b c => of _ fun _ => rfl, fun h dst src rmx sat sel k d a => of _ fun _ => rfl,
    fun h i n rm d a => of _ fun _ => rfl, fun h dst rmx sat j k d a b => of _ fun _ => rfl,
    fun h ef sf sel rm d a b => of _ fun _ => rfl, fun h srcf j d a => of _ fun _ => rfl,
    fun h d a => ⟨of _ fun _ => rfl, of _ fun _ => rfl, of _ fun _ => rfl⟩, fun h excl d a => of _ fun _ => rfl,
    fun sl x y => of _ fun _ => rfl, fun sl x y hx => of _ fun s => execPairWord_second (hx s) sl, fun h x aop d a b hfloat => ?_⟩
  refine ⟨stopsAtMarker_of_floatAop hfloat _ _ fun _ => rfl, stopsAtMarker_of_floatAop hfloat _ _ fun _ => rfl, ?_⟩
  simp only [← lo32_eq_setWidth]
  exact stopsAtMarker_of_floatAop hfloat _ _ fun _ => rfl
end Sys2Proof.Machine
end

section
/-!
PROOFS. Pairs read both halves before either writes (R165, R186 to R188).
-/
namespace Sys2Proof.Machine

-- What a register reads after a write of the halves of a pair.

@[simp] theorem touch_agents (l : List Nat) (s : State) : (touch l s).agents = s.agents := by rw [(touch_only l s).1]
@[simp] theorem setS_g (d : Nat) (v : U64) (s : State) : (setS d v s).g = s.g.sset d v := by rw [setS_spec]
theorem ne_zero_of_getLsbD {m : U64} {l : Nat} (hm : m.getLsbD l = true) : m ≠ 0 := by
  rintro rfl
  simp at hm
theorem setV_vget_self {m : U64} {l : Nat} (hm : m.getLsbD l = true) (d : Nat) (f : Nat → U32) (s : State) :
    (setV d m f s).g.vget d l = f l := by
  rw [setV_spec d m f s (ne_zero_of_getLsbD hm)]
  unfold Agent.vget
  rw [phys_psets]
  exact psets_self _ f _ _ l (fun i hi => ((mem_lanesOf m i).mp hi).1) ((mem_lanesOf m l).mpr ⟨BitVec.lt_of_getLsbD hm, hm⟩) (nodup_lanesOf m)
theorem setV_vget_other {n d : Nat} {s : State} (hphys : s.g.phys n ≠ s.g.phys d) {l : Nat} (hl : l < 64) (m : U64) (f : Nat → U32) :
    (setV d m f s).g.vget n l = s.g.vget n l := by
  by_cases hm : m = 0
  · rw [hm, setV_none]
  · rw [setV_spec d m f s hm]
    unfold Agent.vget
    rw [phys_psets]
    exact psets_other _ f _ _ _ l hl (fun i hi => ((mem_lanesOf m i).mp hi).1) (.inl hphys)
theorem setV_agents (d : Nat) (m : U64) (f : Nat → U32) (s : State) : (setV d m f s).agents = s.agents := by
  by_cases hm : m = 0
  · rw [hm, setV_none]
  · simp [setV_spec d m f s hm]
theorem setV_phys (d : Nat) (m : U64) (f : Nat → U32) (s : State) (n : Nat) : (setV d m f s).g.phys n = s.g.phys n := by
  by_cases hm : m = 0
  · rw [hm, setV_none]
  · rw [setV_spec d m f s hm, phys_psets]
theorem phys_ne {a : Agent} {n k : Nat} (hn : n < a.q) (hk : k < a.q) (hne : n ≠ k) : a.phys n ≠ a.phys k := by
  intro h
  have hmod : n ≡ k [MOD a.q] := Nat.ModEq.add_left_cancel' a.wb h
  exact hne (hmod.eq_of_lt_of_lt hn hk)
theorem laneResult_eq {ls : List Nat} {l : Nat} (hl : l ∈ ls) (f : Nat → U32) :
    (((ls.map fun k => (k, f k)).find? (·.1 == l)).map (·.2)).getD 0 = f l := by
  induction ls with
  | nil => exact absurd hl List.not_mem_nil
  | cons k r ih =>
    by_cases hk : k = l
    · simp [hk]
    · simpa [hk] using ih ((List.mem_cons.mp hl).resolve_left (Ne.symm hk))
theorem putHalfWrite_mem (w : HalfWrite) (s : State) : (putHalfWrite w s).mem = s.mem := by
  cases w <;> simp [putHalfWrite]
theorem putHalfWrite_agents (w : HalfWrite) (s : State) : (putHalfWrite w s).agents = s.agents := by
  cases w with
  | none => rfl
  | scalar d v => simp [putHalfWrite, setS_spec]
  | vector d m vs fl => simp [putHalfWrite, setV_agents]
  | mask d m v => rfl
theorem phys_raiseFlags (fl : BitVec 5) (s : State) (n : Nat) : (raiseFlags fl s).g.phys n = s.g.phys n := rfl
theorem vget_raiseFlags (fl : BitVec 5) (s : State) (n l : Nat) : (raiseFlags fl s).g.vget n l = s.g.vget n l := rfl
theorem putHalfWrite_vector (d : Nat) (m : U64) (vs : List (Nat × U32)) (fl : BitVec 5) (s : State) : putHalfWrite (.vector d m vs fl) s =
    raiseFlags fl (setV d m (fun l => ((vs.find? (·.1 == l)).map (·.2)).getD 0) s) := rfl
theorem phys_putHalfWrite (d : Nat) (m : U64) (vs : List (Nat × U32)) (fl : BitVec 5) (s : State) (n : Nat) :
    (putHalfWrite (.vector d m vs fl) s).g.phys n = s.g.phys n := by
  rw [putHalfWrite_vector, phys_raiseFlags, setV_phys]
/-- The lanes that an integer V half writes, and the registers that it leaves. -/
theorem vget_putHalfWrite_self {m : U64} {l : Nat} (hm : m.getLsbD l = true) (d : Nat) (f : Nat → U32) (fl : BitVec 5) (s : State) :
    (putHalfWrite (.vector d m ((lanesOf m).map fun k => (k, f k)) fl) s).g.vget d l = f l := by
  rw [putHalfWrite_vector, vget_raiseFlags, setV_vget_self hm]
  exact laneResult_eq ((mem_lanesOf m l).mpr ⟨BitVec.lt_of_getLsbD hm, hm⟩) f
theorem vget_putHalfWrite_other {n d : Nat} {s : State} (hphys : s.g.phys n ≠ s.g.phys d) {l : Nat} (hl : l < 64) (m : U64)
    (vs : List (Nat × U32)) (fl : BitVec 5) : (putHalfWrite (.vector d m vs fl) s).g.vget n l = s.g.vget n l := by
  rw [putHalfWrite_vector, vget_raiseFlags, setV_vget_other hphys hl]

-- The word.

theorem execPairWord_unmarked {x y : Half} {s : State}
    (hx : ∀ l, (s.halfAct x).getLsbD l = true → ∀ w ∈ s.halfFloats x l, marker w = none)
    (hy : ∀ l, (s.halfAct y).getLsbD l = true → ∀ w ∈ s.halfFloats y l, marker w = none) (sl : Bool) :
    exec (.pairWord sl x y) s = .next (retire Hint.plain (putHalfWrite (s.halfWrite y) (putHalfWrite (s.halfWrite x) s))) :=
  congrArg Host.Outcome.next ((unlessMarked_none hx _ s).trans (unlessMarked_none hy _ s))
theorem execPairWord_integer {x y : Half} {s : State} (hx : s.halfFloats x = fun _ => []) (hy : s.halfFloats y = fun _ => []) (sl : Bool) :
    exec (.pairWord sl x y) s = .next (retire Hint.plain (putHalfWrite (s.halfWrite y) (putHalfWrite (s.halfWrite x) s))) :=
  execPairWord_unmarked (by simp [hx]) (by simp [hy]) sl
theorem sget_retire (h : Hint) (s : State) (n : Nat) : (retire h s).g.sget n = s.g.sget n := by
  obtain ⟨hkept, _⟩ := retire_gangKept h s
  rw [hkept]
  rfl
theorem vget_retire (h : Hint) (s : State) (n l : Nat) : (retire h s).g.vget n l = s.g.vget n l := by
  obtain ⟨hkept, _⟩ := retire_gangKept h s
  rw [hkept]
  rfl

/-- Settles O17: the operands of both writes are those of the state before the word, and the writes follow one another. -/
theorem pairReadsBeforeWrites : Obligations.PairReadsBeforeWrites := by
  refine ⟨fun sl x y s hx hy => ⟨_, execPairWord_unmarked hx hy sl, ?_, ?_, retire_gangKept _ _⟩,
    fun sl gx gy dx dy ax ay s hne hx hy => ⟨_, execPairWord_integer rfl rfl sl, ?_⟩,
    fun sl gx dx dy ax ay s hne hq hall => ⟨_, execPairWord_integer rfl rfl sl, fun l hl => ?_⟩,
    fun sl s => ⟨_, rfl, ?_, retire_gangKept _ _⟩⟩
  · rw [retire_mem, putHalfWrite_mem, putHalfWrite_mem]
  · rw [retire_agents, putHalfWrite_agents, putHalfWrite_agents]
  · have hd : dx.toNat ≠ dy.toNat := fun h => hne (BitVec.eq_of_toNat_eq h)
    have hwx : s.halfWrite ⟨.sAdd, dx, ax, gx⟩ = .scalar dx.toNat (s.g.sget dx.toNat + s.g.sget ax.toNat) := if_neg hx
    have hwy : s.halfWrite ⟨.sSub, dy, ay, gy⟩ = .scalar dy.toNat (s.g.sget dy.toNat - s.g.sget ay.toNat) := if_neg hy
    rw [hwx, hwy]
    simp only [putHalfWrite, sget_retire, retire_vregs, retire_mregs, retire_mem, setS_g, setS_mem]
    refine ⟨?_, sget_sset_self _ _ _, fun n hnx hny => ?_, rfl, rfl, trivial⟩
    · rw [sget_sset_other _ _ _ _ hd, sget_sset_self]
    · rw [sget_sset_other _ _ _ _ hny, sget_sset_other _ _ _ _ hnx]
  · have hphys : s.g.phys dx.toNat ≠ s.g.phys dy.toNat :=
      phys_ne (by omega) (by omega) fun h => hne (BitVec.eq_of_toNat_eq h)
    have hactive : (s.before &&& s.g.passing gx).getLsbD l = true := (congrArg (BitVec.getLsbD · l) hall).trans hl
    rw [vget_retire, vget_retire]
    constructor
    · refine (vget_putHalfWrite_other ?_ (BitVec.lt_of_getLsbD hl) _ _ _).trans (vget_putHalfWrite_self hactive _ _ _ _)
      exact ((phys_putHalfWrite _ _ _ _ s _).trans_ne hphys).trans_eq (phys_putHalfWrite _ _ _ _ s _).symm
    · exact vget_putHalfWrite_self hactive _ _ _ _
  · obtain ⟨honly, _⟩ := retire_only Hint.plain s
    exact honly ▸ ModuleKept.of_agent s _ _
end Sys2Proof.Machine
end

section
/-!
PROOFS. Planes and the save slot (R166, R167, R174, R255, R256).
-/
namespace Sys2Proof.Machine

-- ALL.BEGIN and ALL.END (R174, R256).

theorem allBegin_spec (h : Hint) (s : State) : ∃ t, exec (.allBegin h) s = .next t ∧
    (s.g.united = false → TrapsWith 0x04 0 (s.lanes &&& s.g.live) 0 0 s t) ∧
    (s.g.united = true → s.g.save.isSome = true → TrapsWith 0x01 0xA7 (s.lanes &&& s.g.live) 0 0 s t) ∧
    (s.g.united = true → s.g.save = none → s.g.strands s.path.lanes (s.g.after s.path.pc) = false →
      MovesPath h (s.g.after s.path.pc) { s with g := { s.g with save := some (s.g.exec &&& s.g.live), exec := s.g.live } } t) := by
  refine ⟨_, rfl, fun hsplit => ?_, fun hunited hsaved => ?_, fun hunited hempty hstay => ?_⟩
  · rw [hsplit, if_pos (by rfl)]
    exact raise_rep_spec 4 0 _ _ _ s (by decide) (by decide)
  · rw [hunited, if_neg (by decide), if_pos hsaved]
    exact illegal_spec 0xA7 s (by decide)
  · rw [hunited, if_neg (by decide), if_neg (by simp [hempty])]
    exact goTo_moves h _ { s with g := { s.g with save := some (s.g.exec &&& s.g.live), exec := s.g.live } } hstay
theorem getLsbD_setX (m v : U64) (s : State) (l : Nat) (hwidth : l < s.g.width) (hl : l < 64) :
    (setX m v s).g.exec.getLsbD l = if m.getLsbD l then v.getLsbD l else s.g.exec.getLsbD l := by
  unfold setX
  simp only [BitVec.getLsbD_and, BitVec.getLsbD_or, BitVec.getLsbD_not, getLsbD_lowMask, hwidth, hl, decide_true, Bool.true_and, Bool.and_true]
  cases m.getLsbD l <;> simp
theorem allEnd_restores {s : State} {v : U64} (hsaved : s.g.save = some v) (h : Hint)
    (hstay : s.g.strands s.path.lanes (s.g.after s.path.pc) = false) : ∃ t, exec (.allEnd h) s = .next t ∧
      MovesPath h (s.g.after s.path.pc) { s with g := { s.g with save := none, exec := t.g.exec } } t ∧
      ∀ l, l < s.g.width → l < 64 → t.g.exec.getLsbD l =
        if s.lanes.getLsbD l && s.g.live.getLsbD l then v.getLsbD l else s.g.exec.getLsbD l := by
  have hmoves := goTo_moves h (s.g.after s.path.pc)
    { s with g := { s.g with save := none, exec := (setX (s.lanes &&& s.g.live) v s).g.exec } } hstay
  have hexec := congrArg Agent.exec hmoves.2.1
  refine ⟨goTo h (s.g.after s.path.pc) { s with g := { s.g with save := none, exec := (setX (s.lanes &&& s.g.live) v s).g.exec } },
    ?_, ?_, fun l hwidth hl => ?_⟩
  · refine congrArg Host.Outcome.next ?_
    rw [hsaved]
    rfl
  · rw [hexec]
    exact hmoves
  · rw [hexec, ← BitVec.getLsbD_and]
    exact getLsbD_setX _ v s l hwidth hl

/-- Settles O27: ALL.BEGIN checks the gang and then the slot before it goes on; ALL.END writes EXEC within the lanes of its path. -/
theorem allBeginAllEnd : Obligations.AllBeginAllEnd := by
  refine ⟨allBegin_spec, fun h s => ?_⟩
  cases hsaved : s.g.save with
  | none =>
    refine ⟨illegal 0xA7 s, congrArg Host.Outcome.next (by rw [hsaved]), fun _ => illegal_spec 0xA7 s (by decide), fun v hv => ?_⟩
    cases hv
  | some v =>
    by_cases hstay : s.g.strands s.path.lanes (s.g.after s.path.pc) = false
    · obtain ⟨t, hexec, hrestores⟩ := allEnd_restores hsaved h hstay
      exact ⟨t, hexec, (nomatch ·), fun w hw _ => Option.some.inj hw ▸ hrestores⟩
    · exact ⟨_, rfl, (nomatch ·), fun _ _ h => absurd h hstay⟩

-- PLANE and PLANE.I (R166, R255).

/-- The planes after these lanes have been moved. -/
def planesSet (p : Nat → Nat) (ls : List Nat) (m : SMap Nat) : SMap Nat := ls.foldl (fun m l => SMap.set 0 m l (p l)) m
theorem agent_planesSet (p : Nat → Nat) (ls : List Nat) (a : Agent) :
    ls.foldl (fun (a : Agent) l => { a with planes := SMap.set 0 a.planes l (p l) }) a = { a with planes := planesSet p ls a.planes } := by
  induction ls generalizing a with
  | nil => rfl
  | cons l r ih => exact ih _
theorem get_planesSet (p : Nat → Nat) (ls : List Nat) (m : SMap Nat) (x : Nat) :
    SMap.get 0 (planesSet p ls m) x = if x ∈ ls then p x else SMap.get 0 m x := by
  induction ls generalizing m with
  | nil => rfl
  | cons l r ih =>
    refine (ih _).trans ?_
    by_cases hx : x = l
    · simp [hx, SMap.get_set_self]
    · simp [hx, SMap.get_set_other]
/-- The region that PLANE records (R255). -/
def planeRegion (pos : Nat) (n1 : BitVec 2) (l : BitVec 24) (s : State) : Region :=
  ⟨s.path.pc - BitVec.ofNat 54 pos, n1.toNat + 1, l.toNat⟩
/-- The gang with its planes set, before its path goes on. -/
def planed (h : Hint) (p : Nat → Nat) (r : Region) (s : State) : State :=
  { s with g := { s.g with region := some r, planes := planesSet p (lanesOf (s.act h)) s.g.planes } }
theorem plane_wrong {pos : Nat} {n1 : BitVec 2} {l : BitVec 24} {s : State} {x : Region} (hregion : s.g.region = some x)
    (hx : x ≠ planeRegion pos n1 l s) (h : Hint) (p : Nat → Nat) :
    plane h pos p n1 l s = raise (rep cPlane 0xD2 (s.path.lanes &&& s.g.live) 0 0) s := by
  unfold plane
  rw [hregion]
  exact if_pos (bne_iff_ne.mpr hx)
/-- The lanes that would leave plane 0 to r.n - 1. -/
def highLanes (h : Hint) (p : Nat → Nat) (n : Nat) (s : State) : U64 := laneSet 64 fun i => bit (s.act h) i && n ≤ p i
theorem getLsbD_highLanes (h : Hint) (p : Nat → Nat) (n : Nat) (s : State) {x : Nat} (hx : x < 64) :
    (highLanes h p n s).getLsbD x = true ↔ (s.act h).getLsbD x = true ∧ n ≤ p x := by
  unfold highLanes
  rw [getLsbD_laneSet]
  simp only [bit, hx, decide_true, Bool.true_and, Bool.and_eq_true, decide_eq_true_eq]
theorem plane_right {pos : Nat} {n1 : BitVec 2} {l : BitVec 24} {s : State} (hright : ∀ x, s.g.region = some x → x = planeRegion pos n1 l s)
    (h : Hint) (p : Nat → Nat) : plane h pos p n1 l s =
      if highLanes h p (n1.toNat + 1) s ≠ 0 then raise (rep cPlane 0xD1 (highLanes h p (n1.toNat + 1) s) 0 0) s
      else if (planed h p (planeRegion pos n1 l s) s).g.strands s.path.lanes ((planed h p (planeRegion pos n1 l s) s).g.after s.path.pc) then
        stranded s
      else goOn h (planed h p (planeRegion pos n1 l s) s) := by
  unfold plane
  simp only [agent_planesSet]
  cases hregion : s.g.region with
  | none => exact if_neg Bool.false_ne_true
  | some x => exact if_neg (by simp [hright x hregion, planeRegion])
theorem plane_high {pos : Nat} {n1 : BitVec 2} {l : BitVec 24} {s : State} (hright : ∀ x, s.g.region = some x → x = planeRegion pos n1 l s)
    {h : Hint} {p : Nat → Nat} (hhigh : ∃ x, x < 64 ∧ (s.act h).getLsbD x = true ∧ n1.toNat + 1 ≤ p x) :
    plane h pos p n1 l s = raise (rep cPlane 0xD1 (highLanes h p (n1.toNat + 1) s) 0 0) s := by
  obtain ⟨x, hx, hlane⟩ := hhigh
  rw [plane_right hright, if_pos (ne_zero_of_getLsbD ((getLsbD_highLanes h p _ s hx).mpr hlane))]
theorem plane_goesOn {pos : Nat} {n1 : BitVec 2} {l : BitVec 24} {s : State} (hright : ∀ x, s.g.region = some x → x = planeRegion pos n1 l s)
    {h : Hint} {p : Nat → Nat} (hlow : ∀ x, (s.act h).getLsbD x = true → p x < n1.toNat + 1) : plane h pos p n1 l s =
      if (planed h p (planeRegion pos n1 l s) s).g.strands s.path.lanes ((planed h p (planeRegion pos n1 l s) s).g.after s.path.pc) then
        stranded s
      else goOn h (planed h p (planeRegion pos n1 l s) s) := by
  have hnone : highLanes h p (n1.toNat + 1) s = 0 := laneSet_eq_zero _ _ fun x => by
    rw [Bool.and_eq_false_iff, Classical.or_iff_not_imp_left]
    intro hx
    simpa using Nat.lt_succ_iff.mp (hlow x (by simpa [bit] using hx))
  rw [plane_right hright, if_neg (not_not.mpr hnone)]
theorem plane_planed (h : Hint) (p : Nat → Nat) (r : Region) (s : State) (x : Nat) :
    (planed h p r s).g.plane x = if (s.act h).getLsbD x = true then p x else s.g.plane x := by
  refine (get_planesSet p _ _ x).trans ?_
  have hmem : x ∈ lanesOf (s.act h) ↔ (s.act h).getLsbD x = true :=
    (mem_lanesOf _ x).trans ⟨And.right, fun hx => ⟨BitVec.lt_of_getLsbD hx, hx⟩⟩
  simp only [hmem]
  rfl

-- Where the word goes on.

theorem planeRegion_offset (pos : Nat) (n1 : BitVec 2) (l : BitVec 24) (s : State) (hpos : pos < 2 ^ 14) :
    (s.path.pc + 1 - (planeRegion pos n1 l s).base).toNat = pos + 1 := by
  unfold planeRegion
  generalize s.path.pc = o
  bv_omega
theorem after_inside {pos : Nat} {n1 : BitVec 2} {l : BitVec 24} {s : State} (hpos : pos < 2 ^ 14) (hlast : pos + 1 < l.toNat) (h : Hint)
    (p : Nat → Nat) : (planed h p (planeRegion pos n1 l s) s).g.after s.path.pc = s.path.pc + 1 := by
  refine if_neg fun heq => ?_
  have hoff := planeRegion_offset pos n1 l s hpos
  rw [heq, add_sub_cancel_left, BitVec.toNat_ofNat] at hoff
  have hlen : (planeRegion pos n1 l s).len = l.toNat := rfl
  omega
theorem after_last {pos : Nat} {n1 : BitVec 2} {l : BitVec 24} {s : State} (hlast : pos + 1 = l.toNat) (h : Hint)
    (p : Nat → Nat) : (planed h p (planeRegion pos n1 l s) s).g.after s.path.pc =
      (planeRegion pos n1 l s).base + BitVec.ofNat 54 ((n1.toNat + 1) * l.toNat) := by
  refine if_pos ?_
  unfold planeRegion
  generalize s.path.pc = o
  bv_omega
theorem end_outside (pos : Nat) (n1 : BitVec 2) (l : BitVec 24) (s : State) :
    (planeRegion pos n1 l s).has ((planeRegion pos n1 l s).base + BitVec.ofNat 54 ((n1.toNat + 1) * l.toNat)) = false := by
  unfold Region.has
  rw [add_sub_cancel_left, BitVec.toNat_ofNat, decide_eq_false_iff_not]
  have hn : n1.toNat < 4 := n1.isLt
  have hl : l.toNat < 2 ^ 24 := l.isLt
  have hlow : l.toNat ≤ (n1.toNat + 1) * l.toNat := Nat.le_mul_of_pos_left _ (Nat.succ_pos _)
  have hhigh : (n1.toNat + 1) * l.toNat ≤ 4 * l.toNat := Nat.mul_le_mul_right _ hn
  rw [Nat.mod_eq_of_lt (by omega)]
  exact Nat.not_lt.mpr hlow

-- The word.

theorem goTo_next {h : Hint} {s : State} (hstay : s.g.strands s.path.lanes (s.path.pc + 1) = false) : ModuleKept s (goTo h (s.path.pc + 1) s) := by
  have hgoes : goTo h (s.path.pc + 1) s = leaveRegion (finish h false (s.path.pc + 1) s) := by
    unfold goTo
    rw [if_neg (ne_true_of_eq_false hstay), if_pos rfl]
  obtain ⟨honly, -⟩ := leaveRegion_only (finish_only h false (s.path.pc + 1) s)
  rw [hgoes, honly]
  exact ModuleKept.of_agent s _ _
/-- Short of the last position the region stays, since the path stands in it. -/
theorem plane_inside {pos : Nat} {n1 : BitVec 2} {l : BitVec 24} {s : State} (hpos : pos < 2 ^ 14) (hpath : (s.g.path? s.cur).isSome = true)
    (hright : ∀ x, s.g.region = some x → x = planeRegion pos n1 l s) {h : Hint} {p : Nat → Nat}
    (hlow : ∀ x, (s.act h).getLsbD x = true → p x < n1.toNat + 1) (hlast : pos + 1 < l.toNat) :
    RegsKept s.g (plane h pos p n1 l s).g ∧ ModuleKept s (plane h pos p n1 l s) ∧ GoesTo h (s.path.pc + 1) s (plane h pos p n1 l s) ∧
      (plane h pos p n1 l s).g.region = some (planeRegion pos n1 l s) ∧
      ∀ x, (plane h pos p n1 l s).g.plane x = if (s.act h).getLsbD x = true then p x else s.g.plane x := by
  have hafter := after_inside (n1 := n1) (s := s) hpos hlast h p
  have hhas : (planeRegion pos n1 l s).has (s.path.pc + 1) = true := by
    rw [Region.has, planeRegion_offset _ _ _ _ hpos]
    exact decide_eq_true hlast
  have hplane := plane_planed h p (planeRegion pos n1 l s) s
  have hstay : (planed h p (planeRegion pos n1 l s) s).g.strands s.path.lanes (s.path.pc + 1) = false := by
    change (_ && !(planeRegion pos n1 l s).has (s.path.pc + 1) && _) = false
    rw [hhas, Bool.not_true, Bool.and_false, Bool.false_and]
  have hgoes : plane h pos p n1 l s = goTo h (s.path.pc + 1) (planed h p (planeRegion pos n1 l s) s) := by
    rw [plane_goesOn hright hlow, hafter, if_neg (ne_true_of_eq_false hstay)]
    exact congrArg (goTo h · _) hafter
  obtain ⟨hmoves, hagent, hregion, -, -⟩ := goTo_moves h (s.path.pc + 1) (planed h p (planeRegion pos n1 l s) s) hstay
  have hmodule : ModuleKept (planed h p (planeRegion pos n1 l s) s) (goTo h (s.path.pc + 1) (planed h p (planeRegion pos n1 l s) s)) :=
    goTo_next hstay
  rw [← hgoes] at hmoves hagent hregion hmodule
  generalize plane h pos p n1 l s = t at hmoves hagent hregion hmodule
  refine ⟨?_, (ModuleKept.of_agent s _ s.sel).trans hmodule, hmoves, ?_, fun x => ?_⟩
  · rw [hagent]
    exact ⟨rfl, rfl, rfl, rfl, rfl, rfl, rfl, rfl, rfl, rfl⟩
  · obtain ⟨q, hq⟩ := Option.isSome_iff_exists.mp hpath
    obtain ⟨p', hp', hpc, -⟩ := (hmoves.2 q hq).1
    rw [hregion]
    refine Option.filter_eq_some_iff.mpr ⟨rfl, ?_⟩
    have hstands : t.g.paths.any (fun p => (planeRegion pos n1 l s).has p.pc) = true :=
      List.any_eq_true.mpr ⟨p', List.mem_of_find?_eq_some hp', by rw [hpc]; exact hhas⟩
    simp [Agent.within, hstands]
  · rw [← hplane x, hagent]
    rfl
/-- From the last position the path goes to the end of the region. -/
theorem plane_last {pos : Nat} {n1 : BitVec 2} {l : BitVec 24} {s : State} (hright : ∀ x, s.g.region = some x → x = planeRegion pos n1 l s)
    {h : Hint} {p : Nat → Nat} (hlow : ∀ x, (s.act h).getLsbD x = true → p x < n1.toNat + 1) (hlast : pos + 1 = l.toNat)
    (hlanes : s.path.lanes &&& s.g.live ≠ 0) :
    ((∃ x, x < 64 ∧ s.g.live.getLsbD x = true ∧ (planed h p (planeRegion pos n1 l s) s).g.plane x ≠ 0) →
      TrapsWith 0x05 0xD0 (s.lanes &&& s.g.live) 0 0 s (plane h pos p n1 l s)) ∧
    ((∀ x, x < 64 → s.g.live.getLsbD x = true → (planed h p (planeRegion pos n1 l s) s).g.plane x = 0) →
      RegsKept s.g (plane h pos p n1 l s).g ∧
      GoesTo h ((planeRegion pos n1 l s).base + BitVec.ofNat 54 ((n1.toNat + 1) * l.toNat)) s (plane h pos p n1 l s) ∧
      ∀ x, (plane h pos p n1 l s).g.plane x = (planed h p (planeRegion pos n1 l s) s).g.plane x) := by
  have hafter := after_last (n1 := n1) (s := s) hlast h p
  have hout := end_outside pos n1 l s
  have hstrands : (planed h p (planeRegion pos n1 l s) s).g.strands s.path.lanes
      ((planeRegion pos n1 l s).base + BitVec.ofNat 54 ((n1.toNat + 1) * l.toNat)) =
        (lanesOf s.g.live).any fun x => (planed h p (planeRegion pos n1 l s) s).g.plane x != 0 := by
    change (s.path.lanes &&& s.g.live != 0 && !(planeRegion pos n1 l s).has _ && _) = _
    rw [hout, bne_iff_ne.mpr hlanes]
    rfl
  have hgoes := plane_goesOn hright hlow
  rw [hafter, hstrands] at hgoes
  refine ⟨fun ⟨x, hx, hlive, hne⟩ => ?_, fun hzero => ?_⟩
  · rw [hgoes, if_pos (List.any_eq_true.mpr ⟨x, (mem_lanesOf s.g.live x).mpr ⟨hx, hlive⟩, by simpa using hne⟩)]
    exact stranded_spec s
  · have hclear : ((lanesOf s.g.live).any fun x => (planed h p (planeRegion pos n1 l s) s).g.plane x != 0) = false :=
      List.any_eq_false.mpr fun x hx => by
        obtain ⟨hx, hlive⟩ := (mem_lanesOf _ x).mp hx
        simp [hzero x hx hlive]
    rw [hclear, if_neg Bool.false_ne_true] at hgoes
    obtain ⟨hmoves, hagent, -, -, -⟩ := goTo_moves h _ (planed h p (planeRegion pos n1 l s) s) (hstrands.trans hclear)
    have hsame : goOn h (planed h p (planeRegion pos n1 l s) s) = goTo h _ _ := congrArg (goTo h · _) hafter
    rw [← hsame, ← hgoes] at hmoves hagent
    refine ⟨?_, hmoves, fun x => ?_⟩
    · rw [hagent]
      exact ⟨rfl, rfl, rfl, rfl, rfl, rfl, rfl, rfl, rfl, rfl⟩
    · rw [hagent]
      rfl

/-- Settles O26: the region is checked before the planes; the word then goes on within the region, or to its end. -/
theorem planeSetsPlanes : Obligations.PlaneSetsPlanes := by
  unfold Obligations.PlaneSetsPlanes
  intro sets
  have of (i : Hint → BitVec 2 → BitVec 24 → Instr) (pos : Nat) (p : State → Nat → Nat) (hpos : pos < 2 ^ 14)
      (hexec : ∀ h n1 l s, exec (i h n1 l) s = .next (plane h pos (p s) n1 l s)) : sets i pos p := by
    intro h n1 l s hpath
    refine ⟨_, hexec h n1 l s, fun ⟨x, hregion, hx⟩ => ?_, fun hright hhigh => ?_, fun hright hlow hlast => ?_,
      fun hright hlow hlast hlanes => ?_⟩
    · rw [plane_wrong hregion hx]
      exact raise_rep_spec 5 0xD2 _ _ _ s (by decide) (by decide)
    · rw [plane_high hright hhigh]
      exact ⟨_, raise_rep_spec 5 0xD1 _ _ _ s (by decide) (by decide), fun x hx => getLsbD_highLanes h (p s) _ s hx⟩
    · exact plane_inside hpos hpath hright hlow hlast
    · obtain ⟨hstranded, hends⟩ := plane_last hright hlow hlast hlanes
      simp only [plane_planed] at hstranded hends
      exact ⟨hstranded, fun hzero _ => hends hzero⟩
  exact ⟨fun pos a => of _ _ _ (by omega) fun _ _ _ _ => rfl, fun pos p => of _ _ _ pos.isLt fun _ _ _ _ => rfl⟩
end Sys2Proof.Machine
end

section
/-!
PROOFS. Divergence: BR.DIV pushes an entry and splits its path, JOIN is the arrival of an arm (R170, R248, R249).
-/
namespace Sys2Proof.Machine

-- The divergence stack and its spills (R73, R74, R170).

/-- Of the agent at issue only the divergence stack has changed, with the spill depth. -/
def OnlyDivs (s t : State) : Prop := t.g = { s.g with divs := t.g.divs, spill := t.g.spill } ∧ t.cur = s.cur
theorem OnlyDivs.refl (s : State) : OnlyDivs s s := ⟨rfl, rfl⟩
theorem OnlyDivs.trans {s t u : State} (h : OnlyDivs s t) (k : OnlyDivs t u) : OnlyDivs s u := by
  obtain ⟨hg, hcur⟩ := h
  obtain ⟨kg, kcur⟩ := k
  exact ⟨by rw [kg, hg], kcur.trans hcur⟩
theorem OnlyMemory.onlyDivs {s t : State} (h : OnlyMemory s t) : OnlyDivs s t := ⟨by rw [h.g_eq], h.cur_eq⟩
theorem OnlyMemory.spillEntry {s t : State} (h : OnlyMemory s t) (off : Nat) (x lanes : U64) : OnlyMemory s (spillEntry off x lanes t) :=
  h.foldl _ fun _ _ k => k.writeMem _ _
theorem OnlyMemory.spillLanes {s t : State} (h : OnlyMemory s t) (off : Nat) (ts : List Arm) : OnlyMemory s (spillLanes off ts t) :=
  h.foldl _ fun _ _ k => k.foldl _ fun _ _ j => (j.writeMem _ _).writeMem _ _
theorem length_updFirst {α : Type} (p : α → Bool) (f : α → α) (l : List α) : (updFirst p f l).length = l.length := by
  induction l with
  | nil => rfl
  | cons a r ih =>
    unfold updFirst
    split
    · rfl
    · exact congrArg (· + 1) ih
theorem length_spillOldest {α : Type} (p : α → Bool) (f : α → α) (l : List α) : (spillOldest p f l).length = l.length := by
  unfold spillOldest
  rw [List.length_reverse, length_updFirst, List.length_reverse]
/-- The words of the oldest entry, written to the slice from an offset (R74, R253). -/
def divWritten (o : DivEntry) (off : Nat) (s : State) : State :=
  let u := spillEntry (off + (divBytes o - 4)) o.word o.lanes s
  if o.kind == .split then u else spillLanes off o.todo u
/-- The oldest entry spilled. -/
def divSpilled (o : DivEntry) (s : State) : State :=
  let off := s.rc.slice - s.g.spill - divBytes o
  let u := divWritten o off s
  respill { u with g := { u.g with divs := spillOldest (·.spill.isNone) (fun (y : DivEntry) => { y with spill := some off }) u.g.divs } }
/-- The stack with room for one more entry in hardware. -/
def divRoom (s : State) : State :=
  if divOver s.g then
    match (s.g.divs.filter (·.spill.isNone)).getLast? with
    | none => s
    | some o => divSpilled o s
  else s
theorem pushDiv_eq (e : DivEntry) (s : State) :
    pushDiv e s = { divRoom s with g := { (divRoom s).g with divs := e :: (divRoom s).g.divs } } := rfl
theorem divSpilled_spec (o : DivEntry) (s : State) : OnlyDivs s (divSpilled o s) ∧ (divSpilled o s).g.divs.length = s.g.divs.length := by
  have hmem (off : Nat) : OnlyMemory s (divWritten o off s) :=
    .ite ((OnlyMemory.refl s).spillEntry _ _ _) (((OnlyMemory.refl s).spillEntry _ _ _).spillLanes _ _)
  refine ⟨(hmem (s.rc.slice - s.g.spill - divBytes o)).onlyDivs.trans ⟨rfl, rfl⟩, (length_spillOldest _ _ _).trans ?_⟩
  rw [(hmem _).g_eq]
theorem divRoom_spec (s : State) : OnlyDivs s (divRoom s) ∧ (divRoom s).g.divs.length = s.g.divs.length := by
  unfold divRoom
  split
  · cases (s.g.divs.filter (·.spill.isNone)).getLast? with
    | none => exact ⟨.refl s, rfl⟩
    | some o => exact divSpilled_spec o s
  · exact ⟨.refl s, rfl⟩
/-- The entry is pushed upon as many as there were, the oldest of them perhaps spilled. -/
theorem pushDiv_spec (e : DivEntry) (s : State) :
    OnlyDivs s (pushDiv e s) ∧ ∃ ds, (pushDiv e s).g.divs = e :: ds ∧ ds.length = s.g.divs.length := by
  obtain ⟨⟨hg, hcur⟩, hlen⟩ := divRoom_spec s
  rw [pushDiv_eq]
  exact ⟨⟨congrArg (fun (a : Agent) => { a with divs := e :: (divRoom s).g.divs }) hg, hcur⟩, _, rfl, hlen⟩
theorem owner_divAt (s : State) (a : Agent) (e : DivEntry) : (s.divAt a e).owner = e.owner := by
  unfold State.divAt
  split <;> rfl
theorem refillDivs_spec (s : State) : OnlyDivs s (refillDivs s) ∧ (refillDivs s).g.divs.map (·.owner) = s.g.divs.map (·.owner) := by
  unfold refillDivs
  split
  · exact ⟨.refl s, rfl⟩
  · split
    next => exact ⟨.refl s, rfl⟩
    next e r hdivs =>
      refine ⟨⟨rfl, rfl⟩, ?_⟩
      rw [hdivs]
      exact congrArg (· :: _) (owner_divAt s s.g e)

-- BR.DIV (R248).

/-- The paths that BR.DIV starts at once. -/
def splitStarts (t f : U64) (tpc fpc : Offs) (s : State) : List Path :=
  (if t = 0 then [] else [Path.start s.g.nextPath tpc t true s.path.spent]) ++
    (if f = 0 ∨ ((t ≠ 0 ∧ f ≠ 0) ∧ ¬((s.g.paths.filter fun p => p.lanes &&& s.g.live != 0).length == 1)) then []
      else [Path.start (s.g.nextPath + 1) fpc f false s.path.spent])
/-- The arm that starts after the taken one, where the gang has another path. -/
def splitTodo (t f : U64) (fpc : Offs) (s : State) : List Arm :=
  if (t ≠ 0 ∧ f ≠ 0) ∧ ¬((s.g.paths.filter fun p => p.lanes &&& s.g.live != 0).length == 1) then [⟨f, fpc⟩] else []
/-- The entry that BR.DIV pushes. -/
def splitEntry (t f : U64) (tpc fpc join : Offs) (s : State) : DivEntry :=
  ⟨.split, s.cur, join, t ||| f, splitTodo t f fpc s, (splitStarts t f tpc fpc s).map (·.id), 0, s.path.taken, none⟩
/-- The paths that start take the place of the path at issue. -/
def splitPaths (h : Hint) (n : Nat) (start : List Path) (u : State) : State :=
  leaveRegion { u with
    sel := false
    g := ({ u.g with
      nextPath := n, paths := u.g.paths.filter (fun (p : Path) => p.id != u.cur) ++ start, walked := [], noHit := u.hitsAgain }).hinted h }
theorem split_eq (h : Hint) (t f : U64) (tpc fpc join : Offs) (s : State) : split h t f tpc fpc join s =
    splitPaths h (s.g.nextPath + 2) (splitStarts t f tpc fpc s) (pushDiv (splitEntry t f tpc fpc join s) s) := rfl
theorem leaveRegion_g (s : State) : (leaveRegion s).g = { s.g with region := s.g.leave.region } := (leave_only s.g).1
theorem splitPaths_spec (h : Hint) (n : Nat) (start : List Path) {s u : State} (hdivs : OnlyDivs s u) :
    RegsKept s.g (splitPaths h n start u).g ∧ HintsTaken h (splitPaths h n start u).g ∧ (splitPaths h n start u).sel = false ∧
      (splitPaths h n start u).g.divs = u.g.divs ∧ (splitPaths h n start u).g.paths = s.g.paths.filter (·.id != s.cur) ++ start := by
  obtain ⟨hg, hcur⟩ := hdivs
  unfold splitPaths
  rw [leaveRegion_g, hg, hcur]
  exact ⟨⟨rfl, rfl, rfl, rfl, rfl, rfl, rfl, rfl, rfl, rfl⟩, ⟨rfl, rfl⟩, rfl, rfl, rfl⟩

/-- Whether one path of the gang still has lanes. -/
def onePath (s : State) : Prop := (s.g.paths.filter fun p => p.lanes &&& s.g.live != 0).length = 1
theorem splitStarts_taken {t : U64} (ht : t ≠ 0) (f : U64) (tpc fpc : Offs) (s : State) :
    Path.start s.g.nextPath tpc t true s.path.spent ∈ splitStarts t f tpc fpc s := by
  unfold splitStarts
  rw [if_neg ht]
  exact List.mem_append_left _ (List.mem_singleton.mpr rfl)
theorem splitStarts_other {t f : U64} {s : State} (hf : f ≠ 0) (hone : t = 0 ∨ onePath s) (tpc fpc : Offs) :
    Path.start (s.g.nextPath + 1) fpc f false s.path.spent ∈ splitStarts t f tpc fpc s := by
  unfold splitStarts
  rw [if_neg (c := f = 0 ∨ _)]
  · exact List.mem_append_right _ (List.mem_singleton.mpr rfl)
  · rintro (hzero | ⟨⟨ht, -⟩, hmore⟩)
    · exact hf hzero
    · exact hmore (beq_iff_eq.mpr (hone.resolve_left ht))
theorem splitTodo_later {t f : U64} {s : State} (ht : t ≠ 0) (hf : f ≠ 0) (hmore : ¬onePath s) (fpc : Offs) :
    splitTodo t f fpc s = [⟨f, fpc⟩] := if_pos ⟨⟨ht, hf⟩, fun hone => hmore (beq_iff_eq.mp hone)⟩
theorem splitTodo_none {t f : U64} {s : State} (hnow : f = 0 ∨ t = 0 ∨ onePath s) (fpc : Offs) : splitTodo t f fpc s = [] := by
  refine if_neg ?_
  rintro ⟨⟨ht, hf⟩, hmore⟩
  exact hmore (beq_iff_eq.mpr ((hnow.resolve_left hf).resolve_left ht))
theorem and_or_and_not (a b c : U64) : (a &&& b &&& c) ||| (a &&& ~~~(a &&& b &&& c)) = a := by
  refine BitVec.eq_of_getLsbD_eq fun i hi => ?_
  simp only [BitVec.getLsbD_and, BitVec.getLsbD_or, BitVec.getLsbD_not, hi, decide_true, Bool.true_and]
  cases a.getLsbD i <;> cases b.getLsbD i <;> cases c.getLsbD i <;> rfl
/-- BR.DIV of a path whose lanes in t take the branch. -/
def divide (h : Hint) (t f : U64) (tpc fpc join : Offs) (s : State) : State :=
  if s.g.strands t tpc || s.g.strands f fpc then stranded s
  else
    match divFails s with
    | some ea => spillTrap ea s
    | none => split h t f tpc fpc join
        (if t = 0 || tpc = s.path.pc + 1 then s else traceAgent s.g 2 s.pmask.toNat s.path.pc.toNat (s.act h).toNat tpc.toNat s)
theorem execBrDiv_eq {h : Hint} {s : State} (hact : s.act h ≠ 0) (neg : Bool) (m : BitVec 4) (join : BitVec 16) (x : BitVec 18) :
    let t := s.path.lanes &&& s.g.live &&& s.g.exec &&& s.predBits neg m
    exec (.brDiv h neg m join x) s =
      .next (divide h t (s.path.lanes &&& s.g.live &&& ~~~t) (s.target 18 x) (s.g.after s.path.pc) (s.target 16 join) s) :=
  congrArg Host.Outcome.next (if_neg hact)
/-- The path splits as it stood before the branch was traced. -/
theorem divide_splits {h : Hint} {t f : U64} {tpc fpc : Offs} {s : State} (htaken : s.g.strands t tpc = false)
    (hother : s.g.strands f fpc = false) (hfits : divFails s = none) (join : Offs) :
    ∃ u, OnlyMemory s u ∧ divide h t f tpc fpc join s = splitPaths h (s.g.nextPath + 2) (splitStarts t f tpc fpc s)
      (pushDiv (splitEntry t f tpc fpc join s) u) := by
  refine ⟨if t = 0 || tpc = s.path.pc + 1 then s else
    traceAgent s.g 2 s.pmask.toNat s.path.pc.toNat (s.act h).toNat tpc.toNat s, .ite (.refl s) ((OnlyMemory.refl s).traceAgent ..), ?_⟩
  unfold divide
  rw [htaken, hother, if_neg (by decide), hfits]
  generalize hu : (if t = 0 || tpc = s.path.pc + 1 then s else
    traceAgent s.g 2 s.pmask.toNat s.path.pc.toNat (s.act h).toNat tpc.toNat s) = u
  have hmem : OnlyMemory s u := hu ▸ .ite (.refl s) ((OnlyMemory.refl s).traceAgent ..)
  dsimp only
  rw [split_eq, splitEntry, splitStarts, splitTodo, hmem.g_eq, hmem.path_eq, hmem.cur_eq]
  rfl

/-- Settles O20: the checks come first; then the arms that start now take the path's place, and the entry names the one that waits. -/
theorem branchDivergeSplits : Obligations.BranchDivergeSplits := by
  intro h neg m join x s hact all t f tpc fo one
  have hexec : exec (.brDiv h neg m join x) s = .next (divide h t f tpc fo (s.target 16 join) s) := execBrDiv_eq hact neg m join x
  refine ⟨fun hstrands => ⟨_, hexec, ?_⟩, fun ht hf => ⟨fun ea hfails => ⟨_, hexec, ?_⟩, fun hfits => ⟨_, hexec, ?_⟩⟩⟩
  · unfold divide
    rw [if_pos (Bool.or_eq_true_iff.mpr hstrands)]
    exact stranded_spec s
  · unfold divide
    rw [ht, hf, if_neg (by decide), hfails]
    exact raise_rep_spec 8 0 _ _ _ s (by decide) (by decide)
  · obtain ⟨u, hmem, hsplit⟩ := divide_splits ht hf hfits (s.target 16 join) (h := h)
    obtain ⟨honly, ds, hdivs, hlen⟩ := pushDiv_spec (splitEntry t f tpc fo (s.target 16 join) s) u
    obtain ⟨hregs, hhints, hsel, hdivs', hpaths⟩ := splitPaths_spec h (s.g.nextPath + 2) (splitStarts t f tpc fo s) (hmem.onlyDivs.trans honly)
    rw [hdivs] at hdivs'
    rw [hsplit]
    have hstart {p : Path} (hp : p ∈ splitStarts t f tpc fo s) : p ∈ s.g.paths.filter (·.id != s.cur) ++ splitStarts t f tpc fo s ∧
        p.id ∈ (splitEntry t f tpc fo (s.target 16 join) s).running := ⟨List.mem_append_right _ hp, List.mem_map_of_mem hp⟩
    refine ⟨hregs, hhints, hsel, ?_, fun p hp hne => ?_, _, by rw [hdivs']; rfl, rfl, rfl, rfl, ?_, ?_, ?_, ?_, ?_⟩
    · rw [hdivs', List.length_cons, hlen, hmem.g_eq]
    · rw [hpaths]
      exact List.mem_append_left _ (List.mem_filter.mpr ⟨hp, bne_iff_ne.mpr hne⟩)
    · exact and_or_and_not _ _ _
    · intro htne
      rw [hpaths]
      obtain ⟨hp, hid⟩ := hstart (splitStarts_taken htne f tpc fo s)
      exact ⟨_, hp, hid, rfl, rfl, rfl⟩
    · intro hfne hnow
      rw [hpaths]
      obtain ⟨hp, hid⟩ := hstart (splitStarts_other hfne hnow tpc fo)
      exact ⟨splitTodo_none (.inr hnow) fo, _, hp, hid, rfl, rfl⟩
    · exact fun hfne htne hmore => splitTodo_later htne hfne hmore fo
    · exact fun hfzero => splitTodo_none (.inl hfzero) fo

-- JOIN (R249).

/-- The arms of an entry that still have a live lane. -/
def DivEntry.left (e : DivEntry) (s : State) : List Arm := e.todo.filter fun t => t.lanes &&& s.g.live != 0
/-- The gang without a path. -/
def withoutPath (pid : Nat) (s : State) : State :=
  { s with g := { s.g with paths := s.g.paths.filter fun (p : Path) => p.id != pid } }
/-- The topmost entry of an owner, replaced. -/
def putDiv (owner : Nat) (x : DivEntry) (s : State) : State :=
  { s with g := { s.g with divs := updFirst (fun (e : DivEntry) => e.owner == owner) (fun _ => x) s.g.divs } }
/-- The gang with another path that starts. -/
def addPath (p : Path) (s : State) : State := { s with g := { s.g with paths := s.g.paths ++ [p] } }
/-- The same, for a path of the next number. -/
def started (n : Nat) (p : Path) (s : State) : State := { s with g := { s.g with nextPath := n, paths := s.g.paths ++ [p] } }
theorem started_paths (n : Nat) (p : Path) (s : State) : (started n p s).g.paths = s.g.paths ++ [p] := rfl
theorem started_divs (n : Nat) (p : Path) (s : State) : (started n p s).g.divs = s.g.divs := rfl
/-- The stack without the owner's entries, the newest of the others back in hardware. -/
def popDivs (owner : Nat) (s : State) : State :=
  refillDivs (respill { s with g := { s.g with divs := s.g.divs.filter (fun (e : DivEntry) => e.owner != owner) } })
theorem popDivs_spec (owner : Nat) (s : State) : OnlyDivs s (popDivs owner s) ∧ ∀ e ∈ (popDivs owner s).g.divs, e.owner ≠ owner := by
  obtain ⟨honly, howners⟩ := refillDivs_spec (respill { s with g := { s.g with divs := s.g.divs.filter fun (e : DivEntry) => e.owner != owner } })
  refine ⟨OnlyDivs.trans ⟨rfl, rfl⟩ honly, fun e he heq => ?_⟩
  obtain ⟨x, hx, hsame⟩ := List.mem_map.mp (howners ▸ List.mem_map_of_mem (f := DivEntry.owner) he)
  obtain ⟨-, hne⟩ := List.mem_filter.mp hx
  exact bne_iff_ne.mp hne (hsame.trans heq)
theorem arrive_waits {n pid : Nat} {s : State} {e : DivEntry} (hcover : s.g.cover pid = some e) (hrun : e.running.filter (· != pid) ≠ []) :
    arrive (n + 1) pid s = putDiv e.owner { e with running := e.running.filter (· != pid) } (withoutPath pid s) := by
  unfold arrive
  rw [hcover]
  exact if_pos hrun
/-- An arm of the entry starts: a path of its own, and the call of a group of CALL.T (R249, R253). -/
def armStarted (e : DivEntry) (t : Arm) (r : List Arm) (s : State) : State :=
  let id := s.g.nextPath
  let lanes := t.lanes &&& s.g.live
  let u := putDiv e.owner { e with running := [id], todo := r } s
  let again := e.kind == .callT && ((callFails e.frame u).isSome || u.g.strands lanes t.start)
  let v := started (id + 1) (Path.start id (if again then e.join else t.start) lanes false []) u
  if e.kind == .callT && !again then pushCall (v.g.after e.join) e.frame id lanes true v else v
theorem armStarted_plain {e : DivEntry} (hkind : e.kind ≠ .callT) (t : Arm) (r : List Arm) (s : State) : armStarted e t r s =
    started (s.g.nextPath + 1) (Path.start s.g.nextPath t.start (t.lanes &&& s.g.live) false [])
      (putDiv e.owner { e with running := [s.g.nextPath], todo := r } s) := by
  have hplain : (e.kind == .callT) = false := beq_eq_false_iff_ne.mpr hkind
  unfold armStarted
  simp only [hplain, Bool.false_and, if_neg Bool.false_ne_true]
theorem arrive_starts {n pid : Nat} {s : State} {e : DivEntry} {a : Arm} {r : List Arm} (hcover : s.g.cover pid = some e)
    (hrun : e.running.filter (· != pid) = []) (hleft : e.left s = a :: r) : arrive (n + 1) pid s = armStarted e a r (withoutPath pid s) := by
  unfold arrive
  rw [hcover]
  refine (if_neg (not_not.mpr hrun)).trans ?_
  change (match e.left s with | t :: r => _ | [] => _) = _
  rw [hleft]
  rfl
theorem arrive_pops {n pid : Nat} {s : State} {e : DivEntry} (hcover : s.g.cover pid = some e)
    (hrun : e.running.filter (· != pid) = []) (hleft : e.left s = []) (hlanes : e.lanes &&& s.g.live ≠ 0) : ∃ sh, arrive (n + 1) pid s =
      let u := popDivs e.owner (withoutPath pid s)
      addPath (Path.start e.owner (u.g.after e.join) (e.lanes &&& s.g.live) e.taken sh) u := by
  refine ⟨((s.g.path? pid).map Path.spent).getD [], ?_⟩
  unfold arrive
  rw [hcover]
  refine (if_neg (not_not.mpr hrun)).trans ?_
  change (match e.left s with | t :: r => _ | [] => _) = _
  rw [hleft]
  exact if_neg hlanes
theorem mem_putDiv {s : State} {e : DivEntry} (htop : s.g.divs.find? (·.owner == e.owner) = some e) {x : DivEntry} (hx : x.owner = e.owner) :
    x ∈ (putDiv e.owner x s).g.divs :=
  List.mem_of_find?_eq_some (find_updFirst_self (·.owner == e.owner) (fun _ => x) _ e htop (beq_iff_eq.mpr hx))
theorem completes_isSome {pid : Nat} {s : State} {e : DivEntry} (hcover : s.g.cover pid = some e) :
    (s.g.completes pid).isSome = true ↔ e.running.filter (· != pid) = [] ∧ e.left s = [] := by
  have hleft : e.left s = [] ↔ e.todo.all (fun t => t.lanes &&& s.g.live == 0) = true := by
    simp [DivEntry.left, List.filter_eq_nil_iff]
  unfold Agent.completes
  rw [hcover, hleft]
  dsimp only
  split
  next hdone => exact ⟨fun _ => by simpa using hdone, fun _ => rfl⟩
  next hopen => exact ⟨nofun, fun hdone => absurd (by simpa using hdone) hopen⟩

/-- The path has left: the gang takes the word's hints, and the region ends where no lane is left in it. -/
def departs (h : Hint) (s : State) : State := leaveRegion (leaveHints h s)
theorem departs_spec (h : Hint) {a : Agent} {s : State} (hregs : RegsKept a s.g) :
    (RegsKept a (departs h s).g ∧ HintsTaken h (departs h s).g ∧ (departs h s).sel = false) ∧ (departs h s).g.paths = s.g.paths ∧
      (departs h s).g.divs = s.g.divs := by
  unfold departs
  rw [leaveRegion_g]
  exact ⟨⟨hregs, ⟨rfl, rfl⟩, rfl⟩, rfl, rfl⟩
theorem execJoin_elsewhere {s : State}
    (helse : ∀ e, s.g.cover s.cur = some e → e.join ≠ s.path.pc ∨ e.kind = .callT ∨ s.g.hasCalls s.cur = true) (h : Hint) :
    exec (.join h) s = .next (illegal 0xA9 s) := by
  refine congrArg Host.Outcome.next ?_
  cases hcover : s.g.cover s.cur with
  | none => rfl
  | some e => exact if_pos (by simpa [or_assoc] using helse e hcover)
theorem execJoin_arrives {s : State} {e : DivEntry} (hcover : s.g.cover s.cur = some e) (hjoin : e.join = s.path.pc) (hkind : e.kind ≠ .callT)
    (hcalls : s.g.hasCalls s.cur = false) (h : Hint) : exec (.join h) s = .next
      (if (s.g.completes s.cur).isSome && s.g.strands e.lanes (s.g.after e.join) then stranded s
        else departs h (arrive (s.g.divs.length + 1) s.cur s)) := by
  refine congrArg Host.Outcome.next ?_
  rw [hcover]
  exact if_neg (by simp [hjoin, hkind, hcalls])
/-- Short of the last arm, and of a join where the region may be left, the path arrives. -/
theorem execJoin_departs {s : State} {e : DivEntry} (hcover : s.g.cover s.cur = some e) (hjoin : e.join = s.path.pc) (hkind : e.kind ≠ .callT)
    (hcalls : s.g.hasCalls s.cur = false)
    (hstay : e.running.filter (· != s.cur) = [] → e.left s = [] → s.g.strands e.lanes (s.g.after e.join) = false) (h : Hint) :
    exec (.join h) s = .next (departs h (arrive (s.g.divs.length + 1) s.cur s)) := by
  rw [execJoin_arrives hcover hjoin hkind hcalls, if_neg]
  rw [Bool.and_eq_true, completes_isSome hcover]
  rintro ⟨⟨hrun, hleft⟩, hstrands⟩
  rw [hstay hrun hleft] at hstrands
  cases hstrands

/-- Settles O21: the three ways that an arrival ends, each one step of `arrive`. -/
theorem joinArrives : Obligations.JoinArrives := by
  refine ⟨fun h s helse => ⟨_, execJoin_elsewhere helse h, illegal_spec 0xA9 s (by decide)⟩, ?_⟩
  intro h s e hcover hjoin hkind hcalls left done
  refine ⟨fun hrun hleft hstrands => ⟨_, execJoin_arrives hcover hjoin hkind hcalls h, ?_⟩,
    fun hrun => ⟨_, execJoin_departs hcover hjoin hkind hcalls (absurd · hrun) h, ?_⟩,
    fun a r hrun hleft => ⟨_, execJoin_departs hcover hjoin hkind hcalls (fun _ hnone => ?_) h, ?_⟩,
    fun hrun hleft hstay hlanes => ⟨_, execJoin_departs hcover hjoin hkind hcalls (fun _ _ => hstay) h, ?_⟩⟩
  · rw [(completes_isSome hcover).mpr ⟨hrun, hleft⟩, hstrands]
    exact stranded_spec s
  · rw [arrive_waits hcover hrun]
    obtain ⟨hdone, hpaths, hdivs⟩ := departs_spec h (a := s.g)
      (s := putDiv e.owner { e with running := e.running.filter (· != s.cur) } (withoutPath s.cur s)) (by simp [RegsKept, putDiv, withoutPath])
    rw [hpaths, hdivs]
    exact ⟨hdone, fun p hp => bne_iff_ne.mp (List.mem_filter.mp hp).2, fun htop => ⟨_, mem_putDiv htop rfl, rfl⟩⟩
  · exact absurd (hleft.symm.trans hnone) (List.cons_ne_nil a r)
  · rw [arrive_starts hcover hrun hleft]
    obtain ⟨hdone, hpaths, hdivs⟩ := departs_spec h (a := s.g) (s := armStarted e a r (withoutPath s.cur s))
      (by rw [armStarted_plain hkind]; simp [RegsKept, started, putDiv, withoutPath])
    have hstarted := armStarted_plain hkind a r (withoutPath s.cur s)
    refine ⟨hdone, ?_, fun htop => ?_⟩
    · rw [hpaths, hstarted, started_paths]
      exact ⟨_, List.mem_append_right _ (List.mem_singleton.mpr rfl), rfl, rfl⟩
    · rw [hdivs, hstarted, started_divs]
      exact ⟨_, mem_putDiv htop rfl, rfl, rfl⟩
  · obtain ⟨sh, harrive⟩ := arrive_pops (n := s.g.divs.length) hcover hrun hleft hlanes
    rw [harrive]
    obtain ⟨⟨hg, -⟩, howners⟩ := popDivs_spec e.owner (withoutPath s.cur s)
    generalize popDivs e.owner (withoutPath s.cur s) = u at hg howners
    obtain ⟨hdone, hpaths, hdivs⟩ := departs_spec h (a := s.g)
      (s := addPath (Path.start e.owner (u.g.after e.join) (e.lanes &&& s.g.live) e.taken sh) u)
      (by unfold addPath; rw [hg]; exact ⟨rfl, rfl, rfl, rfl, rfl, rfl, rfl, rfl, rfl, rfl⟩)
    rw [hpaths, hdivs]
    refine ⟨hdone, howners, _, List.mem_append_right _ (List.mem_singleton.mpr rfl), rfl, ?_, rfl⟩
    rw [hg]
    rfl
end Sys2Proof.Machine
end

section
/-!
PROOFS. Barriers: a gang arrives and waits, and all depart when the last has arrived (R175, R257).
-/
namespace Sys2Proof.Machine

-- A gang at a barrier.

/-- The gang at issue waits at a barrier, its hints taken. -/
def arrived (h : Hint) (mark : Agent → Agent) (s : State) : State :=
  let u := s.updPath fun (p : Path) => { p with age := 0, shadows := p.spent }
  stall { u with g := (mark u.g).hinted h }
theorem arriveAt_converge {h : Hint} {s : State} (hsplit : 1 < s.g.livePaths.length) (scope : Nat) (mark : Agent → Agent) :
    TrapsWith 0x04 0 (s.lanes &&& s.g.live) 0 0 s (arriveAt h scope mark s) := by
  unfold arriveAt
  rw [if_pos hsplit]
  exact raise_rep_spec 4 0 _ _ _ s (by decide) (by decide)
theorem arriveAt_gathers {h : Hint} {s : State} {scope : Nat} (hact : s.act h ≠ 0) (hone : s.g.livePaths.length ≤ 1)
    (hmay : s.mayRelease s.g.id scope = true) (hdropped : s.g.dropped = []) (mark : Agent → Agent) :
    arriveAt h scope mark s = barriers (arrived h mark s).g.team (arrived h mark s) := by
  unfold arriveAt ifActive
  rw [if_neg (by omega), if_neg hact, released_free scope _ s hmay hdropped]
  rfl
theorem RegsKept.trans {a b c : Agent} (h : RegsKept a b) (k : RegsKept b c) : RegsKept a c := by
  obtain ⟨h1, h2, h3, h4, h5, h6, h7, h8, h9, h10⟩ := h
  obtain ⟨k1, k2, k3, k4, k5, k6, k7, k8, k9, k10⟩ := k
  exact ⟨k1.trans h1, k2.trans h2, k3.trans h3, k4.trans h4, k5.trans h5, k6.trans h6, k7.trans h7, k8.trans h8, k9.trans h9, k10.trans h10⟩
/-- All but the paths, the hints, the region and the marks of a gang: its registers and its number, its team and its kind. -/
def GangSame (a b : Agent) : Prop :=
  RegsKept a b ∧ b.paths.map (·.pc) = a.paths.map (·.pc) ∧ b.id = a.id ∧ b.team = a.team ∧ b.drover = a.drover
theorem GangSame.trans {a b c : Agent} (h : GangSame a b) (k : GangSame b c) : GangSame a c := by
  obtain ⟨hregs, hpcs, hid, hteam, hgang⟩ := h
  obtain ⟨kregs, kpcs, kid, kteam, kgang⟩ := k
  exact ⟨hregs.trans kregs, kpcs.trans hpcs, kid.trans hid, kteam.trans hteam, kgang.trans hgang⟩
theorem updPath_same {f : Path → Path} (hf : ∀ p, (f p).pc = p.pc) (s : State) : GangSame s.g (s.updPath f).g :=
  ⟨⟨rfl, rfl, rfl, rfl, rfl, rfl, rfl, rfl, rfl, rfl⟩, map_updFirst (fun (p : Path) => p.pc) _ f s.g.paths fun p _ => hf p, rfl, rfl, rfl⟩
theorem stall_same (s : State) : GangSame s.g (stall s).g :=
  updPath_same (f := fun (p : Path) => { p with stalled := true }) (fun _ => rfl) s
theorem hinted_same (h : Hint) (a : Agent) : GangSame a (a.hinted h) :=
  ⟨⟨rfl, rfl, rfl, rfl, rfl, rfl, rfl, rfl, rfl, rfl⟩, rfl, rfl, rfl, rfl⟩
theorem marked_same {a b : Agent} (hb : b = { a with atBarT := b.atBarT, atBarC := b.atBarC }) : GangSame a b := by
  rw [hb]
  exact ⟨⟨rfl, rfl, rfl, rfl, rfl, rfl, rfl, rfl, rfl, rfl⟩, rfl, rfl, rfl, rfl⟩
theorem arrived_kept {mark : Agent → Agent} (hmark : ∀ a, mark a = { a with atBarT := (mark a).atBarT, atBarC := (mark a).atBarC }) (h : Hint)
    (s : State) : GangSame s.g (arrived h mark s).g := by
  have hpath := updPath_same (f := fun (p : Path) => { p with age := 0, shadows := p.spent }) (fun _ => rfl) s
  unfold arrived
  generalize s.updPath (fun (p : Path) => { p with age := 0, shadows := p.spent }) = u at hpath
  exact ((hpath.trans (marked_same (hmark u.g))).trans (hinted_same h _)).trans (stall_same { u with g := (mark u.g).hinted h })

-- Gangs depart.

/-- The agents of these numbers stand at no barrier, and no two agents have one number. -/
def Departed (ids : List Nat) (s : State) : Prop :=
  (∀ a ∈ s.agents, a.id ≠ s.g.id) ∧ (s.agents.map (·.id)).Nodup ∧
    ∀ a, (a = s.g ∨ a ∈ s.agents) → a.id ∈ ids → a.atBarT = false ∧ a.atBarC = false
theorem depart_only (a : Agent) :
    a.depart = { a with atBarT := false, atBarC := false, paths := a.depart.paths, region := a.depart.region } := by
  unfold Agent.depart
  dsimp only
  rw [(leave_only _).1]
theorem mem_updFirst_id {b x : Agent} {l : List Agent} (hnodup : (l.map (·.id)).Nodup) (hx : x ∈ updFirst (·.id == b.id) (fun _ => b) l) :
    x = b ∨ x ∈ l ∧ x.id ≠ b.id := by
  induction l with
  | nil => exact absurd hx List.not_mem_nil
  | cons a r ih =>
    rw [List.map_cons, List.nodup_cons] at hnodup
    obtain ⟨hfirst, hrest⟩ := hnodup
    unfold updFirst at hx
    split at hx
    next ha =>
      have hid : a.id = b.id := beq_iff_eq.mp ha
      refine (List.mem_cons.mp hx).imp id fun hmem => ⟨List.mem_cons_of_mem a hmem, fun heq => hfirst ?_⟩
      exact List.mem_map.mpr ⟨x, hmem, heq.trans hid.symm⟩
    next ha =>
      rcases List.mem_cons.mp hx with rfl | hmem
      · exact .inr ⟨List.mem_cons_self, fun heq => ha (beq_iff_eq.mpr heq)⟩
      · exact (ih hrest hmem).imp id fun ⟨hr, hne⟩ => ⟨List.mem_cons_of_mem a hr, hne⟩
theorem Departed.setAgent {ids : List Nat} {s : State} (h : Departed ids s) (a : Agent) : Departed (a.id :: ids) (s.setAgent a.depart) := by
  obtain ⟨hother, hnodup, hgone⟩ := h
  have hid := depart_id a
  have hleft : a.depart.atBarT = false ∧ a.depart.atBarC = false := by
    rw [depart_only]
    exact ⟨rfl, rfl⟩
  unfold State.setAgent
  split
  next hissue =>
    rw [hid] at hissue
    refine ⟨fun b hb => by rw [hid, ← hissue]; exact hother b hb, hnodup, fun b hb hmem => ?_⟩
    rcases hb with rfl | hb
    · exact hleft
    · exact hgone b (.inr hb) ((List.mem_cons.mp hmem).resolve_left fun heq => hother b hb (heq.trans hissue.symm))
  next hissue =>
    rw [hid] at hissue
    have hids : (updFirst (fun (b : Agent) => b.id == a.depart.id) (fun _ => a.depart) s.agents).map (·.id) = s.agents.map (·.id) :=
      map_updFirst Agent.id _ _ _ fun b hb => Eq.symm (by simpa using List.find?_some hb)
    refine ⟨fun b hb => ?_, by rw [hids]; exact hnodup, fun b hb hmem => ?_⟩
    · rcases mem_updFirst_id hnodup hb with rfl | ⟨hb, -⟩
      · rw [hid]
        exact fun heq => hissue heq.symm
      · exact hother b hb
    · rcases hb with rfl | hb
      · exact hgone _ (.inl rfl) ((List.mem_cons.mp hmem).resolve_left hissue)
      · rcases mem_updFirst_id hnodup hb with rfl | ⟨hb, hne⟩
        · exact hleft
        · exact hgone b (.inr hb) ((List.mem_cons.mp hmem).resolve_left fun heq => hne (heq.trans hid.symm))
theorem Departed.mono {ids js : List Nat} {s : State} (h : Departed ids s) (hsub : ∀ i ∈ js, i ∈ ids) : Departed js s := by
  obtain ⟨hother, hnodup, hgone⟩ := h
  exact ⟨hother, hnodup, fun a ha hmem => hgone a ha (hsub _ hmem)⟩
theorem Departed.congr {ids : List Nat} {s t : State} (h : Departed ids s) (hg : t.g = s.g) (hagents : t.agents = s.agents) : Departed ids t := by
  unfold Departed at *
  rwa [hg, hagents]
/-- What each gang that departs does, as far as the agents go. -/
def DepartsEach (f : State → Agent → State) : Prop :=
  ∀ s a, (f s a).g = (s.setAgent a.depart).g ∧ (f s a).agents = (s.setAgent a.depart).agents
theorem departs_setAgent : DepartsEach fun s a => s.setAgent a.depart := fun _ _ => ⟨rfl, rfl⟩
theorem departs_acquired : DepartsEach fun s a => acquired a 2 (s.setAgent a.depart) := fun s a => by
  unfold acquired
  dsimp only
  rw [if_neg (by decide)]
  split <;> exact ⟨rfl, rfl⟩
theorem Departed.foldl {f : State → Agent → State} (hf : DepartsEach f) (us : List Agent) {ids : List Nat} {s : State} (h : Departed ids s) :
    Departed (us.map (·.id) ++ ids) (us.foldl f s) := by
  induction us generalizing ids s with
  | nil => exact h
  | cons a r ih =>
    obtain ⟨hg, hagents⟩ := hf s a
    exact (ih ((h.setAgent a).congr hg hagents)).mono fun i hi => by simpa [or_left_comm] using hi
/-- The agent at issue departs with the others, or is not among them. -/
theorem foldl_departs_g {f : State → Agent → State} (hf : DepartsEach f) (us : List Agent) (s : State) :
    (us.foldl f s).g = s.g ∨ ∃ a ∈ us, a.id = s.g.id ∧ (us.foldl f s).g = a.depart := by
  induction us generalizing s with
  | nil => exact .inl rfl
  | cons a r ih =>
    have hg : (f s a).g = s.g ∨ a.id = s.g.id ∧ (f s a).g = a.depart := by
      rw [(hf s a).1, State.setAgent, depart_id]
      split
      next hissue => exact .inr ⟨hissue.symm, rfl⟩
      · exact .inl rfl
    have hid : (f s a).g.id = s.g.id := by
      rcases hg with hg | ⟨hid, hg⟩
      · rw [hg]
      · rw [hg, depart_id, hid]
    rcases ih (f s a) with hr | ⟨b, hb, hbid, hr⟩
    · rw [List.foldl_cons, hr]
      exact hg.imp id fun ⟨hid, hg⟩ => ⟨a, List.mem_cons_self, hid, hg⟩
    · exact .inr ⟨b, List.mem_cons_of_mem a hb, hbid.trans hid, hr⟩

-- The barriers of a team and of its unit.

theorem gathered_false {at_ : Agent → Bool} {l : List Agent} {a : Agent} (ha : a ∈ l) (hat : at_ a = false) :
    (l.any at_ && l.all at_) = false := by
  rw [Bool.and_eq_false_iff, List.all_eq_false]
  exact .inr ⟨a, ha, by simp [hat]⟩
theorem gathered_true {at_ : Agent → Bool} {l : List Agent} {a : Agent} (ha : a ∈ l) (hat : ∀ b ∈ l, at_ b = true) :
    (l.any at_ && l.all at_) = true := by
  rw [Bool.and_eq_true, List.any_eq_true, List.all_eq_true]
  exact ⟨⟨a, ha, hat a ha⟩, hat⟩
/-- The gangs of the cluster that a team is in. -/
def State.unitGangs (s : State) (t : Nat) : List Agent := (s.team t).unit.flatMap s.gangsOf
theorem barriers_wait {t : Nat} {s : State} {a b : Agent} (ha : a ∈ s.gangsOf t) (hat : a.atBarT = false) (hb : b ∈ s.unitGangs t)
    (hbt : b.atBarC = false) : barriers t s = s := by
  unfold barriers
  dsimp only
  rw [gathered_false ha hat, if_neg Bool.false_ne_true]
  exact if_neg (ne_true_of_eq_false (gathered_false hb hbt))
theorem barriers_team {t : Nat} {s : State} {a b : Agent} (ha : a ∈ s.gangsOf t) (hat : ∀ a ∈ s.gangsOf t, a.atBarT = true)
    (hb : b ∈ ((s.gangsOf t).foldl (fun s a => s.setAgent a.depart) s).unitGangs t) (hbt : b.atBarC = false) :
    barriers t s = (s.gangsOf t).foldl (fun s a => s.setAgent a.depart) s := by
  unfold barriers
  dsimp only
  rw [gathered_true ha hat, if_pos rfl]
  exact if_neg (ne_true_of_eq_false (gathered_false hb hbt))
theorem barriers_cluster {t : Nat} {s : State} {a b : Agent} (ha : a ∈ s.gangsOf t) (hat : a.atBarT = false) (hb : b ∈ s.unitGangs t)
    (hbt : ∀ a ∈ s.unitGangs t, a.atBarC = true) :
    barriers t s = (s.unitGangs t).foldl (fun s a => acquired a 2 (s.setAgent a.depart)) s := by
  unfold barriers
  dsimp only
  rw [gathered_false ha hat, if_neg Bool.false_ne_true]
  exact if_pos (gathered_true hb hbt)
theorem mem_gangsOf {t : Nat} {s : State} (hid : s.g.id ≠ 0) (a : Agent) :
    a ∈ s.gangsOf t ↔ (a = s.g ∨ a ∈ s.agents) ∧ a.drover = false ∧ a.team = t := by
  unfold State.gangsOf State.all
  rw [if_neg hid, List.mem_filter, List.mem_cons]
  simp
theorem mem_unitGangs {t : Nat} {s : State} (hid : s.g.id ≠ 0) (a : Agent) :
    a ∈ s.unitGangs t ↔ (a = s.g ∨ a ∈ s.agents) ∧ a.drover = false ∧ a.team ∈ (s.team t).unit := by
  unfold State.unitGangs
  rw [List.mem_flatMap]
  simp only [mem_gangsOf hid]
  exact ⟨fun ⟨_, hm, ha, hd, ht⟩ => ⟨ha, hd, ht ▸ hm⟩, fun ⟨ha, hd, hm⟩ => ⟨_, hm, ha, hd, rfl⟩⟩

-- BAR.T and BAR.C.

/-- A gang that waits at a barrier, among agents of other numbers. -/
def AtBarrier (s : State) : Prop :=
  s.g.id ≠ 0 ∧ s.g.drover = false ∧ (∀ a ∈ s.agents, a.id ≠ s.g.id) ∧ (s.agents.map (·.id)).Nodup ∧
    s.g.team ∈ (s.team s.g.team).unit
theorem AtBarrier.id {s : State} (w : AtBarrier s) : s.g.id ≠ 0 := w.1
theorem AtBarrier.gang {s : State} (w : AtBarrier s) : s.g.drover = false := w.2.1
theorem AtBarrier.others {s : State} (w : AtBarrier s) : ∀ a ∈ s.agents, a.id ≠ s.g.id := w.2.2.1
theorem AtBarrier.nodup {s : State} (w : AtBarrier s) : (s.agents.map (·.id)).Nodup := w.2.2.2.1
theorem AtBarrier.unit {s : State} (w : AtBarrier s) : s.g.team ∈ (s.team s.g.team).unit := w.2.2.2.2
/-- The other gangs of the team, and of the cluster. -/
def State.teamMates (s : State) : List Agent := s.agents.filter fun a => !a.drover && a.team == s.g.team
def State.clusterMates (s : State) : List Agent := s.agents.filter fun a => !a.drover && s.tm.unit.contains a.team
theorem depart_kept (a : Agent) : a.depart.team = a.team ∧ a.depart.drover = a.drover := by
  rw [depart_only]
  exact ⟨rfl, rfl⟩
theorem setAgent_teams (a : Agent) (s : State) : (s.setAgent a).teams = s.teams := by
  unfold State.setAgent
  split <;> rfl
theorem foldl_setAgent_team (us : List Agent) (s : State) (t : Nat) : (us.foldl (fun s a => s.setAgent a.depart) s).team t = s.team t := by
  have hteams : (us.foldl (fun s a => s.setAgent a.depart) s).teams = s.teams :=
    List.foldlRecOn us _ (motive := fun (u : State) => u.teams = s.teams) rfl fun _ hu _ _ => (setAgent_teams _ _).trans hu
  unfold State.team
  rw [hteams]

section
variable {s : State} (w : AtBarrier s)
include w
theorem AtBarrier.self_mem_gangsOf : s.g ∈ s.gangsOf s.g.team := (mem_gangsOf w.id _).mpr ⟨.inl rfl, w.gang, rfl⟩
theorem AtBarrier.self_mem_unitGangs : s.g ∈ s.unitGangs s.g.team := (mem_unitGangs w.id _).mpr ⟨.inl rfl, w.gang, w.unit⟩
theorem AtBarrier.mem_gangsOf_iff (a : Agent) : a ∈ s.gangsOf s.g.team ↔ a = s.g ∨ a ∈ s.teamMates := by
  rw [mem_gangsOf w.id, State.teamMates, List.mem_filter, Bool.and_eq_true, beq_iff_eq, Bool.not_eq_true']
  constructor
  · rintro ⟨rfl | ha, hd, ht⟩
    · exact .inl rfl
    · exact .inr ⟨ha, hd, ht⟩
  · rintro (rfl | ⟨ha, hd, ht⟩)
    · exact ⟨.inl rfl, w.gang, rfl⟩
    · exact ⟨.inr ha, hd, ht⟩
theorem AtBarrier.mem_unitGangs_iff (a : Agent) : a ∈ s.unitGangs s.g.team ↔ a = s.g ∨ a ∈ s.clusterMates := by
  rw [mem_unitGangs w.id, State.clusterMates, List.mem_filter, Bool.and_eq_true, List.contains_iff_mem, Bool.not_eq_true']
  constructor
  · rintro ⟨rfl | ha, hd, ht⟩
    · exact .inl rfl
    · exact .inr ⟨ha, hd, ht⟩
  · rintro (rfl | ⟨ha, hd, ht⟩)
    · exact ⟨.inl rfl, w.gang, w.unit⟩
    · exact ⟨.inr ha, hd, ht⟩
theorem AtBarrier.departed : Departed [] s := ⟨w.others, w.nodup, fun _ _ hmem => absurd hmem List.not_mem_nil⟩
/-- When all of some gangs, this one among them, depart, none of them stands at a barrier. -/
theorem AtBarrier.foldl_departs {f : State → Agent → State} (hf : DepartsEach f) {us : List Agent} (hself : s.g ∈ us) :
    ((us.foldl f s).g.atBarT = false ∧ (us.foldl f s).g.atBarC = false) ∧
      ∀ a ∈ (us.foldl f s).agents, a.id ∈ us.map (·.id) → a.atBarT = false ∧ a.atBarC = false := by
  obtain ⟨-, -, hgone⟩ := w.departed.foldl hf us
  rw [List.append_nil] at hgone
  have hid : (us.foldl f s).g.id = s.g.id := by
    rcases foldl_departs_g hf us s with hg | ⟨a, -, hid, hg⟩
    · rw [hg]
    · rw [hg, depart_id, hid]
  exact ⟨hgone _ (.inl rfl) (by rw [hid]; exact List.mem_map_of_mem hself), fun a ha => hgone a (.inr ha)⟩
theorem AtBarrier.team_waits (hself : s.g.atBarC = false) (hsome : ∃ a ∈ s.teamMates, a.atBarT = false) : barriers s.g.team s = s := by
  obtain ⟨a, ha, hat⟩ := hsome
  exact barriers_wait ((w.mem_gangsOf_iff a).mpr (.inr ha)) hat w.self_mem_unitGangs hself
theorem AtBarrier.cluster_waits (hself : s.g.atBarT = false) (hsome : ∃ a ∈ s.clusterMates, a.atBarC = false) : barriers s.g.team s = s := by
  obtain ⟨a, ha, hat⟩ := hsome
  exact barriers_wait w.self_mem_gangsOf hself ((w.mem_unitGangs_iff a).mpr (.inr ha)) hat
/-- The gang that has departed is still one of its team. -/
theorem AtBarrier.departed_mem : ((s.gangsOf s.g.team).foldl (fun s a => s.setAgent a.depart) s).g ∈
    ((s.gangsOf s.g.team).foldl (fun s a => s.setAgent a.depart) s).unitGangs s.g.team := by
  have hteam := foldl_setAgent_team (s.gangsOf s.g.team) s s.g.team
  have hkept := foldl_departs_g departs_setAgent (s.gangsOf s.g.team) s
  generalize (s.gangsOf s.g.team).foldl (fun s a => s.setAgent a.depart) s = t at hteam hkept
  have hself : t.g.id = s.g.id ∧ t.g.drover = false ∧ t.g.team = s.g.team := by
    rcases hkept with hg | ⟨a, ha, hid, hg⟩
    · rw [hg]
      exact ⟨rfl, w.gang, rfl⟩
    · obtain ⟨-, hgang, hmate⟩ := (mem_gangsOf w.id a).mp ha
      obtain ⟨hdteam, hdgang⟩ := depart_kept a
      rw [hg]
      exact ⟨(depart_id a).trans hid, hdgang.trans hgang, hdteam.trans hmate⟩
  obtain ⟨hid, hgang, hmate⟩ := hself
  refine (mem_unitGangs (hid ▸ w.id) _).mpr ⟨.inl rfl, hgang, ?_⟩
  rw [hmate, hteam]
  exact w.unit
theorem AtBarrier.team_departs (hself : s.g.atBarT = true) (hall : ∀ a ∈ s.teamMates, a.atBarT = true) :
    (barriers s.g.team s).g.atBarT = false ∧ ∀ a ∈ (barriers s.g.team s).agents, a.id ∈ s.teamMates.map (·.id) → a.atBarT = false := by
  have hmates (a : Agent) (ha : a ∈ s.gangsOf s.g.team) : a.atBarT = true := by
    rcases (w.mem_gangsOf_iff a).mp ha with rfl | ha
    · exact hself
    · exact hall a ha
  obtain ⟨⟨hleft, hleftC⟩, hothers⟩ := w.foldl_departs departs_setAgent w.self_mem_gangsOf
  rw [barriers_team w.self_mem_gangsOf hmates w.departed_mem hleftC]
  refine ⟨hleft, fun a ha hmem => (hothers a ha ?_).1⟩
  obtain ⟨b, hb, hid⟩ := List.mem_map.mp hmem
  exact List.mem_map.mpr ⟨b, (w.mem_gangsOf_iff b).mpr (.inr hb), hid⟩
theorem AtBarrier.cluster_departs (hself : s.g.atBarT = false) (hall : ∀ a ∈ s.clusterMates, a.atBarC = true) (hmine : s.g.atBarC = true) :
    (barriers s.g.team s).g.atBarC = false ∧ ∀ a ∈ (barriers s.g.team s).agents, a.id ∈ s.clusterMates.map (·.id) → a.atBarC = false := by
  have hmates (a : Agent) (ha : a ∈ s.unitGangs s.g.team) : a.atBarC = true := by
    rcases (w.mem_unitGangs_iff a).mp ha with rfl | ha
    · exact hmine
    · exact hall a ha
  obtain ⟨⟨-, hleft⟩, hothers⟩ := w.foldl_departs departs_acquired w.self_mem_unitGangs
  rw [barriers_cluster w.self_mem_gangsOf hself w.self_mem_unitGangs hmates]
  refine ⟨hleft, fun a ha hmem => (hothers a ha ?_).2⟩
  obtain ⟨b, hb, hid⟩ := List.mem_map.mp hmem
  exact List.mem_map.mpr ⟨b, (w.mem_unitGangs_iff b).mpr (.inr hb), hid⟩
end

-- BAR.T and BAR.C.

def markT (a : Agent) : Agent := { a with atBarT := true }
def markC (a : Agent) : Agent := { a with atBarC := true }
theorem markT_only (a : Agent) : markT a = { a with atBarT := (markT a).atBarT, atBarC := (markT a).atBarC } := rfl
theorem markC_only (a : Agent) : markC a = { a with atBarT := (markC a).atBarT, atBarC := (markC a).atBarC } := rfl
theorem arrived_agents (h : Hint) (mark : Agent → Agent) (s : State) : (arrived h mark s).agents = s.agents := by
  unfold arrived stall State.updPath
  rfl
theorem arrived_team (h : Hint) (mark : Agent → Agent) (s : State) (t : Nat) : (arrived h mark s).team t = s.team t := by
  unfold arrived stall State.updPath
  rfl
theorem arrived_atBarrier {mark : Agent → Agent} (hmark : ∀ a, mark a = { a with atBarT := (mark a).atBarT, atBarC := (mark a).atBarC })
    {h : Hint} {s : State} (w : AtBarrier s) : AtBarrier (arrived h mark s) ∧ (arrived h mark s).teamMates = s.teamMates ∧
      (arrived h mark s).clusterMates = s.clusterMates := by
  obtain ⟨-, -, hid, hteam, hgang⟩ := arrived_kept hmark h s
  have hagents := arrived_agents h mark s
  have hteams := arrived_team h mark s
  generalize arrived h mark s = u at hid hteam hgang hagents hteams
  refine ⟨⟨hid ▸ w.id, hgang.trans w.gang, ?_, hagents ▸ w.nodup, ?_⟩, ?_, ?_⟩
  · rw [hagents, hid]
    exact w.others
  · rw [hteam, hteams]
    exact w.unit
  · unfold State.teamMates
    rw [hagents, hteam]
  · unfold State.clusterMates State.tm
    rw [hagents, hteam, hteams]

theorem arrived_markT (h : Hint) (s : State) : (arrived h markT s).g.atBarT = true ∧ (arrived h markT s).g.atBarC = s.g.atBarC := by
  unfold arrived stall State.updPath markT
  exact ⟨rfl, rfl⟩
theorem arrived_markC (h : Hint) (s : State) : (arrived h markC s).g.atBarC = true ∧ (arrived h markC s).g.atBarT = s.g.atBarT := by
  unfold arrived stall State.updPath markC
  exact ⟨rfl, rfl⟩
theorem execBarT_eq (h : Hint) (s : State) : exec (.barT h) s = .next (arriveAt h 1 markT s) := rfl
theorem execBarC_eq (h : Hint) (s : State) : exec (.barC h) s = .next (arriveAt h 2 markC s) := rfl

/-- Settles O28: the gang that arrives marks itself and waits; the barrier completes with the last mark, and then all marks are taken off. -/
theorem barriersGather : Obligations.BarriersGather := by
  unfold Obligations.BarriersGather
  intro bar
  refine ⟨⟨fun h s hsplit => ⟨_, execBarT_eq h s, arriveAt_converge hsplit 1 markT⟩, fun h s hact => ⟨_, execBarT_eq h s,
      fun hone hmay hdropped hid hgang hothers hnodup hatT hatC hunit _ => ?_⟩⟩,
    fun h s hsplit => ⟨_, execBarC_eq h s, arriveAt_converge hsplit 2 markC⟩, fun h s hact => ⟨_, execBarC_eq h s,
      fun hone hmay hdropped hid hgang hothers hnodup hatT hatC hunit _ => ?_⟩⟩
  · obtain ⟨hregs, hpcs, -⟩ := arrived_kept markT_only h s
    obtain ⟨w, hmates, -⟩ := arrived_atBarrier markT_only (h := h) (s := s) ⟨hid, hgang, fun a ha => (hothers a ha).1, hnodup, hunit⟩
    obtain ⟨hmine, hother⟩ := arrived_markT h s
    have hagents := arrived_agents h markT s
    rw [arriveAt_gathers hact hone hmay hdropped]
    generalize arrived h markT s = u at hregs hpcs w hmates hmine hother hagents
    refine ⟨fun hsome => ?_, fun hall => ?_⟩
    · rw [w.team_waits (hother.trans hatC) (by rw [hmates]; exact hsome)]
      exact ⟨hmine, hregs, hagents, hpcs⟩
    · have hdeparts := w.team_departs hmine (by rw [hmates]; exact hall)
      rw [hmates] at hdeparts
      exact hdeparts
  · obtain ⟨hregs, hpcs, -⟩ := arrived_kept markC_only h s
    obtain ⟨w, -, hmates⟩ := arrived_atBarrier markC_only (h := h) (s := s) ⟨hid, hgang, fun a ha => (hothers a ha).1, hnodup, hunit⟩
    obtain ⟨hmine, hother⟩ := arrived_markC h s
    have hagents := arrived_agents h markC s
    rw [arriveAt_gathers hact hone hmay hdropped]
    generalize arrived h markC s = u at hregs hpcs w hmates hmine hother hagents
    refine ⟨fun hsome => ?_, fun hall => ?_⟩
    · rw [w.cluster_waits (hother.trans hatT) (by rw [hmates]; exact hsome)]
      exact ⟨hmine, hregs, hagents, hpcs⟩
    · have hdeparts := w.cluster_departs (hother.trans hatT) (by rw [hmates]; exact hall) hmine
      rw [hmates] at hdeparts
      exact hdeparts
end Sys2Proof.Machine
end

section
/-!
PROOFS. Box copies: their checks in order, their locks and their place in the queue (R64, R78, R173, R310 to R312).
-/
namespace Sys2Proof.Machine

-- Range locks (R78, R80).

theorem register_cons (e : Nat × Lock) (ls : List (Nat × Lock)) (s : State) :
    register (e :: ls) s = register ls (s.setCore e.1 { s.core e.1 with locks := (s.core e.1).locks ++ [e.2] }) := rfl
theorem register_only (ls : List (Nat × Lock)) (s : State) : register ls s = { s with cores := (register ls s).cores } := by
  induction ls generalizing s with
  | nil => rfl
  | cons e r ih =>
    rw [register_cons, ih]
    rfl
theorem register_queue (ls : List (Nat × Lock)) (s : State) (c : Nat) : ((register ls s).core c).queue = (s.core c).queue := by
  induction ls generalizing s with
  | nil => rfl
  | cons e r ih =>
    rw [register_cons, ih]
    by_cases hc : c = e.1
    · rw [hc, core_setCore_self]
    · rw [core_setCore_other _ _ _ _ hc]
theorem register_keeps_lock {s : State} {c : Nat} {k : Lock} (hk : k ∈ (s.core c).locks) (ls : List (Nat × Lock)) :
    k ∈ ((register ls s).core c).locks := by
  induction ls generalizing s with
  | nil => exact hk
  | cons e r ih =>
    rw [register_cons]
    refine ih ?_
    by_cases hc : c = e.1
    · rw [hc, core_setCore_self]
      exact List.mem_append_left _ (hc ▸ hk)
    · rw [core_setCore_other _ _ _ _ hc]
      exact hk
theorem register_locks {ls : List (Nat × Lock)} {e : Nat × Lock} (he : e ∈ ls) (s : State) : e.2 ∈ ((register ls s).core e.1).locks := by
  induction ls generalizing s with
  | nil => exact absurd he List.not_mem_nil
  | cons d r ih =>
    rw [register_cons]
    rcases List.mem_cons.mp he with rfl | hr
    · refine register_keeps_lock ?_ r
      rw [core_setCore_self]
      exact List.mem_append_right _ (List.mem_singleton.mpr rfl)
    · exact ih hr _

theorem retire_eng (h : Hint) (s : State) : (retire h s).eng = s.eng := by rw [(retire_only h s).1]
theorem retire_serial (h : Hint) (s : State) : (retire h s).serial = s.serial := by rw [(retire_only h s).1]

-- The checks of a box copy (R312).

theorem copyIllegal_lt {x : Xfer} {d : Nat} (hd : copyIllegal x = some d) : d < 256 := by
  unfold copyIllegal at hd
  dsimp only at hd
  split_ifs at hd <;> cases hd <;> decide
/-- The copy holds its locks and stands in the queue of its core. -/
def queued (x : Xfer) (s : State) : State :=
  let u := register ((s.xferTeams x).flatMap x.lockOf) (s.setCore x.core { s.core x.core with queue := (s.core x.core).queue ++ [x.id] })
  { u with serial := u.serial + 1, eng := { u.eng with xfers := u.eng.xfers ++ [{ x with accepted := true, locked := true }] } }
theorem queued_spec (x : Xfer) (s : State) :
    (queued x s).eng.xfers = s.eng.xfers ++ [{ x with accepted := true, locked := true }] ∧
      ((queued x s).core x.core).queue = (s.core x.core).queue ++ [x.id] ∧
      (∀ e ∈ (s.xferTeams x).flatMap x.lockOf, e.2 ∈ ((queued x s).core e.1).locks) ∧
      (queued x s).serial = s.serial + 1 ∧ (queued x s).g = s.g ∧ (queued x s).mem = s.mem := by
  have hqueue := register_queue ((s.xferTeams x).flatMap x.lockOf)
    (s.setCore x.core { s.core x.core with queue := (s.core x.core).queue ++ [x.id] }) x.core
  rw [core_setCore_self] at hqueue
  refine ⟨?_, hqueue, fun e he => register_locks he _, ?_⟩
  all_goals
    unfold queued
    rw [register_only]
  · rfl
  · exact ⟨rfl, rfl, rfl⟩

section
variable {h : Hint} {scope : BitVec 3} {x : State → Xfer} {s : State} (hwhole : s.g.whole = true) (hact : s.act h ≠ 0)
include hwhole hact
theorem boxIssue_illegal {d : Nat} (hd : copyIllegal (x s) = some d) : boxIssue h scope x s = illegal d s := by
  unfold boxIssue
  rw [(whole_spec _ s).1 hwhole, if_neg hact]
  simp only [hd]
variable (hlegal : copyIllegal (x s) = none)
include hlegal
theorem boxIssue_misaligned {o : Nat} (ho : (x s).offsets.find? (fun o => o % 16 != 0) = some o) :
    boxIssue h scope x s = raise (rep cAlign 0x50 s.before (BitVec.ofNat 64 o) 0) s := by
  unfold boxIssue
  rw [(whole_spec _ s).1 hwhole, if_neg hact]
  simp only [hlegal, ho]
variable (halign : (x s).offsets.find? (fun o => o % 16 != 0) = none)
include halign
theorem boxIssue_noMember (hmc : ((x s).mc && ((x s).mask = 0 || (x s).mask.toNat ≥ 2 ^ s.rc.members)) = true) :
    boxIssue h scope x s = raise (rep cCluster 0x71 s.before 0 0) s := by
  unfold boxIssue
  rw [(whole_spec _ s).1 hwhole, if_neg hact]
  simp only [hlegal, halign, hmc]
  rfl
variable (hmc : ((x s).mc && ((x s).mask = 0 || (x s).mask.toNat ≥ 2 ^ s.rc.members)) = false)
include hmc
theorem boxIssue_outside {o : Nat} (ho : (x s).outside s.rc.scratch = some o) :
    boxIssue h scope x s = raise (rep cSpace 0x60 s.before (BitVec.ofNat 64 o) 0) s := by
  unfold boxIssue
  rw [(whole_spec _ s).1 hwhole, if_neg hact]
  simp only [hlegal, halign, hmc, ho]
  rfl
theorem boxIssue_queues (hinside : (x s).outside s.rc.scratch = none) (hmay : s.mayRelease s.g.id scope.toNat = true)
    (hdropped : s.g.dropped = []) (hxfers : (s.eng.xfers.filter fun y => y.agent == s.g.id && !y.drover).length < 32)
    (hqueue : (s.core (x s).core).queue.length < 64) (hroom : s.lockRoom ((s.xferTeams (x s)).flatMap (x s).lockOf) = true) :
    boxIssue h scope x s = retire h (queued (x s) s) := by
  unfold boxIssue
  rw [(whole_spec _ s).1 hwhole, if_neg hact]
  simp only [hlegal, halign, hmc, hinside, if_neg Bool.false_ne_true]
  rw [released_free _ _ s hmay hdropped]
  rw [if_neg (by simp [hxfers, hqueue]), if_neg (by simp [hroom])]
  rfl
end

/-- Settles O39: the four copies are one word with different operands, which passes its checks one after another. -/
theorem boxCopiesIssue : Obligations.BoxCopiesIssue := by
  unfold Obligations.BoxCopiesIssue
  intro starts
  have of (i : Instr) (h : Hint) (scope : BitVec 3) (x : State → Xfer) (hid : ∀ s, (x s).id = s.serial)
      (hexec : ∀ s, exec i s = .next (boxIssue h scope x s)) : starts i h scope.toNat x := by
    intro s
    refine ⟨_, hexec s, fun hpart => (whole_spec _ s).2 hpart, fun hwhole hact => ⟨fun d hd => ?_, fun hlegal => ⟨fun o ho => ?_,
      fun hoffs hmc hmask => ?_, fun hoffs hmask => ⟨fun o ho => ?_, fun hinside hmay hdropped hxfers hqueue hroom => ?_⟩⟩⟩⟩
    · rw [boxIssue_illegal hwhole hact hd]
      exact illegal_spec d s (copyIllegal_lt hd)
    · rw [boxIssue_misaligned hwhole hact hlegal ho]
      exact raise_rep_spec 0x12 0x50 _ _ _ s (by decide) (by decide)
    · have halign : (x s).offsets.find? (fun o => o % 16 != 0) = none := List.find?_eq_none.mpr fun o ho => by simp [hoffs o ho]
      rw [boxIssue_noMember hwhole hact hlegal halign (by simpa [hmc] using hmask)]
      exact raise_rep_spec 0x15 0x71 _ _ _ s (by decide) (by decide)
    all_goals
      have halign : (x s).offsets.find? (fun o => o % 16 != 0) = none := List.find?_eq_none.mpr fun o ho => by simp [hoffs o ho]
      have hmembers : ((x s).mc && ((x s).mask = 0 || (x s).mask.toNat ≥ 2 ^ s.rc.members)) = false := by
        simpa using hmask
    · rw [boxIssue_outside hwhole hact hlegal halign hmembers ho]
      exact raise_rep_spec 0x16 0x60 _ _ _ s (by decide) (by decide)
    · rw [boxIssue_queues hwhole hact hlegal halign hmembers hinside hmay hdropped hxfers hqueue hroom]
      obtain ⟨hx, hq, hlocks, hserial, hg, hmem⟩ := queued_spec (x s) s
      have hkept := retire_gangKept h (queued (x s) s)
      rw [hid] at hq
      rw [hg] at hkept
      rw [retire_eng, retire_serial, retire_core]
      simp only [retire_core]
      exact ⟨hx, hq, hlocks, hserial, hkept, MemoryKept.of_mem ((retire_mem h _).trans hmem)⟩
  exact ⟨fun h m scope d a b => of _ _ _ _ (fun _ => rfl) fun _ => rfl, fun h m scope d a b => of _ _ _ _ (fun _ => rfl) fun _ => rfl,
    fun h rop scope d a b => of _ _ _ _ (fun _ => rfl) fun _ => rfl, fun h k rop scope d a b => of _ _ _ _ (fun _ => rfl) fun _ => rfl⟩
end Sys2Proof.Machine
end

section
/-!
PROOFS. Matrix words: their checks, and the operation that starts (R173, R337 to R348, R353).
-/
namespace Sys2Proof.Machine

-- The start of an operation (R353).

theorem matIssue_ready {s : State} {h : Hint} {scope : BitVec 3} (hwhole : s.g.whole = true) (hact : s.act h ≠ 0)
    (hmay : s.mayRelease s.g.id scope.toNat = true) (hdropped : s.g.dropped = []) (f : State → State) : matIssue h scope f s = f s := by
  unfold matIssue
  rw [(whole_spec _ s).1 hwhole, if_neg hact, released_free _ _ s hmay hdropped]
theorem released_congr {s : State} {f g : State → State} (hfg : f s = g s) (scope : Nat) : released scope f s = released scope g s := by
  unfold released whenDrained
  rw [hfg]
/-- A matrix instruction reads its operands where it is issued. -/
theorem matIssue_congr {s : State} {f g : State → State} (hfg : f s = g s) (h : Hint) (scope : BitVec 3) :
    matIssue h scope f s = matIssue h scope g s := by
  unfold matIssue whole
  dsimp only
  rw [released_congr hfg]
/-- The range locks of an operation (R78). -/
def matLocks (id : Nat) (src dst : List Span) (s : State) : List (Nat × Lock) :=
  (if (spanLock id false s.tm src).map (fun l => (l.2.lo, l.2.hi)) = (spanLock id true s.tm dst).map (fun l => (l.2.lo, l.2.hi)) then []
    else spanLock id false s.tm src) ++ spanLock id true s.tm dst
theorem matLocks_reads (id : Nat) (src : List Span) (s : State) : matLocks id src [] s = spanLock id false s.tm src := by
  unfold matLocks
  have hnone : spanLock id true s.tm [] = [] := rfl
  rw [hnone, List.append_nil, List.map_nil]
  split
  next hempty => exact (List.map_eq_nil_iff.mp hempty).symm
  · rfl
/-- The operation among the engine's. -/
def launched (x : MatOp) (s : State) : State := { s with serial := s.serial + 1, eng := { s.eng with mats := s.eng.mats ++ [x] } }
theorem launched_core (x : MatOp) (s : State) (c : Nat) : (launched x s).core c = s.core c := rfl
theorem startMat_starts {h : Hint} {x : MatOp} {src dst wide : List Span} {s : State} (hid : x.id = s.serial)
    (hfits : ∀ r ∈ src ++ wide, r.1 + r.2 ≤ s.rc.scratch) (hmats : (s.eng.mats.filter fun y => y.agent == s.g.id).length < 32)
    (hroom : s.lockRoom (matLocks s.serial src dst s) = true) (f : State → State) :
    startMat h x src dst wide f s = retire h (launched x (f (register (matLocks s.serial src dst s) s))) := by
  have hnone : ((src ++ wide).find? fun r => s.rc.scratch < r.1 + r.2) = none :=
    List.find?_eq_none.mpr fun r hr => by simpa using hfits r hr
  unfold startMat
  rw [hnone, hid]
  dsimp only
  rw [if_neg (by omega)]
  exact if_neg (by rw [Bool.not_eq_true']; exact ne_false_of_eq_true hroom)
/-- What a matrix word may have done before its operation starts. -/
def Prepared (s u : State) : Prop := u.eng = s.eng ∧ u.serial = s.serial ∧ u.mem = s.mem ∧ RegsKept s.g u.g
theorem retire_launched {s u : State} (hu : Prepared s u) (h : Hint) (x : MatOp) :
    (retire h (launched x u)).eng.mats = s.eng.mats ++ [x] ∧ (retire h (launched x u)).serial = s.serial + 1 ∧
      RegsKept s.g (retire h (launched x u)).g ∧ MemoryKept s (retire h (launched x u)) := by
  obtain ⟨heng, hserial, hmem, hregs⟩ := hu
  obtain ⟨hending, -⟩ := retire_gangKept h (launched x u)
  rw [retire_eng, retire_serial, ← heng, ← hserial]
  exact ⟨rfl, rfl, hregs.trans (RegsKept.of_ending hending).1, MemoryKept.of_mem ((retire_mem h _).trans hmem)⟩
theorem register_prepared (ls : List (Nat × Lock)) (s : State) : Prepared s (register ls s) := by
  rw [register_only]
  exact ⟨rfl, rfl, rfl, rfl, rfl, rfl, rfl, rfl, rfl, rfl, rfl, rfl, rfl⟩

-- MLD.N and MLD.W (R337 to R341).

/-- The buffer records the format of what is loaded. -/
def recordFmt (w : Nat) (f : U64) (s : State) : State :=
  let u := touch [grBuf s.g.team w] s
  u.setTeam { u.tm with bufs := SMap.set Buffer.empty u.tm.bufs w { SMap.get Buffer.empty u.tm.bufs w with fmt := some (fbRecord f) } }
theorem recordFmt_prepared {s u : State} (hu : Prepared s u) (w : Nat) (f : U64) : Prepared s (recordFmt w f u) := by
  unfold recordFmt State.setTeam Prepared
  dsimp only
  rw [(touch_only _ u).1]
  exact hu
theorem mldIssue_starts {h : Hint} {kind : MatKind} {w : Nat} {a f c : U64} {s : State} (hvalid : fbValid f = true)
    (hwide : kind = .mldW → fmtWidth (fbBfmt f) = 16 ∧ fbBsp f = false ∧ fbBsfmt f = 0) (ha : a.toNat % 16 = 0)
    (hc : fbBsfmt f = 0 ∨ c.toNat % 16 = 0) (hscale : fbAsoff f % 16 = 0) : mldIssue h kind w a f c s =
      startMat h (s.newMat kind 0 w 0 0 a f c) (mldSpans a.toNat c.toNat f) [] [] (recordFmt w f) s := by
  have hnarrow : (kind == .mldW && (fmtWidth (fbBfmt f) != 16 || fbBsp f || fbBsfmt f != 0)) = false := by
    by_cases hkind : kind = .mldW
    · obtain ⟨h16, hdense, hplain⟩ := hwide hkind
      simp [h16, hdense, hplain]
    · simp [hkind]
  unfold mldIssue
  dsimp only
  rw [if_neg (by rw [hvalid, hnarrow]; decide), if_neg (not_not.mpr ha), if_neg (by simpa [Classical.or_iff_not_imp_left] using hc),
    if_neg (not_not.mpr hscale)]
  rfl
theorem execMldN_eq (h : Hint) (scope : BitVec 3) (w : BitVec 2) (a b c : Reg) (s : State) : exec (.mldN h scope w a b c) s =
    .next (matIssue h scope (mldIssue h .mldN w.toNat (s.sr a) (s.sr b) (s.sr c)) s) :=
  congrArg Host.Outcome.next (matIssue_congr (f := fun s => mldIssue h .mldN w.toNat (s.sr a) (s.sr b) (s.sr c) s) rfl h scope)
theorem execMldW_eq (h : Hint) (scope : BitVec 3) (w : BitVec 2) (a b : Reg) (s : State) : exec (.mldW h scope w a b) s =
    .next (matIssue h scope (mldIssue h .mldW w.toNat (s.sr a) (s.sr b) 0) s) :=
  congrArg Host.Outcome.next (matIssue_congr (f := fun s => mldIssue h .mldW w.toNat (s.sr a) (s.sr b) 0 s) rfl h scope)
theorem team_id {s : State} {t : Nat} (hteam : s.teams.any (·.id == t) = true) : (s.team t).id = t := by
  obtain ⟨x, hx⟩ := Option.isSome_iff_exists.mp (by simpa using hteam : (s.teams.find? (·.id == t)).isSome = true)
  unfold State.team
  rw [hx]
  exact beq_iff_eq.mp (List.find?_some (p := fun (x : Team) => x.id == t) hx)
theorem recordFmt_fmt {s : State} (hteam : s.teams.any (·.id == s.g.team) = true) (w : Nat) (f : U64) :
    (SMap.get Buffer.empty (recordFmt w f s).tm.bufs w).fmt = some (fbRecord f) := by
  have htouch := (touch_only [grBuf s.g.team w] s).1
  unfold recordFmt
  dsimp only
  generalize touch [grBuf s.g.team w] s = u at htouch
  have hg : u.g = s.g := by rw [htouch]
  have hteams : u.teams = s.teams := by rw [htouch]
  have hid : u.tm.id = u.g.team := team_id (by rw [hteams, hg]; exact hteam)
  have hself := team_setTeam_self u
    { u.tm with bufs := SMap.set Buffer.empty u.tm.bufs w { SMap.get Buffer.empty u.tm.bufs w with fmt := some (fbRecord f) } }
    (by rw [hid, hteams, hg]; exact hteam)
  rw [hid] at hself
  unfold State.tm at hself ⊢
  rw [setTeam_g, hself, SMap.get_set_self]
theorem retire_launched_tm (h : Hint) (x : MatOp) (s : State) : (retire h (launched x s)).tm = s.tm := by
  obtain ⟨hretire, -⟩ := retire_only h (launched x s)
  rw [hretire]
  rfl
theorem register_teams (ls : List (Nat × Lock)) (s : State) : (register ls s).teams = s.teams ∧ (register ls s).g = s.g := by
  rw [register_only]
  exact ⟨rfl, rfl⟩
/-- What a matrix word that starts needs of its gang, its engine and the lock tables. -/
def MatReady (s : State) (h : Hint) (scope : Nat) (ls : List (Nat × Lock)) : Prop :=
  s.g.whole = true ∧ s.act h ≠ 0 ∧ s.mayRelease s.g.id scope = true ∧ s.g.dropped = [] ∧
    (s.eng.mats.filter fun y => y.agent == s.g.id).length < 32 ∧ s.lockRoom ls = true
/-- The operation has started. -/
def MatStarted (s : State) (x : MatOp) (t : State) : Prop :=
  t.eng.mats = s.eng.mats ++ [x] ∧ t.serial = s.serial + 1 ∧ RegsKept s.g t.g ∧ MemoryKept s t
theorem mld_starts {h : Hint} {scope : BitVec 3} {kind : MatKind} {w : Nat} {a f c : U64} {s : State}
    (hready : MatReady s h scope.toNat (spanLock s.serial false s.tm (mldSpans a.toNat c.toNat f))) (hvalid : fbValid f = true)
    (hwide : kind = .mldW → fmtWidth (fbBfmt f) = 16 ∧ fbBsp f = false ∧ fbBsfmt f = 0) (ha : a.toNat % 16 = 0)
    (hc : fbBsfmt f = 0 ∨ c.toNat % 16 = 0) (hscale : fbAsoff f % 16 = 0)
    (hfits : ∀ r ∈ mldSpans a.toNat c.toNat f, r.1 + r.2 ≤ s.rc.scratch) :
    MatStarted s (s.newMat kind 0 w 0 0 a f c) (matIssue h scope (mldIssue h kind w a f c) s) ∧
      (s.teams.any (·.id == s.g.team) = true →
        (SMap.get Buffer.empty (matIssue h scope (mldIssue h kind w a f c) s).tm.bufs w).fmt = some (fbRecord f)) := by
  obtain ⟨hwhole, hact, hmay, hdropped, hmats, hroom⟩ := hready
  rw [← matLocks_reads] at hroom
  rw [matIssue_ready hwhole hact hmay hdropped, mldIssue_starts hvalid hwide ha hc hscale,
    startMat_starts rfl (by simpa using hfits) hmats hroom]
  refine ⟨retire_launched (recordFmt_prepared (register_prepared _ s) w f) h _, fun hteam => ?_⟩
  obtain ⟨hteams, hg⟩ := register_teams (matLocks s.serial (mldSpans a.toNat c.toNat f) [] s) s
  rw [retire_launched_tm]
  exact recordFmt_fmt (by rw [hteams, hg]; exact hteam) w f

-- MMA and MMAZ (R342 to R345).

/-- The rows of A that an MMA takes, and those that are lost. -/
def mmaRows (n v : Nat) (reuse : Bool) (f : U64) (s : State) : SMap U32 × List Nat :=
  if reuse && s.g.latch.valid && s.g.latch.nrows = n && s.g.latch.reg = s.g.phys v then (s.g.latch.rows, [])
  else (s.g.aRows v n, s.g.lostRows v n (usedWords f))
/-- The operation of an MMA. -/
def mmaOp (kind : MatKind) (n row0 w t v : Nat) (reuse : Bool) (f : U64) (s : State) : MatOp :=
  { s.newMat kind t w row0 n 0 f 0 with rows := (mmaRows n v reuse f s).1, lost := (mmaRows n v reuse f s).2 }
/-- The operand latch after an MMA. -/
def mmaLatch (n v : Nat) (reuse : Bool) (f : U64) (s : State) : Latch :=
  if reuse && (mmaRows n v reuse f s).2.isEmpty then ⟨true, n, s.g.phys v, (mmaRows n v reuse f s).1⟩ else ⟨false, 0, 0, []⟩
/-- A buffer of another format than the word's (R342). -/
def otherFmt (w : Nat) (f : U64) (s : State) : Bool :=
  match (SMap.get Buffer.empty s.tm.bufs w).fmt with
  | some r => recordKey r != recordKey (fbRecord f)
  | none => false
theorem mmaIssue_eq (h : Hint) (kind : MatKind) (n row0 w t v : Nat) (reuse : Bool) (f : U64) (s : State) :
    mmaIssue h kind n row0 w t v reuse f s =
      if t / 8 ≠ w / 2 then illegal 0xA2 s
      else if !fbValid f then illegal 0xA2 s
      else if fbAsoff f % 16 ≠ 0 then badOperand cAlign 0x50 (fbAsoff f) s
      else if otherFmt w f s then illegal 0xAE s
      else startMat h (mmaOp kind n row0 w t v reuse f s) (scaleSpans f n) [] []
        (fun u => { u with g := { u.g with latch := mmaLatch n v reuse f s } }) s := by
  unfold mmaIssue mmaOp mmaLatch mmaRows otherFmt
  dsimp only
  cases reuse && s.g.latch.valid && s.g.latch.nrows = n && s.g.latch.reg = s.g.phys v <;> rfl
/-- The latch holds the rows that the word would read. -/
def LatchHolds (n v : Nat) (reuse : Bool) (s : State) : Prop :=
  reuse = true ∧ s.g.latch.valid = true ∧ s.g.latch.nrows = n ∧ s.g.latch.reg = s.g.phys v
theorem mmaRows_held {n v : Nat} {reuse : Bool} {s : State} (hheld : LatchHolds n v reuse s) (f : U64) :
    mmaRows n v reuse f s = (s.g.latch.rows, []) := by
  obtain ⟨hreuse, hvalid, hrows, hreg⟩ := hheld
  exact if_pos (by simp [hreuse, hvalid, hrows, hreg])
theorem mmaRows_read {n v : Nat} {reuse : Bool} {s : State} (hread : ¬LatchHolds n v reuse s) (f : U64) :
    mmaRows n v reuse f s = (s.g.aRows v n, s.g.lostRows v n (usedWords f)) := by
  refine if_neg fun hheld => hread ?_
  simpa [LatchHolds, and_assoc] using hheld
theorem mmaLatch_eq (n v : Nat) (reuse : Bool) (f : U64) (s : State) : mmaLatch n v reuse f s =
    if reuse = true ∧ (mmaRows n v reuse f s).2 = [] then ⟨true, n, s.g.phys v, (mmaRows n v reuse f s).1⟩ else ⟨false, 0, 0, []⟩ := by
  unfold mmaLatch
  simp only [Bool.and_eq_true, List.isEmpty_iff]
theorem retire_launched_latch (h : Hint) (x : MatOp) (s : State) : (retire h (launched x s)).g.latch = s.g.latch := by
  obtain ⟨hending, -⟩ := retire_gangKept h (launched x s)
  rw [hending]
  rfl
theorem otherFmt_iff (w : Nat) (f : U64) (s : State) : otherFmt w f s = true ↔
    ∃ r, (SMap.get Buffer.empty s.tm.bufs w).fmt = some r ∧ recordKey r ≠ recordKey (fbRecord f) := by
  unfold otherFmt
  cases (SMap.get Buffer.empty s.tm.bufs w).fmt with
  | none => simp
  | some r => simp
theorem execMma_eq (z reuse : Bool) (h : Hint) (scope : BitVec 3) (n1 : BitVec 5) (row0 : BitVec 7) (w : BitVec 2) (d : BitVec 4) (a b : Reg)
    (s : State) : exec (if z then .mmaz h scope n1 row0 w reuse d a b else .mma h scope n1 row0 w reuse d a b) s =
      .next (matIssue h scope
        (mmaIssue h (if z then .mmaz else .mma) (n1.toNat + 1) row0.toNat w.toNat d.toNat a.toNat reuse (s.sr b)) s) := by
  have hmatrix (k : MatKind) := matIssue_congr (s := s) (g := mmaIssue h k (n1.toNat + 1) row0.toNat w.toNat d.toNat a.toNat reuse (s.sr b))
    (f := fun u => mmaIssue h k (n1.toNat + 1) row0.toNat w.toNat d.toNat a.toNat reuse (u.sr b) u) rfl h scope
  cases z
  · exact congrArg Host.Outcome.next (hmatrix .mma)
  · exact congrArg Host.Outcome.next (hmatrix .mmaz)
section
variable {h : Hint} {scope : BitVec 3} {kind : MatKind} {n row0 w t v : Nat} {reuse : Bool} {f : U64} {s : State}
theorem mma_otherArray (hwhole : s.g.whole = true) (hact : s.act h ≠ 0) (hmay : s.mayRelease s.g.id scope.toNat = true)
    (hdropped : s.g.dropped = []) (harray : t / 8 ≠ w / 2) :
    matIssue h scope (mmaIssue h kind n row0 w t v reuse f) s = illegal 0xA2 s := by
  rw [matIssue_ready hwhole hact hmay hdropped, mmaIssue_eq, if_pos harray]
variable (harray : t / 8 = w / 2) (hvalid : fbValid f = true) (hscale : fbAsoff f % 16 = 0)
include harray hvalid hscale
theorem mmaIssue_checked : mmaIssue h kind n row0 w t v reuse f s =
    if otherFmt w f s then illegal 0xAE s
    else startMat h (mmaOp kind n row0 w t v reuse f s) (scaleSpans f n) [] []
      (fun u => { u with g := { u.g with latch := mmaLatch n v reuse f s } }) s := by
  rw [mmaIssue_eq, if_neg (not_not.mpr harray), if_neg (by rw [hvalid]; decide), if_neg (not_not.mpr hscale)]
theorem mma_otherFmt (hwhole : s.g.whole = true) (hact : s.act h ≠ 0) (hmay : s.mayRelease s.g.id scope.toNat = true)
    (hdropped : s.g.dropped = []) (hother : otherFmt w f s = true) :
    matIssue h scope (mmaIssue h kind n row0 w t v reuse f) s = illegal 0xAE s := by
  rw [matIssue_ready hwhole hact hmay hdropped, mmaIssue_checked harray hvalid hscale, if_pos hother]
theorem mma_starts (hready : MatReady s h scope.toNat (spanLock s.serial false s.tm (scaleSpans f n))) (hsame : otherFmt w f s = false)
    (hfits : ∀ r ∈ scaleSpans f n, r.1 + r.2 ≤ s.rc.scratch) :
    MatStarted s (mmaOp kind n row0 w t v reuse f s) (matIssue h scope (mmaIssue h kind n row0 w t v reuse f) s) ∧
      (matIssue h scope (mmaIssue h kind n row0 w t v reuse f) s).g.latch = mmaLatch n v reuse f s := by
  obtain ⟨hwhole, hact, hmay, hdropped, hmats, hroom⟩ := hready
  rw [← matLocks_reads] at hroom
  rw [matIssue_ready hwhole hact hmay hdropped, mmaIssue_checked harray hvalid hscale, if_neg (ne_true_of_eq_false hsame),
    startMat_starts rfl (by simpa using hfits) hmats hroom]
  refine ⟨retire_launched ?_ h _, retire_launched_latch _ _ _⟩
  rw [register_only]
  exact ⟨rfl, rfl, rfl, rfl, rfl, rfl, rfl, rfl, rfl, rfl, rfl, rfl, rfl⟩
end

-- EPI and EPI.RS (R346 to R350).

/-- The spans of the output rows, and the one that holds them all (R78, R353). -/
def epiRows (k : Desc) (b n : Nat) : List Span := (List.range n).map fun i =>
  let l := lockRange (swzSpan (edOswz k)) (b + i * edStride k) (rowBytes k)
  (l.1, l.2 - l.1)
def epiWide (k : Desc) (b n : Nat) : Span :=
  let r := widenTo (swzSpan (edOswz k)) b ((n - 1) * edStride k + rowBytes k)
  (r.1, r.2 - r.1)
theorem epiIssue_starts {h : Hint} {kind : MatKind} {row0 n t : Nat} {a b : U64} {s : State} {bs : List Byte} (ha : a.toNat % 64 = 0)
    (hb : b.toNat % 16 = 0) (hdesc : a.toNat + 64 ≤ s.rc.scratch)
    (hquiet : ∀ o ∈ s.ops, o.agent = s.g.id → ∀ p ∈ o.parts, p.pa < 2 ^ 60 ∨ p.st.isOver = true)
    (hread : sideRead s.tm 0 a.toNat 64 s = .ok bs) (hfields : epiFails (kind == .epiRs) (BitVec.ofNat 512 (ofBytes bs)) = []) :
    let k : Desc := BitVec.ofNat 512 (ofBytes bs)
    epiIssue h kind row0 n t a b s = startMat h { s.newMat kind t 0 row0 n a b 0 with desc := k } (epiSources k)
      (if kind == .epiRs then [] else epiRows k b.toNat n) (if kind == .epiRs then [] else [epiWide k b.toNat n]) id s := by
  have hidle : (s.ops.any fun o => o.agent == s.g.id && o.parts.any fun p => 2 ^ 60 ≤ p.pa && !p.st.isOver) = false := by
    refine List.any_eq_false.mpr fun o ho => ?_
    rw [Bool.and_eq_true, beq_iff_eq, List.any_eq_true]
    rintro ⟨hagent, p, hp, hpart⟩
    rcases hquiet o ho hagent p hp with hlow | hover
    · exact absurd (of_decide_eq_true (Bool.and_eq_true_iff.mp hpart).1) (Nat.not_le.mpr hlow)
    · simp [hover] at hpart
  have hlast (k : Desc) : b.toNat + (n - 1) * edStride k + rowBytes k - b.toNat = (n - 1) * edStride k + rowBytes k := by omega
  intro k
  unfold epiIssue
  dsimp only
  rw [if_neg (not_not.mpr ha), if_neg (not_not.mpr hb), if_neg (by omega), if_neg (ne_true_of_eq_false hidle), hread]
  dsimp only
  rw [hfields]
  simp only [hlast]
  rfl
theorem execEpi_eq (h : Hint) (scope : BitVec 3) (row0 n1 : BitVec 7) (d : BitVec 4) (a b : Reg) (s : State) :
    exec (.epi h scope row0 n1 d a b) s =
      .next (matIssue h scope (epiIssue h .epi row0.toNat (n1.toNat + 1) d.toNat (s.sr a) (s.sr b)) s) :=
  congrArg Host.Outcome.next (matIssue_congr (f := fun s => epiIssue h .epi row0.toNat (n1.toNat + 1) d.toNat (s.sr a) (s.sr b) s) rfl h scope)
theorem execEpiRs_eq (h : Hint) (scope : BitVec 3) (row0 n1 : BitVec 7) (d : BitVec 4) (a b : Reg) (s : State) :
    exec (.epiRs h scope row0 n1 d a b) s =
      .next (matIssue h scope (epiIssue h .epiRs row0.toNat (n1.toNat + 1) d.toNat (s.sr a) (s.sr b)) s) :=
  congrArg Host.Outcome.next (matIssue_congr (f := fun s => epiIssue h .epiRs row0.toNat (n1.toNat + 1) d.toNat (s.sr a) (s.sr b) s) rfl h scope)
theorem epi_starts {h : Hint} {scope : BitVec 3} {kind : MatKind} {row0 n t : Nat} {a b : U64} {s : State} {bs : List Byte}
    {dst wide : List Span} (ha : a.toNat % 64 = 0)
    (hb : b.toNat % 16 = 0) (hdesc : a.toNat + 64 ≤ s.rc.scratch)
    (hquiet : ∀ o ∈ s.ops, o.agent = s.g.id → ∀ p ∈ o.parts, p.pa < 2 ^ 60 ∨ p.st.isOver = true)
    (hread : sideRead s.tm 0 a.toNat 64 s = .ok bs) (hfields : epiFails (kind == .epiRs) (BitVec.ofNat 512 (ofBytes bs)) = [])
    (hdst : dst = if kind == .epiRs then [] else epiRows (BitVec.ofNat 512 (ofBytes bs)) b.toNat n)
    (hwide : wide = if kind == .epiRs then [] else [epiWide (BitVec.ofNat 512 (ofBytes bs)) b.toNat n])
    (hfits : ∀ r ∈ epiSources (BitVec.ofNat 512 (ofBytes bs)) ++ wide, r.1 + r.2 ≤ s.rc.scratch)
    (hready : MatReady s h scope.toNat (matLocks s.serial (epiSources (BitVec.ofNat 512 (ofBytes bs))) dst s)) :
    MatStarted s { s.newMat kind t 0 row0 n a b 0 with desc := BitVec.ofNat 512 (ofBytes bs) }
        (matIssue h scope (epiIssue h kind row0 n t a b) s) ∧
      ∀ e ∈ matLocks s.serial (epiSources (BitVec.ofNat 512 (ofBytes bs))) dst s,
        e.2 ∈ ((matIssue h scope (epiIssue h kind row0 n t a b) s).core e.1).locks := by
  obtain ⟨hwhole, hact, hmay, hdropped, hmats, hroom⟩ := hready
  rw [matIssue_ready hwhole hact hmay hdropped, epiIssue_starts ha hb hdesc hquiet hread hfields, ← hdst, ← hwide,
    startMat_starts rfl hfits hmats hroom]
  refine ⟨retire_launched (register_prepared _ s) h _, fun e he => ?_⟩
  rw [retire_core, launched_core]
  exact register_locks he s

/-- Settles O40: each word passes its checks and starts through `startMat`, which registers its locks. -/
theorem matrixWordsIssue : Obligations.MatrixWordsIssue := by
  unfold Obligations.MatrixWordsIssue
  intro ready fits started
  refine ⟨fun h scope w a b c s => ?_, fun h scope w a b s => ?_,
    fun z reuse h scope n1 row0 w d a b s => ?_, fun h scope row0 n1 d a b s bs => ?_⟩
  · intro f hready hvalid ha hc hscale hfits
    exact ⟨_, execMldN_eq h scope w a b c s, mld_starts hready hvalid (nomatch ·) ha hc hscale hfits⟩
  · intro f hready hvalid h16 hdense hplain ha hscale hfits
    exact ⟨_, execMldW_eq h scope w a b s, mld_starts (c := 0) hready hvalid (fun _ => ⟨h16, hdense, hplain⟩) ha (.inl hplain) hscale hfits⟩
  · intro f n i
    have hexec := execMma_eq z reuse h scope n1 row0 w d a b s
    refine ⟨fun hwhole hact hmay hdropped harray => ⟨_, hexec, ?_⟩, ?_,
      fun hfmt harray hvalid hscale hwhole hact hmay hdropped => ⟨_, hexec, ?_⟩⟩
    · rw [mma_otherArray hwhole hact hmay hdropped harray]
      exact illegal_spec 0xA2 s (by decide)
    · intro hready harray hvalid hscale hfmt hfits held
      have hsame : otherFmt w.toNat f s = false := by
        rw [Bool.eq_false_iff, Ne, otherFmt_iff]
        exact fun ⟨r, hr, hne⟩ => hne (hfmt r hr)
      obtain ⟨hstarted, hlatch⟩ := mma_starts (kind := if z then .mmaz else .mma) (row0 := row0.toNat) (v := a.toNat) (reuse := reuse)
        harray hvalid hscale hready hsame hfits
      refine ⟨_, _, hexec, hstarted, rfl, rfl, rfl, rfl, rfl, rfl, fun hheld => ?_, fun hread => ?_, hlatch.trans (mmaLatch_eq _ _ _ _ _)⟩
      · exact Prod.mk.inj (mmaRows_held hheld f)
      · exact Prod.mk.inj (mmaRows_read hread f)
    · rw [mma_otherFmt harray hvalid hscale hwhole hact hmay hdropped ((otherFmt_iff _ _ _).mpr hfmt)]
      exact illegal_spec 0xAE s (by decide)
  · intro k n row src dst ranges w ha hb hdesc hquiet hread
    refine ⟨fun hfields hfits => ?_, fun hfields hfits hready => ⟨_, execEpiRs_eq h scope row0 n1 d a b s, ?_⟩⟩
    · intro locks hready
      obtain ⟨hstarted, hlocks⟩ := epi_starts (kind := .epi) ha hb hdesc hquiet hread hfields rfl rfl hfits hready
      exact ⟨_, execEpi_eq h scope row0 n1 d a b s, hlocks, hstarted⟩
    · rw [← matLocks_reads] at hready
      exact (epi_starts (kind := .epiRs) (dst := []) (wide := []) ha hb hdesc hquiet hread hfields rfl rfl
        (by rw [List.append_nil]; exact hfits) hready).1
end Sys2Proof.Machine
end

section
/-!
PROOFS. The fields of a word: what is read where bits have been put (R177 to R183).
-/
namespace Sys2Proof
-- One theorem at a time: side by side, the proofs over all words hold too much memory.
set_option Elab.async false

-- Reading a field.

theorem fld_or (v w : U64) (lo n : Nat) : fld (v ||| w) lo n = fld v lo n ||| fld w lo n := BitVec.extractLsb'_or
theorem flag_or (v w : U64) (i : Nat) : flag (v ||| w) i = (flag v i || flag w i) := BitVec.getLsbD_or

theorem getLsbD_fld (w : U64) (lo n i : Nat) : (fld w lo n).getLsbD i = (decide (i < n) && w.getLsbD (lo + i)) :=
  BitVec.getLsbD_extractLsb' ..

theorem fld_eq_zero_iff (w : U64) (lo n : Nat) : fld w lo n = 0#n ↔ ∀ i < n, flag w (lo + i) = false := by
  refine ⟨fun h i hi => ?_, fun h => BitVec.eq_of_getLsbD_eq fun i hi => ?_⟩
  · have hbit := getLsbD_fld w lo n i
    rwa [h, BitVec.getLsbD_zero, decide_eq_true hi, Bool.true_and, eq_comm] at hbit
  · rw [getLsbD_fld, BitVec.getLsbD_zero]
    exact (congrArg _ (h i hi)).trans (Bool.and_false _)

theorem flag_put {m : Nat} (x : BitVec m) (l i : Nat) :
    flag (put x l) i = (decide (i < 64) && (decide (l ≤ i) && x.getLsbD (i - l))) := by
  rw [flag, put, BitVec.getLsbD_shiftLeft, BitVec.getLsbD_setWidth]
  by_cases h64 : i < 64
  · by_cases hl : l ≤ i
    · simp [h64, hl, show i - l < 64 by omega]
    · simp [h64, hl, show i < l by omega]
  · simp [h64]

@[simp] theorem flag_put_below {m : Nat} (x : BitVec m) {l i : Nat} (h : l + m ≤ i) : flag (put x l) i = false := by
  rw [flag_put, BitVec.getLsbD_of_ge x (i - l) (by omega), Bool.and_false, Bool.and_false]
@[simp] theorem flag_put_above {m : Nat} (x : BitVec m) {l i : Nat} (h : i < l) : flag (put x l) i = false := by
  rw [flag_put, decide_eq_false (Nat.not_le.mpr h), Bool.false_and, Bool.and_false]
@[simp] theorem fld_put_below {m : Nat} (x : BitVec m) {l lo n : Nat} (h : l + m ≤ lo) : fld (put x l) lo n = 0#n :=
  (fld_eq_zero_iff ..).mpr fun _ _ => flag_put_below x (by omega)
@[simp] theorem fld_put_above {m : Nat} (x : BitVec m) {l lo n : Nat} (h : lo + n ≤ l) : fld (put x l) lo n = 0#n :=
  (fld_eq_zero_iff ..).mpr fun _ _ => flag_put_above x (by omega)

theorem fld_put_setWidth {m : Nat} (x : BitVec m) {lo n : Nat} (h : lo + n ≤ 64) : fld (put x lo) lo n = x.setWidth n := by
  refine BitVec.eq_of_getLsbD_eq fun i hi => ?_
  rw [getLsbD_fld, ← flag, flag_put, BitVec.getLsbD_setWidth]
  simp [hi, show lo + i < 64 by omega]
@[simp] theorem fld_put {n : Nat} (x : BitVec n) {lo : Nat} (h : lo + n ≤ 64) : fld (put x lo) lo n = x :=
  (fld_put_setWidth x h).trans (BitVec.setWidth_eq x)
/-- A field read wider than what was put there. -/
@[simp] theorem fld_put_wider {m : Nat} (x : BitVec m) {lo n : Nat} (_ : m < n) (h : lo + n ≤ 64) : fld (put x lo) lo n = x.setWidth n :=
  fld_put_setWidth x h

-- Single bits.

@[simp] theorem flag_putB (b : Bool) {i : Nat} (h : i < 64) : flag (putB b i) i = b := by
  rw [putB, flag_put]
  simp [h]
@[simp] theorem flag_putB_ne (b : Bool) {i l : Nat} (h : l ≠ i) : flag (putB b l) i = false := by
  rcases Nat.lt_or_gt_of_ne h with h | h
  · exact flag_put_below _ h
  · exact flag_put_above _ h
@[simp] theorem fld_putB_below (b : Bool) {l lo n : Nat} (h : l < lo) : fld (putB b l) lo n = 0#n := fld_put_below _ h
@[simp] theorem fld_putB_above (b : Bool) {l lo n : Nat} (h : lo + n ≤ l) : fld (putB b l) lo n = 0#n := fld_put_above _ h
@[simp] theorem putB_false (l : Nat) : putB false l = 0#64 := by simp [putB, put]

-- A part of a word that lies off the field, and the bits beside it.

theorem fld_or_of_left {v : U64} {lo n : Nat} (h : fld v lo n = 0#n) (w : U64) : fld (v ||| w) lo n = fld w lo n := by
  rw [fld_or, h, BitVec.zero_or]
theorem flag_or_of_left {v : U64} {i : Nat} (h : flag v i = false) (w : U64) : flag (v ||| w) i = flag w i := by
  rw [flag_or, h, Bool.false_or]
@[simp] theorem fld_put_or {n : Nat} (x : BitVec n) (w : U64) {lo : Nat} (h : lo + n ≤ 64) :
    fld (put x lo ||| w) lo n = x ||| fld w lo n := by rw [fld_or, fld_put x h]
@[simp] theorem fld_put_or_wider {m : Nat} (x : BitVec m) (w : U64) {lo n : Nat} (hm : m < n) (h : lo + n ≤ 64) :
    fld (put x lo ||| w) lo n = x.setWidth n ||| fld w lo n := by rw [fld_or, fld_put_wider x hm h]
@[simp] theorem flag_putB_or (b : Bool) (w : U64) {i : Nat} (h : i < 64) : flag (putB b i ||| w) i = (b || flag w i) := by
  rw [flag_or, flag_putB b h]
@[simp] theorem fld_put_or_below {m : Nat} (x : BitVec m) (w : U64) {l lo n : Nat} (h : l + m ≤ lo) :
    fld (put x l ||| w) lo n = fld w lo n := fld_or_of_left (fld_put_below x h) w
@[simp] theorem fld_put_or_above {m : Nat} (x : BitVec m) (w : U64) {l lo n : Nat} (h : lo + n ≤ l) :
    fld (put x l ||| w) lo n = fld w lo n := fld_or_of_left (fld_put_above x h) w
@[simp] theorem fld_putB_or_below (b : Bool) (w : U64) {l lo n : Nat} (h : l < lo) : fld (putB b l ||| w) lo n = fld w lo n :=
  fld_or_of_left (fld_putB_below b h) w
@[simp] theorem fld_putB_or_above (b : Bool) (w : U64) {l lo n : Nat} (h : lo + n ≤ l) : fld (putB b l ||| w) lo n = fld w lo n :=
  fld_or_of_left (fld_putB_above b h) w
@[simp] theorem flag_put_or_below {m : Nat} (x : BitVec m) (w : U64) {l i : Nat} (h : l + m ≤ i) :
    flag (put x l ||| w) i = flag w i := flag_or_of_left (flag_put_below x h) w
@[simp] theorem flag_put_or_above {m : Nat} (x : BitVec m) (w : U64) {l i : Nat} (h : i < l) : flag (put x l ||| w) i = flag w i :=
  flag_or_of_left (flag_put_above x h) w
@[simp] theorem flag_putB_or_ne (b : Bool) (w : U64) {i l : Nat} (h : l ≠ i) : flag (putB b l ||| w) i = flag w i :=
  flag_or_of_left (flag_putB_ne b h) w

-- Reserved bits: a mask is clear in a word exactly where the field that it covers is 0.

theorem getLsbD_msk {hi lo : Nat} (hle : lo ≤ hi) (h64 : hi < 64) (i : Nat) :
    (msk hi lo).getLsbD i = (decide (lo ≤ i) && decide (i ≤ hi)) := by
  rw [msk, BitVec.getLsbD_ofNat, Nat.testBit_mul_two_pow, Nat.testBit_two_pow_sub_one]
  simp only [← Bool.decide_and, decide_eq_decide]
  omega
@[simp] theorem and_msk_eq_zero_iff (w : U64) {hi lo : Nat} (hle : lo ≤ hi) (h64 : hi < 64) :
    w &&& msk hi lo = 0#64 ↔ fld w lo (hi + 1 - lo) = 0#(hi + 1 - lo) := by
  have hbit (i : Nat) : (w &&& msk hi lo).getLsbD i = (w.getLsbD i && (decide (lo ≤ i) && decide (i ≤ hi))) := by
    rw [BitVec.getLsbD_and, getLsbD_msk hle h64]
  rw [fld_eq_zero_iff]
  refine ⟨fun hw i hn => ?_, fun hf => BitVec.eq_of_getLsbD_eq fun i _ => ?_⟩
  · have := hbit (lo + i)
    simpa [hw, flag, show lo + i ≤ hi by omega] using this
  · rw [hbit, BitVec.getLsbD_zero]
    by_cases hin : lo ≤ i ∧ i ≤ hi
    · have := hf (i - lo) (by omega)
      rw [Nat.add_sub_cancel' hin.1] at this
      rw [show w.getLsbD i = false from this, Bool.false_and]
    · rw [← Bool.decide_and, decide_eq_false hin, Bool.and_false]
@[simp] theorem and_or_eq_zero_iff (w a b : U64) : w &&& (a ||| b) = 0#64 ↔ w &&& a = 0#64 ∧ w &&& b = 0#64 := by
  rw [BitVec.and_or_distrib_left, BitVec.or_eq_zero_iff]
@[simp] theorem and_ite_eq_zero_iff (w a b : U64) (p : Prop) [Decidable p] :
    w &&& (if p then a else b) = 0#64 ↔ if p then w &&& a = 0#64 else w &&& b = 0#64 := by split <;> rfl

-- The fields by their names.

@[simp] theorem mX_eq : mX = msk 29 12 := rfl
@[simp] theorem mD_eq : mD = msk 53 46 := rfl
@[simp] theorem mA_eq : mA = msk 45 38 := rfl
@[simp] theorem mB_eq : mB = msk 37 30 := rfl
@[simp] theorem mDABX_eq : mDABX = msk 53 12 := rfl
@[simp] theorem sxAop_eq : sxAop = msk 17 17 ||| msk 15 12 := rfl
@[simp] theorem fD_eq (w : U64) : fD w = fld w 46 8 := rfl
@[simp] theorem fA_eq (w : U64) : fA w = fld w 38 8 := rfl
@[simp] theorem fB_eq (w : U64) : fB w = fld w 30 8 := rfl
@[simp] theorem fC_eq (w : U64) : fC w = fld w 22 8 := rfl
@[simp] theorem fX_eq (w : U64) : fX w = fld w 12 18 := rfl
@[simp] theorem fSize_eq (w : U64) : fSize w = fld w 25 2 := rfl

theorem two_le_toNat_iff (x : BitVec 3) : 2 ≤ x.toNat ↔ x.getLsbD 1 = true ∨ x.getLsbD 2 = true := by
  revert x; decide
/-- TY holds no more than B32 or BF where its two upper bits are clear (R237, R283). -/
@[simp] theorem two_le_fTy_iff (w : U64) : 2 ≤ (fTy w).toNat ↔ flag w 13 = true ∨ flag w 14 = true := by
  simp only [two_le_toNat_iff, fTy, getLsbD_fld, flag, Nat.reduceLT, decide_true, Bool.true_and, Nat.reduceAdd]
@[simp] theorem fTy_eq_zero_iff (w : U64) : fTy w = 0#3 ↔ fld w 12 3 = 0#3 := Iff.rfl
@[simp] theorem nz_eq_none_iff {n : Nat} (x : BitVec n) : nz x = none ↔ x = 0#n := by
  simp [nz]
@[simp] theorem tyIn_eq_none_iff (w : U64) (allowed : BitVec 3) : tyIn w allowed = none ↔
    (flag w 12 = true → allowed.getLsbD 0 = true) ∧ (flag w 13 = true → allowed.getLsbD 1 = true) ∧
      (flag w 14 = true → allowed.getLsbD 2 = true) := by
  have hbits (x a : BitVec 3) : x &&& ~~~a = 0#3 ↔ (x.getLsbD 0 = true → a.getLsbD 0 = true) ∧
      (x.getLsbD 1 = true → a.getLsbD 1 = true) ∧ (x.getLsbD 2 = true → a.getLsbD 2 = true) := by
    revert x a; decide
  rw [tyIn, nz_eq_none_iff, hbits]
  simp only [fTy, getLsbD_fld, flag, Nat.reduceLT, decide_true, Bool.true_and, Nat.reduceAdd]
end Sys2Proof
end

section
/-!
PROOFS. The checks of R195 on a full-form word: what they read of OP, the hints and the operands, and of the registers that a word names.
-/
namespace Sys2Proof
-- One theorem at a time: side by side, the proofs over all words hold too much memory.
set_option Elab.async false

-- OP and hints: what stands outside of the operands.

@[simp] theorem fld_opW (op : BitVec 9) (h : Hint) {lo n : Nat} (h12 : 12 ≤ lo) (h54 : lo + n ≤ 54) : fld (opW op h) lo n = 0#n := by
  simp (disch := omega) [fld_or, opW, putH]
@[simp] theorem flag_opW (op : BitVec 9) (h : Hint) {i : Nat} (h12 : 12 ≤ i) (h54 : i < 54) : flag (opW op h) i = false := by
  simp (disch := omega) [flag_or, opW, putH]

@[simp] theorem fld_opW_or (op : BitVec 9) (h : Hint) (w : U64) {lo n : Nat} (h12 : 12 ≤ lo) (h54 : lo + n ≤ 54) :
    fld (opW op h ||| w) lo n = fld w lo n := fld_or_of_left (fld_opW op h h12 h54) w
@[simp] theorem flag_opW_or (op : BitVec 9) (h : Hint) (w : U64) {i : Nat} (h12 : 12 ≤ i) (h54 : i < 54) :
    flag (opW op h ||| w) i = flag w i := flag_or_of_left (flag_opW op h h12 h54) w

/-- Operands: bits that leave OP, the hints and bit 63 alone (R177). -/
def InBody (b : U64) : Prop := fld b 0 12 = 0#12 ∧ fld b 54 10 = 0#10

theorem flag_low_of_inBody {b : U64} (hb : InBody b) {i : Nat} (hi : i < 12) : flag b i = false := by
  simpa using (fld_eq_zero_iff b 0 12).mp hb.1 i hi
theorem flag_high_of_inBody {b : U64} (hb : InBody b) {i : Nat} (hlo : 54 ≤ i) (hi : i < 64) : flag b i = false := by
  simpa [Nat.add_sub_cancel' hlo] using (fld_eq_zero_iff b 54 10).mp hb.2 (i - 54) (by omega)
theorem fld_low_of_inBody {b : U64} (hb : InBody b) {lo n : Nat} (h : lo + n ≤ 12) : fld b lo n = 0#n :=
  (fld_eq_zero_iff ..).mpr fun _ _ => flag_low_of_inBody hb (by omega)
theorem fld_high_of_inBody {b : U64} (hb : InBody b) {lo n : Nat} (hlo : 54 ≤ lo) (h : lo + n ≤ 64) : fld b lo n = 0#n :=
  (fld_eq_zero_iff ..).mpr fun _ _ => flag_high_of_inBody hb (by omega) (by omega)

theorem not_pairForm_word {op : BitVec 9} {h : Hint} {b : U64} (hb : InBody b) : flag (opW op h ||| b) 63 = false := by
  simp [flag_high_of_inBody hb, flag_or, opW, putH]
theorem opcode_word {op : BitVec 9} {h : Hint} {b : U64} (hb : InBody b) : fld (opW op h ||| b) 54 9 = op := by
  simp [fld_high_of_inBody hb, fld_or, opW, putH]
theorem hintOf_word {op : BitVec 9} {h : Hint} {b : U64} (hb : InBody b) : hintOf (opW op h ||| b) = h := by
  simp [hintOf, fld_low_of_inBody hb, flag_low_of_inBody hb, fld_or, flag_or, opW, putH]

/-- The checks of R195, steps 3 to 8, that a word with the hints h passes in its row, and the instruction that it then stands for. -/
structure Row.Reads (r : Row) (c : DecCtx) (h : Hint) (w : U64) (i : Instr) : Prop where
  agent : (if c.drover then r.drov else r.gang) = true
  reserved : w &&& r.rsv w = 0#64
  hints : h.ok c r.g0 (r.look w) (r.asOk w) = true
  values : r.val c w = none
  reads : (r.rd c w).all (RegRef.ok c) = true
  writes : (r.wr w).all (RegRef.ok c) = true
  aligned : r.al w = true
  builds : r.build h w = i

theorem guardBad_eq (c : DecCtx) (g0 : Bool) (g : BitVec 4) :
    guardBad c g0 g = !(g != 8 && (!(c.drover || g0) || g == 0)) := by
  rw [guardBad, Bool.not_and, Bool.not_or, Bool.not_not]
  exact congrArg (· || _) (Bool.not_not _).symm

theorem decodeFull_of_reads {c : DecCtx} {w : U64} {r : Row} {i : Instr} (hrow : rowOf (fld w 54 9).toNat = some r)
    (hreads : r.Reads c (hintOf w) w i) : decodeFull c w = .ok i := by
  obtain ⟨hagent, hrsv, hhint, hval, hrd, hwr, hal, rfl⟩ := hreads
  simp only [Hint.ok, hintOf, Bool.and_eq_true] at hhint
  obtain ⟨⟨hguard, hlook⟩, has⟩ := hhint
  have hguard : guardBad c r.g0 (fld w 8 4) = false := by
    rw [guardBad_eq, Bool.and_eq_true_iff.mpr hguard, Bool.not_true]
  have hrsv : (w &&& r.rsv w != 0) = false := by rw [hrsv]; rfl
  have hlook : (fld w 0 4 != 0 && !r.look w) = false := by
    rw [← Bool.not_eq_true', ← hlook, Bool.not_and, Bool.not_not, Bool.or_comm]
    exact congrArg (_ || ·) (Bool.not_not _)
  have has : (flag w 7 && !r.asOk w) = false := by
    rw [← Bool.not_eq_true', ← has, Bool.not_and, Bool.not_not, Bool.or_comm]
  simp only [decodeFull, hrow, hagent, hrsv, hguard, hval, hrd, hwr, hal, hlook, has, Bool.not_true, Bool.and_self,
    Bool.false_eq_true, if_false]

theorem decodeWord_of_reads {op : BitVec 9} {h : Hint} {b : U64} {c : DecCtx} {r : Row} {i : Instr}
    (hrow : rowOf op.toNat = some r) (hb : InBody b) (hreads : r.Reads c h (opW op h ||| b) i) : decodeWord c (opW op h ||| b) = .ok i := by
  rw [decodeWord, not_pairForm_word hb, if_neg Bool.false_ne_true]
  refine decodeFull_of_reads (r := r) ?_ ?_
  · rwa [opcode_word hb]
  · rwa [hintOf_word hb]

/-- A word of no operands. -/
theorem decodeWord_bare {op : BitVec 9} {h : Hint} {c : DecCtx} {r : Row} {i : Instr} (hrow : rowOf op.toNat = some r)
    (hreads : r.Reads c h (opW op h) i) : decodeWord c (opW op h) = .ok i := by
  rw [← BitVec.or_zero (x := opW op h)] at hreads ⊢
  exact decodeWord_of_reads hrow ⟨rfl, rfl⟩ hreads

-- The registers that a word names.

@[simp] theorem rs_ok (c : DecCtx) {n : Nat} (r : BitVec n) : (rs r).ok c = c.s r.toNat := rfl
@[simp] theorem rk_ok (c : DecCtx) {n : Nat} (r : BitVec n) : (rk r).ok c = c.k r.toNat := rfl
@[simp] theorem rt_ok (c : DecCtx) {n : Nat} (r : BitVec n) : (rt r).ok c = c.t r.toNat := rfl
@[simp] theorem rw_ok (c : DecCtx) {n : Nat} (r : BitVec n) : (rw r).ok c = c.w r.toNat := rfl
@[simp] theorem rv_ok (c : DecCtx) (r : Reg) : (rv r).ok c = !c.drover := by
  rw [rv, RegRef.ok, decide_eq_true r.isLt, Bool.and_true]
@[simp] theorem rm_ok (c : DecCtx) (r : BitVec 4) : (rm r).ok c = !c.drover := by
  rw [rm, RegRef.ok, decide_eq_true r.isLt, Bool.and_true]
/-- The number of a mask or descriptor register is that of the four bits at the foot of its field. -/
@[simp] theorem rm_setWidth (r : BitVec 4) : rm (r.setWidth 8) = rm r := by
  rw [rm, rm, BitVec.toNat_setWidth_of_le (by decide)]
@[simp] theorem rk_setWidth (r : BitVec 4) : rk (r.setWidth 8) = rk r := by
  rw [rk, rk, BitVec.toNat_setWidth_of_le (by decide)]
@[simp] theorem gang_k {c : DecCtx} (hc : c.drover = false) (r : BitVec 4) : c.k r.toNat = true := by
  rw [DecCtx.k, hc]
  exact decide_eq_true r.isLt
theorem gang_s_seven_bits {c : DecCtx} (hc : c.drover = false) (r : BitVec 7) : c.s r.toNat = true := by
  rw [DecCtx.s, hc]
  exact decide_eq_true r.isLt

theorem drover_s_five_bits {c : DecCtx} (hc : c.drover = true) (r : BitVec 5) : c.s r.toNat = true := by
  rw [DecCtx.s, hc]
  exact decide_eq_true r.isLt

-- Several registers in a row.

theorem all_range_lt {r n k : Nat} (hk : r ≤ k) : (List.range n).all (fun i => decide (r + i < k)) = decide (r + n ≤ k) := by
  rw [Bool.eq_iff_iff, List.all_eq_true, decide_eq_true_iff]
  simp only [List.mem_range, decide_eq_true_iff]
  refine ⟨fun h => ?_, fun h i hi => by omega⟩
  cases n with
  | zero => exact hk
  | succ n => exact h n (Nat.lt_succ_self n)
@[simp] theorem all_vs {c : DecCtx} (hc : c.drover = false) (r : Reg) (n : Nat) :
    (vs r n).all (RegRef.ok c) = decide (r.toNat + n ≤ 256) := by
  rw [vs, List.all_map, ← all_range_lt r.isLt.le]
  exact congrArg _ (funext fun i => by simp [RegRef.ok, hc])
theorem all_ss (c : DecCtx) (r : Reg) (n : Nat) : (ss r n).all (RegRef.ok c) = (List.range n).all fun i => c.s (r.toNat + i) := by
  rw [ss, List.all_map]
  rfl
@[simp] theorem all_ss_one (c : DecCtx) (r : Reg) : (ss r 1).all (RegRef.ok c) = c.s r.toNat := by simp [all_ss]
theorem all_ss_of_le {c : DecCtx} {k : Nat} (hs : ∀ m < k, c.s m = true) {r : Reg} {n : Nat} (h : r.toNat + n ≤ k) :
    (ss r n).all (RegRef.ok c) = true := by
  rw [all_ss, List.all_eq_true]
  exact fun i hi => hs _ (by rw [List.mem_range] at hi; omega)
@[simp] theorem all_ss_gang {c : DecCtx} (hc : c.drover = false) {r : Reg} {n : Nat} (h : r.toNat + n ≤ 128) :
    (ss r n).all (RegRef.ok c) = true := all_ss_of_le (fun m hm => by rw [DecCtx.s, hc]; exact decide_eq_true hm) h
@[simp] theorem all_ss_drover {c : DecCtx} (hc : c.drover = true) {r : Reg} {n : Nat} (h : r.toNat + n ≤ 32) :
    (ss r n).all (RegRef.ok c) = true := all_ss_of_le (fun m hm => by rw [DecCtx.s, hc]; exact decide_eq_true hm) h
@[simp] theorem all_srRegs {c : DecCtx} (hc : c.drover = false) (rmx : BitVec 3) (k : BitVec 5) :
    (srRegs rmx k).all (RegRef.ok c) = true := by
  have := k.isLt
  rw [srRegs]
  split
  · simp [RegRef.ok, DecCtx.s, hc]
    omega
  · rfl
@[simp] theorem all_sOff {c : DecCtx} {r : Reg} (h : c.s r.toNat = true) : (sOff r).all (RegRef.ok c) = true := by
  rw [sOff]
  split
  · rfl
  · simp [h]
@[simp] theorem ok_ite (c : DecCtx) (p : Prop) [Decidable p] (x y : RegRef) :
    (if p then x else y).ok c = if p then x.ok c else y.ok c := by split <;> rfl
@[simp] theorem all_ite_nil (c : DecCtx) (b : Bool) (l : List RegRef) :
    (if b = true then l else []).all (RegRef.ok c) = (!b || l.all (RegRef.ok c)) := by cases b <;> rfl

-- Operands that are aligned stand within the register file (R204, R294, R299).

theorem even_le {d : Reg} (h : d.toNat % 2 = 0) : d.toNat ≤ 254 := by omega
theorem pair_fits {d : Reg} {size : BitVec 2} (h : size = 3#2 → d.toNat % 2 = 0) :
    d.toNat + (if size = 3#2 then 2 else 1) ≤ 256 := by
  split
  · have := even_le (h ‹_›)
    omega
  · omega
theorem words_fit {nw : BitVec 2} {d : Reg} (h3 : ¬ nw = 3#2) (h : d.toNat % 2 ^ nw.toNat = 0) :
    d.toNat + 2 ^ nw.toNat ≤ 256 := by
  have hnw : ∀ n : BitVec 2, ¬ n = 3#2 → n = 0#2 ∨ n = 1#2 ∨ n = 2#2 := by decide
  obtain rfl | rfl | rfl := hnw nw h3
  all_goals
    simp at h ⊢
    omega
theorem atom_result_even {aop : BitVec 4} {size : BitVec 2} {d : Reg} (h : atomRegOk false aop size d = true) (hsize : size = 3#2) :
    d.toNat % 2 = 0 := by
  by_cases haop : aop = 9#4 <;> simp [atomRegOk, haop, hsize] at h <;> omega
theorem atom_fits {aop : BitVec 4} {size : BitVec 2} {d : Reg} (h : atomRegOk false aop size d = true) :
    d.toNat + (if aop = 9#4 then if size = 3#2 then 4 else 2 else if size = 3#2 then 2 else 1) ≤ 256 := by
  by_cases haop : aop = 9#4 <;> by_cases hsize : size = 3#2 <;> simp [atomRegOk, haop, hsize] at h ⊢ <;> omega
theorem all_ss_cas {c : DecCtx} {aop : BitVec 4} {size : BitVec 2} {d : Reg} (hd : c.s d.toNat = true)
    (h : atomRegOk true aop size d = true) : (ss d (if aop = 9#4 then 2 else 1)).all (RegRef.ok c) = true := by
  by_cases haop : aop = 9#4
  · have heven : d.toNat % 2 = 0 := by simpa [atomRegOk, haop] using h
    have hnext : c.s (d.toNat + 1) = true := by
      cases hc : c.drover <;> simp [DecCtx.s, hc] at hd ⊢ <;> omega
    simp [haop, all_ss, List.range_succ, hd, hnext]
  · simp [haop, all_ss, hd]

-- Values that take several fields, or part of one.

@[simp] theorem sc6_eq_none_iff (s : BitVec 3) : sc6 s = none ↔ s.toNat < 6 := by simp [sc6]
@[simp] theorem toNat_of_five_bits (r : BitVec 5) : (0#3 ++ r : Reg).toNat = r.toNat := (BitVec.toNat_append 0#3 r).trans (by simp)
@[simp] theorem toNat_of_seven_bits (r : BitVec 7) : (0#1 ++ r : Reg).toNat = r.toNat := (BitVec.toNat_append 0#1 r).trans (by simp)
theorem reductionType_le (op : BitVec 9) (h : Hint) {ty : BitVec 2} (d a : Reg) (hty : ¬ ty = 3#2) :
    (fTy (opW op h ||| (put ty 12 ||| (put d 46 ||| put a 38)))).toNat ≤ 2 := by
  have hle : ∀ t : BitVec 2, ¬ t = 3#2 → t.toNat % 8 ≤ 2 := by decide
  simpa [fTy] using hle ty hty
theorem join_parts (x : BitVec 16) : x.extractLsb' 8 8 ++ x.extractLsb' 0 8 = x := by
  rw [BitVec.extractLsb'_append_extractLsb'_eq_extractLsb' (by rfl), BitVec.extractLsb'_eq_self]
theorem pos_parts (x : BitVec 14) : x.extractLsb' 8 6 ++ x.extractLsb' 0 8 = x := by
  rw [BitVec.extractLsb'_append_extractLsb'_eq_extractLsb' (by rfl), BitVec.extractLsb'_eq_self]
/-- A special register that an agent may write it may also read (R209). -/
theorem srAccess_reads {drover : Bool} {i : BitVec 12} (h : (srAccess drover i).2 = true) : (srAccess drover i).1 = true := by
  by_cases hrange : (decide (0x40 ≤ i.toNat) && decide (i.toNat ≤ 0x4F)) = true
  · simp only [srAccess, if_pos hrange]
  · simp only [srAccess, if_neg hrange] at h ⊢
    cases drover
    · simp at h ⊢
      omega
    · cases h
end Sys2Proof
end

section
/-!
PROOFS. The word of every well-formed instruction decodes to that instruction: the groups of the full form (R212).
-/
namespace Sys2Proof
-- One theorem at a time: side by side, the proofs over all words hold too much memory.
set_option Elab.async false

/-- The word of an instruction that is well-formed for an agent decodes to it. -/
def Instr.RoundTrips (i : Instr) : Prop := ∀ c w, i.wf c = true → encode i = some w → decodeWord c w = .ok i

/-- The constructor of an instruction stands from place lo on and before hi. The constructors stand in the order of the opcode map (R212), so
that a group of it is a stretch of places. -/
def Instr.within (lo hi : Nat) (i : Instr) : Bool := decide (lo ≤ i.ctorIdx) && decide (i.ctorIdx < hi)

theorem Instr.within_or_within {lo hi : Nat} (mid : Nat) {i : Instr} (h : i.within lo hi = true) :
    i.within lo mid = true ∨ i.within mid hi = true := by
  simp only [Instr.within, Bool.and_eq_true, decide_eq_true_iff] at h ⊢
  omega

/-- Scalar words (R237). -/
theorem scalar_roundTrips : ∀ i : Instr, i.within 0 39 = true → i.RoundTrips := by
  intro i hi
  cases i with
  | sAdd h b32 d a b | sSub h b32 d a b | sMul h b32 d a b | sMulh h b32 d a b | sMulhu h b32 d a b | sDiv h b32 d a b
  | sDivu h b32 d a b | sRem h b32 d a b | sRemu h b32 d a b | sAnd h b32 d a b | sOr h b32 d a b | sXor h b32 d a b
  | sAndn h b32 d a b | sShl h b32 d a b | sShr h b32 d a b | sSra h b32 d a b | sMin h b32 d a b | sMax h b32 d a b
  | sMinu h b32 d a b | sMaxu h b32 d a b | sClz h b32 d a | sPopc h b32 d a | sBfx h b32 sx pos len d a
  | sBfi h b32 pos len d a | sMad h b32 d a b e | sCmp h b32 cond d a b | sSel h d a b e | sMov h b32 d a
  | sAddi h d a imm | sAndi h d a imm | sOri h d a imm | sXori h d a imm | sShli h d a cnt | sShri h d a cnt | sSrai h d a cnt
  | sCmpi h cond d a imm | sMovi h d imm | sMovhi h d imm | sAddpc h d imm =>
    rintro c w hwf ⟨⟩
    repeat rw [BitVec.or_assoc]
    refine decodeWord_of_reads rfl (by simp (disch := decide) [InBody]) ?_
    unfold Instr.wf at hwf
    simp at hwf
    constructor <;> simp (disch := decide) [hwf]
  | _ => exact (Bool.false_ne_true hi).elim

/-- Control words (R244). -/
theorem control_roundTrips : ∀ i : Instr, i.within 39 62 = true → i.RoundTrips := by
  intro i hi
  cases i with
  | bra h x | brS h z a x | brAny h neg m x | brAll h neg m x | brDiv h neg m join x | loop h d x | call h f x | callT h src a f
  | jmpT h src a x | plane h pos a n l | planeI h pos p n l | waitcnt h ld bound | launch h a | chwait h a =>
    rintro c w hwf ⟨⟩
    repeat rw [BitVec.or_assoc]
    refine decodeWord_of_reads rfl (by simp (disch := decide) [InBody]) ?_
    unfold Instr.wf at hwf
    simp [or_iff_not_imp_left] at hwf
    constructor <;> simp (disch := decide) [join_parts, pos_parts] <;> simp +contextual [hwf]
  | join h | ret h | exit h | allBegin h | allEnd h | barT h | barC h | yield h | nop h =>
    rintro c w hwf ⟨⟩
    refine decodeWord_bare rfl ?_
    unfold Instr.wf at hwf
    simp at hwf
    constructor <;> simp (disch := decide) [hwf]
  | _ => exact (Bool.false_ne_true hi).elim

/-- Vector integer words (R268). -/
theorem vector_roundTrips : ∀ i : Instr, i.within 62 97 = true → i.RoundTrips := by
  intro i hi
  cases i with
  | vAdd h x2 d a b | vSub h x2 d a b | vMul h x2 d a b | vMulh h d a b | vMulhu h d a b | vMad h d a b e | vAnd h d a b
  | vOr h d a b | vXor h d a b | vAndn h d a b | vShl h x2 d a b | vShr h x2 d a b | vSra h x2 d a b | vMin h x2 d a b
  | vMax h x2 d a b | vMinu h x2 d a b | vMaxu h x2 d a b | vAbs h x2 d a | vClz h d a | vPopc h d a | vBfx h sx pos len d a
  | vBfi h pos len d a | vAddsat h x2 u d a b | vSubsat h x2 u d a b | vDot4 h ua ub d a b e | vCmp h cond d a b | vSel h d a b m
  | vMov h d a | vMovs h d a | vAddi h d a imm | vAndi h d a imm | vShli h d a cnt | vShri h d a cnt | vSrai h d a cnt
  | vMovi h d imm =>
    rintro c w hwf ⟨⟩
    repeat rw [BitVec.or_assoc]
    refine decodeWord_of_reads rfl (by simp (disch := decide) [InBody]) ?_
    unfold Instr.wf at hwf
    simp at hwf
    constructor <;> simp (disch := decide) [hwf]
  | _ => exact (Bool.false_ne_true hi).elim

/-- Floating-point arithmetic (R272, R278). -/
theorem float_roundTrips : ∀ i : Instr, i.within 97 115 = true → i.RoundTrips := by
  intro i hi
  cases i with
  | fAdd h m d a b | fSub h m d a b | fMul h m d a b | fFma h m d a b e | fMin h m d a b | fMax h m d a b | fCmp h m cond d a b
  | fDiv h m d a b | fSqrt h m d a | fRcp h m d a | fRsq h m d a | fExp2 h m d a | fLog2 h m d a | fSinpi h m d a | fCospi h m d a
  | fTanh h m d a | fRnd h m d a =>
    rintro c w hwf ⟨⟩
    repeat rw [BitVec.or_assoc]
    refine decodeWord_of_reads rfl (by simp (disch := decide) [InBody, putM, BitVec.or_assoc]) ?_
    unfold Instr.wf at hwf
    simp [FMod.ok] at hwf
    constructor
    case builds => simp (disch := decide) [putM, fmodOf, BitVec.or_assoc]
    all_goals simp (disch := decide) [hwf, putM, BitVec.or_assoc]
  | fClass h d a =>
    rintro c w hwf ⟨⟩
    repeat rw [BitVec.or_assoc]
    refine decodeWord_of_reads rfl (by simp (disch := decide) [InBody]) ?_
    unfold Instr.wf at hwf
    simp at hwf
    constructor <;> simp (disch := decide) [hwf]
  | _ => exact (Bool.false_ne_true hi).elim

/-- Conversions, packs and the words of halves and scales (R279 to R283). -/
theorem convert_roundTrips : ∀ i : Instr, i.within 115 125 = true → i.RoundTrips := by
  intro i hi
  cases i with
  | fCvt h dst srcf rmx sat sel k d a | fCvtiToInt h ifmt shift rm d a | fCvtiToFloat h ifmt shift rm d a
  | fPack h dst rmx sat j k d a b | fUnpk h srcf j d a | fDeq h ef sf sel rm d a b =>
    rintro c w hwf ⟨⟩
    repeat rw [BitVec.or_assoc]
    refine decodeWord_of_reads rfl (by simp (disch := decide) [InBody]) ?_
    unfold Instr.wf at hwf
    simp [or_iff_not_imp_left] at hwf
    constructor <;> simp (disch := decide) [-List.all_eq_true] <;> simp +contextual [hwf, even_le]
  | hAdd h bf m d a b | hMul h bf m d a b | hFma h bf m d a b e | fScale h m d a b =>
    rintro c w hwf ⟨⟩
    repeat rw [BitVec.or_assoc]
    refine decodeWord_of_reads rfl (by simp (disch := decide) [InBody, putM, BitVec.or_assoc]) ?_
    unfold Instr.wf at hwf
    simp [FMod.ok] at hwf
    constructor
    case builds => simp (disch := decide) [putM, fmodOf, BitVec.or_assoc]
    all_goals simp (disch := decide) [hwf, putM, BitVec.or_assoc]
  | _ => exact (Bool.false_ne_true hi).elim

/-- Cross-lane and mask words (R284, R290). -/
theorem crossLane_roundTrips : ∀ i : Instr, i.within 125 150 = true → i.RoundTrips := by
  intro i hi
  cases i with
  | laneid h d | shflIdx h seg d a b | shflUp h seg delta d a | shflDn h seg delta d a | shflXor h seg delta d a
  | voteAny h neg d m | voteAll h neg d m | ballot h d a | scanAdd h excl f32 d a | v2s h sx lane d a | s2l h lane d a
  | mAnd h d a b | mOr h d a b | mXor h d a b | mNot h d a | mMov h d a | mPopc h d a | mFfs h d a | mFroms h d a
  | mTos h d a | mGetx h d | mSetx h a =>
    rintro c w hwf ⟨⟩
    repeat rw [BitVec.or_assoc]
    refine decodeWord_of_reads rfl (by simp (disch := decide) [InBody]) ?_
    unfold Instr.wf at hwf
    simp at hwf
    constructor <;> simp (disch := decide) [hwf]
  | rdxAdd h ty d a | rdxMin h ty d a | rdxMax h ty d a =>
    rintro c w hwf ⟨⟩
    repeat rw [BitVec.or_assoc]
    refine decodeWord_of_reads rfl (by simp (disch := decide) [InBody]) ?_
    unfold Instr.wf at hwf
    simp at hwf
    constructor <;> simp (disch := decide) [-List.all_eq_true] <;> simp [hwf, reductionType_le]
  | _ => exact (Bool.false_ne_true hi).elim

/-- Loads and stores (R293). -/
theorem loadStore_roundTrips : ∀ i : Instr, i.within 150 156 = true → i.RoundTrips := by
  intro i hi
  cases i with
  | ld h x d a b | st h x d a b | ldg h x d a | stg h x d a =>
    rintro c w hwf ⟨⟩
    repeat rw [BitVec.or_assoc]
    refine decodeWord_of_reads rfl (by simp (disch := decide) [InBody, putX, BitVec.or_assoc]) ?_
    unfold Instr.wf at hwf
    simp [MemX.ok, or_iff_not_imp_left] at hwf
    constructor
    case builds => simp (disch := decide) [putX, memxOf, BitVec.or_assoc]
    all_goals
      simp (disch := decide) [-List.all_eq_true, hwf, putX, memxOf, BitVec.or_assoc, pairOk, szRegs] <;>
        simp +contextual [hwf, MemX.ok, pair_fits, even_le, ← Decidable.imp_iff_not_or]
  | ldS h x d a b | stS h x d a b =>
    rintro c w hwf ⟨⟩
    repeat rw [BitVec.or_assoc]
    refine decodeWord_of_reads rfl (by simp (disch := decide) [InBody, putX, BitVec.or_assoc]) ?_
    unfold Instr.wf at hwf
    simp [MemX.ok, or_iff_not_imp_left] at hwf
    constructor
    case builds => simp (disch := decide) [putX, memxOf, BitVec.or_assoc]
    all_goals
      simp (disch := decide) [-List.all_eq_true, hwf, putX, memxOf, BitVec.or_assoc] <;>
        simp +contextual [hwf, MemX.ok]
  | _ => exact (Bool.false_ne_true hi).elim

/-- Atomics, RSTORE, and the words of caches and order (R293). -/
theorem atomic_roundTrips : ∀ i : Instr, i.within 156 163 = true → i.RoundTrips := by
  intro i hi
  cases i with
  | atom h x aop d a b =>
    rintro c w hwf ⟨⟩
    repeat rw [BitVec.or_assoc]
    refine decodeWord_of_reads rfl (by simp (disch := decide) [InBody, putX, BitVec.or_assoc]) ?_
    unfold Instr.wf at hwf
    simp [MemX.ok] at hwf
    obtain ⟨⟨_, hreg⟩, _⟩ := id hwf
    constructor
    case builds => simp (disch := decide) [putX, memxOf, BitVec.or_assoc]
    all_goals
      simp (disch := decide) [-List.all_eq_true, hwf, putX, memxOf, BitVec.or_assoc, szRegs, casRegs] <;>
        simp [hwf, MemX.ok, atom_fits hreg, pair_fits (atom_result_even hreg)]
  | atomS h x aop d a b =>
    rintro c w hwf ⟨⟩
    repeat rw [BitVec.or_assoc]
    refine decodeWord_of_reads rfl (by simp (disch := decide) [InBody, putX, BitVec.or_assoc]) ?_
    unfold Instr.wf at hwf
    simp [MemX.ok] at hwf
    obtain ⟨⟨⟨⟨_, hd⟩, _⟩, _⟩, hreg⟩ := id hwf
    constructor
    case builds => simp (disch := decide) [putX, memxOf, BitVec.or_assoc]
    all_goals
      simp (disch := decide) [-List.all_eq_true, hwf, putX, memxOf, BitVec.or_assoc] <;>
        simp [hwf, MemX.ok, all_ss_cas hd hreg]
  | rstore h x aop d a b =>
    rintro c w hwf ⟨⟩
    repeat rw [BitVec.or_assoc]
    refine decodeWord_of_reads rfl (by simp (disch := decide) [InBody, putX, BitVec.or_assoc]) ?_
    unfold Instr.wf at hwf
    simp [MemX.ok, or_iff_not_imp_left] at hwf
    constructor
    case builds => simp (disch := decide) [putX, memxOf, BitVec.or_assoc]
    all_goals
      simp (disch := decide) [-List.all_eq_true, hwf, putX, memxOf, BitVec.or_assoc, pairOk, szRegs] <;>
        simp +contextual [hwf, MemX.ok, pair_fits, ← Decidable.imp_iff_not_or]
  | fence h ord scope | cinvRange h a b | cinvAll h | pref h size scale nt a b =>
    rintro c w hwf ⟨⟩
    repeat rw [BitVec.or_assoc]
    refine decodeWord_of_reads rfl (by simp (disch := decide) [InBody]) ?_
    unfold Instr.wf at hwf
    simp at hwf
    constructor <;> simp (disch := decide) [hwf]
  | _ => exact (Bool.false_ne_true hi).elim

/-- Asynchronous words: copies, matrices, counted barriers and collectives (R308 to R357, R369 to R374). -/
theorem asynchronous_roundTrips : ∀ i : Instr, i.within 163 188 = true → i.RoundTrips := by
  intro i hi
  cases i with
  | kset h space d a | kmod h j d a | boxLd h mc m scope d a b | boxSt h rop scope d a b | boxCp h kdst rop scope d a b
  | cpwait h scope last a | mldN h scope d a b e | mldW h scope d a b | mma h scope n row w reuse d a b
  | mmaz h scope n row w reuse d a b | mwait h scope last a | epi h scope row n d a b | epiRs h scope row n d a b
  | cbarInit h space scope a b | cbarArr h space rel scope d a b | cbarWait h space acq scope a b | cbarTest h space acq scope d a b
  | collAr h scope inpl d a b | collRs h scope inpl d a b | collAg h scope inpl d a b | collBc h scope inpl d a b
  | collStep h scope a b | drvStart h scope d a b =>
    rintro c w hwf ⟨⟩
    repeat rw [BitVec.or_assoc]
    refine decodeWord_of_reads rfl (by simp (disch := decide) [InBody]) ?_
    unfold Instr.wf at hwf
    simp [or_iff_not_imp_left] at hwf
    constructor <;> simp (disch := decide) [-List.all_eq_true, collOf] <;> simp +contextual [hwf, gang_s_seven_bits]
  | cpfence h | mfence h =>
    rintro c w hwf ⟨⟩
    refine decodeWord_bare rfl ?_
    unfold Instr.wf at hwf
    simp at hwf
    constructor <;> simp (disch := decide) [hwf]
  | _ => exact (Bool.false_ne_true hi).elim

/-- System words (R358). -/
theorem system_roundTrips : ∀ i : Instr, i.within 188 204 = true → i.RoundTrips := by
  intro i hi
  cases i with
  | sRdsr h idx d | trap h n | resumeByMask h d a | resumeComplete h d | resumeDiscard h d | snap h col d | snapTry h col d
  | snapw h col d | brk h n | trace h tag a | prog h n | knell h a =>
    rintro c w hwf ⟨⟩
    repeat rw [BitVec.or_assoc]
    refine decodeWord_of_reads rfl (by simp (disch := decide) [InBody]) ?_
    unfold Instr.wf at hwf
    simp at hwf
    constructor <;> simp (disch := decide) [hwf, resumeOf]
  | sWrsr h idx a | rand h nw d a b =>
    rintro c w hwf ⟨⟩
    repeat rw [BitVec.or_assoc]
    refine decodeWord_of_reads rfl (by simp (disch := decide) [InBody]) ?_
    unfold Instr.wf at hwf
    simp at hwf
    constructor <;> simp (disch := decide) [-List.all_eq_true] <;> simp [hwf, srAccess_reads, words_fit]
  | tret h | halt h =>
    rintro c w hwf ⟨⟩
    refine decodeWord_bare rfl ?_
    unfold Instr.wf at hwf
    simp at hwf
    constructor <;> simp (disch := decide) [hwf]
  | _ => exact (Bool.false_ne_true hi).elim

/-- Words of a drover alone (R375). -/
theorem drover_roundTrips : ∀ i : Instr, i.within 204 214 = true → i.RoundTrips := by
  intro i hi
  cases i with
  | bxiLd h e d a b | bxiSt h e rop d a b | bxiCp h e kx rop d a b | bxw h a | darr h a b | dwait h a b | idxldFill h e a b
  | idxldRead h size d a | tblld h space slot d a b =>
    rintro c w hwf ⟨⟩
    repeat rw [BitVec.or_assoc]
    refine decodeWord_of_reads rfl (by simp (disch := decide) [InBody]) ?_
    unfold Instr.wf at hwf
    simp [or_iff_not_imp_left] at hwf
    constructor <;> simp (disch := decide) [-List.all_eq_true, bxiOf] <;> simp +contextual [hwf, drover_s_five_bits]
  | dend h =>
    rintro c w hwf ⟨⟩
    refine decodeWord_bare rfl ?_
    unfold Instr.wf at hwf
    simp at hwf
    constructor <;> simp (disch := decide) [hwf]
  | _ => exact (Bool.false_ne_true hi).elim
end Sys2Proof
end

section
/-!
PROOFS. The word of every well-formed instruction decodes to that instruction: the pair form (R186 to R188), and all words.
-/
namespace Sys2Proof
-- One theorem at a time: side by side, the proofs over all words hold too much memory.
set_option Elab.async false

-- The pair form.

theorem halfOpOf_code (op : HalfOp) : halfOpOf op.code.toNat = some op := by cases op <;> rfl
theorem guard_parts (g : BitVec 4) : g.extractLsb' 3 1 ++ g.extractLsb' 0 3 = g := by
  rw [BitVec.extractLsb'_append_extractLsb'_eq_extractLsb' (by rfl), BitVec.extractLsb'_eq_self]
@[simp] theorem put_zero (n l : Nat) : put 0#n l = 0#64 := by simp [put]

/-- The word of a pair (R186). -/
def pairBits (as : Bool) (x y : Half) : U64 := putB true 63 ||| putHalf x 32 ||| putHalf y 1 ||| putB as 0

/-- The checks that a half passes by itself (R184, R186, R187, R204, R215). -/
structure Half.Passes (x : Half) (c : DecCtx) : Prop where
  agent : (c.drover && decide (2 ≤ x.op.cls)) = false
  guard : guardBad c false x.guard = false
  regs : halfRegsBad c x = false
  empty : x.op = .hnop → x.d = 0 ∧ x.a = 0 ∧ x.guard = 0

theorem passes_of_ok {x : Half} {c : DecCtx} (h : x.ok c = true) : x.Passes c := by
  rw [Half.ok, Bool.and_eq_true, Bool.and_eq_true] at h
  obtain ⟨⟨h8, hg⟩, hcls⟩ := h
  have hguard : guardBad c false x.guard = false := by
    rw [guardBad_eq, Bool.or_false, h8, hg]; rfl
  have hclass : x.op = .hnop → x.op.cls = 0 := fun h => by rw [h]; rfl
  split at hcls
  case h_1 h0 =>
    simp only [Bool.and_eq_true, beq_iff_eq] at hcls
    exact ⟨by simp [h0], hguard, by simp [halfRegsBad, h0], fun _ => ⟨hcls.1.1, hcls.1.2, hcls.2⟩⟩
  case h_2 h1 => exact ⟨by simp [h1], hguard, by simp [halfRegsBad, h1, hcls], fun h => by simp [hclass h] at h1⟩
  case h_3 h2 => exact ⟨by rw [(Bool.not_eq_true' _).mp hcls]; rfl, hguard, by simp [halfRegsBad, h2], fun h => by simp [hclass h] at h2⟩
  case h_4 h0 h1 h2 =>
    simp only [Bool.and_eq_true, Bool.not_eq_true'] at hcls
    refine ⟨by rw [hcls.1.1]; rfl, hguard, ?_, fun h => absurd (hclass h) h0⟩
    unfold halfRegsBad
    split
    · contradiction
    · rw [hcls.1.2, hcls.2]; rfl
    · rfl

theorem halfAt_pairBits_fst (as : Bool) (x y : Half) : halfAt (pairBits as x y) 32 x.op = x := by
  simp [halfAt, pairBits, putHalf, guard_parts, fld_or]
theorem halfAt_pairBits_snd (as : Bool) (x y : Half) : halfAt (pairBits as x y) 1 y.op = y := by
  simp [halfAt, pairBits, putHalf, guard_parts, fld_or]
theorem halfRsv_fst {as : Bool} {x y : Half} (h : x.op = .hnop → x.d = 0 ∧ x.a = 0 ∧ x.guard = 0) :
    halfRsv (pairBits as x y) 32 x.op = false := by
  rw [halfRsv]
  split
  next hop =>
    obtain ⟨hd, ha, hg⟩ := h (beq_iff_eq.mp hop)
    simp [pairBits, putHalf, hd, ha, hg, fld_or]
  next => simp [pairBits, putHalf, fld_or]
theorem halfRsv_snd {as : Bool} {x y : Half} (h : y.op = .hnop → y.d = 0 ∧ y.a = 0 ∧ y.guard = 0) :
    halfRsv (pairBits as x y) 1 y.op = false := by
  rw [halfRsv]
  split
  next hop =>
    obtain ⟨hd, ha, hg⟩ := h (beq_iff_eq.mp hop)
    simp [pairBits, putHalf, hd, ha, hg, fld_or]
  next => simp [pairBits, putHalf, fld_or]

theorem decodeWord_pairBits {c : DecCtx} {as : Bool} {x y : Half} (hx : x.Passes c) (hy : y.Passes c)
    (has : as = true → x.op.intHalf = true ∧ y.op.intHalf = true) (hdest : sameDest x y = false) (hbank : bankConflict x y = false) :
    decodeWord c (pairBits as x y) = if x.op == .hnop && y.op == .hnop then .ok (.hnop as) else .ok (.pairWord as x y) := by
  have hop1 : fld (pairBits as x y) 56 7 = x.op.code := by simp [pairBits, putHalf, fld_or]
  have hop2 : fld (pairBits as x y) 25 7 = y.op.code := by simp [pairBits, putHalf, fld_or]
  have h63 : flag (pairBits as x y) 63 = true := by simp [pairBits, putHalf, flag_or]
  have h0 : flag (pairBits as x y) 0 = as := by simp [pairBits, putHalf, flag_or]
  have has1 : (as && !x.op.intHalf) = false := by cases as <;> simp_all
  have has2 : (as && !y.op.intHalf) = false := by cases as <;> simp_all
  simp only [decodeWord, h63, if_true, decodePair, hop1, hop2, halfOpOf_code, halfAt_pairBits_fst, halfAt_pairBits_snd, hx.agent, hy.agent,
    halfRsv_fst hx.empty, halfRsv_snd hy.empty, hx.guard, hy.guard, hx.regs, hy.regs, h0, has1, has2, hdest, hbank, Bool.false_eq_true, if_false]

/-- An empty half (R186). -/
def Half.empty : Half := ⟨.hnop, 0, 0, 0⟩
theorem Half.empty_ok (c : DecCtx) : Half.empty.ok c = true := by simp [Half.ok, Half.empty, HalfOp.cls]
theorem pairBits_empty (as : Bool) : pairBits as .empty .empty = putB true 63 ||| putB as 0 := by
  simp [pairBits, putHalf, Half.empty, HalfOp.code]

/-- The pair form (R186 to R188). -/
theorem pair_roundTrips : ∀ i : Instr, i.within 214 216 = true → i.RoundTrips := by
  intro i hi
  cases i with
  | pairWord as x y =>
    rintro c w hwf ⟨⟩
    unfold Instr.wf at hwf
    simp only [Bool.and_eq_true, Bool.not_eq_true'] at hwf
    obtain ⟨⟨⟨⟨⟨hx, hy⟩, has⟩, hdest⟩, hbank⟩, hempty⟩ := hwf
    have has : as = true → x.op.intHalf = true ∧ y.op.intHalf = true := fun h => by simpa [h] using has
    exact (decodeWord_pairBits (passes_of_ok hx) (passes_of_ok hy) has hdest hbank).trans (if_neg (ne_true_of_eq_false hempty))
  | hnop as =>
    rintro c w hwf ⟨⟩
    rw [← pairBits_empty]
    have hpass := passes_of_ok (Half.empty_ok c)
    exact (decodeWord_pairBits hpass hpass (fun _ => ⟨rfl, rfl⟩) rfl rfl).trans (if_pos rfl)
  | _ => exact (Bool.false_ne_true hi).elim

/-- The words are those of the opcode map and of the pair form: an event has none. -/
theorem encode_isSome (i : Instr) : (encode i).isSome = i.within 0 216 := by cases i <;> rfl

theorem word_roundTrips (i : Instr) (h : i.within 0 216 = true) : i.RoundTrips := by
  rcases i.within_or_within 39 h with h | h
  · exact scalar_roundTrips i h
  rcases i.within_or_within 62 h with h | h
  · exact control_roundTrips i h
  rcases i.within_or_within 97 h with h | h
  · exact vector_roundTrips i h
  rcases i.within_or_within 115 h with h | h
  · exact float_roundTrips i h
  rcases i.within_or_within 125 h with h | h
  · exact convert_roundTrips i h
  rcases i.within_or_within 150 h with h | h
  · exact crossLane_roundTrips i h
  rcases i.within_or_within 156 h with h | h
  · exact loadStore_roundTrips i h
  rcases i.within_or_within 163 h with h | h
  · exact atomic_roundTrips i h
  rcases i.within_or_within 188 h with h | h
  · exact asynchronous_roundTrips i h
  rcases i.within_or_within 204 h with h | h
  · exact system_roundTrips i h
  rcases i.within_or_within 214 h with h | h
  · exact drover_roundTrips i h
  · exact pair_roundTrips i h

/-- Settles O58: every field of a word is read back from where it was put, and the checks of R195 are those of `wf`, so that each group of
the opcode map and the pair form round-trips; an instruction with a word stands in one of them. -/
theorem roundTrip : Obligations.RoundTrip := by
  unfold Obligations.RoundTrip
  intro c i w hwf he
  exact word_roundTrips i ((encode_isSome i).symm.trans (by rw [he]; rfl)) c w hwf he
end Sys2Proof
end

section
/-!
PROOFS. A word whose guard passes no active lane (R185): what its parts come to, and the words of each group.
-/
namespace Sys2Proof.Machine

-- The operations that the words share, where no active lane passes the guard.

@[simp] theorem lanesOf_zero : lanesOf 0 = [] := by decide
theorem reqs_inactive {h : Hint} {s : State} (hact : s.act h = 0) (ea data cmp : Nat → U64) : s.reqs h ea data cmp = [] := by
  rw [State.reqs, hact, lanesOf_zero, List.map_nil]
theorem uniReq_inactive {h : Hint} {s : State} (hact : s.act h = 0) (ea data cmp : U64) : s.uniReq h ea data cmp = [] := if_pos hact
theorem memory_nil (h : Hint) (f : Form) (s : State) : memory h f [] s = retire h s := if_pos rfl
theorem memory_reqs_inactive {h : Hint} {s : State} (hact : s.act h = 0) (f : Form) (ea data cmp : Nat → U64) :
    memory h f (s.reqs h ea data cmp) s = retire h s := by rw [reqs_inactive hact, memory_nil]
theorem memory_uniReq_inactive {h : Hint} {s : State} (hact : s.act h = 0) (f : Form) (ea data cmp : U64) :
    memory h f (s.uniReq h ea data cmp) s = retire h s := by rw [uniReq_inactive hact, memory_nil]
theorem launchOp_nil (f : Form) (held : Bool) (s : State) : launchOp f held [] s = s := if_pos rfl
/-- No lane is checked for a marker where the mask is empty (R165, R185). -/
theorem unlessMarked_zero {m : U64} (hm : m = 0) (words : Nat → List U32) (f : State → State) (s : State) :
    unlessMarked m words f s = f s :=
  unlessMarked_none (fun l hl => absurd (hl.symm.trans ((congrArg (BitVec.getLsbD · l) hm).trans BitVec.getLsbD_zero)) (by decide)) f s
theorem retire_uniform_inactive {h : Hint} {s : State} (hact : s.act h = 0) (f : State → State) : retire h (uniform h f s) = retire h s :=
  congrArg (retire h) ((uniform_spec h f s).1 hact)
theorem whole_inactive {s : State} (hwhole : s.g.whole = true) {f : State → State} {t : State} (hf : f s = t) : whole f s = t :=
  ((whole_spec f s).1 hwhole).trans hf
theorem boxIssue_inactive {h : Hint} {s : State} (hact : s.act h = 0) (hwhole : s.g.whole = true) (scope : BitVec 3) (x : State → Xfer) :
    boxIssue h scope x s = retire h s := whole_inactive hwhole (if_pos hact)
theorem matIssue_inactive {h : Hint} {s : State} (hact : s.act h = 0) (hwhole : s.g.whole = true) (scope : BitVec 3) (f : State → State) :
    matIssue h scope f s = retire h s := whole_inactive hwhole (if_pos hact)
theorem collIssue_inactive {h : Hint} {s : State} (hact : s.act h = 0) (hwhole : s.g.whole = true) (scope : BitVec 3) (op : Nat) (inpl : Bool)
    (src dst : Desc) (b : Reg) (vote : Bool) : collIssue h scope op inpl src dst b vote s = retire h s :=
  whole_inactive hwhole (if_pos hact)

-- The shapes of the words.

/-- A word that goes on at once where no active lane passes its guard. -/
theorem inert_of_guard {h : Hint} {i : Instr} {f : State → State}
    (hexec : ∀ s, exec i s = .next (if s.act h = 0 then retire h s else f s)) : Inert h i :=
  fun s hact => (hexec s).trans (congrArg Host.Outcome.next (if_pos hact))
/-- A word with one effect for the gang. -/
theorem inert_of_uniform {h : Hint} {i : Instr} {f : State → State → State}
    (hexec : ∀ s, exec i s = .next (retire h (uniform h (f s) s))) : Inert h i :=
  fun s hact => (hexec s).trans (congrArg Host.Outcome.next (retire_uniform_inactive hact (f s)))
/-- A word whose lanes each access memory. -/
theorem inert_of_reqs {h : Hint} {i : Instr} {f : State → Form} {ea data cmp : State → Nat → U64}
    (hexec : ∀ s, exec i s = .next (memory h (f s) (s.reqs h (ea s) (data s) (cmp s)) s)) : Inert h i :=
  fun s hact => (hexec s).trans (congrArg Host.Outcome.next (memory_reqs_inactive hact ..))
/-- A word with one access for the gang. -/
theorem inert_of_uniReq {h : Hint} {i : Instr} {f : State → Form} {ea data cmp : State → U64}
    (hexec : ∀ s, exec i s = .next (memory h (f s) (s.uniReq h (ea s) (data s) (cmp s)) s)) : Inert h i :=
  fun s hact => (hexec s).trans (congrArg Host.Outcome.next (memory_uniReq_inactive hact ..))

-- Loads, stores and atomics: a load or a store accesses nothing, and an atomic has no lane whose operand could be a marker either.

theorem loadStore_inert (h : Hint) (x : MemX) (d a b : Reg) :
    Inert h (.ld h x d a b) ∧ Inert h (.st h x d a b) ∧ Inert h (.ldS h x d a b) ∧ Inert h (.stS h x d a b) ∧
      Inert h (.ldg h x d a) ∧ Inert h (.stg h x d a) :=
  ⟨inert_of_reqs fun _ => rfl, inert_of_reqs fun _ => rfl, inert_of_uniReq fun _ => rfl, inert_of_uniReq fun _ => rfl,
    inert_of_reqs fun _ => rfl, inert_of_reqs fun _ => rfl⟩
theorem atomic_inert (h : Hint) (x : MemX) (aop : BitVec 4) (d a b : Reg) :
    Inert h (.atom h x aop d a b) ∧ Inert h (.atomS h x aop d a b) ∧ Inert h (.rstore h x aop d a b) :=
  ⟨fun s hact => congrArg Host.Outcome.next ((unlessMarked_zero hact _ _ s).trans (memory_reqs_inactive hact ..)),
    fun s hact => congrArg Host.Outcome.next ((unlessMarked_zero (if_pos hact) _ _ s).trans (memory_uniReq_inactive hact ..)),
    fun s hact => congrArg Host.Outcome.next ((unlessMarked_zero hact _ _ s).trans (memory_reqs_inactive hact ..))⟩

/-- PREF has no spot to ask for or to send for. -/
theorem pref_inert (h : Hint) (size scale : BitVec 2) (nt : Bool) (a b : Reg) : Inert h (.pref h size scale nt a b) := by
  intro s hact
  change execPref h size scale nt a b s = _
  simp [execPref, reqs_inactive hact, launchOp_nil]
theorem fencePref_inert (h : Hint) (ord : BitVec 2) (scope : BitVec 3) (a b : Reg) (size : BitVec 2) (nt : Bool) :
    Inert h (.fence h ord scope) ∧ Inert h (.cinvRange h a b) ∧ Inert h (.cinvAll h) ∧ Inert h (.pref h size size nt a b) :=
  ⟨inert_of_guard fun _ => rfl, inert_of_guard fun _ => rfl, inert_of_uniform fun _ => rfl, pref_inert h size size nt a b⟩

-- The asynchronous words.

theorem descriptorFence_inert (h : Hint) (space : BitVec 3) (d : BitVec 4) (a : Reg) (j : BitVec 3) :
    Inert h (.kset h space d a) ∧ Inert h (.kmod h j d a) ∧ Inert h (.cpfence h) ∧ Inert h (.mfence h) :=
  ⟨inert_of_guard fun _ => rfl, inert_of_guard fun _ => rfl, inert_of_uniform fun _ => rfl, inert_of_uniform fun _ => rfl⟩
theorem wait_inert (h : Hint) (scope : BitVec 3) (last : Bool) (a : Reg) :
    Inert h (.cpwait h scope last a) ∧ Inert h (.mwait h scope last a) ∧ Inert h (.chwait h a) ∧ Inert h (.knell h a) :=
  ⟨inert_of_guard fun _ => rfl, inert_of_guard fun _ => rfl, inert_of_guard fun _ => rfl, inert_of_guard fun _ => rfl⟩
theorem barrier_inert (h : Hint) (space scope : BitVec 3) (d a b : Reg) (order : Bool) :
    Inert h (.cbarInit h space scope a b) ∧ Inert h (.cbarArr h space order scope d a b) ∧ Inert h (.cbarWait h space order scope a b) ∧
      Inert h (.cbarTest h space order scope d a b) ∧ Inert h (.drvStart h scope d a b) :=
  ⟨inert_of_guard fun _ => rfl, inert_of_guard fun _ => rfl, inert_of_guard fun _ => rfl, inert_of_guard fun _ => rfl,
    inert_of_guard fun _ => rfl⟩

-- System words.

theorem sRdsr_inert (h : Hint) (idx : BitVec 12) (d : Reg) : Inert h (.sRdsr h idx d) := inert_of_uniform fun _ => rfl
/-- A write of EXEC alone acts on every lane (R211, R291). -/
theorem sWrsr_inert (h : Hint) {idx : BitVec 12} (hidx : idx ≠ 0x008) (a : Reg) : Inert h (.sWrsr h idx a) :=
  fun s hact => congrArg (fun t => Host.Outcome.next (retire h t)) ((if_neg hidx).trans ((uniform_spec h _ s).1 hact))
theorem trapSnap_inert (h : Hint) (n : BitVec 8) (col : Bool) (d : Reg) :
    Inert h (.trap h n) ∧ Inert h (.brk h n) ∧ Inert h (.halt h) ∧ Inert h (.snap h col d) ∧ Inert h (.snapTry h col d) ∧
      Inert h (.snapw h col d) :=
  ⟨inert_of_guard fun _ => rfl, inert_of_guard fun _ => rfl, inert_of_guard fun _ => rfl, inert_of_guard fun _ => rfl,
    inert_of_guard fun _ => rfl, inert_of_guard fun _ => rfl⟩
theorem record_inert (h : Hint) (tag : BitVec 16) (n : BitVec 4) (a : Reg) : Inert h (.trace h tag a) ∧ Inert h (.prog h n) :=
  ⟨inert_of_uniform fun _ => rfl, inert_of_uniform fun _ => rfl⟩

-- Words of a drover.

theorem drover_inert (h : Hint) (c : BitVec 5) (kx : BitVec 3) (rop : BitVec 2) (d : Reg) (a : BitVec 4) (b : Reg) (size : BitVec 2) :
    Inert h (.bxiLd h c d a b) ∧ Inert h (.bxiSt h c rop d a b) ∧ Inert h (.bxiCp h c kx rop d a b) ∧ Inert h (.bxw h d) ∧
      Inert h (.darr h d b) ∧ Inert h (.dwait h d b) ∧ Inert h (.idxldFill h c a b) ∧ Inert h (.idxldRead h size d b) ∧
      Inert h (.tblld h kx size d d b) ∧ Inert h (.dend h) :=
  ⟨inert_of_guard fun _ => rfl, inert_of_guard fun _ => rfl, inert_of_guard fun _ => rfl, inert_of_guard fun _ => rfl,
    inert_of_guard fun _ => rfl, inert_of_guard fun _ => rfl, inert_of_guard fun _ => rfl, inert_of_guard fun _ => rfl,
    inert_of_guard fun _ => rfl, inert_of_guard fun _ => rfl⟩

-- Words that need a whole gang.

/-- A word with no effect in a whole gang where no active lane passes its guard (R173, R185). -/
def WholeInert (h : Hint) (i : Instr) : Prop := ∀ s, s.act h = 0 → s.g.whole = true → exec i s = .next (retire h s)

theorem wholeInert_of_box {h : Hint} {i : Instr} {scope : BitVec 3} {x : State → State → Xfer}
    (hexec : ∀ s, exec i s = .next (boxIssue h scope (x s) s)) : WholeInert h i :=
  fun s hact hwhole => (hexec s).trans (congrArg Host.Outcome.next (boxIssue_inactive hact hwhole ..))
theorem wholeInert_of_mat {h : Hint} {i : Instr} {scope : BitVec 3} {f : State → State → State}
    (hexec : ∀ s, exec i s = .next (matIssue h scope (f s) s)) : WholeInert h i :=
  fun s hact hwhole => (hexec s).trans (congrArg Host.Outcome.next (matIssue_inactive hact hwhole ..))
theorem wholeInert_of_coll {h : Hint} {i : Instr} {scope : BitVec 3} {op : Nat} {inpl : Bool} {src dst : State → Desc} {b : Reg}
    (hexec : ∀ s, exec i s = .next (collIssue h scope op inpl (src s) (dst s) b false s)) : WholeInert h i :=
  fun s hact hwhole => (hexec s).trans (congrArg Host.Outcome.next (collIssue_inactive hact hwhole ..))

theorem box_wholeInert (h : Hint) (mc : Bool) (m : BitVec 7) (rop : BitVec 2) (scope : BitVec 3) (kx : BitVec 4) (d : Reg) (a : BitVec 4)
    (b : Reg) :
    WholeInert h (.boxLd h mc m scope d a b) ∧ WholeInert h (.boxSt h rop scope d a b) ∧ WholeInert h (.boxCp h kx rop scope d a b) :=
  ⟨wholeInert_of_box fun _ => rfl, wholeInert_of_box fun _ => rfl, wholeInert_of_box fun _ => rfl⟩
theorem mld_wholeInert (h : Hint) (scope : BitVec 3) (w : BitVec 2) (a b c : Reg) :
    WholeInert h (.mldN h scope w a b c) ∧ WholeInert h (.mldW h scope w a b) :=
  ⟨wholeInert_of_mat fun _ => rfl, wholeInert_of_mat fun _ => rfl⟩
theorem mma_wholeInert (h : Hint) (scope : BitVec 3) (n : BitVec 5) (row : BitVec 7) (w : BitVec 2) (reuse : Bool) (d : BitVec 4) (a b : Reg) :
    WholeInert h (.mma h scope n row w reuse d a b) ∧ WholeInert h (.mmaz h scope n row w reuse d a b) :=
  ⟨wholeInert_of_mat fun _ => rfl, wholeInert_of_mat fun _ => rfl⟩
theorem epi_wholeInert (h : Hint) (scope : BitVec 3) (row n : BitVec 7) (d : BitVec 4) (a b : Reg) :
    WholeInert h (.epi h scope row n d a b) ∧ WholeInert h (.epiRs h scope row n d a b) :=
  ⟨wholeInert_of_mat fun _ => rfl, wholeInert_of_mat fun _ => rfl⟩
theorem coll_wholeInert (h : Hint) (scope : BitVec 3) (inpl : Bool) (d a : BitVec 4) (b : Reg) :
    WholeInert h (.collAr h scope inpl d a b) ∧ WholeInert h (.collRs h scope inpl d a b) ∧ WholeInert h (.collAg h scope inpl d a b) ∧
      WholeInert h (.collBc h scope inpl d a b) :=
  ⟨wholeInert_of_coll fun _ => rfl, wholeInert_of_coll fun _ => rfl, wholeInert_of_coll fun _ => rfl, wholeInert_of_coll fun _ => rfl⟩
/-- The vote of COLL.STEP is checked only where a lane passes the guard. -/
theorem collStep_wholeInert (h : Hint) (scope : BitVec 3) (a b : Reg) : WholeInert h (.collStep h scope a b) := by
  intro s hact hwhole
  have hvote : ¬(s.act h ≠ 0 && s.sr a &&& ~~~(1 : U64) != 0) = true := by simp [hact]
  exact congrArg Host.Outcome.next (whole_inactive hwhole ((if_neg hvote).trans (collIssue_inactive hact hwhole ..)))

/-- Settles O31: each word tests for a lane that passes, itself or in the operation that it shares with others, before all but the test for
a whole gang. -/
theorem inactiveWordsDoNothing : Obligations.InactiveWordsDoNothing := by
  unfold Obligations.InactiveWordsDoNothing
  exact ⟨loadStore_inert, atomic_inert, fencePref_inert, descriptorFence_inert,
    wait_inert, barrier_inert, fun h idx d => ⟨sRdsr_inert h idx d, fun hidx => sWrsr_inert h hidx d⟩, trapSnap_inert, record_inert,
    drover_inert, box_wholeInert, mld_wholeInert, mma_wholeInert, epi_wholeInert, coll_wholeInert, collStep_wholeInert⟩
end Sys2Proof.Machine
end

section
/-!
PROOFS. Words written out field by field (R177 to R187).
-/
namespace Sys2Proof.Machine
/-- Settles O57: the decoder evaluates each word to the instruction, or to the detail of the check that refuses it. -/
theorem decodesWrittenWords : Obligations.DecodesWrittenWords := by
  unfold Obligations.DecodesWrittenWords
  decide +kernel
end Sys2Proof.Machine
end
